-- ==== Sys2Proof/Word.lean ====
section
/-! DEFINITION. The word types of the Q1024 (01_thread_state.md R7 to R11, 08 R186, 12 R285). -/

namespace Sys2Proof

/-- A G or A register, an address, a CSR value: 64 bits (R9, R13). -/
abbrev Word := BitVec 64

/-- The unit of memory (R3). -/
abbrev Byte := BitVec 8

/-- A V register: 512 bits (R10). -/
abbrev VWord := BitVec 512

/-- A physical core number y × 32 + x (R186). -/
abbrev CoreId := BitVec 10

/-- A slot of a core (R184). -/
abbrev SlotId := BitVec 4

/-- A copy engine (R304). -/
abbrev EngineId := BitVec 7

/-- A compute die (R186). -/
abbrev DieId := BitVec 3

/-- A tower (R186). -/
abbrev TowerId := BitVec 2

/-- A command queue of a tower (R190). -/
abbrev QueueId := BitVec 6

/-- A context id (R30, LAUNCHID). -/
abbrev CtxId := BitVec 12

/-- An HBM4E stack (R365). -/
abbrev StackId := BitVec 4

/-- A launch sequence number (R192). -/
abbrev SeqNo := BitVec 32

end Sys2Proof
end

