-- ==== Sys2Proof/Config.lean ====
section
/-! DEFINITION. Values that the spec leaves to the implementation, as constants with no body: nothing can be proved of what they are. Most take the number of free values used before them (State.fresh), so that two uses need not agree. -/

namespace Sys2Proof.Config

/-- A byte of an attestation answer: certificate, signature, digest, measurement (19 R421 names the blocks, not their bytes). -/
opaque freeAttest : Nat → Nat → Byte

/-- A special-function result beyond the precision that the model's evaluation reaches (05 R151). -/
opaque freeSfx : Nat → BitVec 4 → Word → Word

/-- Which of the sixteen entries of a 64 KiB page a translation uses, by its address and the time (12 R288). [log 23, DESIGN CHOICE] -/
opaque freeGroup : Nat → Nat → BitVec 4

/-- What an uncorrectable error leaves in a checkpoint or a tile shadow (14 R344: the squash cannot restore it). -/
opaque freeWord : Nat → Word

/-- The capsule code of a HALT in a visit (10 R260 lists none for it). -/
opaque freeCapCode : Nat → Byte

/-- The supply rail of each compute die, and the current limit that fuses give each rail (19 R415). -/
opaque railOf : DieId → Nat
opaque railFuse : Nat → Nat

/-- Bytes of the engine store at bring-up (13 R305, R317 give the standard programs' effects, not their bytes). -/
opaque freeProgram : Nat → Byte

/-- REGIONS of the standard engine program of each program slot (13 R305). -/
opaque freeRegions : Nat → BitVec 16

end Sys2Proof.Config
end

