-- ==== Sys2Proof/Fields.lean ====
section
/-! DEFINITION. What the fields of an instruction word name (03_encoding_and_opcode_map.md R66 to R71), and the records that the machine events of the opcode table carry. -/

namespace Sys2Proof

/-- The four modes of a class 3 operand (R13). -/
inductive AddrMode where
  | offset
  | postAdd
  | preSub
  | postInc
  deriving DecidableEq, Repr

/-- What a 24-bit operand field names (R67 to R70). -/
inductive Operand where
  /-- An unused field, 0x00_0000 (R70). -/
  | none
  /-- Class 0. -/
  | g (n : BitVec 5)
  /-- Class 1. -/
  | v (n : BitVec 4)
  /-- Class 2, ordinary layout. -/
  | p (n : BitVec 3)
  /-- Class 2, pair layout of a compare: true and complement destinations and the condition. -/
  | pp (t c : BitVec 3) (cond : BitVec 4)
  /-- Class 3: A register, mode, signed displacement. -/
  | mem (an : BitVec 3) (mode : AddrMode) (disp : BitVec 16)
  /-- Class 4: a signed 21-bit value. -/
  | imm (i : BitVec 21)
  /-- Class 6. -/
  | f (n : BitVec 5)
  /-- Class 7, subclass 0. -/
  | csr (n : BitVec 12)
  /-- Class 7, subclass 1. -/
  | tile (n : BitVec 2)
  /-- Class 7, subclass 2. -/
  | abs (n : BitVec 4)
  /-- Class 7, subclass 3. -/
  | bar (n : BitVec 3)
  /-- Class 7, subclass 4. -/
  | dep (n : BitVec 2)
  /-- Class 7, subclass 5. -/
  | a (n : BitVec 3)
  /-- A 24-bit half of the immediate of MOVI (R70). -/
  | half (b : BitVec 24)
  deriving DecidableEq, Repr

/-- Everything of an instruction word but its opcode (R66). -/
structure Fields where
  neg : Bool
  grd : BitVec 3
  lr1 : Bool
  lr2 : Bool
  cb : Bool
  nt : Bool
  mod : BitVec 4
  dst : Operand
  src1 : Operand
  src2 : Operand
  deriving DecidableEq, Repr

/-- Where an uncorrectable soft error lies (14_faults_preemption.md R344). -/
inductive ErrorPlace where
  /-- State of an open or waiting chunk of a slot. -/
  | chunkState (c : CoreId) (k : SlotId)
  /-- An engine's open chunk or write buffer. -/
  | engineState (e : EngineId)
  /-- The checkpoint of a slot's registers. -/
  | checkpoint (c : CoreId) (k : SlotId)
  /-- The shadow of a tile. -/
  | tileShadow (c : CoreId) (k : SlotId)
  /-- Committed data of a memory line: its line number, and where it lay (0 L1, 1 LLC, 2 HBM). -/
  | line (n : BitVec 34) (at3 : BitVec 3)
  /-- Committed data of a local-store granule. -/
  | granule (c : CoreId) (n : BitVec 13)
  /-- Arbiter, directory or control state of a tower. -/
  | control (t : TowerId)
  deriving DecidableEq, Repr

/-- A flit received on an Ouvken port, after FEC (17_host_and_links.md R400). -/
structure Flit where
  dest : BitVec 8
  src : BitVec 8
  vc : BitVec 4
  seq : BitVec 12
  tag : BitVec 32
  /-- The CRC over bytes 0 to 239 agrees. -/
  crcOk : Bool
  payload : List Byte
  deriving DecidableEq, Repr

/-- What a peer's request asks of the local home (17 R402). -/
inductive PeerOp where
  | load (len : Nat)
  | store (data : List Byte)
  /-- An atomic: opcode of R234, type code, operand and compare value. -/
  | atomic (opc : BitVec 8) (ty : BitVec 2) (val cmp : BitVec 128)
  deriving DecidableEq, Repr

end Sys2Proof
end

