-- ==== Sys2Proof/Syntax.lean ====
section
/-! DEFINITION. The instructions and machine events of the Q1024: one constructor for each row of spec/opcode_table.json. An instruction carries the fields of its word but the opcode; a machine event carries the data it concerns, and acts for the agent that the agenda names with it (Machine/State.lean). -/

namespace Sys2Proof

/-- One constructor for each row of the opcode table; the rule in brackets is the row's own. -/
inductive Instr where
  /-- NOP (R88). -/
  | nop (f : Fields)
  /-- BRA (R89). -/
  | bra (f : Fields)
  /-- CALL (R89). -/
  | call (f : Fields)
  /-- JMP (R90). -/
  | jmp (f : Fields)
  /-- CALLR (R90). -/
  | callr (f : Fields)
  /-- RET (R90). -/
  | ret (f : Fields)
  /-- LOOP (R92). -/
  | loopI (f : Fields)
  /-- LOOPX (R93). -/
  | loopx (f : Fields)
  /-- HALT (R91). -/
  | halt (f : Fields)
  /-- YIELD (R208). -/
  | yield (f : Fields)
  /-- CUT (R238). -/
  | cut (f : Fields)
  /-- WAITV (R240). -/
  | waitv (f : Fields)
  /-- WAITD (R124). -/
  | waitd (f : Fields)
  /-- TRAP (R337). -/
  | trapI (f : Fields)
  /-- SYSCALL (R337). -/
  | syscall (f : Fields)
  /-- ERET (R338). -/
  | eret (f : Fields)
  /-- CSRR (R95). -/
  | csrr (f : Fields)
  /-- CSRW (R95). -/
  | csrw (f : Fields)
  /-- CSRX_SWP (R95). -/
  | csrxSwp (f : Fields)
  /-- CSRX_SET (R95). -/
  | csrxSet (f : Fields)
  /-- CSRX_CLR (R95). -/
  | csrxClr (f : Fields)
  /-- IFLUSH (R300). -/
  | iflush (f : Fields)
  /-- BARSET (R203). -/
  | barset (f : Fields)
  /-- BARARR (R205). -/
  | bararr (f : Fields)
  /-- BARWAIT (R206). -/
  | barwait (f : Fields)
  /-- LAUNCH (R209). -/
  | launch (f : Fields)
  /-- PREACK (R347). -/
  | preack (f : Fields)
  /-- PROBE (R301). -/
  | probe (f : Fields)
  /-- ADD (R96). -/
  | add (f : Fields)
  /-- SUB (R96). -/
  | sub (f : Fields)
  /-- MUL (R96). -/
  | mul (f : Fields)
  /-- MULH (R99). -/
  | mulh (f : Fields)
  /-- DIV (R96). -/
  | div (f : Fields)
  /-- REM (R96). -/
  | rem (f : Fields)
  /-- AND (R96). -/
  | andI (f : Fields)
  /-- OR (R96). -/
  | orI (f : Fields)
  /-- XOR (R96). -/
  | xorI (f : Fields)
  /-- ANDN (R96). -/
  | andn (f : Fields)
  /-- ORN (R96). -/
  | orn (f : Fields)
  /-- SHL (R97). -/
  | shl (f : Fields)
  /-- SHR (R97). -/
  | shr (f : Fields)
  /-- SAR (R97). -/
  | sar (f : Fields)
  /-- ROL (R97). -/
  | rol (f : Fields)
  /-- MIN (R96). -/
  | minI (f : Fields)
  /-- MAX (R96). -/
  | maxI (f : Fields)
  /-- ABS (R96). -/
  | absI (f : Fields)
  /-- NEG (R96). -/
  | negI (f : Fields)
  /-- CLZ (R98). -/
  | clz (f : Fields)
  /-- CTZ (R98). -/
  | ctz (f : Fields)
  /-- POPC (R98). -/
  | popc (f : Fields)
  /-- BREV (R98). -/
  | brev (f : Fields)
  /-- BFX (R100). -/
  | bfx (f : Fields)
  /-- BFI (R100). -/
  | bfi (f : Fields)
  /-- EXT (R101). -/
  | ext (f : Fields)
  /-- CMP (R102). -/
  | cmp (f : Fields)
  /-- SEL (R104). -/
  | sel (f : Fields)
  /-- MOV (R107). -/
  | mov (f : Fields)
  /-- MOVI (R107). -/
  | movi (f : Fields)
  /-- MOVH (R107). -/
  | movh (f : Fields)
  /-- LEA (R108). -/
  | lea (f : Fields)
  /-- PLOG (R105). -/
  | plog (f : Fields)
  /-- PSET (R106). -/
  | pset (f : Fields)
  /-- PGET (R106). -/
  | pget (f : Fields)
  /-- PCNT (R106). -/
  | pcnt (f : Fields)
  /-- AMOV (R107). -/
  | amov (f : Fields)
  /-- MULW (R99). -/
  | mulw (f : Fields)
  /-- MADD (R96). -/
  | madd (f : Fields)
  /-- SHLF (R97). -/
  | shlf (f : Fields)
  /-- BSWAP (R98). -/
  | bswap (f : Fields)
  /-- FADD (R110). -/
  | fadd (f : Fields)
  /-- FSUB (R110). -/
  | fsub (f : Fields)
  /-- FMUL (R110). -/
  | fmul (f : Fields)
  /-- FFMA (R110). -/
  | ffma (f : Fields)
  /-- FDIV (R110). -/
  | fdiv (f : Fields)
  /-- FSQRT (R110). -/
  | fsqrt (f : Fields)
  /-- FMIN (R110). -/
  | fmin (f : Fields)
  /-- FMAX (R110). -/
  | fmax (f : Fields)
  /-- FCMP (R111). -/
  | fcmp (f : Fields)
  /-- FCVT (R112). -/
  | fcvt (f : Fields)
  /-- FCVI (R112). -/
  | fcvi (f : Fields)
  /-- ICVF (R112). -/
  | icvf (f : Fields)
  /-- FCLASS (R113). -/
  | fclass (f : Fields)
  /-- FSGN (R114). -/
  | fsgn (f : Fields)
  /-- FRND (R110). -/
  | frnd (f : Fields)
  /-- FSCALE (R110). -/
  | fscale (f : Fields)
  /-- LD (R116). -/
  | ld (f : Fields)
  /-- ST (R116). -/
  | st (f : Fields)
  /-- LDA (R121). -/
  | lda (f : Fields)
  /-- PREF (R120). -/
  | pref (f : Fields)
  /-- LSR (R294). -/
  | lsr (f : Fields)
  /-- LSW (R295). -/
  | lsw (f : Fields)
  /-- LSADD (R295). -/
  | lsadd (f : Fields)
  /-- AMSG (R296). -/
  | amsg (f : Fields)
  /-- AADD (R234). -/
  | aadd (f : Fields)
  /-- AAND (R234). -/
  | aand (f : Fields)
  /-- AOR (R234). -/
  | aor (f : Fields)
  /-- AXOR (R234). -/
  | axor (f : Fields)
  /-- AMIN (R234). -/
  | amin (f : Fields)
  /-- AMAX (R234). -/
  | amax (f : Fields)
  /-- AXCHG (R234). -/
  | axchg (f : Fields)
  /-- ACAS (R234). -/
  | acas (f : Fields)
  /-- ACAS2 (R234). -/
  | acas2 (f : Fields)
  /-- FENCE (R239). -/
  | fence (f : Fields)
  /-- FENCE_SYS (R239). -/
  | fenceSys (f : Fields)
  /-- CFLUSH (R298). -/
  | cflush (f : Fields)
  /-- CINV (R298). -/
  | cinv (f : Fields)
  /-- CWB (R298). -/
  | cwb (f : Fields)
  /-- LD2 (R117). -/
  | ld2 (f : Fields)
  /-- ST2 (R117). -/
  | st2 (f : Fields)
  /-- VMOV (R143). -/
  | vmov (f : Fields)
  /-- VBCAST (R143). -/
  | vbcast (f : Fields)
  /-- VADD (R140). -/
  | vadd (f : Fields)
  /-- VSUB (R140). -/
  | vsub (f : Fields)
  /-- VMUL (R140). -/
  | vmul (f : Fields)
  /-- VFMA (R140). -/
  | vfma (f : Fields)
  /-- VMIN (R140). -/
  | vmin (f : Fields)
  /-- VMAX (R140). -/
  | vmax (f : Fields)
  /-- VABS (R140). -/
  | vabs (f : Fields)
  /-- VNEG (R140). -/
  | vneg (f : Fields)
  /-- VAND (R140). -/
  | vand (f : Fields)
  /-- VOR (R140). -/
  | vor (f : Fields)
  /-- VXOR (R140). -/
  | vxor (f : Fields)
  /-- VSHL (R140). -/
  | vshl (f : Fields)
  /-- VSHR (R140). -/
  | vshr (f : Fields)
  /-- VSAR (R140). -/
  | vsar (f : Fields)
  /-- VCMP (R142). -/
  | vcmp (f : Fields)
  /-- VSEL (R143). -/
  | vsel (f : Fields)
  /-- VCVT (R144). -/
  | vcvt (f : Fields)
  /-- VSHUF (R143). -/
  | vshuf (f : Fields)
  /-- VSLIDE (R143). -/
  | vslide (f : Fields)
  /-- VRED (R145). -/
  | vred (f : Fields)
  /-- VLD (R146). -/
  | vld (f : Fields)
  /-- VST (R146). -/
  | vst (f : Fields)
  /-- VGATH (R147). -/
  | vgath (f : Fields)
  /-- VSCAT (R147). -/
  | vscat (f : Fields)
  /-- VDIV (R140). -/
  | vdiv (f : Fields)
  /-- VSQRT (R140). -/
  | vsqrt (f : Fields)
  /-- VEXT (R143). -/
  | vext (f : Fields)
  /-- VINS (R143). -/
  | vins (f : Fields)
  /-- VIOTA (R143). -/
  | viota (f : Fields)
  /-- FSET (R137). -/
  | fset (f : Fields)
  /-- FGET (R138). -/
  | fget (f : Fields)
  /-- FADJ (R139). -/
  | fadj (f : Fields)
  /-- VPLANE (R149). -/
  | vplane (f : Fields)
  /-- VUNPL (R150). -/
  | vunpl (f : Fields)
  /-- SFX (R151). -/
  | sfx (f : Fields)
  /-- RNGX (R153). -/
  | rngx (f : Fields)
  /-- RNGF (R154). -/
  | rngf (f : Fields)
  /-- VMULH (R140). -/
  | vmulh (f : Fields)
  /-- VPOPC (R140). -/
  | vpopc (f : Fields)
  /-- VDOT (R141). -/
  | vdot (f : Fields)
  /-- VCOMP (R143). -/
  | vcomp (f : Fields)
  /-- MZERO (R166). -/
  | mzero (f : Fields)
  /-- MMA (R167). -/
  | mma (f : Fields)
  /-- MLD (R170). -/
  | mld (f : Fields)
  /-- MST (R171). -/
  | mst (f : Fields)
  /-- MMOV (R173). -/
  | mmov (f : Fields)
  /-- XCLR (R177). -/
  | xclr (f : Fields)
  /-- XACC (R178). -/
  | xacc (f : Fields)
  /-- XADD (R179). -/
  | xadd (f : Fields)
  /-- XRND (R180). -/
  | xrnd (f : Fields)
  /-- XGET (R181). -/
  | xget (f : Fields)
  /-- MSCL (R174). -/
  | mscl (f : Fields)
  /-- CAPNEW (R263). -/
  | capnew (f : Fields)
  /-- CAPSEND (R266). -/
  | capsend (f : Fields)
  /-- CAPHEAD (R264). -/
  | caphead (f : Fields)
  /-- CAPPUSH (R264). -/
  | cappush (f : Fields)
  /-- CAPPOP (R264). -/
  | cappop (f : Fields)
  /-- CAPSET (R264). -/
  | capset (f : Fields)
  /-- CAPSPLIT (R265). -/
  | capsplit (f : Fields)
  /-- CAPEND (R267). -/
  | capend (f : Fields)
  /-- CAPNEXT (R267). -/
  | capnext (f : Fields)
  /-- CAPPLACE (R268). -/
  | capplace (f : Fields)
  /-- CAPINJ (R266). -/
  | capinj (f : Fields)
  /-- CAPGET (R270). -/
  | capget (f : Fields)
  /-- CAPKEY (R269). -/
  | capkey (f : Fields)
  /-- XCOPY (R321). -/
  | xcopy (f : Fields)
  /-- XFILL (R321). -/
  | xfill (f : Fields)
  /-- XGATH (R321). -/
  | xgath (f : Fields)
  /-- XSCAT (R321). -/
  | xscat (f : Fields)
  /-- XCMPR (R321). -/
  | xcmpr (f : Fields)
  /-- XDCMP (R321). -/
  | xdcmp (f : Fields)
  /-- HART_XCOPY (R319). -/
  | hartXcopy (f : Fields)
  /-- HART_XFILL (R319). -/
  | hartXfill (f : Fields)
  /-- HART_XCMPR (R319). -/
  | hartXcmpr (f : Fields)
  /-- HART_XDCMP (R319). -/
  | hartXdcmp (f : Fields)
  /-- HART_HALT (R307). -/
  | hartHalt (f : Fields)
  /-- ARRSET (R322). -/
  | arrset (f : Fields)
  /-- AWAIT (R323). -/
  | await (f : Fields)
  /-- EQUERY (R324). -/
  | equery (f : Fields)
  /-- ELOAD (R325). -/
  | eload (f : Fields)
  /-- TLBINV_VA (R302). -/
  | tlbinvVa (f : Fields)
  /-- TLBINV_CTX (R302). -/
  | tlbinvCtx (f : Fields)
  /-- TLBINV_ALL (R302). -/
  | tlbinvAll (f : Fields)
  /-- DECANT (R376). -/
  | decant (f : Fields)
  /-- STKQ (R377). -/
  | stkq (f : Fields)
  /-- SLOTCTL_RD (R210). -/
  | slotctlRd (f : Fields)
  /-- SLOTCTL_STOP (R210). -/
  | slotctlStop (f : Fields)
  /-- HOSTINT (R399). -/
  | hostint (f : Fields)
  /-- CKPTQ_TEST (R383). -/
  | ckptqTest (f : Fields)
  /-- CKPTQ_TAKE (R383). -/
  | ckptqTake (f : Fields)
  /-- JRNL_OFF (R241). -/
  | jrnlOff (f : Fields)
  /-- JRNL_REC (R241). -/
  | jrnlRec (f : Fields)
  /-- JRNL_RPL (R241). -/
  | jrnlRpl (f : Fields)
  /-- JRNL_STAT (R241). -/
  | jrnlStat (f : Fields)
  /-- FAULTQ_POP (R342). -/
  | faultqPop (f : Fields)
  /-- FAULTQ_CNT (R342). -/
  | faultqCnt (f : Fields)
  /-- RESUME (R343). -/
  | resume (f : Fields)
  /-- RESUME_FAIL (R343). -/
  | resumeFail (f : Fields)
  /-- QUEUE_TAIL_DOORBELL (R190). -/
  | queueTailDoorbell (tail : BitVec 32)
  /-- SLOT_TABLE_WRITE (R194). -/
  | slotTableWrite (entry : BitVec 128)
  /-- BARRIER_ROW_TOKEN (R204). -/
  | barrierRowToken (b : BitVec 3) (shape : BitVec 6)
  /-- BARRIER_COLUMN_TOKEN (R204). -/
  | barrierColumnToken (b : BitVec 3) (shape : BitVec 6)
  /-- BARRIER_RELEASE_TOKEN (R204). -/
  | barrierReleaseToken (b : BitVec 3) (shape : BitVec 6)
  /-- PKG_BARRIER_ARRIVAL_MSG (R404). -/
  | pkgBarrierArrivalMsg (group : BitVec 16) (b : BitVec 3) (gen : BitVec 8)
  /-- PKG_BARRIER_RELEASE_MSG (R404). -/
  | pkgBarrierReleaseMsg (group : BitVec 16) (b : BitVec 3) (gen : BitVec 8)
  /-- POSTED_WRITE_COMPLETION (R393). -/
  | postedWriteCompletion (status : BitVec 3)
  /-- LDA_DATA_RETURN (R121). -/
  | ldaDataReturn (g : BitVec 5)
  /-- CAPSULE_SPILL_TIMEOUT (R255). -/
  | capsuleSpillTimeout (id : Nat)
  /-- SOFT_ERROR_UNCORRECTABLE (R344). -/
  | softErrorUncorrectable (place : ErrorPlace)
  /-- DEAD_DIE_TIMEOUT (R379). -/
  | deadDieTimeout (sender : TowerId)
  /-- HOST_MEMORY_ACCESS (R395). -/
  | hostMemoryAccess (write : Bool) (pa : BitVec 40) (len : Nat) (data : List Byte)
  /-- HOST_SNOOP (R391). -/
  | hostSnoop (hpa : BitVec 49) (data : List Byte)
  /-- MSIX_PENDING_SEND (R399). -/
  | msixPendingSend (v : BitVec 11)
  /-- OUVKEN_FLIT_RECEIVE (R400). -/
  | ouvkenFlitReceive (flit : Flit)
  /-- PEER_ACCESS_REQUEST (R402). -/
  | peerAccessRequest (src : BitVec 8) (pa : BitVec 40) (op : PeerOp)
  /-- DIEPART_WRITE (R368). -/
  | diepartWrite (x : Word)
  /-- ALARM_WRITE (R419). -/
  | alarmWrite (byHost : Bool) (x : Word)
  /-- MONSTAT_WRITE (R416). -/
  | monstatWrite (byHost : Bool) (hi : Bool) (x : Word)
  /-- REGISTER_WRITE (R5). -/
  | registerWrite (byHost : Bool) (off : BitVec 28) (x : Word)
  /-- SECURITY_ALARM (R420). -/
  | securityAlarm (cause : BitVec 2)
  /-- GET_CERTIFICATE (R421). -/
  | getCertificate (off len : Nat)
  /-- CHALLENGE (R421). -/
  | challenge (nonce : BitVec 256)
  /-- GET_MEASUREMENTS (R421). -/
  | getMeasurements (index : BitVec 8)
  /-- UNASSIGNED_OPCODE (R76). -/
  | unassignedOpcode (w : BitVec 96)
  /-- CMD_NOP (R191). -/
  | cmdNop
  /-- CMD_LAUNCH (R192). -/
  | cmdLaunch
  /-- CMD_WAIT (R192). -/
  | cmdWait
  /-- CMD_SIGNAL (R192). -/
  | cmdSignal
  /-- CMD_BAD_OPERATION (R191). -/
  | cmdBadOperation
  /-- LAUNCH_PLACEMENT (R192). -/
  | launchPlacement
  /-- GANG_PLACEMENT (R198). -/
  | gangPlacement
  /-- REBIND_BY_WEIGHT (R197). -/
  | rebindByWeight
  /-- SLOT_DISPATCH (R194). -/
  | slotDispatch
  /-- LAUNCH_COMPLETION (R196). -/
  | launchCompletion
  /-- COMMIT_GRANT (R221). -/
  | commitGrant
  /-- PRIORITY_TOKEN_GRANT (R225). -/
  | priorityTokenGrant
  /-- LIVELOCK_WATCHDOG (R226). -/
  | livelockWatchdog
  /-- TRAP_ENTRY (R334). -/
  | trapEntry
  /-- EDGE_ACCESS (R228). -/
  | edgeAccess
  /-- SOLO_STEP (R236). -/
  | soloStep
  /-- EDGE_COMPLETION_TIMEOUT (R392). -/
  | edgeCompletionTimeout
  /-- WAITV_WAKE (R240). -/
  | waitvWake
  /-- WAITV_TIMEOUT (R240). -/
  | waitvTimeout
  /-- AWAIT_WAKE (R323). -/
  | awaitWake
  /-- YIELD_EXPIRY (R208). -/
  | yieldExpiry
  /-- CAPSULE_ARRIVAL (R255). -/
  | capsuleArrival
  /-- BAY_REFILL (R255). -/
  | bayRefill
  /-- CAPSULE_VISIT_START (R251). -/
  | capsuleVisitStart
  /-- CAPSULE_VISIT_STRAND (R253). -/
  | capsuleVisitStrand
  /-- ACTIVE_MESSAGE_ARRIVAL (R297). -/
  | activeMessageArrival
  /-- MESSAGE_HANDLER_START (R296). -/
  | messageHandlerStart
  /-- LSR_REQUEST_SERVICE (R294). -/
  | lsrRequestService
  /-- FAULT_RECORD_DEFERRED_WRITE (R341). -/
  | faultRecordDeferredWrite
  /-- RANGE_FLUSH_WALK (R298). -/
  | rangeFlushWalk
  /-- TLB_INVALIDATION_COMPLETE (R302). -/
  | tlbInvalidationComplete
  /-- ENGINE_COMMAND_START (R308). -/
  | engineCommandStart
  /-- ENGINE_WATCHDOG (R311). -/
  | engineWatchdog
  /-- ELOAD_REGION_LOAD (R325). -/
  | eloadRegionLoad
  /-- PREEMPTION (R346). -/
  | preemption
  /-- PREEMPTION_TIMEOUT (R346). -/
  | preemptionTimeout
  /-- CONTEXT_RESUME (R352). -/
  | contextResume
  /-- SOFT_ERROR_CORRECTED (R344). -/
  | softErrorCorrected
  /-- DECANT_DRAIN (R371). -/
  | decantDrain
  /-- DECANT_WRITE_TIMEOUT (R371). -/
  | decantWriteTimeout
  /-- DECANT_CLAIM_TIMEOUT (R371). -/
  | decantClaimTimeout
  /-- LINK_SLEEP (R378). -/
  | linkSleep
  /-- LINK_WAKE (R378). -/
  | linkWake
  /-- LINK_WAKE_RETRY (R378). -/
  | linkWakeRetry
  /-- RETENTION_SLEEP_ENTRY (R380). -/
  | retentionSleepEntry
  /-- RETENTION_WAKE (R380). -/
  | retentionWake
  /-- HDM_BACK_INVALIDATE_TIMEOUT (R395). -/
  | hdmBackInvalidateTimeout
  /-- OUVKEN_PORT_DOWN (R400). -/
  | ouvkenPortDown
  /-- PEER_RESPONSE_TIMEOUT (R402). -/
  | peerResponseTimeout
  /-- POWER_GOOD (R414). -/
  | powerGood
  /-- PACKAGE_RESET (R414). -/
  | packageReset
  /-- RAIL_CURRENT_CLAMP (R415). -/
  | railCurrentClamp
  /-- THERMAL_THROTTLE (R417). -/
  | thermalThrottle
  /-- THERMAL_TRIP (R417). -/
  | thermalTrip
  /-- GET_VERSION (R421). -/
  | getVersion
  /-- GET_CAPABILITIES (R421). -/
  | getCapabilities
  /-- NEGOTIATE_ALGORITHMS (R421). -/
  | negotiateAlgorithms
  /-- GET_DIGESTS (R421). -/
  | getDigests
  /-- HOST_PORT_LINK_DOWN (R393). -/
  | hostPortLinkDown
  /-- MONSTAT_VMIN_READ (R416). -/
  | monstatVminRead
  /-- MEMORY_FIREWALL_BLOCK (R418). -/
  | memoryFirewallBlock
  deriving DecidableEq, Repr

end Sys2Proof
end

