-- ==== Sys2Proof/Machine/State.lean ====
section
/-! DEFINITION. The state of a whole Q1024 package as plain data, the state after reset, and the reasons a step can stop. The rule in brackets names the state. -/

namespace Sys2Proof.Machine

/-- Bytes by address: addresses strictly rising, no zero byte listed; an unlisted address reads as zero (19 R414). -/
abbrev Mem := List Host.Cell

/-- A sparse table by number: numbers strictly rising; an unlisted number holds the default that its reader gives. -/
abbrev Tab (α : Type) := List (Nat × α)

/-- Who executes, or whom an event concerns. [log 12, DESIGN CHOICE] -/
inductive Agent where
  | none
  /-- A thread slot (R184). -/
  | slot (c : CoreId) (k : SlotId)
  /-- A core: its network interface, matrix unit, barriers. -/
  | core (c : CoreId)
  /-- A copy engine (R304). -/
  | engine (e : EngineId)
  /-- A command queue of a tower's Nose (R190). -/
  | queue (t : TowerId) (q : QueueId)
  | tower (t : TowerId)
  | die (d : DieId)
  | stack (m : StackId)
  /-- A launch, by its sequence number (R192). -/
  | launch (n : SeqNo)
  | ctx (n : CtxId)
  /-- A base-die link 0 to 3, or the bond interface 8 + d of compute die d (R378). -/
  | link (l : BitVec 4)
  /-- An Ouvken port (R400). -/
  | port (p : BitVec 4)
  /-- A capsule, message or pending invalidation, by its number in the model. -/
  | item (n : Nat)
  deriving DecidableEq, Repr

/-- What reaches the package from outside, or from its firmware, that the opcode table has no event for. [log 115, DESIGN CHOICE] -/
inductive Input where
  /-- The host reads n bytes of device control space through BAR0 (17 R390). -/
  | barRead (off : BitVec 28) (n : Nat)
  /-- BIRsp for a line of device memory (17 R395). -/
  | birsp (line : Nat)
  /-- The host writes MSI-X Enable and Function Mask in its configuration space (17 R388, R399). -/
  | msixControl (enabled fmask : Bool)
  /-- An AtomicOp of the host on device memory (17 R388): opcode of 09 R234, type code, address, operand and compare value. -/
  | hostAtomic (opc : Byte) (ty : BitVec 2) (pa : BitVec 40) (val cmp : BitVec 128)
  /-- A commit in a peer package changes its memory (17 R402). -/
  | peerWrite (pkg : Byte) (pa : BitVec 40) (data : List Byte)
  /-- A peer asks a port to replay its flits from a sequence number on (17 R400). -/
  | replayRequest (port : BitVec 4) (seq : BitVec 12)
  /-- A peer acknowledges the flits of a port up to a sequence number, which leave the replay buffer (17 R400). -/
  | flitAck (port : BitVec 4) (seq : BitVec 12)
  /-- The Nose asks for a current limit of a rail (19 R415). -/
  | railLimit (rail limit : Nat)
  deriving DecidableEq, Repr

/-- One entry of the agenda: which agent moves. [log 1, DESIGN CHOICE] -/
inductive Pick where
  /-- The slot's next turn (R21). -/
  | turn (c : CoreId) (k : SlotId)
  /-- The engine's next step (R311). -/
  | eturn (e : EngineId)
  /-- A machine event of the opcode table. -/
  | event (a : Agent) (i : Instr)
  /-- The caches, the directories and the TLBs give up what they hold, as the tape says (R218, R280, R281, R290). -/
  | caches
  /-- Something from outside that is no event of the opcode table. -/
  | input (x : Input)
  /-- The next step of bring-up (19 R414). -/
  | boot
  deriving DecidableEq, Repr

/-- The value of a progress register while a step is stopped (R135, R162): MPROG of a tile, or VPROG. -/
structure Progress where
  tile : Option (BitVec 2)
  value : BitVec 32
  deriving DecidableEq, Repr

/-- A trap that falls due: cause, TRAPADDR and TRAPINFO (R331, R332), and the page-table entry for a fault record (R340). -/
structure Trap where
  cause : Byte
  addr : Word := 0
  info : Word := 0
  entry : Word := 0
  /-- The progress that the stopped step of a long instruction shows (R135, R162). -/
  prog : Option Progress := none
  deriving DecidableEq, Repr

/-- The registers that a chunk's checkpoint covers (R7, R212, R330). -/
structure Regs where
  g : Vector Word 32 := Vector.replicate 32 0
  v : Vector VWord 16 := Vector.replicate 16 0
  /-- P0 to P6; P7 is hard-wired (R12). -/
  p : Vector Word 7 := Vector.replicate 7 0
  a : Vector Word 8 := Vector.replicate 8 0
  d : Vector Byte 4 := Vector.replicate 4 0
  lb : Vector Word 4 := Vector.replicate 4 0
  le : Vector Word 4 := Vector.replicate 4 0
  lc : Vector (BitVec 32) 4 := Vector.replicate 4 0
  lact : BitVec 4 := 0
  /-- F0 to F31; none: no valid record (R16). -/
  forms : Vector (Option VWord) 32 := Vector.replicate 32 none
  pc : Word := 0
  fpsr : BitVec 13 := 0
  /-- CHUNKCFG.TARGET. -/
  target : BitVec 13 := 0x800
  /-- TARGET was written since the chunk began, so EFF takes it at the next chunk start (R224). -/
  targetNew : Bool := false
  waittmo : BitVec 32 := 0
  vprog : BitVec 32 := 0
  /-- VKIND.FLT (R125). -/
  vkind : BitVec 1 := 0
  /-- XBASE.BASE. -/
  xbase : BitVec 9 := 0x1FF
  trapvec : Word := 0
  trapcause : Byte := 0
  trappc : Word := 0
  trapaddr : Word := 0
  trapinfo : Word := 0
  /-- TRAPSTATE.PPRIV, INH, PPEND, AWR, AWREG. -/
  ppriv : Bool := false
  inh : Bool := false
  ppend : Bool := false
  awr : Bool := false
  awreg : BitVec 5 := 0
  sscr : Vector Word 4 := Vector.replicate 4 0
  deadg : BitVec 32 := 0
  deadv : BitVec 32 := 0
  fvalid : BitVec 32 := 0
  /-- PRIV.LEVEL: true at supervisor level (R328). -/
  priv : Bool := false
  /-- Dead bits: G0 to G31, then V0 to V15, P0 to P7, A0 to A7 (R72). -/
  dead : BitVec 64 := 0
  /-- CAPBAY.BAY, VIS and OFF. -/
  bay : BitVec 2 := 0
  vis : Bool := false
  bayOff : BitVec 13 := 0
  /-- CAPSTAT.HOPS and FCODE. -/
  hops : Byte := 0
  fcode : Byte := 0
  deriving DecidableEq, Repr

/-- A message for a core's message slot: an active message or an LSR request (R294, R296). -/
structure Msg where
  id : Nat
  /-- An LSR request; false: an active message. -/
  lsr : Bool
  src : CoreId
  srcSlot : SlotId
  dst : CoreId
  /-- The launch it belongs to. -/
  seq : SeqNo
  /-- Handler PC of an active message; local-store offset of an LSR. -/
  pc : Word
  /-- SRC2 of an active message; size (1:0) and sign extension (2) of an LSR. -/
  arg : Word
  /-- The G register that receives the result, if one is awaited. -/
  ret : Option (BitVec 5)
  deriving DecidableEq, Repr

/-- A deferred effect of a chunk, applied at its grant (R221, R235). -/
inductive Deferred where
  /-- A deferred atomic at a physical address: opcode, type code, operand. -/
  | atomic (opc : Byte) (ty : BitVec 2) (pa : Nat) (x : Word)
  /-- A deferred atomic in the own local store. -/
  | lsAtomic (opc : Byte) (ty : BitVec 2) (off : Nat) (x : Word)
  /-- LSW: target core, offset, log2 of the size, value (R295). -/
  | lsw (c : CoreId) (off : Nat) (size : BitVec 2) (x : Word)
  /-- LSADD: target core, offset, type, value (R295). -/
  | lsadd (c : CoreId) (off : Nat) (ty : BitVec 2) (x : Word)
  /-- AMSG without a destination (R296). -/
  | amsg (m : Msg)
  /-- An engine kick (R310). -/
  | kick (e : EngineId) (cmd : BitVec 512)
  /-- A LAUNCH record (R209). -/
  | launch (t : TowerId) (q : QueueId) (desc : Word)
  /-- CAPSEND (false) or CAPINJ (true) of the staging area (R266). -/
  | capsend (h : Nat) (inj : Bool)
  /-- CAPNEXT of the visit's bay with the next head (R267). -/
  | capnext (bay : BitVec 2) (n : Nat)
  /-- CAPEND of the visit's bay (R267). -/
  | capend (bay : BitVec 2)
  /-- RESUME or RESUME.FAIL of a hold (R343). -/
  | resume (t : TowerId) (hid : BitVec 16) (fail : Bool)
  /-- A range flush over the lines listed: 0 CFLUSH, 1 CINV, 2 CWB (R298). -/
  | flush (kind : BitVec 2) (lines : List Nat)
  /-- TLBINV: scope, virtual address, context (R302). -/
  | tlbinv (scope : BitVec 2) (va : Word) (ctx : CtxId)
  /-- HALT of a launch slot (R91). -/
  | halt
  /-- HALT of a message handler (R296). -/
  | msgEnd
  /-- The arrival-word update of an engine chunk: address, bytes, abort code if aborted (R314). -/
  | arrival (pa : Nat) (bytes : Nat) (abort : Option (BitVec 7))
  /-- The same update of a word in the local store of a core. -/
  | lsArrival (c : CoreId) (off : Nat) (bytes : Nat) (abort : Option (BitVec 7))
  /-- The end of an engine command (R307). -/
  | cmdEnd (e : EngineId)
  /-- The fault record of an aborted engine command (R315): engine code or trap cause, and address. -/
  | engineFault (e : EngineId) (code : Byte) (va : Word)
  /-- JRNL.OFF, or JRNL.REC or JRNL.RPL with what it puts in force (R241): recording or replay, the buffer's frames, the records to replay. -/
  | jrnlOff
  | jrnlOn (rpl : Bool) (frames : List Nat) (total : BitVec 32)
  deriving DecidableEq, Repr

/-- A range watch (R217): the region's range as exact integers, the page, the part of the region in the page as virtual addresses, and the physical ranges that the chunk's translations of the page give it. -/
structure Watch where
  lo : Int
  hi : Int
  page : Nat
  vlo : Nat
  vhi : Nat
  spans : List (Nat × Nat)
  deriving DecidableEq, Repr

/-- A tile saved before a chunk's first write to it (R161). -/
structure Shadow where
  tile : BitVec 2
  old : List (BitVec 32)
  mprog : BitVec 32
  deriving DecidableEq, Repr

/-- A translation that a chunk used (R302): context, virtual page and its log2 size. -/
abbrev TlbKey := CtxId × Nat × Nat

/-- What an open or waiting chunk holds (R211 to R217, R371). -/
structure Chunk where
  /-- The checkpoint (R212). -/
  chk : Regs := {}
  /-- When the chunk started: rotations × 16 + slot (R220). -/
  start : Nat := 0
  /-- Length in instructions and steps (R213). -/
  len : Nat := 0
  /-- Speculative bytes by physical address (R216). -/
  wr : List Host.Cell := []
  rsig : BitVec 2048 := 0
  wsig : BitVec 2048 := 0
  /-- Lines read, which keep the core recorded as a sharer (R218). -/
  rlines : List Nat := []
  watches : List Watch := []
  /-- The chunk's first step found too few watches, so it reads through the signature (R217). -/
  noWatch : Bool := false
  /-- Deferred effects in program order. -/
  effects : List Deferred := []
  /-- Absolute deltas by local-store offset (R175). -/
  deltas : Tab VWord := []
  /-- Undo journal, newest first: granule and old contents (R212). -/
  undo : List (Nat × BitVec 512) := []
  /-- Granules read, written, and accumulate-only (R175, R277). -/
  lsR : List Nat := []
  lsW : List Nat := []
  lsA : List Nat := []
  /-- Bytes written in poisoned granules; a granule wholly written loses its poison at the grant (R345). -/
  lsHealed : List Nat := []
  tileR : BitVec 4 := 0
  tileW : BitVec 4 := 0
  shadows : List Shadow := []
  /-- Stacks touched (R371). -/
  stks : BitVec 16 := 0
  tlb : List TlbKey := []
  /-- Registers whose dead bit the grant sets, and registers written (R72). -/
  deadSet : BitVec 64 := 0
  written : BitVec 64 := 0
  /-- The checkpoint and start are set (R211). -/
  opened : Bool := false
  /-- The current instruction ran as a solo step or edge access, outside any chunk (R211, R228). -/
  solo : Bool := false
  /-- The chunk holds an ERET with AWR = 1, after which a register awaits a remote result (R338). -/
  eret : Bool := false
  deriving DecidableEq, Repr

/-- What a parked slot does when its cut chunk has been granted (R219). -/
inductive After where
  /-- It goes on with its next instruction (R219, codes 0x06 to 0x08 and 0x0E). -/
  | go
  /-- It issues nothing more; the grant's effects change its entry. -/
  | stop
  | trap (t : Trap)
  /-- A solo step of the instruction (R211). -/
  | solo (i : Instr)
  /-- An edge access of the instruction (R228). -/
  | edge (i : Instr)
  /-- A capsule visit strands (R253). -/
  | strand (t : Trap)
  /-- The message slot answers an LSR request with the value that its chunk read (R294). -/
  | read (m : Msg) (x : Word)
  deriving DecidableEq, Repr

/-- A cut that falls due after an instruction and waits for D0 to D3 (R123, R214). -/
structure Cut where
  code : Byte
  after : Option After
  deriving DecidableEq, Repr

/-- Where an access goes. -/
inductive Loc where
  /-- The local store of a core. -/
  | ls (c : CoreId) (off : Nat)
  /-- Local package memory. -/
  | mem (pa : Nat)
  /-- A host window: coherent or not. -/
  | host (coherent : Bool) (hpa : Nat)
  | peer (pkg : Byte) (pa : Nat)
  /-- Device control space. -/
  | dev (off : Nat)
  deriving DecidableEq, Repr

/-- Why a slot does not issue; a slot that waits for nothing but its own turn is ready (R22). -/
inductive Park where
  | ready
  | idle
  | grant (a : After)
  | trap (t : Trap)
  | solo (i : Instr)
  | edge (i : Instr)
  | strand (t : Trap)
  /-- WAITV (ls: in the own local store): destination, address, bytes, expiry in rotations (R240). -/
  | waitv (dst : BitVec 5) (ls : Bool) (addr : Nat) (len : Nat) (expiry : Option Nat)
  /-- AWAIT (R323). -/
  | await (dst : BitVec 5) (ls : Bool) (addr : Nat) (expiry : Option Nat)
  | barwait (b : BitVec 3) (g : Byte)
  /-- YIELD until this rotation (R208). -/
  | yield (expiry : Nat)
  /-- A held translation, and the trap that RESUME.FAIL makes of it (R339, R343). -/
  | held (t : TowerId) (hid : BitVec 16) (fail : Trap)
  /-- The result of an LSR or AMSG (R294, R296). -/
  | remote (dst : BitVec 5)
  /-- ELOAD of a region that engines still use (R325): tower, region, source and its virtual address, destination register. -/
  | eload (t : TowerId) (region : BitVec 4) (src : Loc) (va : Word) (dst : BitVec 5)
  /-- DECANT in progress (R376). -/
  | decant (m : StackId) (dst : BitVec 5)
  /-- PREACK executed (R347). -/
  | preacked
  /-- SLOTCTL.STOP of this slot of the core, until it has ended (R210). -/
  | stop (k : SlotId)
  /-- The chunk of an LSR request has been granted, and its answer leaves (R294). -/
  | read (m : Msg) (x : Word)
  deriving DecidableEq, Repr

/-- An asynchronous load that has issued (R121): register, counter and the value at its place in program order. -/
structure Lda where
  g : BitVec 5
  d : BitVec 2
  x : Word
  deriving DecidableEq, Repr

/-- Posted writes of a slot since its last FENCE.SYS (R393). -/
structure Posted where
  /-- Issued since the last FENCE.SYS. -/
  count : Nat := 0
  /-- Of these, not yet completed. -/
  open_ : Nat := 0
  first : Word := 0
  last : Word := 0
  err : BitVec 3 := 0
  deriving DecidableEq, Repr

/-- How a BOUND slot will begin to run (R194): a visit or message chosen for a reserved slot, or a slot restored from a save block. -/
structure Start where
  regs : Regs
  /-- CHUNKSTAT.SEQ goes on from here. -/
  seq : BitVec 32 := 0
  msg : Option Msg := none
  /-- The slot resumes (R352): a remote result that has arrived for it stays. -/
  resumes : Bool := false
  deriving DecidableEq, Repr

/-- A thread slot (R184, R193, R211). -/
structure Slot where
  regs : Regs := {}
  cut : Byte := 0
  sqc : Byte := 0
  seq : BitVec 32 := 0
  eff : BitVec 13 := 0x800
  /-- EFF as it was before the open chunk took a TARGET that its waiting predecessor wrote (R223, R224). -/
  effWas : Option (BitVec 13) := none
  /-- The slot-table entry (R193). -/
  entry : BitVec 128 := 0
  /-- An entry that the Nose wrote and that the next rotation boundary takes (R194). -/
  entryNext : Option (BitVec 128) := none
  /-- What the next rotation boundary starts the BOUND slot with (R194); none: a launch slot starts by R19 and R32, a reserved slot is idle. -/
  starting : Option Start := none
  /-- CLASS of the queue when the slot was bound (R30). -/
  cls : BitVec 2 := 1
  chunk : Chunk := {}
  waiting : Option Chunk := none
  cutDue : Option Cut := none
  /-- The slot is being stopped (R210, R335). -/
  stopping : Bool := false
  /-- The slot that this slot's SLOTCTL.STOP named has ended (R210). -/
  stopDone : Bool := false
  /-- A pre-emption trap is due (R346). -/
  preempt : Bool := false
  /-- The slot has taken its pre-emption trap, and whether with TILES (R347). -/
  tiles : Option Bool := none
  park : Park := .idle
  ldas : List Lda := []
  posted : Posted := {}
  /-- The rotation of the slot's last turn (R21). -/
  lastRot : Nat := 0
  /-- Range-flush walkers and TLB invalidations that hold back the next grant (R298, R302). -/
  holdBack : Nat := 0
  /-- The message that the handler serves (R296). -/
  msg : Option Msg := none
  /-- SSCR0 at PREACK (R347). -/
  sscr0 : Word := 0
  /-- The G register that ERET marked pending for an awaited remote result (R338, R349). -/
  awaiting : Option (BitVec 5) := none
  /-- A remote result that arrived for a truncated slot before its ERET (R349). -/
  arrived : Option Word := none
  /-- Lines of code in the slot's own fetch buffer, with their contents when they were fetched (R283). -/
  fetched : List (Nat × BitVec 512) := []
  /-- The last BARARR: SEQ of the chunk that it began, barrier, and the GEN it gave (R205); run again in that chunk it does not arrive twice. -/
  barred : Option (BitVec 32 × BitVec 3 × Byte) := none
  deriving DecidableEq, Repr

/-- A barrier of a core (R202). -/
structure Barrier where
  valid : Bool := false
  lw : BitVec 3 := 0
  lh : BitVec 3 := 0
  gen : Byte := 0
  arrv : BitVec 16 := 0
  rowin : Bool := false
  colin : Bool := false
  /-- This generation's row or column token has been sent. -/
  sent : Bool := false
  /-- A release passed through while the core slept (R381). -/
  stale : Bool := false
  /-- The corner's generation as its network interface keeps it (R381). -/
  niGen : Byte := 0
  deriving DecidableEq, Repr

/-- A barrier token held for a shape that does not match yet (R204): 0 row, 1 column, 2 release. -/
structure Token where
  kind : BitVec 2
  b : BitVec 3
  shape : BitVec 6
  deriving DecidableEq, Repr

/-- The states of a landing bay (R250). -/
inductive BayState where
  | free
  | landed
  | visit
  /-- Passed within the granting step, which copies the image out at once. -/
  | departing
  | stranding
  deriving DecidableEq, Repr

/-- A landing bay: its state, the capsule's launch and the order of landing. -/
structure Bay where
  st : BayState := .free
  seq : SeqNo := 0
  order : Nat := 0
  deriving DecidableEq, Repr

/-- Where a capsule outside a bay is (R255, R259, R261). -/
inductive CapWhere where
  | flying
  /-- In the target's input buffer since this rotation. -/
  | buffered (since : Nat)
  /-- In slot n of the overflow area. -/
  | spilled (n : Nat)
  /-- In the spill ring of a core. -/
  | ring
  /-- Its strand waits, for a held page if one is named (tower and hold): strand code, detail, program counter and address. -/
  | strandHeld (on : Option (TowerId × BitVec 16)) (code : Byte) (detail : Byte) (pc addr : Word)
  /-- Its spill, or its refill from slot n of the overflow area, waits for a held page. -/
  | spillHeld (t : TowerId) (hid : BitVec 16) (slot : Option Nat)
  /-- Resolution of its place waits for a stack that is being poured (R248). -/
  | unresolved
  deriving DecidableEq, Repr

/-- A capsule outside a bay: its image by offset (R244), launch, and the core it goes to or waits at. -/
structure Capsule where
  img : Mem
  seq : SeqNo
  core : CoreId
  at_ : CapWhere
  order : Nat
  /-- The 64-byte pieces of the image that are poisoned (R345). -/
  poison : List Nat := []
  deriving DecidableEq, Repr

/-- A remote update caught in a spill ring (R349), with the launch it belongs to. -/
inductive RingItem where
  | capsule (q : SeqNo) (id : Nat)
  | msg (m : Msg)
  | lsw (q : SeqNo) (off : Nat) (size : BitVec 2) (x : Word)
  | lsadd (q : SeqNo) (off : Nat) (ty : BitVec 2) (x : Word)
  /-- The result for the slot of a launch slot index or reserved role. -/
  | result (q : SeqNo) (role : Nat) (x : Word)
  deriving DecidableEq, Repr

/-- What the cores share per core (R7, R185, R202, R249). -/
structure Core where
  slots : Tab Slot := []
  /-- Elements of each tile, row by row; an empty list is all zero (R17). -/
  tiles : Vector (List (BitVec 32)) 4 := Vector.replicate 4 []
  mprog : Vector (BitVec 32) 4 := Vector.replicate 4 0
  bars : Vector Barrier 8 := Vector.replicate 8 {}
  tokens : List Token := []
  /-- Local store (R275). -/
  ls : Mem := []
  /-- Poisoned granules (R344). -/
  lsPoison : List Nat := []
  bays : Vector Bay 4 := Vector.replicate 4 {}
  /-- Capsules of each launch spilled from the core (CAPSTAT.SPILL). -/
  spill : Tab (BitVec 32) := []
  /-- Messages and LSR requests queued for the message slot (R297). -/
  msgs : List Msg := []
  /-- The spill ring (R259). -/
  ring : List RingItem := []
  /-- Messages returned by a full ring, with their targets (R349). -/
  outbox : List (CoreId × RingItem) := []
  asleep : Bool := false
  /-- The context that last ran here, and is zeroed before another (R195). -/
  owner : Option CtxId := none
  /-- Launches whose local-store image has been written here (R20). -/
  imaged : List SeqNo := []
  deriving DecidableEq, Repr

/-- A launch that the Nose has accepted (R188, R192). -/
structure Launch where
  desc : BitVec 1024
  t : TowerId
  q : QueueId
  /-- Physical origin once placed. -/
  origin : Option (Nat × Nat) := none
  /-- Cores and launch slot indices not yet bound. -/
  unbound : List (CoreId × Nat) := []
  /-- Reservations of a gang: physical slots of a core, each with its part of the launch (R199). -/
  resv : List (CoreId × List (SlotId × Nat)) := []
  /-- Every launch slot has been bound (R192). -/
  allBound : Bool := false
  /-- Launch slots that became DONE. -/
  done : List (CoreId × Nat) := []
  /-- Discards not yet counted in DROP, because the priority token's holder bars the write (R225, R261). -/
  drops : Nat := 0
  /-- Capsule population (R256) and engine commands not yet ended (R196). -/
  population : Nat := 0
  commands : Nat := 0
  /-- A gang released under R200 waits until this launch is bound. -/
  behind : Option SeqNo := none
  aborted : Bool := false
  completed : Bool := false
  preempted : Bool := false
  deriving DecidableEq, Repr

/-- A command queue's control block (R190). -/
structure Queue where
  base : Word := 0
  logn : BitVec 4 := 0
  en : Bool := false
  weight : Byte := 1
  cls : BitVec 2 := 1
  ctx : CtxId := 0
  tail : BitVec 32 := 0
  head : BitVec 32 := 0
  lastseq : BitVec 32 := 0
  /-- Ring entries that LAUNCH instructions have reserved (R209). -/
  reserved : Nat := 0
  /-- The record at HEAD is a LAUNCH that has been accepted as this launch (R192). -/
  taking : Option SeqNo := none
  /-- An event for the record at HEAD is on the agenda. -/
  busy : Bool := false
  deriving DecidableEq, Repr

/-- A queued command: the record, and registers and chunk number of a suspended one (R316). -/
structure Cmd where
  rec_ : BitVec 512
  saved : Option (Regs × BitVec 32) := none
  deriving DecidableEq, Repr

/-- A context's record in device control space (R350, R368). -/
structure Ctx where
  save : Word := 0
  part : BitVec 3 := 0
  dcnt : Bool := false
  ptroot : Word := 0
  /-- Pre-emption under way: rotation of its start. -/
  preempting : Option Nat := none
  /-- Engine commands suspended by a pre-emption under way (R316). -/
  owed : List Cmd := []
  /-- Resume under way: cores whose TILES slot has not executed ERET, with that slot (R338). -/
  tilesWait : List (CoreId × SlotId) := []
  deriving DecidableEq, Repr

/-- Tiles and MPROG saved by a cluster controller (R347). -/
structure SavedTiles where
  tiles : Vector (List (BitVec 32)) 4
  mprog : Vector (BitVec 32) 4
  deriving DecidableEq, Repr

/-- A slot of a save block (R350): launch, role (launch slot index; 16 capsule slot; 17 message slot), whether it was RUN, SEQ, SSCR0, the message it serves. -/
structure SavedSlot where
  /-- The physical core and slot it ran on. -/
  was : CoreId × SlotId
  seq : SeqNo
  role : Nat
  run : Bool
  chunkSeq : BitVec 32
  sscr0 : Word
  /-- The visit state: VIS, BAY, OFF, HOPS and FCODE. -/
  vis : Bool
  bay : BitVec 2
  bayOff : BitVec 13
  hops : Byte
  fcode : Byte
  msg : Option Msg
  posted : Posted
  cls : BitVec 2
  deriving DecidableEq, Repr

/-- A launch's part of a core in a save block (R350): logical place, local store, barriers, tiles. -/
structure SavedCore where
  lx : Nat
  ly : Nat
  ls : Mem
  lsPoison : List Nat
  bars : Vector Barrier 8
  bays : Vector Bay 4
  tokens : List Token
  msgs : List Msg
  spill : BitVec 32
  /-- Tiles and MPROG when the cluster controller saved them (R347). -/
  tiles : Option SavedTiles
  /-- The slot that took TILES: launch slot index, or 16 capsule slot, 17 message slot. -/
  tilesRole : Option Nat
  slots : List SavedSlot
  deriving DecidableEq, Repr

/-- The save block of a pre-empted context (R350). [log 27, DESIGN CHOICE] -/
structure Save where
  launches : List SeqNo
  cores : List (SeqNo × SavedCore)
  /-- The spill rings and the outboxes of the cores that the context held, by their old cores (R349). -/
  rings : List (CoreId × List RingItem)
  outboxes : List (CoreId × List (CoreId × RingItem))
  /-- Suspended engine commands with the logical place of ORIG (R316). -/
  cmds : List (Nat × Nat × Cmd)
  deriving DecidableEq, Repr

/-- A fault queue's control block (R341). -/
structure FaultQ where
  base : Word := 0
  logn : BitVec 4 := 4
  en : Bool := false
  irq : Bool := false
  prod : BitVec 32 := 0
  cons : BitVec 32 := 0
  drop : Word := 0
  /-- Records of kind 0 that wait (R341). -/
  wait : List (BitVec 512) := []
  deriving DecidableEq, Repr

/-- An outstanding hold (R339). -/
structure Hold where
  t : TowerId
  hid : BitVec 16
  ctx : CtxId
  /-- Virtual page of 4 KiB. -/
  page : Nat
  deriving DecidableEq, Repr

/-- Why an engine does not step. -/
inductive EPark where
  | ready
  | idle
  /-- Its chunk waits for a grant; true: the command ends there. -/
  | grant
  | held (t : TowerId) (hid : BitVec 16) (fail : Trap)
  /-- A region of its program is loading (R308). -/
  | loading
  deriving DecidableEq, Repr

/-- A copy engine (R304, R311). -/
structure Engine where
  queue : List Cmd := []
  /-- Entries that kicks have reserved (R310). -/
  reserved : Nat := 0
  /-- The running command. -/
  cmd : Option (BitVec 512) := none
  /-- Its program header's REGIONS. -/
  regions : BitVec 16 := 0
  /-- The program is the standard program of its slot, known by its effect (R317). -/
  std : Bool := false
  regs : Regs := {}
  chunk : Chunk := {}
  /-- Arrival bytes of the open chunk (R312). -/
  bytes : Nat := 0
  park : EPark := .idle
  /-- The chunk waits for its grant. -/
  waiting : Bool := false
  num : BitVec 32 := 0
  sqc : Nat := 0
  limBytes : Nat := 65536
  limCount : Nat := 4096
  /-- The open chunk is cut after the current step (R307, CUT). -/
  cutAfter : Bool := false
  /-- The running command is to be suspended when its open chunk has ended (R316). -/
  owed : Bool := false
  deriving DecidableEq, Repr

/-- A tower's engine store (R305). -/
structure EStore where
  bytes : Mem := []
  /-- Program slots that hold their standard program, whose bytes the spec does not give. -/
  std : BitVec 16 := 0x3F
  /-- Regions whose bytes are known because an ELOAD has replaced them (R325). -/
  loaded : BitVec 16 := 0
  /-- Regions in LOADING with the slots whose ELOADs wait, in the order of their grants (R325). -/
  loads : List (BitVec 4 × CoreId × SlotId) := []
  deriving DecidableEq, Repr

/-- Ownership states of a stack (R366). -/
inductive StackState where
  | owned
  | pouring
  | claiming
  | fenced
  deriving DecidableEq, Repr

/-- A stack's owner register (R366); the dies of its ports are its wiring (R365). -/
structure Stack where
  port : Bool := false
  st : StackState := .owned
  epoch : Byte := 0
  rej : Byte := 0
  /-- Number of the grant of the Decant under way (R373). -/
  order : Nat := 0
  /-- Decant under way: issuing core and slot, the port that is to own the stack, the step of R371 that comes next, and the lines written in step 4. -/
  by_ : Option (CoreId × SlotId) := none
  aim : Bool := false
  step : Nat := 0
  lines : Nat := 0
  deriving DecidableEq, Repr

/-- A compute die (R368, R416). -/
structure Die where
  part : BitVec 3 := 0
  tmax : BitVec 12 := 0
  tidx : BitVec 6 := 0
  rosc : BitVec 16 := 0
  cecnt : BitVec 16 := 0
  throt : BitVec 12 := 800
  vmin : BitVec 16 := 0
  alive : Bool := true
  /-- A rail of the die has reached its current limit, or TMAX exceeds THROT: the clock is stretched (R415, R417). -/
  slow : Bool := false
  hot : Bool := false
  deriving DecidableEq, Repr

/-- Recording or replay of a context (R241). -/
structure Journal where
  rec_ : Bool := false
  rpl : Bool := false
  full : Bool := false
  div : Bool := false
  count : BitVec 32 := 0
  /-- Physical frames of the buffer's pages. -/
  frames : List Nat := []
  /-- Records to replay. -/
  total : BitVec 32 := 0
  /-- Instructions of the record in force that have committed already (R243). -/
  part : Nat := 0
  /-- The launch whose JRNL is in force. -/
  seq : SeqNo := 0
  deriving DecidableEq, Repr

/-- A committed line newer than its stack (R280, R298): the stack's bytes, the LLC's where it has been modified, and the core whose L1 holds the committed value as Dirty (none: the LLC holds it). -/
structure Dirty where
  old : BitVec 512
  llc : Option (BitVec 512)
  holder : Option CoreId
  deriving DecidableEq, Repr

/-- A directory entry (R281): sharers by core number, up to three; beyond three a mask of clusters. -/
structure DirEntry where
  sharers : List CoreId := []
  mask : BitVec 128 := 0
  deriving DecidableEq, Repr

/-- A TLB (R290): of a core, of a cluster, or the last-level TLB of a compute die. -/
inductive TlbPlace where
  | core (c : CoreId)
  | cluster (n : Nat)
  | die (d : DieId)
  deriving DecidableEq, Repr

/-- A cached translation (R290): the TLB and the context, page base and log2 size, frame, permissions W X U RP, and the entry it was read from. -/
structure TlbEntry where
  place : TlbPlace
  ctx : CtxId
  base : Nat
  size : Nat
  frame : Nat
  w : Bool
  x : Bool
  u : Bool
  rp : Bool
  entry : Word
  deriving DecidableEq, Repr

/-- A TLB invalidation or range flush under way: issuing slot and what it covers. -/
inductive Pending where
  | tlb (c : CoreId) (k : SlotId) (scope : BitVec 2) (va : Word) (ctx : CtxId)
  deriving DecidableEq, Repr

/-- A range flush under way (R298). -/
structure Flush where
  c : CoreId
  k : SlotId
  kind : BitVec 2
  lines : List Nat
  deriving DecidableEq, Repr

/-- A posted TLP on its way to the host, in order (R391, R399): an agent's write with its host address, or an MSI-X write. -/
inductive PostedTlp where
  | write (a : Agent) (hpa : Nat) (bs : List Byte)
  | msix (addr : Word) (data : BitVec 32)
  deriving DecidableEq, Repr

/-- The host port (R388 to R399). [log 9, DESIGN CHOICE] -/
structure HostPort where
  up : Bool := true
  /-- Lines of device memory that the host holds, and those whose BISnpInv it has not answered (R395). -/
  shared : List Nat := []
  snooped : List Nat := []
  /-- MSI-X table by vector; an unlisted entry is all zero but for its mask bit, which is set. -/
  msix : Tab (BitVec 128) := []
  pending : BitVec 2048 := 0
  /-- MSI-X enable and function mask. -/
  enabled : Bool := false
  fmask : Bool := false
  /-- Posted TLPs in flight, oldest first. -/
  posted : List PostedTlp := []
  deriving DecidableEq, Repr

/-- A package barrier record (R403). -/
structure PkgBar where
  group : BitVec 16 := 0
  master : Byte := 0
  npkg : BitVec 9 := 0
  bmask : Byte := 0
  deriving DecidableEq, Repr

/-- An Ouvken port (R400). -/
structure OPort where
  up : Bool := true
  /-- A flit in error has been asked for again, and the replays of it that have failed. -/
  asked : Bool := false
  fails : Nat := 0
  /-- The sender's replay buffer, oldest flit first. -/
  sent : List Flit := []
  deriving DecidableEq, Repr

/-- The attestation responder (R421): version, capabilities and algorithms agreed. -/
structure Spdm where
  version : Bool := false
  caps : Bool := false
  algs : Bool := false
  deriving DecidableEq, Repr

/-- What the package sends to the outside. [log 97, DESIGN CHOICE] -/
inductive Out where
  /-- An MSI-X write of an entry's address and data. -/
  | msix (addr : Word) (data : BitVec 32)
  /-- A package barrier message to a package: arrival or release (R404). -/
  | pkgArrive (pkg : Byte) (group : BitVec 16) (b : BitVec 3) (gen : Byte)
  | pkgRelease (group : BitVec 16) (b : BitVec 3) (gen : Byte)
  /-- A flit forwarded on a port (R401). -/
  | flit (port : BitVec 4) (f : Flit)
  /-- A flit not accepted, for replay (R400). -/
  | replay (port : BitVec 4)
  /-- The answer to a host read; none: an error or poisoned completion with this status. -/
  | hostRead (data : Option (List Byte)) (status : BitVec 3)
  | hostWrite (status : BitVec 3)
  /-- The answer to a peer. -/
  | peer (pkg : Byte) (data : List Byte) (status : BitVec 3)
  /-- The answer to a register read. -/
  | regRead (x : Word)
  /-- A report through the management interface: 0 thermal trip. -/
  | mgmt (code : Byte)
  /-- An SPDM response: code and payload (R421). -/
  | spdm (code : Byte) (data : List Byte)
  /-- BISnpInv for a line (R395). -/
  | backInvalidate (line : Nat)
  deriving DecidableEq, Repr

/-- Service state of the package (R417, R419 to R421). -/
structure Service where
  pol : BitVec 2 := 0
  lock : Bool := false
  cause : Byte := 0
  num : BitVec 32 := 0
  /-- Thermal trip (R417). -/
  tripped : Bool := false
  /-- Halted by an alarm (R420). -/
  halted : Bool := false
  /-- Keys erased (R420). -/
  erased : Bool := false
  /-- Steps of bring-up that are complete (R414). -/
  boot : Nat := 7
  spdm : Spdm := {}
  deriving DecidableEq, Repr

/-- A commit request (R219): a slot's waiting chunk or an engine's chunk. -/
inductive Request where
  | slot (c : CoreId) (k : SlotId)
  | engine (e : EngineId)
  /-- A DECANT at the base-note arbiter (R371). -/
  | decant (c : CoreId) (k : SlotId) (m : StackId) (d : DieId)
  deriving DecidableEq, Repr

/-- A note arbiter (R362): the top-note arbiter of a cluster, the heart-note arbiter of a tower, the base-note arbiter. -/
inductive Arbiter where
  | top (cl : Nat)
  | heart (t : TowerId)
  | base
  deriving DecidableEq, Repr

/-- The whole package. -/
structure State where
  /-- Which agent moves next: the model's own choice of interleaving, as data. -/
  agenda : List Pick := []
  /-- The agent that executes. -/
  cur : Agent := .none
  /-- Choices that the spec leaves to the device; an empty tape chooses 0. -/
  tape : List Nat := []
  /-- The answer that the event at hand gives to an edge access (R392); none: the tape's choice. -/
  answer : Option Nat := none
  /-- The number of free values taken from Config. -/
  fresh : Nat := 0
  cores : Tab Core := []
  /-- Local package memory as committed (R285). -/
  mem : Mem := []
  dirty : Tab Dirty := []
  /-- Lines that each core's L1 data cache, and each tower's LLC, holds a copy of, newest first (R280). -/
  l1 : Tab (List Nat) := []
  llc : Tab (List Nat) := []
  /-- The directories of the homes, by line (R281). -/
  dir : Tab DirEntry := []
  /-- Poisoned lines, and where the poison lies: 0 L1, 1 LLC, 2 HBM (R344). -/
  poison : Tab (BitVec 3) := []
  tlb : List TlbEntry := []
  /-- Lines held by each cluster's instruction cache: cluster and line, contents (R283). -/
  icache : List (Nat × Nat × BitVec 512) := []
  /-- Rotations since package reset (TURN.ROT), and the cycle of the present rotation, which is the number of the slot that may issue (R21). -/
  rot : Nat := 0
  phase : Nat := 0
  requests : List Request := []
  /-- Arbiters held by grants whose lists are not yet delivered, each with the lines whose copies the host has not yet given up (R364, R395). -/
  arbHeld : List (List Arbiter × List Nat) := []
  /-- Who holds the priority token and who waits for it (R225). -/
  token : Option Request := none
  tokenQ : List Request := []
  queues : Tab Queue := []
  /-- The last launch sequence number issued (R192). -/
  lastSeq : SeqNo := 0
  launches : Tab Launch := []
  /-- Binding credits: core × 256 + tower × 64 + queue (R197). -/
  credits : Tab Int := []
  ctxs : Tab Ctx := []
  saves : Tab Save := []
  faultqs : Tab FaultQ := []
  holds : List Hold := []
  nextHid : BitVec 16 := 0
  engines : Tab Engine := []
  estores : Tab EStore := []
  stks : Tab Stack := []
  dies : Tab Die := []
  /-- Current limits that the Nose has lowered, by rail (R415). -/
  rails : Tab Nat := []
  /-- Links and bond interfaces that sleep (R378). -/
  linksAsleep : BitVec 16 := 0
  /-- Links that wait for a wake retry. -/
  linksWaking : BitVec 16 := 0
  journals : Tab Journal := []
  capsules : Tab Capsule := []
  /-- Messages on the way, by number. -/
  flying : Tab Msg := []
  nextId : Nat := 0
  pendings : Tab Pending := []
  flushes : List Flush := []
  host : HostPort := {}
  /-- Local-store images of kernels, as the loader supplies them, by entry PC: the bytes from LSLO on (R20, R82). -/
  lsImages : Tab (List Byte) := []
  /-- Memory behind the host windows, by host physical address (R285). -/
  hostMem : Mem := []
  /-- Memory of peer packages: package × 2^40 + address (R402). -/
  peerMem : Mem := []
  pkgBars : Tab PkgBar := []
  /-- Arrivals counted by a master: group, barrier, generation, count (R404). -/
  pkgCount : List (BitVec 16 × BitVec 3 × Byte × Nat) := []
  /-- Releases that have come for corners whose gang is saved: context, barrier, generation (R404, R351). -/
  pkgHeld : List (CtxId × BitVec 3 × Byte) := []
  /-- Route table: PORT and V by package (R401). -/
  routes : Tab (BitVec 4 × Bool) := []
  ports : Tab OPort := []
  /-- SLOTINFO.PKG, from the module straps (R414). -/
  pkg : Byte := 0
  svc : Service := {}
  outputs : List Out := []
  deriving DecidableEq, Repr

/-- The machine right after package reset and bring-up (R414). [log 3, DESIGN CHOICE] [log 4, DESIGN CHOICE] [log 7, DESIGN CHOICE] [log 10, DESIGN CHOICE] [log 11, DESIGN CHOICE] -/
def State.reset : State := {}

/-- Why a step stops with a fault. [log 12, DESIGN CHOICE] -/
inductive Fault where
  /-- An arm of exec was evaluated for an agent of another kind than the row concerns (an instruction with no slot or engine as the current agent, an event that names the wrong kind of agent). Raised by the meanings; step never presents such a pick unless the agenda holds one. Safe: the machine has no such event. -/
  | wrongAgent
  deriving DecidableEq, Repr

/-- Why an instruction has no meaning. -/
inductive Refusal where
  /-- Raised by Dispatch.lean for an instruction with no meaning yet. Safe: nothing is claimed of it. -/
  | notModelled (mnemonic : String)
  deriving DecidableEq, Repr

end Sys2Proof.Machine
end

