-- ==== Sys2Proof/Machine/Table.lean ====
section
/-! DEFINITION. Operations over sparse tables, memory in canonical form, speculative bytes, and the byte order of 00_scope.md R3. -/

namespace Sys2Proof.Machine

/-- The entry listed under a number. -/
def Tab.find {α : Type} : Tab α → Nat → Option α
  | [], _ => none
  | (m, x) :: t, n => if n = m then some x else if n < m then none else Tab.find t n

/-- The entry of a number, or the default. -/
def Tab.look {α : Type} (t : Tab α) (d : α) (n : Nat) : α := (Tab.find t n).getD d

/-- The table with an entry set. -/
def Tab.put {α : Type} : Tab α → Nat → α → Tab α
  | [], n, x => [(n, x)]
  | (m, y) :: t, n, x =>
    if n = m then (n, x) :: t else if n < m then (n, x) :: (m, y) :: t else (m, y) :: Tab.put t n x

/-- The table without an entry. -/
def Tab.del {α : Type} (t : Tab α) (n : Nat) : Tab α := t.filter fun e => e.1 != n

/-- Every listed number. -/
def Tab.keys {α : Type} (t : Tab α) : List Nat := t.map (·.1)

/-- The byte at an address. -/
def Mem.byte : Mem → Nat → Byte
  | [], _ => 0
  | (b, x) :: m, a => if a = b then x else if a < b then 0 else Mem.byte m a

/-- Memory with one byte written, in canonical form. -/
def Mem.setByte : Mem → Nat → Byte → Mem
  | [], a, x => if x = 0 then [] else [(a, x)]
  | (b, y) :: m, a, x =>
    if a = b then (if x = 0 then m else (a, x) :: m)
    else if a < b then (if x = 0 then (b, y) :: m else (a, x) :: (b, y) :: m)
    else (b, y) :: Mem.setByte m a x

/-- The canonical form: addresses strictly rising, no zero byte listed. -/
def Mem.wf : Mem → Bool
  | [] => true
  | [(_, x)] => x != 0
  | (a, x) :: (b, y) :: m => x != 0 && decide (a < b) && Mem.wf ((b, y) :: m)

/-- The n bytes from an address. -/
def Mem.bytes (m : Mem) (a n : Nat) : List Byte := (List.range n).map fun i => Mem.byte m (a + i)

/-- Memory with bytes written from an address on. -/
def Mem.setBytes (m : Mem) (a : Nat) : List Byte → Mem
  | [] => m
  | x :: xs => Mem.setBytes (Mem.setByte m a x) (a + 1) xs

/-- The cells of [a, a + n), numbered from 0. -/
def Mem.slice (m : Mem) (a n : Nat) : Mem :=
  m.filterMap fun e => if a ≤ e.1 ∧ e.1 < a + n then some (e.1 - a, e.2) else none

/-- Memory with [a, a + n) replaced by the cells of an image. -/
def Mem.splice (m : Mem) (a n : Nat) (img : Mem) : Mem :=
  m.filter (fun e => decide (e.1 < a)) ++
    (img.filterMap fun e => if e.1 < n then some (a + e.1, e.2) else none) ++
    m.filter (fun e => decide (a + n ≤ e.1))

/-- The number of little-endian bytes (R3). -/
def leNat : List Byte → Nat
  | [] => 0
  | b :: bs => b.toNat + 256 * leNat bs

/-- The n little-endian bytes of a number (R3). -/
def leBytes : Nat → Nat → List Byte
  | 0, _ => []
  | n + 1, x => BitVec.ofNat 8 x :: leBytes n (x / 256)

/-- A little-endian value of n bytes in memory. -/
def Mem.nat (m : Mem) (a n : Nat) : Nat := leNat (Mem.bytes m a n)

/-- Memory with a value of n bytes written. -/
def Mem.setNat (m : Mem) (a n x : Nat) : Mem := Mem.setBytes m a (leBytes n x)

/-- The speculative byte at an address, if one is held. -/
def specByte : List Host.Cell → Nat → Option Byte
  | [], _ => none
  | (b, x) :: m, a => if a = b then some x else if a < b then none else specByte m a

/-- Speculative bytes with one set; a zero byte is listed like any other. -/
def setSpec : List Host.Cell → Nat → Byte → List Host.Cell
  | [], a, x => [(a, x)]
  | (b, y) :: m, a, x =>
    if a = b then (a, x) :: m else if a < b then (a, x) :: (b, y) :: m else (b, y) :: setSpec m a x

def setSpecs (m : List Host.Cell) (a : Nat) : List Byte → List Host.Cell
  | [] => m
  | x :: xs => setSpecs (setSpec m a x) (a + 1) xs

/-- A list with an item added once. -/
def insertOnce {α : Type} [DecidableEq α] (l : List α) (x : α) : List α :=
  if x ∈ l then l else x :: l

/-- The lines (or granules) of 64 bytes that [a, a + n) touches, ascending. -/
def linesOf (a n : Nat) : List Nat :=
  if n = 0 then [] else (List.range ((a + n - 1) / 64 - a / 64 + 1)).map (a / 64 + ·)

/-- The lines that hold speculative bytes, each once, ascending. -/
def specLines (wr : List Host.Cell) : List Nat :=
  (wr.foldl (fun acc e => match acc with
    | l :: ls => if l = e.1 / 64 then l :: ls else (e.1 / 64) :: l :: ls
    | [] => [e.1 / 64]) []).reverse

/-- A field of bits [lo + n - 1 : lo] as a number. -/
def fieldNat {w : Nat} (x : BitVec w) (lo n : Nat) : Nat := (x.toNat >>> lo) % 2 ^ n

/-- A bit vector with bits [lo + n - 1 : lo] replaced. -/
def setField {w : Nat} (x : BitVec w) (lo n v : Nat) : BitVec w :=
  let mask := (BitVec.ofNat w (2 ^ n - 1)) <<< lo
  (x &&& ~~~mask) ||| ((BitVec.ofNat w (v % 2 ^ n)) <<< lo)

/-- A Bool as a bit. -/
def bit (b : Bool) : Nat := if b then 1 else 0

end Sys2Proof.Machine
end

