-- ==== Sys2Proof/Machine/Float.lean ====
section
/-! DEFINITION. Floating-point values as exact numbers, one rounding at the end, and the operations on them (02_number_formats.md R38 to R48, 04 R109 to R114). -/

namespace Sys2Proof.Machine

/-- Exponent and fraction widths of a format (R38). -/
structure Fmt where
  ew : Nat
  fw : Nat
  deriving DecidableEq, Repr

def f16 : Fmt := ⟨5, 10⟩
def bf16 : Fmt := ⟨8, 7⟩
def f32 : Fmt := ⟨8, 23⟩
def f64 : Fmt := ⟨11, 52⟩

/-- The format of MOD [1:0] (R38). -/
def fmtOf (c : Nat) : Fmt :=
  match c % 4 with
  | 0 => f16
  | 1 => bf16
  | 2 => f32
  | _ => f64

def Fmt.width (t : Fmt) : Nat := 1 + t.ew + t.fw
def Fmt.bias (t : Fmt) : Int := 2 ^ (t.ew - 1) - 1
/-- The exponent of the last place of a subnormal. -/
def Fmt.qmin (t : Fmt) : Int := 1 - t.bias - t.fw
def Fmt.expMask (t : Fmt) : Nat := 2 ^ t.ew - 1
def Fmt.signBit (t : Fmt) : Nat := 2 ^ (t.ew + t.fw)
/-- The encoding of +Inf. -/
def Fmt.infBits (t : Fmt) : Nat := t.expMask * 2 ^ t.fw
/-- The canonical NaN (R40). -/
def Fmt.nanBits (t : Fmt) : Nat := t.infBits + 2 ^ (t.fw - 1)
/-- The largest finite magnitude. -/
def Fmt.maxBits (t : Fmt) : Nat := t.infBits - 1

/-- Flags in the bit order of FPSR [4:0] (R30). -/
abbrev Flags := BitVec 5
def flNX : Flags := 1
def flUF : Flags := 2
def flOF : Flags := 4
def flDZ : Flags := 8
def flNV : Flags := 16

/-- A result with the flags it raises. -/
abbrev FpRes := Nat × Flags

/-- An exact value: finite is ± m × 2^e (R39). -/
inductive FpVal where
  | nan (sig : Bool)
  | inf (neg : Bool)
  | fin (neg : Bool) (m : Nat) (e : Int)
  deriving DecidableEq, Repr

/-- The value that an encoding means (R39). -/
def unpack (t : Fmt) (x : Nat) : FpVal :=
  let x := x % 2 ^ t.width
  let neg := x.testBit (t.ew + t.fw)
  let ex := x / 2 ^ t.fw % 2 ^ t.ew
  let fr := x % 2 ^ t.fw
  if ex = t.expMask then
    if fr = 0 then .inf neg else .nan (!fr.testBit (t.fw - 1))
  else if ex = 0 then .fin neg fr t.qmin
  else .fin neg (fr + 2 ^ t.fw) (t.qmin + (ex : Int) - 1)

/-- Whether a discarded part makes the kept integer r one larger (R41). cmp compares the discarded part with one half. -/
def roundsUp (mode : Nat) (neg : Bool) (r : Nat) (cmp : Ordering) (exact : Bool) : Bool :=
  if exact then false
  else match mode % 4 with
    | 0 => match cmp with
      | .gt => true
      | .eq => r.testBit 0
      | .lt => false
    | 1 => false
    | 2 => neg
    | _ => !neg

/-- (m + part) × 2^e as an integer multiple of 2^q: the integer after rounding, and whether it is exact. sticky: a part between 0 and 1 is still to be added to m. -/
def roundAt (mode : Nat) (neg : Bool) (m : Nat) (sticky : Bool) (e q : Int) : Nat × Bool :=
  if q ≤ e then
    let r := m <<< (e - q).toNat
    if sticky then (if roundsUp mode neg r .lt false then r + 1 else r, false) else (r, true)
  else
    let sh := (q - e).toNat
    if Nat.log2 m + 2 < sh then
      let exact := m = 0 ∧ ¬ sticky
      (if roundsUp mode neg 0 .lt exact then 1 else 0, decide exact)
    else
      let r := m >>> sh
      let rem := m % 2 ^ sh
      let half := 2 ^ (sh - 1)
      let cmp := if rem < half then .lt else if half < rem ∨ sticky then .gt else .eq
      let exact := rem == 0 && !sticky
      (if roundsUp mode neg r cmp exact then r + 1 else r, exact)

/-- The result of an overflow in a rounding mode (R42). -/
def overflowBits (t : Fmt) (mode : Nat) (neg : Bool) : Nat :=
  let toInf := match mode % 4 with
    | 0 => true
    | 1 => false
    | 2 => neg
    | _ => !neg
  (if toInf then t.infBits else t.maxBits) + (if neg then t.signBit else 0)

/-- An exact value rounded once (R42, R43): ± (m + part) × 2^e. -/
def roundFp (t : Fmt) (mode : Nat) (neg : Bool) (m : Nat) (e : Int) (sticky : Bool) : FpRes :=
  let sgn := if neg then t.signBit else 0
  if m = 0 ∧ ¬ sticky then (sgn, 0)
  else
    let qu := e + Nat.log2 m - t.fw
    let top : Int := qu + t.fw
    if t.bias + 1 < top then (overflowBits t mode neg, flOF ||| flNX)
    else
      let (ru, _) := roundAt mode neg m sticky e qu
      let tiny := qu + Nat.log2 ru < 1 - t.bias ∨ ru = 0
      let q := max qu t.qmin
      let (r, exact) := roundAt mode neg m sticky e q
      let code := (q - t.qmin).toNat * 2 ^ t.fw + r
      if t.infBits ≤ code then (overflowBits t mode neg, flOF ||| flNX)
      else
        let fl : Flags := if exact then 0 else if tiny then flNX ||| flUF else flNX
        (code + sgn, fl)

/-- NV for a signalling NaN among the operands (R43). -/
def nvOf (vs : List FpVal) : Flags :=
  if vs.any fun v => v = .nan true then flNV else 0

def isNan : FpVal → Bool
  | .nan _ => true
  | _ => false

/-- The canonical NaN, with NV when an operand signals. -/
def nanRes (t : Fmt) (vs : List FpVal) : FpRes := (t.nanBits, nvOf vs)
/-- The result of an invalid operation. -/
def invalid (t : Fmt) : FpRes := (t.nanBits, flNV)

def signed (t : Fmt) (neg : Bool) (x : Nat) : Nat := if neg then x + t.signBit else x

/-- The sum of two finite exact values, as sign, magnitude and exponent; a zero sum has the sign of R42. -/
def exactAdd (mode : Nat) (na : Bool) (ma : Nat) (ea : Int) (nb : Bool) (mb : Nat) (eb : Int) : Bool × Nat × Int :=
  let e := if ma = 0 then eb else if mb = 0 then ea else min ea eb
  let a : Int := (if ma = 0 then 0 else ma <<< (ea - e).toNat : Nat)
  let b : Int := (if mb = 0 then 0 else mb <<< (eb - e).toNat : Nat)
  let x := (if na then -a else a) + (if nb then -b else b)
  if x = 0 then (if na = nb then na else mode % 4 == 2, 0, e)
  else (decide (x < 0), x.natAbs, e)

def negVal : FpVal → FpVal
  | .nan s => .nan s
  | .inf n => .inf (!n)
  | .fin n m e => .fin (!n) m e

/-- A sum of two values (R42, R43). -/
def addVal (t : Fmt) (mode : Nat) (a b : FpVal) : FpRes :=
  match a, b with
  | .nan _, _ => nanRes t [a, b]
  | _, .nan _ => nanRes t [a, b]
  | .inf n, .inf m => if n = m then (signed t n t.infBits, 0) else invalid t
  | .inf n, _ => (signed t n t.infBits, 0)
  | _, .inf n => (signed t n t.infBits, 0)
  | .fin na ma ea, .fin nb mb eb =>
    let (n, m, e) := exactAdd mode na ma ea nb mb eb
    roundFp t mode n m e false

def fpAdd (t : Fmt) (mode x y : Nat) : FpRes := addVal t mode (unpack t x) (unpack t y)
def fpSub (t : Fmt) (mode x y : Nat) : FpRes := addVal t mode (unpack t x) (negVal (unpack t y))

/-- A product (R42, R43). -/
def fpMul (t : Fmt) (mode x y : Nat) : FpRes :=
  let a := unpack t x
  let b := unpack t y
  match a, b with
  | .nan _, _ => nanRes t [a, b]
  | _, .nan _ => nanRes t [a, b]
  | .inf n, .inf m => (signed t (n != m) t.infBits, 0)
  | .inf n, .fin m k _ => if k = 0 then invalid t else (signed t (n != m) t.infBits, 0)
  | .fin m k _, .inf n => if k = 0 then invalid t else (signed t (n != m) t.infBits, 0)
  | .fin na ma ea, .fin nb mb eb => roundFp t mode (na != nb) (ma * mb) (ea + eb) false

/-- The exact product of two values: none when it is invalid (0 × Inf); a NaN operand comes first but for that case (R45). -/
inductive Prod where
  | bad
  | nan
  | inf (neg : Bool)
  | fin (neg : Bool) (m : Nat) (e : Int)

def prodOf (a b : FpVal) : Prod :=
  match a, b with
  | .nan _, _ => .nan
  | _, .nan _ => .nan
  | .inf n, .inf m => .inf (n != m)
  | .inf n, .fin m k _ => if k = 0 then .bad else .inf (n != m)
  | .fin m k _, .inf n => if k = 0 then .bad else .inf (n != m)
  | .fin na ma ea, .fin nb mb eb => .fin (na != nb) (ma * mb) (ea + eb)

/-- x × y + z, rounded once; 0 × Inf is invalid whatever the addend (R42, R45). -/
def fpFma (t : Fmt) (mode x y z : Nat) : FpRes :=
  let a := unpack t x
  let b := unpack t y
  let c := unpack t z
  match prodOf a b with
  | .bad => invalid t
  | .nan => nanRes t [a, b, c]
  | .inf n => match c with
    | .nan _ => nanRes t [c]
    | .inf m => if n = m then (signed t n t.infBits, 0) else invalid t
    | .fin _ _ _ => (signed t n t.infBits, 0)
  | .fin n m e => match c with
    | .nan _ => nanRes t [c]
    | .inf k => (signed t k t.infBits, 0)
    | .fin nc mc ec =>
      let (n, m, e) := exactAdd mode n m e nc mc ec
      roundFp t mode n m e false

/-- A quotient (R42, R43). -/
def fpDiv (t : Fmt) (mode x y : Nat) : FpRes :=
  let a := unpack t x
  let b := unpack t y
  match a, b with
  | .nan _, _ => nanRes t [a, b]
  | _, .nan _ => nanRes t [a, b]
  | .inf _, .inf _ => invalid t
  | .inf n, .fin m _ _ => (signed t (n != m) t.infBits, 0)
  | .fin n _ _, .inf m => (signed t (n != m) 0, 0)
  | .fin na ma ea, .fin nb mb eb =>
    if mb = 0 then (if ma = 0 then invalid t else (signed t (na != nb) t.infBits, flDZ))
    else if ma = 0 then (signed t (na != nb) 0, 0)
    else
      let k := t.fw + 4 + Nat.log2 mb - Nat.log2 ma
      let n := ma <<< k
      roundFp t mode (na != nb) (n / mb) (ea - eb - k) (n % mb != 0)

/-- The integer square root, bit by bit from bit k - 1 down. -/
def isqrtFrom (n : Nat) : Nat → Nat → Nat
  | 0, r => r
  | k + 1, r =>
    let r' := r + 2 ^ k
    if r' * r' ≤ n then isqrtFrom n k r' else isqrtFrom n k r

def isqrt (n : Nat) : Nat := isqrtFrom n (Nat.log2 n / 2 + 1) 0

/-- A square root (R42, R43). -/
def fpSqrt (t : Fmt) (mode x : Nat) : FpRes :=
  let a := unpack t x
  match a with
  | .nan _ => nanRes t [a]
  | .inf n => if n then invalid t else (t.infBits, 0)
  | .fin n m e =>
    if m = 0 then (signed t n 0, 0)
    else if n then invalid t
    else
      let k := 2 * (t.fw + 4) + (if e % 2 = 0 then 0 else 1)
      let m' := m <<< k
      let r := isqrt m'
      roundFp t mode false r ((e - k) / 2) (r * r != m')

/-- Order of two values that are not NaN, with −0 below +0 when strict (R45). -/
def fpKey (strict : Bool) (a : FpVal) (b : FpVal) : Ordering :=
  let num (v : FpVal) (e : Int) : Int := match v with
    | .fin n m x => let k : Int := (m <<< (x - e).toNat : Nat); if n then -k else k
    | _ => 0
  match a, b with
  | .inf n, .inf m => compare (!n) (!m)
  | .inf n, _ => if n then .lt else .gt
  | _, .inf n => if n then .gt else .lt
  | .fin na ma ea, .fin nb mb eb =>
    if ma = 0 ∧ mb = 0 then (if strict then compare (!na) (!nb) else .eq)
    else
      let e := min ea eb
      compare (num (.fin na ma ea) e) (num (.fin nb mb eb) e)
  | _, _ => .eq

/-- minimumNumber and maximumNumber (R45). -/
def fpMinMax (t : Fmt) (isMax : Bool) (x y : Nat) : FpRes :=
  let a := unpack t x
  let b := unpack t y
  let fl := nvOf [a, b]
  match isNan a, isNan b with
  | true, true => (t.nanBits, fl)
  | true, false => (y % 2 ^ t.width, fl)
  | false, true => (x % 2 ^ t.width, fl)
  | false, false =>
    let o := fpKey true a b
    let first := if isMax then o != .lt else o != .gt
    (if first then x % 2 ^ t.width else y % 2 ^ t.width, fl)

/-- A conversion between formats (R46). -/
def fpConv (src dst : Fmt) (mode x : Nat) : FpRes :=
  let a := unpack src x
  match a with
  | .nan _ => nanRes dst [a]
  | .inf n => (signed dst n dst.infBits, 0)
  | .fin n m e => roundFp dst mode n m e false

/-- An exact value rounded to an integer (R47): the integer and whether it is exact. Magnitudes beyond every type are kept beyond every type. -/
def roundInt (mode : Nat) (neg : Bool) (m : Nat) (e : Int) : Int × Bool :=
  if m = 0 then (0, true)
  else if 200 < e then ((if neg then -1 else 1) * 2 ^ 200, true)
  else
    let (r, exact) := roundAt mode neg m false e 0
    (if neg then -(r : Int) else r, exact)

/-- A floating-point value of an integer, rounded once (R48). -/
def fpOfInt (t : Fmt) (mode : Nat) (x : Int) : FpRes :=
  roundFp t mode (decide (x < 0)) x.natAbs 0 false

/-- A value rounded to an integer in its own format (R112): infinities and zeros stay, NX when the value changes. -/
def fpRoundInt (t : Fmt) (mode x : Nat) : FpRes :=
  let a := unpack t x
  match a with
  | .nan _ => nanRes t [a]
  | .inf n => (signed t n t.infBits, 0)
  | .fin n m e =>
    if m = 0 ∨ 0 ≤ e then (x % 2 ^ t.width, 0)
    else
      let (r, exact) := roundAt mode n m false e 0
      ((roundFp t mode n r 0 false).1, if exact then 0 else flNX)

/-- x × 2^k, rounded once (R113). -/
def fpScale (t : Fmt) (mode x : Nat) (k : Int) : FpRes :=
  let a := unpack t x
  match a with
  | .nan _ => nanRes t [a]
  | .inf n => (signed t n t.infBits, 0)
  | .fin n m e => if m = 0 then (signed t n 0, 0) else roundFp t mode n m (e + k) false

/-- A value is a subnormal. -/
def isSubnormal (t : Fmt) (x : Nat) : Bool := x / 2 ^ t.fw % 2 ^ t.ew == 0 && x % 2 ^ t.fw != 0

end Sys2Proof.Machine
end

