-- ==== Sys2Proof/Machine/Place.lean ====
section
/-! DEFINITION. Where things lie in the package (08 R186, R187, 13 R304, 16 R360, R365), and the fields of the records that the spec lays out as bits (08 R188, R193). -/

namespace Sys2Proof.Machine

/-- Mesh coordinates of a core (R186). -/
def coreX (c : CoreId) : Nat := c.toNat % 32
def coreY (c : CoreId) : Nat := c.toNat / 32
def coreAt (x y : Nat) : CoreId := BitVec.ofNat 10 (y * 32 + x)

/-- The tower of a core (R186). -/
def towerOf (c : CoreId) : TowerId :=
  BitVec.ofNat 2 (2 * bit (decide (16 ≤ coreY c)) + bit (decide (16 ≤ coreX c)))

/-- The compute die of a core (R186). -/
def dieOf (c : CoreId) : DieId :=
  BitVec.ofNat 3 (2 * (towerOf c).toNat + bit (decide (8 ≤ coreY c % 16)))

/-- The cluster of a core (R186). -/
def clusterOf (c : CoreId) : Nat := coreY c / 2 * 8 + coreX c / 4

/-- The tower of a compute die (R360). -/
def towerOfDie (d : DieId) : TowerId := BitVec.ofNat 2 (d.toNat / 2)

/-- The tower and die of an engine (R304). -/
def engineTower (e : EngineId) : TowerId := BitVec.ofNat 2 (e.toNat / 32)
def engineDie (e : EngineId) : DieId := BitVec.ofNat 3 (2 * (e.toNat / 32) + e.toNat % 32 / 16)

/-- The die of a stack's port 0 and port 1 (R365). -/
def stackDie0 (m : StackId) : DieId :=
  BitVec.ofNat 3 ([0, 2, 1, 3, 4, 6, 5, 7, 1, 4, 3, 6, 0, 5, 2, 7].getD m.toNat 0)
def stackDie1 (m : StackId) : DieId :=
  BitVec.ofNat 3 ([2, 0, 3, 1, 6, 4, 7, 5, 4, 1, 6, 3, 5, 0, 7, 2].getD m.toNat 0)

/-- The owner die by the owner register (R366). -/
def Stack.owner (k : Stack) (m : StackId) : DieId := if k.port then stackDie1 m else stackDie0 m

/-- STATE of the owner register (R366). -/
def StackState.code : StackState → Nat
  | .owned => 0
  | .pouring => 1
  | .claiming => 2
  | .fenced => 3

/-- The stack of a local physical address (R285). -/
def stackOf (pa : Nat) : StackId := BitVec.ofNat 4 (pa / 2 ^ 36)

/-- Fields of a slot-table entry (R193). -/
def entryState (e : BitVec 128) : Nat := fieldNat e 0 3
def entryCapr (e : BitVec 128) : Bool := e.getLsbD 3
def entryMsgr (e : BitVec 128) : Bool := e.getLsbD 4
def entryQown (e : BitVec 128) : QueueId := e.extractLsb' 8 6
def entryQtwr (e : BitVec 128) : TowerId := e.extractLsb' 14 2
def entryCtx (e : BitVec 128) : CtxId := e.extractLsb' 16 12
def entryLslot (e : BitVec 128) : Nat := fieldNat e 28 4
def entrySeq (e : BitVec 128) : SeqNo := e.extractLsb' 32 32
def entryPc (e : BitVec 128) : Word := (e.extractLsb' 66 62 ++ 0#2 : BitVec 64)

/-- Entry states (R193). -/
def stFree : Nat := 0
def stResv : Nat := 1
def stBound : Nat := 2
def stRun : Nat := 3
def stDone : Nat := 4
def stSaved : Nat := 5

/-- The bits of an entry that R193 lists; the others read zero (R6). -/
def entryMask : BitVec 128 := (BitVec.allOnes 62 ++ 0#2 ++ BitVec.allOnes 56 ++ 0#3 ++ BitVec.allOnes 5 : BitVec 128)

/-- An entry with its STATE replaced. -/
def setEntryState (e : BitVec 128) (st : Nat) : BitVec 128 := setField e 0 3 st

/-- An entry from its fields (R193). -/
def mkEntry (st : Nat) (capr msgr : Bool) (q : QueueId) (t : TowerId) (ctx : CtxId) (lslot : Nat) (seq : SeqNo)
    (pc : Word) : BitVec 128 :=
  (pc.extractLsb' 2 62 ++ 0#2 ++ seq ++ BitVec.ofNat 4 lslot ++ ctx ++ t ++ q ++ 0#3 ++ BitVec.ofBool msgr
    ++ BitVec.ofBool capr ++ BitVec.ofNat 3 st : BitVec 128)

/-- Fields of a launch descriptor (R188). -/
def descEntry (d : BitVec 1024) : Word := d.extractLsb' 0 64
def descParam (d : BitVec 1024) : Word := d.extractLsb' 64 64
def descLw (d : BitVec 1024) : Nat := fieldNat d 128 3
def descLh (d : BitVec 1024) : Nat := fieldNat d 132 3
def descSlots (d : BitVec 1024) : Nat := fieldNat d 136 5
def descCaps (d : BitVec 1024) : Bool := d.getLsbD 144
def descMsg (d : BitVec 1024) : Bool := d.getLsbD 145
def descGang (d : BitVec 1024) : Bool := d.getLsbD 146
def descPin (d : BitVec 1024) : Bool := d.getLsbD 147
def descDiemask (d : BitVec 1024) : BitVec 8 := d.extractLsb' 152 8
def descOx (d : BitVec 1024) : Nat := fieldNat d 160 5
def descOy (d : BitVec 1024) : Nat := fieldNat d 168 5
def descCtx (d : BitVec 1024) : CtxId := d.extractLsb' 192 12
def descPtroot (d : BitVec 1024) : Word := d.extractLsb' 256 64
def descLslo (d : BitVec 1024) : Nat := fieldNat d 320 9
def descLskib (d : BitVec 1024) : Nat := fieldNat d 336 10
def descCapovf (d : BitVec 1024) : Word := d.extractLsb' 384 64
def descCappg (d : BitVec 1024) : Nat := fieldNat d 448 32
def descStrand (d : BitVec 1024) : Word := d.extractLsb' 512 64
def descTrapv (d : BitVec 1024) : Word := d.extractLsb' 576 64
def descCompl (d : BitVec 1024) : Word := d.extractLsb' 640 64
def descAfter (d : BitVec 1024) : SeqNo := d.extractLsb' 704 32
def descAftv (d : BitVec 1024) : Bool := d.getLsbD 736
def descW (d : BitVec 1024) : Nat := 2 ^ descLw d
def descH (d : BitVec 1024) : Nat := 2 ^ descLh d

/-- The descriptor's listed bits; every other bit is RZ (R188). -/
def descMask : BitVec 1024 :=
  [(0, 64), (64, 64), (128, 3), (132, 3), (136, 5), (144, 4), (152, 8), (160, 5), (168, 5), (192, 12), (256, 64),
   (320, 9), (336, 10), (384, 64), (448, 32), (512, 64), (576, 64), (640, 64), (704, 32), (736, 1)].foldl
    (fun m f => m ||| ((BitVec.ofNat 1024 (2 ^ f.2 - 1)) <<< f.1)) 0

/-- The cores of a placed launch, row by row. -/
def Launch.cores (l : Launch) : List CoreId :=
  match l.origin with
  | none => []
  | some (ox, oy) =>
    (List.range (descH l.desc)).flatMap fun y => (List.range (descW l.desc)).map fun x => coreAt (ox + x) (oy + y)

/-- Logical coordinates of a core in a placed launch (R187). -/
def Launch.logical (l : Launch) (c : CoreId) : Nat × Nat :=
  match l.origin with
  | none => (0, 0)
  | some (ox, oy) => (coreX c - ox, coreY c - oy)

/-- The core at logical coordinates. -/
def Launch.at (l : Launch) (x y : Nat) : CoreId :=
  match l.origin with
  | none => 0
  | some (ox, oy) => coreAt (ox + x) (oy + y)

/-- The launch has landing bays (R249). -/
def Launch.capsOk (l : Launch) : Bool :=
  descCaps l.desc && decide (34 ≤ descLskib l.desc) && descCapovf l.desc != 0

/-- The overflow area's capsule slots (R256). -/
def Launch.nslot (l : Launch) : Nat := (descCappg l.desc * 4096 - 64) / 8576

/-- The local-store offset of a landing bay (R249). -/
def Launch.bayOffset (l : Launch) (b : Nat) : Nat := descLslo l.desc * 1024 + b * 0x2140

/-- Sequence numbers: n is at or before last (R192). -/
def seqAtOrBefore (n last : SeqNo) : Bool := decide ((last - n).toNat < 2 ^ 31)

/-- Launch a is older than launch b (R192). -/
def seqOlder (a b : SeqNo) : Bool := decide (1 ≤ (b - a).toNat) && decide ((b - a).toNat < 2 ^ 31)

end Sys2Proof.Machine
end

