-- ==== Sys2Proof/Machine/Look.lean ====
section
/-! DEFINITION. Reading and writing the parts of the state, the registers of the agent that executes, the agenda, and the choices left to the device. -/

namespace Sys2Proof.Machine

def State.core (s : State) (c : CoreId) : Core := s.cores.look {} c.toNat
def State.setCore (s : State) (c : CoreId) (x : Core) : State := { s with cores := s.cores.put c.toNat x }
def Core.slot (x : Core) (k : SlotId) : Slot := x.slots.look {} k.toNat
def Core.setSlot (x : Core) (k : SlotId) (y : Slot) : Core := { x with slots := x.slots.put k.toNat y }
def State.slot (s : State) (c : CoreId) (k : SlotId) : Slot := (s.core c).slot k
def State.setSlot (s : State) (c : CoreId) (k : SlotId) (y : Slot) : State := s.setCore c ((s.core c).setSlot k y)
def State.engine (s : State) (e : EngineId) : Engine := s.engines.look {} e.toNat
def State.setEngine (s : State) (e : EngineId) (x : Engine) : State := { s with engines := s.engines.put e.toNat x }
def State.stack (s : State) (m : StackId) : Stack := s.stks.look {} m.toNat
def State.setStack (s : State) (m : StackId) (x : Stack) : State := { s with stks := s.stks.put m.toNat x }
def State.die (s : State) (d : DieId) : Die := s.dies.look {} d.toNat
def State.setDie (s : State) (d : DieId) (x : Die) : State := { s with dies := s.dies.put d.toNat x }
def State.ctx (s : State) (n : CtxId) : Ctx := s.ctxs.look {} n.toNat
def State.setCtx (s : State) (n : CtxId) (x : Ctx) : State := { s with ctxs := s.ctxs.put n.toNat x }
def queueNo (t : TowerId) (q : QueueId) : Nat := t.toNat * 64 + q.toNat
def State.queue (s : State) (t : TowerId) (q : QueueId) : Queue := s.queues.look {} (queueNo t q)
def State.setQueue (s : State) (t : TowerId) (q : QueueId) (x : Queue) : State :=
  { s with queues := s.queues.put (queueNo t q) x }
def State.faultq (s : State) (t : TowerId) : FaultQ := s.faultqs.look {} t.toNat
def State.setFaultq (s : State) (t : TowerId) (x : FaultQ) : State := { s with faultqs := s.faultqs.put t.toNat x }
def State.estore (s : State) (t : TowerId) : EStore := s.estores.look {} t.toNat
def State.setEstore (s : State) (t : TowerId) (x : EStore) : State := { s with estores := s.estores.put t.toNat x }
def State.journal (s : State) (n : CtxId) : Journal := s.journals.look {} n.toNat
def State.setJournal (s : State) (n : CtxId) (x : Journal) : State := { s with journals := s.journals.put n.toNat x }
def State.pkgBar (s : State) (n : CtxId) : PkgBar := s.pkgBars.look {} n.toNat
def State.launch (s : State) (n : SeqNo) : Option Launch := s.launches.find n.toNat
def State.setLaunch (s : State) (n : SeqNo) (x : Launch) : State := { s with launches := s.launches.put n.toNat x }

/-- An update of a launch, if there is such a launch. -/
def State.modLaunch (s : State) (n : SeqNo) (f : Launch → Launch) : State :=
  match s.launch n with
  | some l => s.setLaunch n (f l)
  | none => s

/-- The launch that a slot is bound to. -/
def State.launchOf (s : State) (c : CoreId) (k : SlotId) : Option Launch := s.launch (entrySeq (s.slot c k).entry)

/-- The registers of the agent that executes: a slot or an engine hart. -/
def State.regs (s : State) : Regs :=
  match s.cur with
  | .slot c k => (s.slot c k).regs
  | .engine e => (s.engine e).regs
  | _ => {}

def State.setRegs (s : State) (r : Regs) : State :=
  match s.cur with
  | .slot c k => s.setSlot c k { s.slot c k with regs := r }
  | .engine e => s.setEngine e { s.engine e with regs := r }
  | _ => s

/-- The open chunk of the agent that executes. -/
def State.chunk (s : State) : Chunk :=
  match s.cur with
  | .slot c k => (s.slot c k).chunk
  | .engine e => (s.engine e).chunk
  | _ => {}

def State.setChunk (s : State) (x : Chunk) : State :=
  match s.cur with
  | .slot c k => s.setSlot c k { s.slot c k with chunk := x }
  | .engine e => s.setEngine e { s.engine e with chunk := x }
  | _ => s

/-- The core of the agent: a slot's own; for an engine, the issuing core ORIG of its command (R309). -/
def State.curCore (s : State) : CoreId :=
  match s.cur with
  | .slot c _ => c
  | .core c => c
  | .engine e => ((s.engine e).cmd.getD 0).extractLsb' 448 10
  | _ => 0

/-- The compute die from which the agent's requests go out (R369). -/
def State.curDie (s : State) : DieId :=
  match s.cur with
  | .engine e => engineDie e
  | _ => dieOf s.curCore

/-- The context of the agent. -/
def State.curCtx (s : State) : CtxId :=
  match s.cur with
  | .slot c k => entryCtx (s.slot c k).entry
  | .engine e => ((s.engine e).cmd.getD 0).extractLsb' 462 12
  | _ => 0

/-- The launch of the agent. -/
def State.curSeq (s : State) : SeqNo :=
  match s.cur with
  | .slot c k => entrySeq (s.slot c k).entry
  | .engine e => ((s.engine e).cmd.getD 0).extractLsb' 480 32
  | _ => 0

/-- The slot of the agent. -/
def State.curSlot (s : State) : SlotId :=
  match s.cur with
  | .slot _ k => k
  | _ => 0

/-- An address CSR keeps bits 63 to 2 (R30, R330). -/
def addrCsr (x : Word) : Word := x &&& ~~~(3#64)

/-- Core cycles since package reset at the agent's turn (CYCLE, R30). [log 96, DESIGN CHOICE] -/
def State.cycle (s : State) : Nat := s.rot * 16 + s.phase

/-- One of n choices that the spec leaves open. [log 2, DESIGN CHOICE] -/
def State.choose (s : State) (n : Nat) : Nat × State :=
  match s.tape with
  | [] => (0, s)
  | x :: t => (x % max n 1, { s with tape := t })

/-- A pick placed on the agenda: last, or as many places earlier as the tape says. [log 1, DESIGN CHOICE] -/
def State.post (s : State) (p : Pick) : State :=
  let (n, s) := s.choose (s.agenda.length + 1)
  let k := s.agenda.length - n
  { s with agenda := s.agenda.take k ++ p :: s.agenda.drop k }

/-- A pick placed on the agenda behind every earlier one of its channel (R361): last, or as many places earlier as the tape says and the channel's order allows. [log 1, DESIGN CHOICE] -/
def State.postAfter (s : State) (same : Pick → Bool) (p : Pick) : State :=
  let (n, s) := s.choose ((s.agenda.reverse.takeWhile fun q => !same q).length + 1)
  let k := s.agenda.length - n
  { s with agenda := s.agenda.take k ++ p :: s.agenda.drop k }

/-- A pick that has to wait goes behind what is not of its channel, in front of the rest of its channel, whose order it keeps (R361, 17 R396). -/
def State.again (s : State) (same : Pick → Bool) (p : Pick) : State :=
  { s with agenda := s.agenda.filter (fun q => !same q) ++ p :: s.agenda.filter same }

def State.postEvent (s : State) (a : Agent) (i : Instr) : State := s.post (.event a i)

/-- The slot's turn placed on the agenda, once. -/
def State.postTurn (s : State) (c : CoreId) (k : SlotId) : State :=
  if .turn c k ∈ s.agenda then s else s.post (.turn c k)

def State.postEturn (s : State) (e : EngineId) : State :=
  if .eturn e ∈ s.agenda then s else s.post (.eturn e)

/-- An event placed on the agenda, once. -/
def State.postOnce (s : State) (a : Agent) (i : Instr) : State :=
  if .event a i ∈ s.agenda then s else s.postEvent a i

/-- A number for a free value, and the state that has used it. [log 2, DESIGN CHOICE] -/
def State.takeFresh (s : State) : Nat × State := (s.fresh, { s with fresh := s.fresh + 1 })

/-- Something sent to the outside. -/
def State.send (s : State) (o : Out) : State := { s with outputs := s.outputs ++ [o] }

/-- Every slot that holds state, in the order of core and slot. -/
def State.allSlots (s : State) : List (CoreId × SlotId) :=
  s.cores.flatMap fun x => x.2.slots.map fun y => (BitVec.ofNat 10 x.1, BitVec.ofNat 4 y.1)

def State.allEngines (s : State) : List EngineId := s.engines.map fun x => BitVec.ofNat 7 x.1

/-- The slot is bound and running (R193). -/
def Slot.isRun (y : Slot) : Bool := entryState y.entry == stRun

/-- A dead-bit position (R72). -/
def deadG (n : BitVec 5) : Nat := n.toNat
def deadV (n : BitVec 4) : Nat := 32 + n.toNat
def deadP (n : BitVec 3) : Nat := 48 + n.toNat
def deadA (n : BitVec 3) : Nat := 56 + n.toNat

/-- A register written: its dead bit is cleared, and the chunk no longer sets it (R72). -/
def State.alive (s : State) (n : Nat) : State :=
  let m : BitVec 64 := ~~~(1#64 <<< n)
  let s := s.setRegs { s.regs with dead := s.regs.dead &&& m }
  s.setChunk { s.chunk with deadSet := s.chunk.deadSet &&& m, written := s.chunk.written ||| ~~~m }

def State.getG (s : State) (n : BitVec 5) : Word := s.regs.g.get n.toFin
def State.setG (s : State) (n : BitVec 5) (x : Word) : State :=
  (s.setRegs { s.regs with g := s.regs.g.set n.toNat x n.isLt }).alive (deadG n)
def State.getV (s : State) (n : BitVec 4) : VWord := s.regs.v.get n.toFin
def State.setV (s : State) (n : BitVec 4) (x : VWord) : State :=
  (s.setRegs { s.regs with v := s.regs.v.set n.toNat x n.isLt }).alive (deadV n)
def State.getA (s : State) (n : BitVec 3) : Word := s.regs.a.get n.toFin
def State.setA (s : State) (n : BitVec 3) (x : Word) : State :=
  (s.setRegs { s.regs with a := s.regs.a.set n.toNat x n.isLt }).alive (deadA n)

/-- A predicate register; P7 reads all ones (R12). -/
def State.getP (s : State) (n : BitVec 3) : Word :=
  if h : n.toNat < 7 then s.regs.p.get ⟨n.toNat, h⟩ else BitVec.allOnes 64
/-- A write of P7 is discarded (R12). -/
def State.setP (s : State) (n : BitVec 3) (x : Word) : State :=
  if h : n.toNat < 7 then (s.setRegs { s.regs with p := s.regs.p.set n.toNat x h }).alive (deadP n) else s

def State.setPc (s : State) (pc : Word) : State := s.setRegs { s.regs with pc := pc }

/-- A supervisor-level agent. -/
def State.priv (s : State) : Bool := s.regs.priv

end Sys2Proof.Machine
end

