-- ==== Sys2Proof/Machine/Link.lean ====
section
/-! DEFINITION. Base-die links and bond interfaces: which of them a flit crosses, and the wake of a sleeping one (16_package_stacks_decant.md R361, R378). -/

namespace Sys2Proof.Machine

/-- The base-die links from one tower to another, along x first (R361): link 0 joins towers 0 and 1, link 1 towers 2 and 3, link 2 towers 0 and 2, link 3 towers 1 and 3. [log 66, DEDUCED] -/
def linksOf (a b : TowerId) : List (BitVec 4) :=
  (if a.getLsbD 0 != b.getLsbD 0 then [if a.getLsbD 1 then 1 else 0] else [])
    ++ (if a.getLsbD 1 != b.getLsbD 1 then [if b.getLsbD 0 then 3 else 2] else [])

/-- The bond interface of a compute die. -/
def bondOf (d : DieId) : BitVec 4 := BitVec.ofNat 4 (8 + d.toNat)

/-- Links and bonds between two cores. -/
def pathOf (a b : CoreId) : List (BitVec 4) :=
  linksOf (towerOf a) (towerOf b) ++ (if dieOf a = dieOf b then [] else [bondOf (dieOf a), bondOf (dieOf b)])

/-- The neighbour of a core by mesh offsets. -/
def stepCore (c : CoreId) (dx dy : Int) : CoreId :=
  coreAt ((coreX c : Int) + dx).toNat ((coreY c : Int) + dy).toNat

/-- The two base dies between which a message travels; none inside one tower (R361). -/
def Msg.way (m : Msg) : Option (TowerId × TowerId) :=
  if towerOf m.src = towerOf m.dst then none else some (towerOf m.src, towerOf m.dst)

/-- An arrival of a message that travels between the same base dies, on the one message channel (R297, R361). -/
def State.sameChannel (s : State) (m : Msg) : Pick → Bool
  | .event (.item id) .activeMessageArrival => match s.flying.find id with
    | some o => m.way.isSome && o.way == m.way
    | none => false
  | _ => false

/-- None of the links sleeps. -/
def State.linksUp (s : State) (ls : List (BitVec 4)) : Bool := ls.all fun l => !s.linksAsleep.getLsbD l.toNat

/-- Flits wait for the sleeping links among these, which wake (R378). -/
def State.wakeLinks (s : State) (ls : List (BitVec 4)) : State :=
  ls.foldl (fun s l =>
    if s.linksAsleep.getLsbD l.toNat && !s.linksWaking.getLsbD l.toNat then s.postOnce (.link l) .linkWake else s) s

/-- The way of the executing agent's requests to a tower: a slot's through the bond of its die; an engine sits on its base die. -/
def State.wayTo (s : State) (t : TowerId) : List (BitVec 4) :=
  match s.cur with
  | .engine e => linksOf (engineTower e) t
  | _ => bondOf (dieOf s.curCore) :: linksOf (towerOf s.curCore) t

end Sys2Proof.Machine
end

