-- ==== Sys2Proof/Machine/Cache.lean ====
section
/-! DEFINITION. The L1 data caches, the last-level caches and the directories of the homes (12_memory_levels_translation.md R275, R276, R280, R281, 09_chunks_and_consistency.md R218): which copies there are, who is recorded as a sharer, and what evictions and write-backs leave in the stacks. The committed bytes themselves are State.mem (R230). -/

namespace Sys2Proof.Machine

/-- Sizes of R275: the sets and ways of a core's L1 and of a tower's LLC, entries of a tower's directory, lines of a cluster's instruction cache. [log 24, PRESUMED] -/
def l1Sets : Nat := 512
def l1Ways : Nat := 8
def llcSets : Nat := 262144
def llcWays : Nat := 16
def dirEntries : Nat := 2097152
def icacheLines : Nat := 2048

/-- The home tower of a line of local memory (R276). -/
def State.homeOf (s : State) (line : Nat) : TowerId :=
  let m := stackOf (64 * line)
  towerOfDie ((s.stack m).owner m)

/-- A line in the chunk's exact write set (R216). -/
def Chunk.holds (x : Chunk) (line : Nat) : Bool := x.wr.any fun e => e.1 / 64 == line

/-- The chunk has read the line, or holds it speculatively. -/
def Chunk.uses (x : Chunk) (line : Nat) : Bool := x.rlines.contains line || x.holds line

def Slot.uses (y : Slot) (line : Nat) : Bool :=
  y.chunk.uses line || (match y.waiting with
    | some w => w.uses line
    | none => false)

/-- A chunk of the core holds the line speculatively (R216). -/
def Core.speculates (x : Core) (line : Nat) : Bool :=
  x.slots.any fun e => e.2.chunk.holds line || (match e.2.waiting with
    | some w => w.holds line
    | none => false)

/-- The core's L1 data cache holds the line (R280, R301). -/
def State.inL1 (s : State) (c : CoreId) (line : Nat) : Bool := (s.l1.look [] c.toNat).contains line

/-- The core still needs its sharer record: its L1 holds the line, or one of its chunks has read or written it (R218). -/
def State.sharesLine (s : State) (c : CoreId) (line : Nat) : Bool :=
  s.inL1 c line || (s.core c).slots.any fun e => e.2.uses line

/-- A directory entry for sharers: exact core numbers for up to three, beyond that a mask of clusters (R281). -/
def mkDirEntry (cs : List CoreId) : DirEntry :=
  if cs.length ≤ 3 then { sharers := cs, mask := 0 }
  else { sharers := [], mask := cs.foldl (fun m c => m ||| (1#128 <<< clusterOf c)) 0 }

/-- One more sharer (R281). -/
def DirEntry.add (e : DirEntry) (c : CoreId) : DirEntry :=
  if e.mask ≠ 0 then { e with mask := e.mask ||| (1#128 <<< clusterOf c) }
  else if e.sharers.contains c then e
  else mkDirEntry (c :: e.sharers)

/-- The home's directory records the core as a sharer of the line: by number, or by its cluster (R218, R281). -/
def State.recorded (s : State) (c : CoreId) (line : Nat) : Bool :=
  match s.dir.find line with
  | some e => e.sharers.contains c || e.mask.getLsbD (clusterOf c)
  | none => false

/-- The directory's record of a line made anew from the cores that still need one. -/
def State.dirRenew (s : State) (line : Nat) : State :=
  match (s.cores.keys.map (BitVec.ofNat 10)).filter fun c => s.sharesLine c line with
  | [] => { s with dir := s.dir.del line }
  | cs => { s with dir := s.dir.put line (mkDirEntry cs) }

/-- Records of a chunk that has ended are released, for lines that the core no longer needs (R218, R223); a mask of clusters stays while any core needs it. -/
def State.releaseLines (s : State) (c : CoreId) (lines : List Nat) : State :=
  lines.foldl (fun s n =>
    match s.dir.find n with
    | none => s
    | some e =>
      if s.sharesLine c n then s
      else if e.mask ≠ 0 then (if s.cores.keys.any fun d => s.sharesLine (BitVec.ofNat 10 d) n then s else { s with dir := s.dir.del n })
      else
        let e : DirEntry := { e with sharers := e.sharers.erase c }
        { s with dir := if e.sharers.isEmpty then s.dir.del n else s.dir.put n e }) s

/-- The lines that a chunk has read or written. -/
def Chunk.lines (x : Chunk) : List Nat := x.rlines ++ specLines x.wr

/-- Poison that lies in one level of the hierarchy moves to another with its line (R345). -/
def State.movePoison (s : State) (line : Nat) (src dst : BitVec 3) : State :=
  match s.poison.find line with
  | some p => if p = src then { s with poison := s.poison.put line dst } else s
  | none => s

/-- The LLC gives up a line: a modified one is written back to its stack (R280). -/
def State.llcEvict (s : State) (t : TowerId) (line : Nat) : State :=
  let s := { s with llc := s.llc.put t.toNat ((s.llc.look [] t.toNat).erase line) }
  match s.dirty.find line with
  | none => s
  | some d => match d.llc with
    | none => s
    | some v =>
      let s := s.movePoison line 1 2
      if d.holder.isNone then { s with dirty := s.dirty.del line } else { s with dirty := s.dirty.put line { d with old := v, llc := none } }

/-- A line enters the LLC of its home; a full set gives up its oldest line. [log 95, DESIGN CHOICE] -/
def State.llcFill (s : State) (line : Nat) : State :=
  let t := s.homeOf line
  let all := s.llc.look [] t.toNat
  if all.contains line then s
  else
    let ways := all.filter fun n => n % llcSets == line % llcSets
    let s := if ways.length < llcWays then s else s.llcEvict t (ways.getLastD 0)
    { s with llc := s.llc.put t.toNat (line :: s.llc.look [] t.toNat) }

/-- A Dirty line goes back to its home LLC (R280). -/
def State.writeBack (s : State) (line : Nat) : State :=
  if s.dirty.any fun e => e.1 == line && e.2.holder.isSome then
    let v : BitVec 512 := BitVec.ofNat 512 (s.mem.nat (64 * line) 64)
    let dirty := s.dirty.map fun (e : Nat × Dirty) => if e.1 = line then (e.1, { e.2 with llc := some v, holder := none }) else e
    (({ s with dirty := dirty }).movePoison line 0 1).llcFill line
  else s

/-- A core's L1 gives up a line: a Dirty one is written back, and the directory keeps its record (R218, R280). -/
def State.l1Evict (s : State) (c : CoreId) (line : Nat) : State :=
  let s := if s.dirty.any fun e => e.1 == line && e.2.holder == some c then s.writeBack line else s
  { s with l1 := s.l1.put c.toNat ((s.l1.look [] c.toNat).erase line) }

/-- A line enters a core's L1; a full set gives up the oldest line that is not speculative (R216, R280). [log 95, DESIGN CHOICE] -/
def State.l1Fill (s : State) (c : CoreId) (line : Nat) : State :=
  if s.inL1 c line then s
  else
    let ways := (s.l1.look [] c.toNat).filter fun n => n % l1Sets == line % l1Sets
    let s := if ways.length < l1Ways then s
      else match (ways.filter fun n => !(s.core c).speculates n).getLast? with
        | some v => s.l1Evict c v
        | none => s
    { s with l1 := s.l1.put c.toNat (line :: s.l1.look [] c.toNat) }

/-- The state with the caches and directories of another. -/
def State.withCaches (s k : State) : State := { s with l1 := k.l1, llc := k.llc, dir := k.dir, dirty := k.dirty, poison := k.poison }

/-- A slot's read or write of a line brings it into the core's L1 through the home, which records the core (R218, R276, R280). -/
def State.share (s : State) (c : CoreId) (line : Nat) : State :=
  let s := (s.llcFill line).l1Fill c line
  { s with dir := s.dir.put line ((s.dir.look {} line).add c) }

/-- The directories of the homes have room for the lines (R275, R281). [log 113, DEDUCED] -/
def State.dirRoom (s : State) (lines : List Nat) : Bool :=
  decide (s.dir.length < dirEntries) || lines.all fun n =>
    (s.dir.find n).isSome || decide ((s.dir.filter fun e => s.homeOf e.1 == s.homeOf n).length < dirEntries)

/-- Lines pass through the caches for the executing agent: a slot's into its L1, an engine's into the LLC. -/
def State.cacheLines (s : State) (lines : List Nat) : State :=
  match s.cur with
  | .slot c _ => s.withCaches (lines.foldl (fun s n => s.share c n) s)
  | .engine _ => s.withCaches (lines.foldl State.llcFill s)
  | _ => s

/-- Lines that have just been committed: newer than their stacks, Dirty in the L1 of a core or modified in the LLC; of a line that another L1 held Dirty, the LLC keeps the value before (R280). -/
def State.dirtied (s : State) (before : Mem) (lines : List Nat) (holder : Option CoreId) : State :=
  lines.foldl (fun s n =>
    let was : BitVec 512 := BitVec.ofNat 512 (before.nat (64 * n) 64)
    let d : Dirty := (s.dirty.find n).getD { old := was, llc := none, holder := none }
    let llc := match holder with
      | some c => if d.holder.isSome && d.holder != some c then some was else d.llc
      | none => some (BitVec.ofNat 512 (s.mem.nat (64 * n) 64))
    { s with dirty := s.dirty.put n { d with llc := llc, holder := holder } }) s

/-- The grant of lines invalidates every L1 copy but that of the committing core, and the directory keeps the cores that still need a record (R221, R280). -/
def State.invalidate (s : State) (lines : List Nat) (keep : Option CoreId) : State :=
  let l1 := s.l1.map fun (e : Nat × List Nat) => if keep.any fun c => c.toNat == e.1 then e else (e.1, e.2.filter fun n => !lines.contains n)
  lines.foldl State.dirRenew { s with l1 := l1 }

/-- The stack takes the committed value of a line, and its poison; copies stay valid and clean (R298). -/
def State.cleanLine (s : State) (line : Nat) : State :=
  let s := { s with dirty := s.dirty.del line }
  (s.movePoison line 0 2).movePoison line 1 2

/-- Lines of an L1 that no chunk of the core holds speculatively. -/
def State.l1Idle (s : State) (c : CoreId) : List Nat :=
  (s.l1.look [] c.toNat).filter fun n => !(s.core c).speculates n

/-- The L1s that may give up a line, and the LLCs. -/
def State.l1Victims (s : State) : List (CoreId × Nat) :=
  s.l1.keys.flatMap fun c => (s.l1Idle (BitVec.ofNat 10 c)).map fun n => (BitVec.ofNat 10 c, n)

def State.llcVictims (s : State) : List (TowerId × Nat) :=
  s.llc.flatMap fun e => e.2.map fun n => (BitVec.ofNat 2 e.1, n)

/-- Every L1 copy of a line is invalidated, a Dirty one written back, and the directory's entry is gone (R281). -/
def State.dropEntry (s : State) (line : Nat) : State :=
  let s := s.writeBack line
  { s with l1 := s.l1.map (fun (e : Nat × List Nat) => (e.1, e.2.filter (· != line))), dir := s.dir.del line }

/-- Every L1 and LLC copy of a line is invalidated (R298). -/
def State.forgetCopies (s : State) (line : Nat) : State :=
  let s := { s with llc := s.llc.map fun (e : Nat × List Nat) => (e.1, e.2.filter (· != line)) }
  s.invalidate [line] none

end Sys2Proof.Machine
end

