-- ==== Sys2Proof/Machine/Chunk.lean ====
section
/-! DEFINITION. What chunks record, when they conflict, and squashing (09_chunks_and_consistency.md R211 to R226, 12 R277 to R279, 01 R8). -/

namespace Sys2Proof.Machine

/-- The multipliers of the signature hash (R215). -/
def sigMul (b : Nat) : Nat :=
  match b with
  | 0 => 0x8F3CA1D56B27E49B
  | 1 => 0xC52E7A931D6FB845
  | 2 => 0xE4A93B71C80D5F27
  | _ => 0xA67D0E59F3B21C83

/-- h_b(A): the bit of bank b that line A sets (R215). -/
def sigHash (b line : Nat) : Nat := (line * sigMul b % 2 ^ 64) >>> 55

/-- The four bits of a line, one in each bank of 512. -/
def sigBits (line : Nat) : BitVec 2048 :=
  (1#2048 <<< sigHash 0 line) ||| (1#2048 <<< (512 + sigHash 1 line)) ||| (1#2048 <<< (1024 + sigHash 2 line))
    ||| (1#2048 <<< (1536 + sigHash 3 line))

/-- The signature may contain the line (R215). -/
def sigHas (sig : BitVec 2048) (line : Nat) : Bool := sig &&& sigBits line == sigBits line

/-- The chunk holds anything: an instruction, a step or a mark. -/
def Chunk.isEmpty (x : Chunk) : Bool := x.len == 0

/-- A range watch covers the line (R217). -/
def Chunk.watched (x : Chunk) (line : Nat) : Bool :=
  x.watches.any fun w => w.spans.any fun p => decide (p.1 / 64 ≤ line) && decide (64 * line < p.2)

/-- The line in a received list squashes the chunk (R222). -/
def Chunk.hitBy (x : Chunk) (line : Nat) : Bool :=
  sigHas x.rsig line || sigHas x.wsig line || x.holds line || x.watched line

/-- A list of committed lines squashes a chunk of a core (R221, R222): through a range watch at the home, or through the list sent to the core if it is recorded as a sharer. -/
def State.listHits (s : State) (lines : List Nat) (c : CoreId) (x : Chunk) : Bool :=
  lines.any fun n => x.watched n || (s.recorded c n && x.hitBy n)

/-- The list squashes an engine's chunk (R311). -/
def Chunk.hit (x : Chunk) (lines : List Nat) : Bool := lines.any x.hitBy

/-- The chunk has a mark on the granule (R277, R175). -/
def Chunk.marks (x : Chunk) (g : Nat) : Bool := x.lsR.contains g || x.lsW.contains g || x.lsA.contains g

/-- Bytes with an undo journal replayed, newest entry first (R223). -/
def undoLs (ls : Mem) : List (Nat × BitVec 512) → Mem
  | [] => ls
  | (g, old) :: rest => undoLs (Mem.setBytes ls (64 * g) (leBytes 64 old.toNat)) rest

/-- The core with a chunk's local store and tiles put back (R223, R161). -/
def Core.undo (x : Core) (k : Chunk) : Core :=
  let x := { x with ls := undoLs x.ls k.undo }
  k.shadows.foldl (fun x sh => { x with
    tiles := x.tiles.set sh.tile.toNat sh.old sh.tile.isLt
    mprog := x.mprog.set sh.tile.toNat sh.mprog sh.tile.isLt }) x

/-- Reservations of a discarded chunk released (R209, R310). -/
def State.unreserve (s : State) (effects : List Deferred) : State :=
  effects.foldl (fun s d => match d with
    | .kick e _ => s.setEngine e { s.engine e with reserved := (s.engine e).reserved - 1 }
    | .launch t q _ => s.setQueue t q { s.queue t q with reserved := (s.queue t q).reserved - 1 }
    | _ => s) s

/-- The squash count after one more squash (R30). -/
def satSucc (n : Byte) : Byte := if n = 255 then 255 else n + 1

/-- EFF after a squash that leaves the count at n (R224). -/
def shrink (n : Byte) (eff : BitVec 13) : BitVec 13 :=
  if 4 ≤ n.toNat then BitVec.ofNat 13 (max 16 (eff.toNat / 2)) else eff

/-- A request for the priority token (R225). -/
def State.askToken (s : State) (r : Request) : State :=
  if s.token = some r ∨ r ∈ s.tokenQ then s
  else ({ s with tokenQ := s.tokenQ ++ [r] }).postEvent .none .priorityTokenGrant

/-- Lines of a discarded chunk: speculative copies leave the L1, and sharer records are released (R223). -/
def State.dropSpeculative (s : State) (c : CoreId) (lost : List Chunk) : State :=
  let k := (lost.flatMap fun x => specLines x.wr).foldl (fun k n => k.l1Evict c n) s
  s.withCaches (k.releaseLines c (lost.flatMap Chunk.lines))

/-- A squash of a slot's open chunk, and of its waiting chunk too when whole (R219, R223, R224, R225, R226). A message slot that is not running loses the chunk of an LSR request, which is served again (R294). -/
def State.squashSlot (s : State) (c : CoreId) (k : SlotId) (whole : Bool) : State :=
  let y := s.slot c k
  let x := (s.core c).undo y.chunk
  let effects := y.chunk.effects
  let (x, chk, waiting, effects, requests) := match y.waiting with
    | some w =>
      if whole then (x.undo w, w.chk, none, effects ++ w.effects, s.requests.filter (· != Request.slot c k))
      else (x, if y.chunk.opened then y.chunk.chk else y.regs, y.waiting, effects, s.requests)
    | none => (x, if y.chunk.opened then y.chunk.chk else y.regs, none, effects, s.requests)
  let n := satSucc y.sqc
  let eff := if whole then y.effWas.getD y.eff else y.eff
  let y := { y with
    regs := chk, chunk := {}, waiting := waiting, cutDue := none, park := .ready, ldas := [], stopDone := false
    awaiting := if y.chunk.eret || (whole && (y.waiting.map (·.eret)).getD false) then none else y.awaiting
    sqc := n, eff := shrink n eff, effWas := if whole then none else y.effWas }
  let lost := (s.slot c k).chunk :: (if whole then ((s.slot c k).waiting.map fun w => [w]).getD [] else [])
  let s := { (s.setCore c (x.setSlot k y)).unreserve effects with requests := requests }
  let s := s.dropSpeculative c lost
  let s := if n = 8 then s.askToken (.slot c k) else s
  let s := if n = 64 then s.postEvent (.slot c k) .livelockWatchdog else s
  if y.isRun then s.postTurn c k
  else (s.setSlot c k { s.slot c k with park := .idle }).postOnce (.core c) .lsrRequestService

/-- A squash of an engine's open or waiting chunk (R311). -/
def State.squashEngine (s : State) (e : EngineId) : State :=
  let x := s.engine e
  let n := x.sqc + 1
  let x := { x with
    regs := if x.chunk.opened then x.chunk.chk else x.regs, chunk := {}, bytes := 0, waiting := false, park := .ready,
    cutAfter := false, sqc := n
    limBytes := if 4 ≤ n then max 4096 (x.limBytes / 2) else x.limBytes
    limCount := if 4 ≤ n then max 256 (x.limCount / 2) else x.limCount }
  let s := { s.setEngine e x with requests := s.requests.filter (· != Request.engine e) }
  let s := if n = 8 then s.askToken (.engine e) else s
  let s := if n = 64 then s.postEvent (.engine e) .engineWatchdog else s
  s.postEturn e

/-- Whether a test picks a slot's waiting chunk (true: squash whole), its open chunk only (false), or neither. -/
def Slot.struck (y : Slot) (test : Chunk → Bool) : Option Bool :=
  match y.waiting with
  | some w => if test w then some true else if test y.chunk then some false else none
  | none => if test y.chunk then some false else none

/-- Every chunk that a test picks is squashed, but for those of the slots and engines passed over. -/
def State.squashWhere (s : State) (test : CoreId → Chunk → Bool) (etest : Chunk → Bool)
    (pass : List Request) : State :=
  let s := s.allSlots.foldl (fun s (c, k) =>
    if Request.slot c k ∈ pass then s else match (s.slot c k).struck (test c) with
      | some whole => s.squashSlot c k whole
      | none => s) s
  s.allEngines.foldl (fun s e =>
    if Request.engine e ∈ pass then s else if etest (s.engine e).chunk then s.squashEngine e else s) s

/-- The holder of the priority token has a chunk that a test picks (R225). -/
def State.tokenHit (s : State) (test : CoreId → Chunk → Bool) (etest : Chunk → Bool) : Bool :=
  match s.token with
  | some (.slot c k) => ((s.slot c k).struck (test c)).isSome
  | some (.engine e) => etest (s.engine e).chunk
  | _ => false

/-- A committed list that would squash the holder's chunk (R225). -/
def State.tokenBars (s : State) (lines : List Nat) : Bool :=
  s.tokenHit (s.listHits lines) (fun x => x.hit lines)

/-- The engine's chunk has read one of the granules of a core, its command's ORIG (R309, R311). -/
def State.engineRead (s : State) (e : EngineId) (c : CoreId) (gs : List Nat) : Bool :=
  let x := s.engine e
  (match x.cmd with
    | some m => m.extractLsb' 448 10 == c
    | none => false) && gs.any fun g => x.chunk.lsR.contains g

/-- The holder of the token is an engine that has read one of the granules. -/
def State.tokenReadsLs (s : State) (c : CoreId) (gs : List Nat) : Bool :=
  match s.token with
  | some (.engine e) => s.engineRead e c gs
  | _ => false

/-- A write to granules of a core from outside that would squash the holder's chunk (R278). -/
def State.tokenBarsLs (s : State) (c : CoreId) (gs : List Nat) : Bool :=
  s.tokenHit (fun c' x => c' == c && gs.any x.marks) (fun _ => false) || s.tokenReadsLs c gs

/-- Engine chunks that have read granules of a core are squashed when they change (R222, R311). -/
def State.squashReaders (s : State) (c : CoreId) (gs : List Nat) : State :=
  s.allEngines.foldl (fun s e => if s.engineRead e c gs then s.squashEngine e else s) s

/-- Waiters on lines of memory are woken (R240, R323). -/
def State.wakeLines (s : State) (lines : List Nat) : State :=
  s.allSlots.foldl (fun s (c, k) => match (s.slot c k).park with
    | .waitv _ false a _ _ => if lines.contains (a / 64) then s.postOnce (.slot c k) .waitvWake else s
    | .await _ false a _ => if lines.contains (a / 64) then s.postOnce (.slot c k) .awaitWake else s
    | _ => s) s

/-- Waiters on granules of a core's local store are woken (R240). -/
def State.wakeGranules (s : State) (c : CoreId) (gs : List Nat) : State :=
  (s.core c).slots.foldl (fun s e =>
    let k : SlotId := BitVec.ofNat 4 e.1
    match e.2.park with
    | .waitv _ true a _ _ => if gs.contains (a / 64) then s.postOnce (.slot c k) .waitvWake else s
    | .await _ true a _ => if gs.contains (a / 64) then s.postOnce (.slot c k) .awaitWake else s
    | _ => s) s

/-- The host's copies of lines in a list are invalidated, and its answers are awaited (R395). [log 60, DEDUCED] -/
def State.snoopHost (s : State) (lines : List Nat) : State :=
  let mine := lines.filter fun n => s.host.shared.contains n
  mine.foldl (fun s n => s.send (.backInvalidate n)) { s with
    host := { s.host with shared := s.host.shared.filter fun n => !mine.contains n, snooped := mine.foldl insertOnce s.host.snooped } }

/-- A committed list delivered by the homes (R221, R222, R395): other copies are invalidated; the chunks of recorded sharers and watchers that used its lines are squashed, and engine chunks; waiters are woken, the host's copy is snooped. -/
def State.deliver (s : State) (lines : List Nat) (keep : Option CoreId) (pass : List Request) : State :=
  if lines.isEmpty then s
  else
    let s := s.squashWhere (s.listHits lines) (fun x => x.hit lines) pass
    ((s.withCaches (s.invalidate lines keep)).wakeLines lines).snoopHost lines

/-- Committed bytes, with the stack's own bytes kept until they are written back, and poison cleared by a whole line (R280, R345). -/
def State.commitBytes (s : State) (pa : Nat) (bs : List Byte) (holder : Option CoreId) : State :=
  let lines := linesOf pa bs.length
  let whole := lines.filter fun n => decide (pa ≤ 64 * n) && decide (64 * n + 64 ≤ pa + bs.length)
  let t := { s with mem := s.mem.setBytes pa bs, poison := whole.foldl (fun p n => p.del n) s.poison }
  t.withCaches (t.dirtied s.mem lines holder)

/-- One access that a stack rejects is counted there (R366, R367). -/
def State.countRejection (s : State) (m : StackId) : State :=
  s.setStack m { s.stack m with rej := satSucc (s.stack m).rej }

/-- One committed write from outside the slots: bytes and their list (R229); a FENCED stack rejects it and keeps its bytes (R367). -/
def State.commitWrite (s : State) (pa : Nat) (bs : List Byte) (holder : Option CoreId) : State :=
  if (s.stack (stackOf pa)).st = .fenced then s.countRejection (stackOf pa)
  else (s.commitBytes pa bs holder).deliver (linesOf pa bs.length) holder []

/-- Lines that a copy has written keep the poison of what it copied (R345): they lie in the LLC. -/
def State.spoilLines (s : State) (lines : List Nat) : State := { s with poison := lines.foldl (fun p n => p.put n 1) s.poison }

/-- The same of granules of a local store. -/
def State.spoilGranules (s : State) (c : CoreId) (gs : List Nat) : State :=
  if gs.isEmpty then s else s.setCore c { s.core c with lsPoison := gs.foldl insertOnce (s.core c).lsPoison }

/-- A committed write to a core's local store from outside its own open chunks (R278). [log 89, DEDUCED] -/
def State.lsOutside (s : State) (c : CoreId) (off : Nat) (bs : List Byte) : State :=
  let gs := linesOf off bs.length
  let s := (s.squashWhere (fun c' x => c' == c && gs.any x.marks) (fun _ => false) []).squashReaders c gs
  let x := s.core c
  let whole := gs.filter fun n => decide (off ≤ 64 * n) && decide (64 * n + 64 ≤ off + bs.length)
  let s := s.setCore c { x with ls := x.ls.setBytes off bs, lsPoison := x.lsPoison.filter fun g => !whole.contains g }
  s.wakeGranules c gs

/-- A recall (R218, R281): every open chunk that has read the line or holds it speculatively is squashed, and every L1 copy goes. -/
def State.recall (s : State) (line : Nat) : State :=
  let s := s.squashWhere (fun _ x => x.uses line) (fun _ => false) []
  s.withCaches (s.dropEntry line)

/-- The lines that a cuckoo insertion may recall: those of a directory whose four candidate positions can all be full, but for the lines of the priority token's holder (R225, R281). [log 113, DEDUCED] -/
def State.recallable (s : State) : List Nat :=
  s.dir.keys.filter fun n =>
    decide (4 ≤ (s.dir.filter fun e => s.homeOf e.1 == s.homeOf n).length) && !s.tokenHit (fun _ x => x.uses n) (fun _ => false)

/-- The caches work: an L1 or an LLC gives up a line, or a directory recalls one, or nothing happens, as the tape says; a directory without room recalls (R218, R280, R281). [log 113, DEDUCED] [log 95, DESIGN CHOICE] -/
def State.cachesStep (s : State) : State :=
  let (n, s) := s.choose 4
  if n = 3 ∨ dirEntries ≤ s.dir.length then
    let all := s.recallable
    let (i, s) := s.choose all.length
    match all[i]? with
    | some line => s.recall line
    | none => s
  else if n = 1 then
    let all := s.l1Victims
    let (i, s) := s.choose all.length
    match all[i]? with
    | some (c, line) => s.withCaches (s.l1Evict c line)
    | none => s
  else if n = 2 then
    let all := s.llcVictims
    let (i, s) := s.choose all.length
    match all[i]? with
    | some (t, line) => s.withCaches (s.llcEvict t line)
    | none => s
  else s

/-- The chunk opens: checkpoint, age, and a TARGET written meanwhile comes into force (R211, R212, R224). -/
def State.openChunk (s : State) (c : CoreId) (k : SlotId) : State :=
  let y := s.slot c k
  if y.chunk.opened then s
  else
    let eff := if y.regs.targetNew then y.regs.target else y.eff
    let regs := { y.regs with targetNew := false }
    s.setSlot c k { y with
      regs := regs, eff := eff, effWas := if y.regs.targetNew && y.waiting.isSome then some y.eff else y.effWas
      chunk := { y.chunk with chk := regs, start := s.rot * 16 + k.toNat, opened := true } }

/-- A new, empty chunk begins at the slot's present state; the last-read hints of an instruction that ran in no chunk take effect (R72). -/
def State.freshChunk (s : State) (c : CoreId) (k : SlotId) : State :=
  let y := s.slot c k
  s.setSlot c k { y with regs := { y.regs with dead := y.regs.dead ||| y.chunk.deadSet }, chunk := {} }

/-- D0 to D3 are all zero (R123). -/
def Slot.dZero (y : Slot) : Bool := y.regs.d.toList.all (· == 0)

/-- The slot can cut its open chunk now: no LDA is outstanding and no earlier chunk waits (R123, R219). -/
def Slot.canCut (y : Slot) : Bool := y.dZero && y.waiting.isNone

/-- Nothing precedes the next instruction in its chunk, and every earlier chunk is granted. -/
def Slot.alone (y : Slot) : Bool := y.chunk.isEmpty && y.waiting.isNone

/-- The open chunk is cut and requests commit; the slot may be parked until the grant (R214, R219). -/
def State.cutChunk (s : State) (c : CoreId) (k : SlotId) (code : Byte) (after : Option After) : State :=
  let y := s.slot c k
  let y := { y with
    cut := code, waiting := some y.chunk, chunk := {}, cutDue := none
    park := match after with
      | some a => .grant a
      | none => .ready }
  let s := { s.setSlot c k y with requests := s.requests ++ [Request.slot c k] }
  s.postEvent .none .commitGrant

/-- A slot made ready, with a turn to come. -/
def State.wake (s : State) (c : CoreId) (k : SlotId) : State :=
  (s.setSlot c k { s.slot c k with park := .ready }).postTurn c k

/-- Whether one chunk of a core is older than another: the token's holder first, then the earlier start, then the lower slot (R216, R225). -/
def State.older (s : State) (c : CoreId) (k k' : SlotId) (a b : Nat) : Bool :=
  if s.token = some (.slot c k) then true
  else if s.token = some (.slot c k') then false
  else decide (a < b) || (decide (a = b) && decide (k.toNat < k'.toNat))

def Core.tile (x : Core) (n : BitVec 2) : List (BitVec 32) := x.tiles.get n.toFin
def Core.mprogOf (x : Core) (n : BitVec 2) : BitVec 32 := x.mprog.get n.toFin

/-- A conflict inside a core: the chunks of other slots that a test picks against the slot's open chunk. The younger of each two is squashed; false: the slot itself lost (R8, R216, R277). -/
def State.contend (s : State) (c : CoreId) (k : SlotId) (test : Chunk → Bool) : State × Bool :=
  let mine := (s.slot c k).chunk.start
  let rivals := (s.core c).slots.filterMap fun e =>
    let k' : SlotId := BitVec.ofNat 4 e.1
    if k' = k then none else
    match e.2.struck test with
    | some whole =>
      let start := if whole then (e.2.waiting.getD {}).start else e.2.chunk.start
      some (k', whole, start)
    | none => none
  if rivals.any fun (k', _, start) => s.older c k' k start mine then (s.squashSlot c k false, false)
  else (rivals.foldl (fun s (k', whole, _) => s.squashSlot c k' whole) s, true)

/-- An access of a slot's open chunk to a tile (R8, R161): the younger of two conflicting chunks is squashed, and a first write saves the tile and its MPROG; false: the slot itself lost. -/
def State.markTile (s : State) (c : CoreId) (k : SlotId) (n : BitVec 2) (write : Bool) : State × Bool :=
  let r := s.contend c k fun x => x.tileW.getLsbD n.toNat || (write && x.tileR.getLsbD n.toNat)
  if !r.2 then r
  else
    let y := r.1.slot c k
    let x := y.chunk
    let m : BitVec 4 := 1#4 <<< n.toNat
    let sh := if write && !x.tileW.getLsbD n.toNat then
      [{ tile := n, old := (r.1.core c).tile n, mprog := (r.1.core c).mprogOf n : Shadow }] else []
    (r.1.setSlot c k { y with chunk := { x with
      tileR := if write then x.tileR else x.tileR ||| m
      tileW := if write then x.tileW ||| m else x.tileW
      shadows := sh ++ x.shadows } }, true)

/-- The progress of a stopped step written to its register (R135, R162); false: the slot lost a conflict over the tile. -/
def State.showProgress (s : State) (c : CoreId) (k : SlotId) (p : Option Progress) : State × Bool :=
  match p with
  | none => (s, true)
  | some ⟨none, v⟩ => (s.setSlot c k { s.slot c k with regs := { (s.slot c k).regs with vprog := v } }, true)
  | some ⟨some n, v⟩ =>
    let r := s.markTile c k n true
    if !r.2 then r
    else (r.1.setCore c { r.1.core c with mprog := (r.1.core c).mprog.set n.toNat v n.isLt }, true)

end Sys2Proof.Machine
end

