-- ==== Sys2Proof/Machine/Report.lean ====
section
/-! DEFINITION. Fault records, fault queues and interrupts (14_faults_preemption.md R340, R341, 17 R399). -/

namespace Sys2Proof.Machine

/-- The fields of a fault record (R340); TOWER and NUM are set when it is written. -/
structure FaultRec where
  cause : Byte
  sub : Byte := 0
  kind : Nat
  dbl : Bool := false
  disc : Bool := false
  eng : Bool := false
  ni : Bool := false
  core : Nat := 0
  slot : Nat := 0
  lvl : Nat := 0
  ctx : CtxId := 0
  lseq : SeqNo := 0
  hid : BitVec 16 := 0
  va : Word := 0
  pc : Word := 0
  entry : Word := 0

/-- The 512 bits of a record for a tower's queue. -/
def FaultRec.bits (r : FaultRec) (t : TowerId) : BitVec 512 :=
  (0#160 ++ 0#32 ++ r.entry ++ r.pc ++ r.va ++ 0#14 ++ t ++ r.hid ++ r.lseq ++ 0#4 ++ r.ctx ++ 0#7
    ++ BitVec.ofNat 3 r.lvl ++ BitVec.ofNat 4 r.slot ++ BitVec.ofNat 10 r.core ++ BitVec.ofBool r.ni
    ++ BitVec.ofBool r.eng ++ BitVec.ofBool r.disc ++ BitVec.ofBool r.dbl ++ BitVec.ofNat 4 r.kind ++ r.sub ++ r.cause
    : BitVec 512)

/-- An MSI-X table entry; an entry never written is masked. -/
def HostPort.entry (h : HostPort) (v : Nat) : BitVec 128 := h.msix.look (1#128 <<< 96) v

/-- A posted TLP reaches the host (R391, R399). -/
def State.landTlp (s : State) (p : PostedTlp) : State :=
  match p with
  | .write _ a bs => { s with hostMem := s.hostMem.setBytes a bs }
  | .msix a d => s.send (.msix a d)

/-- MSI-X writes with no posted write before them leave at once (R399). -/
def State.landMsix (s : State) : List PostedTlp → State
  | .msix a d :: rest => ({ s with host := { s.host with posted := rest } }.landTlp (.msix a d)).landMsix rest
  | rest => { s with host := { s.host with posted := rest } }

/-- Every posted TLP reaches the host: what is not posted does not pass it (R391, 18 R407). -/
def State.landAll (s : State) : State := (s.host.posted.foldl State.landTlp s |> fun t => { t with host := { t.host with posted := [] } })

/-- A posted TLP leaves behind every earlier one (R391, R399). -/
def State.sendTlp (s : State) (p : PostedTlp) : State := s.landMsix (s.host.posted ++ [p])

/-- Interrupt v raised: pending while masked or disabled, else posted behind every earlier posted write (R399). -/
def State.interrupt (s : State) (v : Nat) : State :=
  let e := s.host.entry v
  if e.getLsbD 96 || s.host.fmask || !s.host.enabled || !s.host.up then
    { s with host := { s.host with pending := s.host.pending ||| (1#2048 <<< v) } }
  else s.sendTlp (.msix (e.extractLsb' 0 64) (e.extractLsb' 64 32))

/-- The capacity of a fault queue (R341). -/
def FaultQ.size (q : FaultQ) : Nat := 2 ^ max 4 q.logn.toNat

def FaultQ.isFull (q : FaultQ) : Bool := (q.prod - q.cons).toNat == q.size

/-- The address of record k of a fault queue. -/
def FaultQ.slotAt (q : FaultQ) (k : BitVec 32) : Nat := q.base.toNat + 64 * (k.toNat % q.size)

/-- One record written at PROD (R341). [log 32, DEDUCED] -/
def State.writeRecord (s : State) (t : TowerId) (r : BitVec 512) : State :=
  let q := s.faultq t
  let r := setField r 320 32 q.prod.toNat
  let s := s.commitWrite (q.slotAt q.prod) (leBytes 64 r.toNat) none
  let s := s.setFaultq t { s.faultq t with prod := q.prod + 1 }
  if q.irq then s.interrupt t.toNat else s

/-- A record sent to a tower's fault queue: written, or waiting (kind 0, or behind the token's holder), or dropped (R341). -/
def State.report (s : State) (t : TowerId) (r : FaultRec) : State :=
  let q := s.faultq t
  let b := r.bits t
  if !q.en || q.isFull then
    if r.kind = 0 then s.setFaultq t { q with wait := q.wait ++ [b] }
    else s.setFaultq t { q with drop := q.drop + 1 }
  else if s.tokenBars (linesOf (q.slotAt q.prod) 64) then
    (s.setFaultq t { q with wait := q.wait ++ [b] }).postOnce (.tower t) .faultRecordDeferredWrite
  else s.writeRecord t b

/-- A context's record that a slot caused. -/
def State.slotRec (s : State) (c : CoreId) (k : SlotId) (cause : Byte) (kind : Nat) : FaultRec :=
  let e := (s.slot c k).entry
  { cause := cause, kind := kind, core := c.toNat, slot := k.toNat, ctx := entryCtx e, lseq := entrySeq e
    pc := (s.slot c k).regs.pc }

end Sys2Proof.Machine
end

