-- ==== Sys2Proof/Machine/Walk.lean ====
section
/-! DEFINITION. Virtual addresses, the page-table walk, replica pages and cached translations (12_memory_levels_translation.md R284 to R291), and holds (14 R339). -/

namespace Sys2Proof.Machine

/-- Kinds of access for translation. -/
inductive Kind where
  | read
  | write
  | fetch
  deriving DecidableEq, Repr

def Kind.isWrite (k : Kind) : Bool := k == .write
def Kind.isFetch (k : Kind) : Bool := k == .fetch

/-- Where the local window lies (R27). -/
def windowBase : Nat := 0xFFFFFF8000000000
def windowEnd : Nat := 0xFFFFFF8000080000

def inWindow (va : Word) : Bool := decide (windowBase ≤ va.toNat) && decide (va.toNat < windowEnd)

/-- Bits 63 to 57 equal bit 56 (R284). -/
def canonical (va : Word) : Bool :=
  va.extractLsb' 56 8 == 0 || va.extractLsb' 56 8 == BitVec.allOnes 8

/-- A present leaf: frame, log2 of the page size, effective permissions, level, entry (R287). -/
structure Leaf where
  frame : Nat
  size : Nat
  w : Bool
  x : Bool
  u : Bool
  rp : Bool
  lvl : Nat
  entry : Word
  deriving DecidableEq, Repr

/-- How a walk ends (R287). -/
inductive Walk where
  | leaf (l : Leaf)
  | held (lvl : Nat) (entry : Word)
  | absent (lvl : Nat) (malformed : Bool) (entry : Word)
  deriving DecidableEq, Repr

/-- An address in local package memory (R285). -/
def isLocal (pa : Nat) : Bool := decide (pa < 2 ^ 40)

/-- A frame of a replica record: valid bit and address (R289). -/
def replicaFrame (r : BitVec 512) (k : Nat) : Option Nat :=
  if r.getLsbD (64 * k) then some (fieldNat r (64 * k + 12) 40 * 4096) else none

/-- The bits of a replica record that must be 0 (R289). -/
def replicaRz : BitVec 512 :=
  [0, 1, 2, 3].foldl (fun m k => m ||| (0xFFE#512 <<< (64 * k)) ||| ((0xFFF#512 <<< 52) <<< (64 * k))) 0
    ||| ((BitVec.ofNat 512 (2 ^ 192 - 1)) <<< 320)

/-- The copy that a reader of a tower takes, or none for a malformed record (R289). -/
def State.chooseCopy (s : State) (t : TowerId) (at_ size : Nat) : Option Nat :=
  let r : BitVec 512 := BitVec.ofNat 512 (s.mem.nat at_ 64)
  let copies := (List.range 4).filterMap (replicaFrame r)
  let ok := copies.all fun p => p % 2 ^ size == 0 && decide (p < 2 ^ 48)
  if r &&& replicaRz != 0 || !r.getLsbD 0 || !ok then none
  else
    let near := copies.find? fun p => isLocal p && towerOfDie ((s.stack (stackOf p)).owner (stackOf p)) == t
    match near with
    | some p => some p
    | none => match copies.find? isLocal with
      | some p => some p
      | none => copies.head?

/-- An entry of a table in local memory; a table elsewhere holds none that is present (R287). [log 21, DESIGN CHOICE] -/
def State.tableEntry (s : State) (table i : Nat) : Word := if isLocal table then BitVec.ofNat 64 (s.mem.nat (table + 8 * i) 8) else 0

/-- The walk of R287 from a level down; committed entries are read through the home. Of the sixteen entries of a 64 KiB page any one may be used (R288). [log 23, DESIGN CHOICE] -/
def State.walk (s : State) (t : TowerId) (va : Word) : List Nat → Nat → Bool → Bool → Bool → Walk
  | [], _, _, _, _ => .absent 0 true 0
  | lvl :: rest, table, w, x, u =>
    let i := fieldNat va (12 + 9 * lvl) 9
    let first := s.tableEntry table i
    let e := if lvl == 0 && first.getLsbD 0 && first.getLsbD 53 then
        s.tableEntry table (i / 16 * 16 + (Config.freeGroup va.toNat s.rot).toNat)
      else first
    if !e.getLsbD 0 then (if e.getLsbD 1 then .held lvl e else .absent lvl false e)
    else if e.extractLsb' 54 10 != 0 || (e.getLsbD 53 && lvl != 0) then .absent lvl true e
    else
      let w := w && e.getLsbD 2
      let x := x && e.getLsbD 3
      let u := u && e.getLsbD 4
      let addr := fieldNat e 6 46 * 64
      if !e.getLsbD 52 then
        if lvl == 0 || e.getLsbD 5 || addr % 4096 != 0 then .absent lvl true e
        else s.walk t va rest addr w x u
      else if decide (2 < lvl) then .absent lvl true e
      else
        let size := if e.getLsbD 53 then 16 else 12 + 9 * lvl
        let frame := if e.getLsbD 5 then (if isLocal addr then s.chooseCopy t addr size else none) else some addr
        match frame with
        | none => .absent lvl true e
        | some f =>
          if f % 2 ^ size != 0 then .absent lvl true e
          else .leaf { frame := f, size := size, w := w, x := x, u := u, rp := e.getLsbD 5, lvl := lvl, entry := e }

/-- The walk from the top level (R284). -/
def State.walkTop (s : State) (t : TowerId) (ptroot : Word) (va : Word) : Walk :=
  s.walk t va [4, 3, 2, 1, 0] ptroot.toNat true true true

/-- TRAPINFO of a Protection fault (R332). -/
def protInfo (k : Kind) (user addrReason : Bool) : Word :=
  BitVec.ofNat 64 (bit k.isWrite + 2 * bit k.isFetch + 4 * bit user + 8 * bit addrReason)

def protTrap (k : Kind) (user addrReason : Bool) (va entry : Word) : Trap :=
  { cause := 0x07, addr := va, info := protInfo k user addrReason, entry := entry }

/-- TRAPINFO of Page Not Present (R332). -/
def absentTrap (k : Kind) (lvl : Nat) (malformed : Bool) (va entry : Word) : Trap :=
  { cause := 0x06, addr := va, entry := entry
    info := BitVec.ofNat 64 (lvl + 8 * bit malformed + 16 * bit k.isFetch + 32 * bit k.isWrite) }

/-- Where a translation leads. -/
inductive Xl where
  | ok (pa : Nat) (l : Leaf)
  | trap (t : Trap)
  | held (lvl : Nat) (entry : Word)
  deriving DecidableEq, Repr

/-- The regions that no access may reach: reserved, or device control on a user page (R285). -/
def badRegion (pa : Nat) (u : Bool) : Bool :=
  let r := pa / 2 ^ 40
  (decide (0x100 ≤ r) && decide (r < 0x400)) || (decide (0x800 ≤ r) && decide (r < 0xFFF)) || (r == 0xFFF && u)

/-- The checks at a leaf (R287): user, write, fetch, replica, region. -/
def checkLeaf (l : Leaf) (va : Word) (k : Kind) (user testUx : Bool) : Xl :=
  let pa := l.frame + va.toNat % 2 ^ l.size
  if (testUx && user && !l.u) || (k.isWrite && !l.w) || (testUx && k.isFetch && !l.x) then
    .trap (protTrap k user false va l.entry)
  else if l.rp && k.isWrite then .trap { cause := 0x08, addr := va, info := BitVec.ofNat 64 l.lvl, entry := l.entry }
  else if badRegion pa l.u then .trap (protTrap k user true va l.entry)
  else .ok pa l

/-- A translation by walking (R287). -/
def State.xlateWalk (s : State) (t : TowerId) (ptroot va : Word) (k : Kind) (user testUx : Bool) : Xl :=
  match s.walkTop t ptroot va with
  | .held lvl e => .held lvl e
  | .absent lvl m e => .trap (absentTrap k lvl m va e)
  | .leaf l => checkLeaf l va k user testUx

/-- The TLBs that the agent's translations pass through, nearest first (R290). -/
def State.tlbPlaces (s : State) : List TlbPlace :=
  match s.cur with
  | .slot c _ => [.core c, .cluster (clusterOf c), .die (dieOf c)]
  | .engine e => [.die (engineDie e)]
  | _ => []

/-- Entries of a TLB (R290). -/
def TlbPlace.size (p : TlbPlace) : Nat :=
  match p with
  | .core _ => 64
  | .cluster _ => 1024
  | .die _ => 4096

/-- The agent's cached translations that cover the address (R290). -/
def State.tlbHits (s : State) (ctx : CtxId) (va : Word) : List TlbEntry :=
  s.tlb.filter fun e => s.tlbPlaces.contains e.place && e.ctx == ctx && e.base == va.toNat / 2 ^ e.size

def TlbEntry.leaf (e : TlbEntry) : Leaf :=
  { frame := e.frame, size := e.size, w := e.w, x := e.x, u := e.u, rp := e.rp
    lvl := if e.size = 30 then 2 else if e.size = 21 then 1 else 0, entry := e.entry }

/-- A translation put into a TLB in place of one of the same page; a full TLB gives up its oldest (R290). [log 95, DESIGN CHOICE] -/
def tlbPut (tlb : List TlbEntry) (e : TlbEntry) : List TlbEntry :=
  let tlb := tlb.filter fun o => !(o.place == e.place && o.ctx == e.ctx && o.size == e.size && o.base == e.base)
  let mine := tlb.filter fun o => o.place == e.place
  e :: (if mine.length < e.place.size then tlb else match mine.getLast? with
    | some old => tlb.erase old
    | none => tlb)

/-- A present translation cached in TLBs (R290). -/
def State.tlbAdd (s : State) (places : List TlbPlace) (ctx : CtxId) (va : Word) (l : Leaf) : State :=
  { s with tlb := places.foldl (fun tlb p => tlbPut tlb
    { place := p, ctx := ctx, base := va.toNat / 2 ^ l.size, size := l.size, frame := l.frame, w := l.w, x := l.x, u := l.u
      rp := l.rp, entry := l.entry }) s.tlb }

/-- Whether requests of a die reach a stack: true; park while it is handed over; or a rejection (R367, R369, R371). -/
inductive Reach where
  | yes
  | park
  | reject
  deriving DecidableEq, Repr

def State.reach (s : State) (d : DieId) (m : StackId) : Reach :=
  let k := s.stack m
  match k.st with
  | .owned => if (s.die d).part = (s.die (k.owner m)).part then .yes else .reject
  | .fenced => .reject
  | _ => .park

/-- The tables, and the replica record, that a walk reads (R287, R289), for the ownership check of R367. -/
def State.walkReads (s : State) (va : Word) : List Nat → Nat → List Nat
  | [], _ => []
  | lvl :: rest, table =>
    let at_ := table + 8 * fieldNat va (12 + 9 * lvl) 9
    if !isLocal table then []
    else
      let e : Word := BitVec.ofNat 64 (s.mem.nat at_ 8)
      let next := fieldNat e 6 46 * 64
      if !e.getLsbD 0 then [at_]
      else if !e.getLsbD 52 then at_ :: s.walkReads va rest next
      else if e.getLsbD 5 && isLocal next then [at_, next]
      else [at_]

/-- The first stack on the way of a walk that its reads do not reach, for a requester on a die (R367, R369, R372). -/
def State.walkStop (s : State) (d : DieId) (ptroot va : Word) : Option (StackId × Reach) :=
  (((s.walkReads va [4, 3, 2, 1, 0] ptroot.toNat).map fun a => (stackOf a, s.reach d (stackOf a))).find? fun y => y.2 != .yes)

/-- How an address translates for the agent: by one of its cached translations where the tape says so, which the nearer TLBs then hold too; else by a walk, which is cached where it reached every table it reads (R290, R291). True: it walked. [log 30, DEDUCED] -/
def State.lookup (s : State) (ctx : CtxId) (ptroot va : Word) : (Walk × Bool) × State :=
  let hits := s.tlbHits ctx va
  let (n, s) := if hits.isEmpty then (0, s) else s.choose (hits.length + 1)
  match if n = 0 then none else hits[n - 1]? with
  | some e => ((.leaf e.leaf, false), s.tlbAdd (s.tlbPlaces.takeWhile (· != e.place)) ctx va e.leaf)
  | none => match s.walkTop (towerOfDie s.curDie) ptroot va with
    | .leaf l => ((.leaf l, true), if (s.walkStop s.curDie ptroot va).isSome then s else s.tlbAdd s.tlbPlaces ctx va l)
    | w => ((w, true), s)

/-- What an access meets whose address translates so (R287). -/
def Walk.check (w : Walk) (va : Word) (k : Kind) (user : Bool) : Xl :=
  match w with
  | .held lvl e => .held lvl e
  | .absent lvl m e => .trap (absentTrap k lvl m va e)
  | .leaf l => checkLeaf l va k user true

/-- A hold of a context's page in a tower, opened with its fault record if there is none (R339). [log 5, DESIGN CHOICE] -/
def State.openHold (s : State) (t : TowerId) (ctx : CtxId) (va : Word) (r : FaultRec) : BitVec 16 × State :=
  match s.holds.find? fun h => h.t == t && h.ctx == ctx && h.page == va.toNat / 4096 with
  | some h => (h.hid, s)
  | none =>
    let hid := s.nextHid
    let s := { s with
      holds := s.holds ++ [Hold.mk t hid ctx (va.toNat / 4096)], nextHid := hid + 1 }
    (hid, s.report t { r with cause := 0x05, kind := 0, hid := hid, va := va })

/-- The region of a physical address (R285). -/
def State.region (s : State) (pa : Nat) : Loc :=
  let r := pa / 2 ^ 40
  if r = 0 then .mem pa
  else if r < 0x100 then .peer (s.pkg + BitVec.ofNat 8 r) (pa % 2 ^ 40)
  else if r < 0x600 then .host true (pa % 2 ^ 49)
  else if r < 0x800 then .host false (pa % 2 ^ 49)
  else .dev (pa % 2 ^ 28)

/-- Where a Nose access leads (R190): a place, a failure, or a stack that is being handed over (16 R372). -/
inductive NoseAt where
  | at_ (l : Loc)
  | fail
  | wait
  deriving DecidableEq, Repr

/-- A Nose access through a context's own page table (R190): it tests W for writes only and opens no hold; it reaches committed memory of the package, unless the stack is fenced, of the host or of a peer. [log 94, DEDUCED] -/
def State.noseAt (s : State) (t : TowerId) (ctx : CtxId) (va : Word) (write : Bool) : NoseAt :=
  if !canonical va || inWindow va then .fail
  else match s.xlateWalk t (s.ctx ctx).ptroot va (if write then .write else .read) false false with
    | .ok pa _ => match s.region pa with
      | .mem pa => match (s.stack (stackOf pa)).st with
        | .owned => .at_ (.mem pa)
        | .fenced => .fail
        | _ => .wait
      | .dev _ => .fail
      | l => .at_ l
    | _ => .fail

/-- Bytes of memory behind a place of memory, of the host or of a peer, as committed. -/
def State.bytesAt (s : State) (l : Loc) (n : Nat) : List Byte :=
  match l with
  | .mem pa => s.mem.bytes pa n
  | .host _ hpa => s.hostMem.bytes hpa n
  | .peer p pa => s.peerMem.bytes (p.toNat * 2 ^ 40 + pa) n
  | .ls _ _ => []
  | .dev _ => []

/-- The place n bytes further on. -/
def Loc.plus (l : Loc) (n : Nat) : Loc :=
  match l with
  | .ls c off => .ls c (off + n)
  | .mem pa => .mem (pa + n)
  | .host k hpa => .host k (hpa + n)
  | .peer p pa => .peer p (pa + n)
  | .dev off => .dev (off + n)

/-- Lines of local memory that a place names. -/
def Loc.lines (l : Loc) (n : Nat) : List Nat :=
  match l with
  | .mem pa => linesOf pa n
  | _ => []

end Sys2Proof.Machine
end

