-- ==== Sys2Proof/Machine/Barrier.lean ====
section
/-! DEFINITION. The barrier sweep (08_cores_launches_scheduling.md R202 to R206), barriers of a sleeping core (16 R381) and across packages (17 R403, R404). -/

namespace Sys2Proof.Machine

/-- The gang launch whose slots the core holds, and which owns its barriers (R195). -/
def State.gangOn (s : State) (c : CoreId) : Option (SeqNo × Launch) :=
  (s.core c).slots.findSome? fun e =>
    let n := entrySeq e.2.entry
    if entryState e.2.entry = stFree ∨ entryState e.2.entry = stSaved then none
    else match s.launch n with
      | some l => if descGang l.desc then some (n, l) else none
      | none => none

/-- Every launch slot of the gang on the core has arrived or is DONE (R204). -/
def Core.arrived (x : Core) (n : SeqNo) (b : Barrier) : Bool :=
  x.slots.all fun e =>
    entrySeq e.2.entry != n || entryCapr e.2.entry || entryMsgr e.2.entry || entryState e.2.entry == stFree
      || entryState e.2.entry == stDone || b.arrv.getLsbD e.1

def Barrier.shape (b : Barrier) : BitVec 6 := (b.lh ++ b.lw : BitVec 6)

/-- Place of a core in a barrier's sub-rectangle: west column, east-most, north row, south-most (R203). -/
structure BarPlace where
  west : Bool
  east : Bool
  north : Bool
  south : Bool

def barPlace (l : Launch) (c : CoreId) (b : Barrier) : BarPlace :=
  let (x, y) := l.logical c
  let w := 2 ^ b.lw.toNat
  let h := 2 ^ b.lh.toNat
  { west := x % w == 0, east := x % w == w - 1, north := y % h == 0, south := y % h == h - 1 }

def Core.setBar (x : Core) (b : BitVec 3) (v : Barrier) : Core := { x with bars := x.bars.set b.toNat v b.isLt }
def Core.bar (x : Core) (b : BitVec 3) : Barrier := x.bars.get b.toFin
def State.setBar (s : State) (c : CoreId) (b : BitVec 3) (v : Barrier) : State := s.setCore c ((s.core c).setBar b v)
def State.bar (s : State) (c : CoreId) (b : BitVec 3) : Barrier := (s.core c).bar b

/-- The core that a token of the kind comes from: a row token from the east, a column token from the south, a release from the north along the west column and else from the west (R204). -/
def State.tokenFrom (s : State) (c : CoreId) (kind : BitVec 2) (b : BitVec 3) : CoreId :=
  match kind.toNat with
  | 0 => stepCore c 1 0
  | 1 => stepCore c 0 1
  | _ => match s.gangOn c with
    | none => c
    | some (_, l) =>
      let p := barPlace l c (s.bar c b)
      if !p.west then stepCore c (-1) 0 else if !p.north then stepCore c 0 (-1) else c

/-- A token pick: its core, kind and barrier. -/
def Pick.token : Pick → Option (CoreId × BitVec 2 × BitVec 3)
  | .event (.core c) (.barrierRowToken b _) => some (c, 0, b)
  | .event (.core c) (.barrierColumnToken b _) => some (c, 1, b)
  | .event (.core c) (.barrierReleaseToken b _) => some (c, 2, b)
  | _ => none

/-- The two base dies between which a token travels; none inside one tower (R361). -/
def State.tokenWay (s : State) (p : Pick) : Option (TowerId × TowerId) :=
  match p.token with
  | none => none
  | some (c, kind, b) =>
    let t := towerOf (s.tokenFrom c kind b)
    if t = towerOf c then none else some (t, towerOf c)

/-- A token leaves for a core, behind earlier ones between the same base dies (R204, R361). -/
def State.sendToken (s : State) (c : CoreId) (i : Instr) : State :=
  let p : Pick := .event (.core c) i
  let w := s.tokenWay p
  s.postAfter (fun q => w.isSome && s.tokenWay q == w) p

/-- Barrier b of the launch spans packages (R403, R404). -/
def State.spans (s : State) (n : CtxId) (b : BitVec 3) : Bool :=
  (s.pkgBar n).npkg != 0 && (s.pkgBar n).bmask.getLsbD b.toNat

/-- Every launch slot of the launch is DONE: what remains is its completion, which clears the barriers (R196). -/
def Launch.over (l : Launch) : Bool := decide (descSlots l.desc * l.cores.length ≤ l.done.length) || l.completed

/-- Steps 1 to 3 of the sweep at one core (R204); a corner of a package barrier sends its arrival message instead of releasing (R404). -/
def State.sweep (s : State) (c : CoreId) (b : BitVec 3) : State :=
  match s.gangOn c with
  | none => s
  | some (n, l) =>
    let v := s.bar c b
    if !v.valid || v.sent || l.over || !(s.core c).arrived n v then s
    else
      let p := barPlace l c v
      if !(p.east || v.rowin) then s
      else if !p.west then
        (s.setBar c b { v with sent := true }).sendToken (stepCore c (-1) 0) (.barrierRowToken b v.shape)
      else if !(p.south || v.colin) then s
      else if !p.north then
        (s.setBar c b { v with sent := true }).sendToken (stepCore c 0 (-1)) (.barrierColumnToken b v.shape)
      else
        let s := s.setBar c b { v with sent := true }
        if s.spans (descCtx l.desc) b then
          let r := s.pkgBar (descCtx l.desc)
          if r.master = s.pkg then s.postEvent .none (.pkgBarrierArrivalMsg r.group b v.niGen)
          else s.send (.pkgArrive r.master r.group b v.niGen)
        else s.postEvent (.core c) (.barrierReleaseToken b v.shape)

/-- Slots of the core whose awaited generation has passed are made ready (R206). -/
def State.wakeBarrier (s : State) (c : CoreId) (b : BitVec 3) : State :=
  (s.core c).slots.foldl (fun s e => match e.2.park with
    | .barwait b' g => if b' = b ∧ (s.bar c b).gen ≠ g then s.wake c (BitVec.ofNat 4 e.1) else s
    | _ => s) s

/-- The north-west corner of a core's sub-rectangle (R203). -/
def barCorner (l : Launch) (c : CoreId) (v : Barrier) : CoreId :=
  let (x, y) := l.logical c
  l.at (x - x % 2 ^ v.lw.toNat) (y - y % 2 ^ v.lh.toNat)

/-- A barrier of a core that wakes: a stale one takes the corner's generation (R381). -/
def State.freshen (s : State) (c : CoreId) (b : BitVec 3) : State :=
  let v := s.bar c b
  if !v.stale then s
  else match s.gangOn c with
    | none => s.setBar c b { v with stale := false }
    | some (_, l) =>
      let g := (s.bar (barCorner l c v) b).niGen
      let v' : Barrier := if g = v.gen then { v with stale := false }
        else { v with stale := false, gen := g, arrv := 0, rowin := false, colin := false }
      (s.setBar c b v').wakeBarrier c b

/-- A core leaves retention sleep (R380, R381). -/
def State.rouse (s : State) (c : CoreId) : State :=
  if (s.core c).asleep then
    (List.range 8).foldl (fun s b => s.freshen c (BitVec.ofNat 3 b)) (s.setCore c { s.core c with asleep := false })
  else s

/-- A slot of the core waits at a barrier (R206). -/
def Core.awaits (x : Core) (b : BitVec 3) : Bool :=
  x.slots.any fun e => match e.2.park with
    | .barwait b' _ => b' == b
    | _ => false

/-- A release applied at a core and forwarded (R204 steps 3 and 4); a sleeping core marks the barrier stale, and wakes if one of its slots waits there (R380, R381). -/
def State.release (s : State) (c : CoreId) (b : BitVec 3) : State :=
  match s.gangOn c with
  | none => s
  | some (_, l) =>
    let v := s.bar c b
    let p := barPlace l c v
    let v' := { v with niGen := v.niGen + 1, sent := false, rowin := false, colin := false }
    let s := if (s.core c).asleep then s.setBar c b { v' with stale := true }
      else s.setBar c b { v' with gen := v.gen + 1, arrv := 0 }
    let s := if (s.core c).awaits b then s.rouse c else s
    let s := s.wakeBarrier c b
    let s := if p.east then s else s.sendToken (stepCore c 1 0) (.barrierReleaseToken b v.shape)
    let s := if p.west && !p.south then s.sendToken (stepCore c 0 1) (.barrierReleaseToken b v.shape) else s
    s.sweep c b

/-- A token reaches a core: it is held until the shape matches, else it takes effect (R204). [log 99, DEDUCED] -/
def State.takeToken (s : State) (c : CoreId) (t : Token) : State :=
  let v := s.bar c t.b
  if !v.valid || v.shape != t.shape then s.setCore c { s.core c with tokens := (s.core c).tokens ++ [t] }
  else match t.kind.toNat with
    | 0 => (s.setBar c t.b { v with rowin := true }).sweep c t.b
    | 1 => (s.setBar c t.b { v with colin := true }).sweep c t.b
    | _ => s.release c t.b

/-- Held tokens of a barrier are taken again after BARSET (R204). [log 99, DEDUCED] -/
def State.retakeTokens (s : State) (c : CoreId) (b : BitVec 3) : State :=
  let x := s.core c
  let mine := x.tokens.filter fun t => t.b == b
  let s := s.setCore c { x with tokens := x.tokens.filter fun t => t.b != b }
  mine.foldl (fun s t => s.takeToken c t) s

/-- Every barrier of the core looked at again, after a launch slot became DONE (R204). -/
def State.sweepAll (s : State) (c : CoreId) : State :=
  (List.range 8).foldl (fun s b => s.sweep c (BitVec.ofNat 3 b)) s

end Sys2Proof.Machine
end

