-- ==== Sys2Proof/Machine/Stop.lean ====
section
/-! DEFINITION. Ending a slot (08_cores_launches_scheduling.md R194, R210), discarding capsules (10 R261) and aborting a launch (14 R335). -/

namespace Sys2Proof.Machine

/-- Where an access of a core's network interface through a launch's page tables leads (R257, R261): a frame of local memory, a page marked for service, a failure, an access that a stack rejects (16 R366, R367), or a stack being handed over (16 R372). -/
inductive NiAt where
  | ok (pa : Nat)
  | held (lvl : Nat) (entry : Word)
  | fail (t : Trap)
  | reject (m : StackId)
  | wait
  deriving DecidableEq, Repr

/-- The access: the walk and what it reaches pass the checks of the stacks, as a request from the core's die (R367, R369). -/
def State.niAt (s : State) (c : CoreId) (l : Launch) (va : Word) (k : Kind) : NiAt :=
  if !canonical va || inWindow va then .fail (protTrap k false true va 0)
  else match s.walkStop (dieOf c) (descPtroot l.desc) va with
    | some (m, .reject) => .reject m
    | some _ => .wait
    | none => match s.xlateWalk (towerOf c) (descPtroot l.desc) va k false false with
      | .held lvl e => .held lvl e
      | .trap t => .fail t
      | .ok pa _ =>
        if !isLocal pa then .fail (protTrap k false true va 0)
        else match s.reach (dieOf c) (stackOf pa) with
          | .yes => .ok pa
          | .park => .wait
          | .reject => .reject (stackOf pa)

/-- n more discards counted in DROP of the stranded list, when there is one that can be written; kept while the priority token's holder bars the write or its stack is handed over (R225, R261, R372). -/
def State.countDrops (s : State) (q : SeqNo) (c : CoreId) (n : Nat) : State :=
  match s.launch q with
  | none => s
  | some l =>
    if descStrand l.desc = 0 ∨ n = 0 then s
    else match s.niAt c l (descStrand l.desc + 16) .write with
      | .ok pa =>
        if s.tokenBars (linesOf pa 8) then s.setLaunch q { l with drops := l.drops + n }
        else s.commitWrite pa (leBytes 8 ((s.mem.nat pa 8 + n) % 2 ^ 64)) none
      | .wait => s.setLaunch q { l with drops := l.drops + n }
      | .reject m => s.countRejection m
      | _ => s

def State.countDrop (s : State) (q : SeqNo) (c : CoreId) : State := s.countDrops q c 1

/-- The VPROG of a slot and the MPROG registers it left BUSY are cleared (R210). -/
def State.clearProg (s : State) (c : CoreId) (k : SlotId) : State :=
  let x := s.core c
  let mprog := (List.range 4).foldl (fun (m : Vector (BitVec 32) 4) n =>
    if h : n < 4 then
      (if m[n].getLsbD 31 && m[n].extractLsb' 24 4 == k then m.set n 0 h else m)
    else m) x.mprog
  let s := s.setCore c { x with mprog := mprog }
  let y := s.slot c k
  s.setSlot c k { y with regs := { y.regs with vprog := 0 } }

/-- The launch may now be complete: its completion is looked at (R196). -/
def State.checkDone (s : State) (n : SeqNo) : State := s.postOnce (.launch n) .launchCompletion

/-- A pre-emption of the context under way is looked at again (R346). -/
def State.preCheck (s : State) (n : CtxId) : State :=
  if (s.ctx n).preempting.isSome then s.postOnce (.ctx n) .preemption else s

/-- Slots of the core whose SLOTCTL.STOP waited for this slot go on (R210). -/
def State.stopEnded (s : State) (c : CoreId) (k : SlotId) : State :=
  (s.core c).slots.foldl (fun s e =>
    let j : SlotId := BitVec.ofNat 4 e.1
    if e.2.park = .stop k then (s.setSlot c j { s.slot c j with stopDone := true }).wake c j else s) s

/-- A launch slot becomes DONE (R194); without GANG its entry is freed at once, at the next rotation boundary. -/
def State.slotDone (s : State) (c : CoreId) (k : SlotId) : State :=
  let y := s.slot c k
  let n := entrySeq y.entry
  let s := s.setSlot c k { y with
    entry := setEntryState y.entry stDone, park := .idle, chunk := {}, stopping := false, preempt := false, cutDue := none }
  let s := s.stopEnded c k
  let s := s.modLaunch n fun l => { l with done := insertOnce l.done (c, entryLslot y.entry) }
  let gang := match s.launch n with
    | some l => descGang l.desc
    | none => false
  let s := if gang then s.sweepAll c else s.postEvent (.slot c k) (.slotTableWrite 0)
  (s.checkDone n).preCheck (entryCtx y.entry)

/-- A reserved slot becomes idle: BOUND, its next visit or message chosen later (R194); after the completion of its launch its entry is freed (R196). -/
def State.reservedIdle (s : State) (c : CoreId) (k : SlotId) : State :=
  let y := s.slot c k
  let s := s.setSlot c k { y with
    entry := setEntryState y.entry stBound, park := .idle, chunk := {}, stopping := false, preempt := false, cutDue := none, msg := none
    starting := none, regs := { y.regs with vis := false, bay := 0, bayOff := 0, hops := 0 } }
  let s := s.stopEnded c k
  let ended := match s.launch (entrySeq y.entry) with
    | some l => l.completed
    | none => false
  let s := if ended then s.postEvent (.slot c k) (.slotTableWrite 0)
    else if entryCapr y.entry then s.postOnce (.core c) .capsuleVisitStart else s.postOnce (.core c) .messageHandlerStart
  s.preCheck (entryCtx y.entry)

/-- A slot that is to stop, with nothing of its own left to commit, ends (R210). -/
def State.finishStop (s : State) (c : CoreId) (k : SlotId) : State :=
  let s := s.clearProg c k
  let y := s.slot c k
  if entryCapr y.entry || entryMsgr y.entry then s.reservedIdle c k else s.slotDone c k

/-- A RUN slot is told to stop: at once when it holds nothing, else after its prefix commits (R210). -/
def State.stopSlot (s : State) (c : CoreId) (k : SlotId) : State :=
  let y := s.slot c k
  if !y.isRun then s
  else if y.alone then s.finishStop c k
  else (s.setSlot c k { y with stopping := true, park := .ready }).postTurn c k

/-- A capsule outside a bay is discarded: population and DROP (R261, R335). -/
def State.discardCapsule (s : State) (id : Nat) : State :=
  match s.capsules.find id with
  | none => s
  | some x =>
    let s := { s with capsules := s.capsules.del id }
    let s := s.modLaunch x.seq fun l => { l with population := l.population - 1 }
    (s.countDrop x.seq x.core).checkDone x.seq

/-- The bays of a core that hold a launch's capsules are emptied, each counted (R335). -/
def State.emptyBays (s : State) (c : CoreId) (n : SeqNo) : State :=
  (List.range 4).foldl (fun s b =>
    if h : b < 4 then
      let y := (s.core c).bays[b]
      if y.st != .free && y.seq == n then
        let x := s.core c
        let s := s.setCore c { x with bays := x.bays.set b {} h }
        (s.modLaunch n fun l => { l with population := l.population - 1 }).countDrop n c
      else s
    else s) s

/-- The launch of a remote update in a spill ring. -/
def RingItem.seq (i : RingItem) : SeqNo :=
  match i with
  | .capsule q _ => q
  | .msg m => m.seq
  | .lsw q _ _ _ => q
  | .lsadd q _ _ _ => q
  | .result q _ _ => q

/-- What the spill rings, outboxes and bays of a save block hold of a launch is given up, each capsule of a bay counted (R335). -/
def State.dropSaved (s : State) (n : SeqNo) (c : CoreId) : State :=
  let bays (v : Save) : Nat := (v.cores.filter fun e => e.1 == n).foldl (fun a e =>
    a + (e.2.bays.toList.filter fun b => b.st != .free && b.seq == n).length) 0
  let held := s.saves.foldl (fun a e => a + bays e.2) 0
  let mine (i : RingItem) : Bool := i.seq == n
  let s := { s with saves := s.saves.map fun (e : Nat × Save) => (e.1, { e.2 with
    cores := e.2.cores.map fun (p : SeqNo × SavedCore) => if p.1 == n then (p.1, { p.2 with bays := Vector.replicate 4 {} }) else p
    rings := e.2.rings.map fun (p : CoreId × List RingItem) => (p.1, p.2.filter fun i => !mine i)
    outboxes := e.2.outboxes.map fun (p : CoreId × List (CoreId × RingItem)) => (p.1, p.2.filter fun i => !mine i.2) }) }
  (s.modLaunch n fun l => { l with population := l.population - held }).countDrops n c held

/-- A reserved slot gives up the chunk of an LSR request that it serves (R294, R335). -/
def State.dropRead (s : State) (c : CoreId) (k : SlotId) : State :=
  let y := s.slot c k
  let s := s.setSlot c k { y with waiting := none, park := .idle }
  { s with requests := s.requests.filter (· != Request.slot c k) }

/-- The suspended engine commands of a launch are given up (R316, R335). -/
def State.dropSuspended (s : State) (n : SeqNo) : State :=
  let mine (q : Cmd) : Bool := q.rec_.extractLsb' 480 32 == n
  let owed := s.ctxs.foldl (fun a e => a + (e.2.owed.filter mine).length) 0
  let saved := s.saves.foldl (fun a e => a + (e.2.cmds.filter fun q => mine q.2.2).length) 0
  let s := { s with
    ctxs := s.ctxs.map fun (e : Nat × Ctx) => (e.1, { e.2 with owed := e.2.owed.filter fun q => !mine q })
    saves := s.saves.map fun (e : Nat × Save) => (e.1, { e.2 with cmds := e.2.cmds.filter fun q => !mine q.2.2 }) }
  s.modLaunch n fun l => { l with commands := l.commands - owed - saved }

/-- A slot-table entry of an aborted launch (R335): a running slot stops, a reservation is released, a launch slot that has not begun ends, a reserved slot begins nothing more. -/
def State.abortSlot (s : State) (n : SeqNo) (c : CoreId) (k : SlotId) : State :=
  let y := s.slot c k
  let st := entryState y.entry
  let s := if entrySeq (y.entryNext.getD y.entry) == n && entryState (y.entryNext.getD y.entry) == stResv then
    s.postEvent (.slot c k) (.slotTableWrite 0) else s
  if entrySeq y.entry != n then s
  else if st == stRun then s.stopSlot c k
  else if st == stBound && !(entryCapr y.entry || entryMsgr y.entry) then s.slotDone c k
  else if st == stBound then (s.setSlot c k { y with starting := none }).dropRead c k
  else s

/-- The Nose aborts a launch (R335): every slot stops, every capsule is discarded (one still travelling when it arrives), and the launch completes when its engine commands have ended. Of a launch that has completed, only a handler can still run; it is stopped. -/
def State.abortLaunch (s : State) (n : SeqNo) : State :=
  match s.launch n with
  | none => s
  | some l =>
    if l.completed then s.allSlots.foldl (fun s (c, k) =>
      if entrySeq (s.slot c k).entry = n then s.stopSlot c k else s) s
    else
      let s := s.dropSuspended n
      let l := (s.launch n).getD l
      let s := s.setLaunch n { l with aborted := true, unbound := [], resv := [], allBound := true }
      let s := l.cores.foldl (fun s c => s.rouse c) s
      let s := s.allSlots.foldl (fun s (c, k) => s.abortSlot n c k) s
      let s := l.cores.foldl (fun s c => s.emptyBays c n) s
      let s := s.cores.keys.foldl (fun s c =>
        let c : CoreId := BitVec.ofNat 10 c
        let x := s.core c
        s.setCore c { x with
          ring := x.ring.filter fun i => i.seq != n, outbox := x.outbox.filter fun i => i.2.seq != n
          msgs := x.msgs.filter fun m => m.seq != n }) s
      let s := s.dropSaved n (l.cores.headD 0)
      let s := s.capsules.keys.foldl (fun s id => match s.capsules.find id with
        | some x => if x.seq = n ∧ x.at_ ≠ .flying then s.discardCapsule id else s
        | none => s) s
      s.checkDone n

/-- Every launch of a tower, or of a die, is aborted (R344, R379). -/
def State.abortWhere (s : State) (test : CoreId → Bool) : State :=
  s.launches.keys.foldl (fun s n =>
    let n : SeqNo := BitVec.ofNat 32 n
    match s.launch n with
    | some l => if l.cores.any test then s.abortLaunch n else s
    | none => s) s

/-- A machine check at a tower: a record of kind 7, and every launch of the tower aborted (R344). [log 25, DESIGN CHOICE] -/
def State.machineCheck (s : State) (t : TowerId) : State :=
  (s.report t { cause := 0, kind := 7 }).abortWhere fun c => towerOf c == t

end Sys2Proof.Machine
end

