-- ==== Sys2Proof/Machine/Boundary.lean ====
section
/-! DEFINITION. Rotation boundaries: what the Nose wrote to slot-table entries takes effect, and BOUND slots begin to run (08_cores_launches_scheduling.md R194, R195, 01 R19 to R21, R32). -/

namespace Sys2Proof.Machine

/-- The slot registers at bind, and at the start of a visit or a message (R19, R330). -/
def startRegs (l : Launch) (pc : Word) : Regs := { pc := pc, trapvec := addrCsr (descTrapv l.desc) }

/-- A slot begins to run, in the state of R19 but for what its start sets. -/
def Slot.begin (y : Slot) (b : Start) : Slot :=
  { y with
    regs := b.regs, entry := setEntryState y.entry stRun, starting := none, cut := 0, sqc := 0, seq := b.seq, eff := 0x800
    chunk := {}, waiting := none, cutDue := none, stopping := false, stopDone := false, preempt := false, tiles := none
    park := .ready, ldas := [], msg := b.msg, awaiting := none, arrived := if b.resumes then y.arrived else none, barred := none }

/-- G registers set from the lowest on. -/
def Regs.withG (r : Regs) (xs : List Word) : Regs :=
  { r with g := Vector.ofFn fun i => xs.getD i.val 0 }

/-- The registers of a launch slot at bind (R19, R32). -/
def bindRegs (l : Launch) (c : CoreId) (lslot : Nat) (pc : Word) : Regs :=
  let (x, y) := l.logical c
  (startRegs l pc).withG [descParam l.desc, BitVec.ofNat 64 x, BitVec.ofNat 64 y, BitVec.ofNat 64 lslot,
    BitVec.ofNat 64 (descW l.desc), BitVec.ofNat 64 (descH l.desc), BitVec.ofNat 64 (descSlots l.desc)]

/-- A context comes to a core: every byte of local store, the tiles and MPROG are zeroed when another context was here, or none (R20, R195). -/
def State.enterCtx (s : State) (c : CoreId) (n : CtxId) : State :=
  let x := s.core c
  if x.owner = some n then s
  else s.setCore c { x with
    ls := [], lsPoison := [], tiles := Vector.replicate 4 [], mprog := Vector.replicate 4 0, owner := some n, imaged := [] }

/-- The local-store image that the first bind of a launch on a core writes, if it is still to be written (R20). [log 29, DESIGN CHOICE] -/
def State.imageDue (s : State) (c : CoreId) (n : SeqNo) : Option (Nat × List Byte) :=
  match s.launch n with
  | none => none
  | some l =>
    if (s.core c).imaged.contains n then none
    else (s.lsImages.find (descEntry l.desc).toNat).map fun bs => (descLslo l.desc * 1024, bs)

/-- The kernel's local-store image is written when slots of a launch are first bound on a core (R20). [log 29, DESIGN CHOICE] [log 89, DEDUCED] -/
def State.writeImage (s : State) (c : CoreId) (n : SeqNo) : State :=
  let image := s.imageDue c n
  let x := s.core c
  let s := if x.imaged.contains n then s else s.setCore c { x with imaged := n :: x.imaged }
  match image with
  | some (off, bs) => s.lsOutside c off bs
  | none => s

/-- The holder of the priority token bars the image that a bind would write (R225). -/
def State.imageBarred (s : State) (c : CoreId) (n : SeqNo) : Bool :=
  match s.imageDue c n with
  | some (off, bs) => s.tokenBarsLs c (linesOf off bs.length)
  | none => false

/-- The slot is looked at again at the next rotation boundary. -/
def State.atBoundary (s : State) (c : CoreId) (k : SlotId) : State := s.postOnce (.slot c k) .slotDispatch

/-- An entry takes the value that the Nose wrote (R194), and a sleeping core wakes (R380). -/
def State.applyWrite (s : State) (c : CoreId) (k : SlotId) (e : BitVec 128) : State :=
  let y := s.slot c k
  let s := s.rouse c
  if y.isRun then s.setSlot c k { s.slot c k with entryNext := none }
  else if entryState e = stBound then
    if s.imageBarred c (entrySeq e) then s.atBoundary c k
    else
      let cls := (s.queue (entryQtwr e) (entryQown e)).cls
      let s := s.setSlot c k { s.slot c k with entry := e, entryNext := none, cls := if y.starting.isSome then y.cls else cls }
      let s := (s.enterCtx c (entryCtx e)).writeImage c (entrySeq e)
      if y.starting.isSome then s.atBoundary c k
      else if entryCapr e then s.postOnce (.core c) .capsuleVisitStart
      else if entryMsgr e then s.postOnce (.core c) .messageHandlerStart
      else s.atBoundary c k
  else
    let s := s.setSlot c k { s.slot c k with entry := e, entryNext := none, starting := none }
    if entryState e = stFree then s.postOnce (.core c) .rebindByWeight else s

/-- A BOUND slot turns RUN (R194): a launch slot, or a reserved slot with a visit or message to start; a slot of an aborted launch ends. -/
def State.runSlot (s : State) (c : CoreId) (k : SlotId) : State :=
  let y := s.slot c k
  let e := y.entry
  match s.launch (entrySeq e), y.starting with
  | none, _ => s
  | some l, some b => if l.aborted then s.finishStop c k else (s.setSlot c k (y.begin b)).postTurn c k
  | some l, none =>
    if entryCapr e || entryMsgr e then s
    else if l.aborted then s.slotDone c k
    else (s.setSlot c k (y.begin { regs := bindRegs l c (entryLslot e) (entryPc e) })).postTurn c k

/-- What the boundary does to one slot (R194): a write of the Nose takes effect, or a slot that is BOUND already turns RUN. -/
def State.dispatch (s : State) (c : CoreId) (k : SlotId) : State :=
  let y := s.slot c k
  match y.entryNext with
  | some e => s.applyWrite c k e
  | none => if entryState y.entry = stBound then s.runSlot c k else s

/-- The slot waits for a rotation boundary. -/
def Slot.dispatches (y : Slot) : Bool :=
  y.entryNext.isSome || (entryState y.entry == stBound && (y.starting.isSome || !(entryCapr y.entry || entryMsgr y.entry)))

/-- Launches that wait for a place or for slots are looked at again. -/
def State.pokeLaunches (s : State) : State :=
  s.launches.foldl (fun s e =>
    let l := e.2
    if l.completed || l.aborted then s
    else if l.origin.isNone then s.postOnce (.launch (BitVec.ofNat 32 e.1)) .launchPlacement
    else if descGang l.desc then (if l.allBound then s else s.postOnce (.launch (BitVec.ofNat 32 e.1)) .gangPlacement)
    else l.unbound.foldl (fun s u => s.postOnce (.core u.1) .rebindByWeight) s) s

/-- Time goes on to the next rotation boundary, where every entry is dispatched (R184, R194). -/
def State.nextRotation (s : State) : State :=
  let s := { s with rot := s.rot + 1, phase := 0 }
  let s := if Pick.caches ∈ s.agenda ∨ (s.l1.isEmpty ∧ s.llc.isEmpty ∧ s.dir.isEmpty) then s else s.post .caches
  let due := (s.allSlots.filter fun (c, k) => (s.slot c k).dispatches).eraseDups
  let freed := due.any fun (c, k) => match (s.slot c k).entryNext with
    | some e => entryState e == stFree
    | none => false
  let s := due.foldl (fun s (c, k) => s.dispatch c k) s
  if freed then s.pokeLaunches else s

/-- Time goes on to the next cycle of a slot (R21, R184): in this rotation if it is still to come, else in the next. [log 96, DESIGN CHOICE] -/
def State.atSlot (s : State) (k : SlotId) (again : Bool) : State :=
  let s := if k.toNat < s.phase ∨ (k.toNat = s.phase ∧ again = true) then s.nextRotation else s
  { s with phase := k.toNat }

end Sys2Proof.Machine
end

