-- ==== Sys2Proof/Machine/Replay.lean ====
section
/-! DEFINITION. Replay journals: records, the header, and what replay lets pass (09_chunks_and_consistency.md R241 to R243). -/

namespace Sys2Proof.Machine

/-- Records that a buffer of p pages holds (R242). -/
def journalRoom (pages : Nat) : Nat := (4096 * pages - 64) / 16

/-- The physical address of byte off of a journal buffer. -/
def Journal.at (j : Journal) (off : Nat) : Nat := j.frames.getD (off / 4096) 0 + off % 4096

/-- Record n of the buffer. -/
def State.journalRec (s : State) (j : Journal) (n : Nat) : BitVec 128 :=
  BitVec.ofNat 128 (s.mem.nat (j.at (64 + 16 * n)) 16)

def jrCore (r : BitVec 128) : Nat := fieldNat r 0 10
def jrSlot (r : BitVec 128) : Nat := fieldNat r 10 4
def jrKind (r : BitVec 128) : Nat := fieldNat r 14 2
def jrLen (r : BitVec 128) : Nat := fieldNat r 48 13

/-- A journal record (R242). -/
def mkJournalRec (core slot kind : Nat) (seq : BitVec 32) (len : Nat) (gnum : BitVec 32) : BitVec 128 :=
  (0#32 ++ gnum ++ 0#3 ++ BitVec.ofNat 13 len ++ seq ++ BitVec.ofNat 2 kind ++ BitVec.ofNat 4 slot ++ BitVec.ofNat 10 core
    : BitVec 128)

/-- The header of a finished recording (R242). -/
def mkJournalHeader (count : BitVec 32) (ctx : CtxId) (full : Bool) : BitVec 512 :=
  (0#448 ++ 1#1 ++ BitVec.ofBool full ++ 0#18 ++ ctx ++ count : BitVec 512)

/-- A recording or replay in force ends; a recording writes the header (R241, R242). -/
def State.journalOff (s : State) (n : CtxId) : State :=
  let j := s.journal n
  let s := if j.rec_ then s.commitWrite (j.at 0) (leBytes 64 (mkJournalHeader j.count n j.full).toNat) none else s
  if j.rec_ || j.rpl then s.setJournal n { s.journal n with rec_ := false, rpl := false, part := 0 } else s

/-- JRNL.REC or JRNL.RPL takes effect at its grant (R241): what was in force ends, a recording's header is written as zero. -/
def State.journalOn (s : State) (n : CtxId) (q : SeqNo) (rpl : Bool) (frames : List Nat) (total : BitVec 32) : State :=
  let s := s.journalOff n
  if rpl then s.setJournal n { rpl := total != 0, frames := frames, total := total, seq := q }
  else (s.commitWrite (frames.headD 0) (leBytes 64 0) none).setJournal n { rec_ := true, frames := frames, seq := q }

/-- An event of the context is granted: recorded, or counted against the replayed order (R241, R243). len counts instructions; more says that the record goes on. [log 48, DEDUCED] -/
def State.journalGrant (s : State) (n : CtxId) (core slot kind : Nat) (seq : BitVec 32) (len : Nat) : State :=
  let j := s.journal n
  if j.rec_ then
    if journalRoom j.frames.length ≤ j.count.toNat then
      (s.setJournal n { j with full := true }).journalOff n
    else
      let r := mkJournalRec core slot kind seq len j.count
      let s := s.commitWrite (j.at (64 + 16 * j.count.toNat)) (leBytes 16 r.toNat) none
      let s := s.setJournal n { s.journal n with count := j.count + 1 }
      if journalRoom j.frames.length ≤ j.count.toNat + 1 then
        (s.setJournal n { s.journal n with full := true }).journalOff n
      else s
  else if j.rpl then
    let r := s.journalRec j j.count.toNat
    if kind = 0 ∧ j.part + len < jrLen r then s.setJournal n { j with part := j.part + len }
    else
      let s := s.setJournal n { j with count := j.count + 1, part := 0 }
      if j.count + 1 = j.total then s.setJournal n { s.journal n with rpl := false } else s
  else s

/-- Replay lets this event of the context be granted now (R243). -/
def State.replayAdmits (s : State) (n : CtxId) (core slot kind : Nat) : Bool :=
  let j := s.journal n
  if !j.rpl then true
  else
    let r := s.journalRec j j.count.toNat
    jrCore r == core && jrSlot r == slot && jrKind r == kind

/-- The replay of a context diverges: DIV, normal arbitration, and a record of kind 4 (R243). -/
def State.diverge (s : State) (n : CtxId) (c : CoreId) (k : SlotId) : State :=
  let s := s.setJournal n { s.journal n with rpl := false, div := true, part := 0 }
  s.report (towerOf c) (s.slotRec c k 0 4)

/-- The event that a slot offers differs from the next record of that slot (R243): of another kind, or of another length. -/
def State.replayDiverges (s : State) (n : CtxId) (core slot kind len : Nat) (capacity : Bool) : Bool :=
  let j := s.journal n
  if !j.rpl then false
  else
    let r := s.journalRec j j.count.toNat
    jrCore r == core && jrSlot r == slot && (jrKind r == 2) == (kind == 2)
      && (jrKind r != kind || (kind == 0 && !capacity && j.part + len != jrLen r))

/-- The length at which replay cuts the slot's open chunk (R243): LEN of the slot's record that this chunk will take. -/
def State.replayLen (s : State) (c : CoreId) (k : SlotId) : Option Nat :=
  let y := s.slot c k
  let j := s.journal (entryCtx y.entry)
  if !j.rpl then none
  else
    let mine := ((List.range (j.total.toNat - j.count.toNat)).filterMap fun i =>
      let r := s.journalRec j (j.count.toNat + i)
      if jrCore r == c.toNat && jrSlot r == k.toNat && jrKind r == 0 then some (jrLen r, i) else none)
    match y.waiting, mine with
    | none, (len, 0) :: _ => some (len - j.part)
    | none, (len, _) :: _ => some len
    | some _, _ :: (len, _) :: _ => some len
    | _, _ => none

end Sys2Proof.Machine
end

