-- ==== Sys2Proof/Machine/EngineCut.lean ====
section
/-! DEFINITION. Ending an engine chunk and a command (13_copy_engines.md R309 to R315). -/

namespace Sys2Proof.Machine

/-- Fields of a command record (R309). -/
def cmdProg (m : BitVec 512) : Nat := fieldNat m 0 4
def cmdEsize (m : BitVec 512) : Nat := fieldNat m 8 3
def cmdSrc (m : BitVec 512) : Word := m.extractLsb' 64 64
def cmdDst (m : BitVec 512) : Word := m.extractLsb' 128 64
def cmdLen (m : BitVec 512) : Nat := fieldNat m 192 40
def cmdArg0 (m : BitVec 512) : Word := m.extractLsb' 256 64
def cmdArg1 (m : BitVec 512) : Word := m.extractLsb' 320 64
def cmdAword (m : BitVec 512) : Word := m.extractLsb' 384 64
def cmdOrig (m : BitVec 512) : CoreId := m.extractLsb' 448 10
def cmdOslot (m : BitVec 512) : SlotId := m.extractLsb' 458 4
def cmdCtx (m : BitVec 512) : CtxId := m.extractLsb' 462 12
def cmdLseq (m : BitVec 512) : SeqNo := m.extractLsb' 480 32

/-- The address lies in the local window (R27, R316). -/
def inLocal (va : Word) : Bool := decide (windowBase ≤ va.toNat) && decide (va.toNat < windowEnd)

/-- The command names the local store of its context (R316): ARG0 and ARG1 count where the program takes them for addresses. -/
def cmdNamesLs (m : BitVec 512) : Bool :=
  let p := cmdProg m
  inLocal (cmdSrc m) || inLocal (cmdDst m) || inLocal (cmdAword m) || (decide (2 ≤ p) && inLocal (cmdArg0 m))
    || (decide (6 ≤ p) && inLocal (cmdArg1 m))

/-- PTROOT of the agent's launch (R188). -/
def State.curPtroot (s : State) : Word :=
  match s.launch s.curSeq with
  | some l => descPtroot l.desc
  | none => 0

/-- The arrival update of a chunk with the bytes and the abort that it reports at its cut (R312, R314). -/
def Deferred.arrive (bytes : Nat) (abort : Option (BitVec 7)) : Deferred → Deferred
  | .arrival pa _ _ => .arrival pa bytes abort
  | .lsArrival c off _ _ => .lsArrival c off bytes abort
  | d => d

/-- The engine's open chunk is cut and requests commit (R311); fin: the command ends at that grant. [log 56, DEDUCED] -/
def State.engineCut (s : State) (e : EngineId) (fin : List Deferred) (abort : Option (BitVec 7)) : State :=
  let x := s.engine e
  if x.waiting || (x.chunk.isEmpty && fin.isEmpty) then s
  else
    let s := s.setEngine e { x with
      chunk := { x.chunk with
        effects := x.chunk.effects.map (Deferred.arrive x.bytes abort) ++ fin
        chk := if x.chunk.opened then x.chunk.chk else x.regs, opened := true }
      waiting := true, park := .grant }
    ({ s with requests := s.requests ++ [Request.engine e] }).postEvent .none .commitGrant

/-- An engine fault other than a held miss: the command is aborted in the truncating grant, which sends a record of cause Engine (R315). -/
def State.engineAbort (s : State) (e : EngineId) (code : Nat) (t : Trap) : State :=
  s.engineCut e [.engineFault e (BitVec.ofNat 8 code) t.addr, .cmdEnd e] (some (BitVec.ofNat 7 code))

end Sys2Proof.Machine
end

