-- ==== Sys2Proof/WellFormed.lean ====
section
/-! DEFINITION. Which words are well formed: for each opcode the MOD values and the operand combinations that the encoding tables give it (R71, R75, R87, R128, R156, R201, R233, R262, R292, R320, R354, R375, R398). -/

namespace Sys2Proof

/-- One kind of operand that a field may accept. -/
inductive Alt where
  | none
  | g
  | gEven
  | v
  | p
  /-- A compare's pair, with the conditions it takes. -/
  | pair (conds : List Nat)
  /-- Memory, in the modes listed. -/
  | mem (modes : List AddrMode)
  /-- An immediate that meets a condition on its 21 bits. -/
  | imm (ok : BitVec 21 → Bool)
  | f
  | csr
  | tile
  | abs
  | bar
  | dep
  | a
  | half

/-- In mode 11 the displacement must be 0 (R68). -/
def memOk (modes : List AddrMode) (m : AddrMode) (d : BitVec 16) : Bool :=
  modes.contains m && (m != .postInc || d == 0)

/-- A compare may not name one register, other than P7, twice (R68). -/
def pairOk (conds : List Nat) (t c : BitVec 3) (cond : BitVec 4) : Bool :=
  conds.contains cond.toNat && (t != c || t == 7)

/-- The field accepts this operand. -/
def Alt.has : Alt → Operand → Bool
  | .none, .none => true
  | .g, .g _ => true
  | .gEven, .g n => n.toNat % 2 == 0
  | .v, .v _ => true
  | .p, .p _ => true
  | .pair conds, .pp t c cond => pairOk conds t c cond
  | .mem modes, .mem _ m d => memOk modes m d
  | .imm ok, .imm i => ok i
  | .f, .f _ => true
  | .csr, .csr _ => true
  | .tile, .tile _ => true
  | .abs, .abs _ => true
  | .bar, .bar _ => true
  | .dep, .dep _ => true
  | .a, .a _ => true
  | .half, .half _ => true
  | _, _ => false

/-- One accepted combination of operand kinds. -/
structure Form where
  dst : List Alt
  src1 : List Alt
  src2 : List Alt

/-- The MOD values of an opcode, and its operand combinations for a MOD value. -/
structure Row where
  modOk : BitVec 4 → Bool
  forms : BitVec 4 → List Form

namespace Enc

def no : List Alt := [.none]
def gg : List Alt := [.g]
def ge : List Alt := [.gEven]
def vv : List Alt := [.v]
def pp : List Alt := [.p]
def ff : List Alt := [.f]
def cc : List Alt := [.csr]
def tt : List Alt := [.tile]
def xx : List Alt := [.abs]
def bb : List Alt := [.bar]
def dd : List Alt := [.dep]
def aa : List Alt := [.a]
def hh : List Alt := [.half]
def ga : List Alt := [.g, .a]
def anyImm : BitVec 21 → Bool := fun _ => true
def ii : List Alt := [.imm anyImm]
def gai : List Alt := [.g, .a, .imm anyImm]

/-- An immediate from lo to hi, both non-negative. -/
def immRange (lo hi : Nat) : BitVec 21 → Bool :=
  fun i => decide (lo ≤ i.toNat) && decide (i.toNat ≤ hi)

def iR (lo hi : Nat) : List Alt := [.imm (immRange lo hi)]
def gaiR (lo hi : Nat) : List Alt := [.g, .a, .imm (immRange lo hi)]

/-- The largest non-negative immediate. -/
def immMax : Nat := 1048575

def m0 : List Alt := [.mem [.offset]]
def mLea : List Alt := [.mem [.offset, .postAdd, .preSub]]
def mm : List Alt := [.mem [.offset, .postAdd, .preSub, .postInc]]
def mEng : List Alt := [.mem [.offset, .postInc]]

def modNone (m : BitVec 4) : Bool := m == 0
def modAny (_ : BitVec 4) : Bool := true
/-- MOD [3] = 0. -/
def modS0 (m : BitVec 4) : Bool := !m.getLsbD 3
/-- MOD at most n. -/
def modLe (n : Nat) (m : BitVec 4) : Bool := decide (m.toNat ≤ n)
/-- MOD [3:2] = 0. -/
def modHi0 (m : BitVec 4) : Bool := modLe 3 m
/-- The memory layout of LD and LDA (R115). -/
def modLd (m : BitVec 4) : Bool := modLe 6 m || (decide (8 ≤ m.toNat) && decide (m.toNat ≤ 10))
/-- The memory layout of ST (R115). -/
def modSt (m : BitVec 4) : Bool := modLe 6 m

def one (a b c : List Alt) : BitVec 4 → List Form := fun _ => [⟨a, b, c⟩]

/-- Register forms and form-mode forms of one instruction; vectors and forms never mix (R128). -/
def vf (c : List Alt → List Alt) : BitVec 4 → List Form :=
  fun _ => [⟨vv, vv, c vv⟩, ⟨ff, ff, c ff⟩]

def condInt : List Nat := [0, 1, 2, 3, 4, 5, 6, 7]
def condFp : List Nat := [0, 1, 2, 3, 4, 5, 8, 9]
def condAny : List Nat := [0, 1, 2, 3, 4, 5, 6, 7, 8, 9]

/-- The width in bits of an element code of VCVT (R144). -/
def codeWidth (c : Nat) : Nat :=
  match c with
  | 0 | 4 => 8
  | 1 | 5 | 8 | 9 => 16
  | 2 | 6 | 10 => 32
  | _ => 64

/-- The immediate of VCVT: element codes 0 to 11, upper bits zero, h below the width ratio, and 0 in form mode; MOD [2] = 0 when both codes are integers (R144). [log 15, DEDUCED] -/
def vcvtImm (form : Bool) (m : BitVec 4) (i : BitVec 21) : Bool :=
  let s := i.toNat % 16
  let d := i.toNat / 16 % 16
  let h := i.toNat / 256 % 4
  let ws := codeWidth s
  let wd := codeWidth d
  decide (i.toNat < 1024) && decide (s < 12) && decide (d < 12)
    && decide (h < max ws wd / min ws wd) && (!form || h == 0)
    && (decide (8 ≤ s) || decide (8 ≤ d) || !m.getLsbD 2)

/-- The immediate of VUNPL: planes stored and planes read (R150). -/
def vunplImm (i : BitVec 21) : Bool :=
  let ps := i.toNat % 16
  let pr := i.toNat / 16
  decide (i.toNat < 256) && decide (2 ≤ ps) && decide (ps ≤ 8) && decide (pr ≤ ps)

/-- The atomics: MOD [2] marks the value-returning form (R233). -/
def atomicForms (dst : List Alt) (src2 : List Alt) : BitVec 4 → List Form :=
  fun m => if m.getLsbD 2 then [⟨dst, m0, src2⟩] else [⟨no, m0, src2⟩]

/-- The encoding row of each opcode on a slot. [log 15, DEDUCED] -/
def slotRow (opc : Nat) : Option Row :=
  match opc with
  | 0x00 | 0x08 | 0x0A | 0x0F | 0x13 | 0x18 | 0xC7 => some ⟨modNone, one no no no⟩
  | 0x01 | 0x02 | 0x0D => some ⟨modNone, one no ii no⟩
  | 0x03 | 0x04 => some ⟨modNone, one no ga no⟩
  | 0x05 => some ⟨modNone, one no gg no⟩
  | 0x06 => some ⟨modHi0, one no [.g, .a, .imm (immRange 0 immMax)] (iR 3 immMax)⟩
  | 0x07 => some ⟨modHi0, one no no no⟩
  | 0x09 => some ⟨modNone, one no (gaiR 0 65535) no⟩
  | 0x0B => some ⟨modLe 1, one gg m0 gai⟩
  | 0x0C => some ⟨modNone, one no dd (gaiR 0 255)⟩
  | 0x0E | 0xE4 => some ⟨modNone, one no gai no⟩
  | 0x10 => some ⟨modNone, one gg cc no⟩
  | 0x11 => some ⟨modNone, one cc gai no⟩
  | 0x12 => some ⟨modLe 2, one gg cc gai⟩
  | 0x14 => some ⟨modNone, one bb (gaiR 0 63) no⟩
  | 0x15 => some ⟨modLe 1, fun m => if m.getLsbD 0 then [⟨gg, bb, no⟩] else [⟨no, bb, no⟩]⟩
  | 0x16 => some ⟨modNone, one no bb (gaiR 0 255)⟩
  | 0x17 => some ⟨modNone, one no m0 gai⟩
  | 0x19 => some ⟨modLe 2, one gg m0 no⟩
  | 0x20 | 0x21 | 0x22 | 0x24 | 0x25 | 0x2B | 0x46 => some ⟨modAny, one gg ga gai⟩
  | 0x23 | 0x26 | 0x27 | 0x28 | 0x29 | 0x2A | 0x2C | 0x2D | 0x2E | 0x2F | 0x30 => some ⟨modS0, one gg ga gai⟩
  | 0x31 | 0x32 => some ⟨modAny, one gg ga no⟩
  | 0x33 | 0x34 | 0x35 | 0x36 | 0x48 => some ⟨modS0, one gg ga no⟩
  | 0x37 => some ⟨fun m => m == 3 || m == 7, one gg ga gai⟩
  | 0x38 | 0x47 => some ⟨modNone, one gg ga gai⟩
  | 0x39 => some ⟨modAny, one gg ga (iR 0 7)⟩
  | 0x3A => some ⟨modS0, one [.pair condInt] ga gai⟩
  | 0x3B => some ⟨modAny, one gg gai gai⟩
  | 0x3C => some ⟨modNone, one gg gai no⟩
  | 0x3D => some ⟨modNone, one ga hh hh⟩
  | 0x3E => some ⟨modNone, one gg (iR 0 65535) no⟩
  | 0x3F => some ⟨modHi0, one ga mLea gai⟩
  | 0x40 => some ⟨modNone, one pp pp (iR 0 2047)⟩
  | 0x41 => some ⟨modNone, one pp gai no⟩
  | 0x42 | 0x43 => some ⟨modNone, one gg pp no⟩
  | 0x44 => some ⟨modNone, one aa gai no⟩
  | 0x45 => some ⟨modS0, fun m => if m == 3 || m == 7 then [⟨ge, ga, gai⟩] else [⟨gg, ga, gai⟩]⟩
  | 0x50 | 0x51 | 0x52 | 0x53 | 0x54 => some ⟨modAny, one gg gg gg⟩
  | 0x55 | 0x5E => some ⟨modAny, one gg gg no⟩
  | 0x56 | 0x57 => some ⟨modHi0, one gg gg gg⟩
  | 0x58 => some ⟨modHi0, one [.pair condFp] gg gg⟩
  | 0x59 => some ⟨modAny, one gg gg (iR 0 3)⟩
  | 0x5A | 0x5B => some ⟨modAny, one gg ga (iR 0 7)⟩
  | 0x5C => some ⟨modHi0, one gg gg no⟩
  | 0x5D => some ⟨modLe 11, one gg gg gg⟩
  | 0x5F => some ⟨modAny, one gg gg gai⟩
  | 0x60 => some ⟨modLd, one gg mm no⟩
  | 0x61 => some ⟨modSt, one mm gai no⟩
  | 0x62 => some ⟨modLd, one gg mm dd⟩
  | 0x63 => some ⟨modLe 1, one no m0 no⟩
  | 0x64 => some ⟨modLe 6, one gg ga no⟩
  | 0x65 | 0x66 => some ⟨modHi0, one no ga gai⟩
  | 0x67 => some ⟨modLe 1, fun m => if m.getLsbD 0 then [⟨gg, ga, gai⟩] else [⟨no, ga, gai⟩]⟩
  | 0x68 | 0x69 | 0x6A | 0x6B | 0x6C | 0x6D => some ⟨modAny, atomicForms gg gai⟩
  | 0x6E => some ⟨fun m => m.getLsbD 2, atomicForms gg gai⟩
  | 0x6F => some ⟨fun m => m.getLsbD 2, atomicForms gg ga⟩
  | 0x70 => some ⟨fun m => m == 4 || m == 12, atomicForms ge ge⟩
  | 0x71 => some ⟨fun m => m == 0 || m == 8, one no no no⟩
  | 0x72 | 0x73 | 0x74 => some ⟨modNone, one no m0 [.g, .a, .imm (immRange 0 immMax)]⟩
  | 0x75 => some ⟨modNone, one ge mm no⟩
  | 0x76 => some ⟨modNone, one mm ge no⟩
  | 0x80 => some ⟨modHi0, vf fun _ => no⟩
  | 0x81 => some ⟨modHi0, one vv gai no⟩
  | 0x82 | 0x83 | 0x84 | 0x86 | 0x87 => some ⟨modAny, vf fun x => x ++ gai⟩
  | 0x85 | 0x9A => some ⟨modAny, vf fun x => x ++ gg⟩
  | 0x88 | 0x89 | 0x9B => some ⟨modAny, vf fun _ => no⟩
  | 0x8A | 0x8B | 0x8C => some ⟨modHi0, vf fun x => x ++ gai⟩
  | 0x8D => some ⟨modAny, vf fun x => x ++ gai⟩
  | 0x8E | 0x8F | 0xA7 => some ⟨modS0, vf fun x => x ++ gai⟩
  | 0x90 => some ⟨modAny, one [.pair condAny] vv (vv ++ gai)⟩
  | 0x91 => some ⟨modAny, one vv vv pp⟩
  | 0x92 => some ⟨fun m => !m.getLsbD 0 && !m.getLsbD 1,
      fun m => [⟨vv, vv, [.imm (vcvtImm false m)]⟩, ⟨ff, ff, [.imm (vcvtImm true m)]⟩]⟩
  | 0x93 => some ⟨modHi0, one vv vv vv⟩
  | 0x94 => some ⟨modS0, one vv vv gai⟩
  | 0x95 => some ⟨modAny, fun _ => [⟨gg, vv, iR 0 5⟩, ⟨ff, ff, iR 0 5⟩]⟩
  | 0x96 => some ⟨modHi0, one vv mm no⟩
  | 0x97 => some ⟨modHi0, one mm vv no⟩
  | 0x98 => some ⟨modHi0, one vv m0 vv⟩
  | 0x99 => some ⟨modHi0, one m0 vv vv⟩
  | 0x9C => some ⟨modS0, one gg vv gai⟩
  | 0x9D => some ⟨modHi0, one vv gai gai⟩
  | 0x9E => some ⟨modAny, one vv gai gai⟩
  | 0x9F => some ⟨modNone, one ff mm no⟩
  | 0xA0 => some ⟨modNone, fun _ => [⟨gg, ff, iR 0 7⟩, ⟨mm, ff, no⟩]⟩
  | 0xA1 => some ⟨modLe 10, one ff gai no⟩
  | 0xA2 => some ⟨fun m => m == 0 || m == 8, one vv vv (iR 2 8)⟩
  | 0xA3 => some ⟨modLe 1, one vv vv [.imm vunplImm]⟩
  | 0xA4 => some ⟨fun m => m.toNat % 4 != 3, vf fun _ => iR 0 10⟩
  | 0xA5 => some ⟨modNone, fun _ => [⟨vv, vv, gai⟩, ⟨ge, ge, gai⟩]⟩
  | 0xA6 => some ⟨fun m => m == 2 || m == 3,
      fun m => [⟨vv, vv, if m == 3 then iR 0 0 else iR 0 1⟩, ⟨gg, gg, no⟩]⟩
  | 0xA8 => some ⟨modS0, vf fun _ => no⟩
  | 0xA9 => some ⟨fun m => !m.getLsbD 1, one vv vv vv⟩
  | 0xAA => some ⟨modHi0, one vv vv pp⟩
  | 0xB0 => some ⟨modNone, one tt no no⟩
  | 0xB1 => some ⟨modNone, one tt ff ff⟩
  | 0xB2 => some ⟨modNone, one tt ff no⟩
  | 0xB3 => some ⟨fun m => !m.getLsbD 0 && !m.getLsbD 1, one ff tt no⟩
  | 0xB4 => some ⟨modLe 1, fun m =>
      if m.getLsbD 0 then [⟨tt, tt, no⟩] else [⟨tt, tt, no⟩, ⟨tt, mm, no⟩, ⟨mm, tt, no⟩]⟩
  | 0xB5 => some ⟨modNone, one xx no no⟩
  | 0xB6 => some ⟨modHi0, one xx [.g, .v, .f] no⟩
  | 0xB7 => some ⟨modNone, one xx (xx ++ mm) no⟩
  | 0xB8 => some ⟨fun m => m.getLsbD 1, one gg xx no⟩
  | 0xB9 => some ⟨modNone, fun _ => [⟨gg, xx, iR 0 7⟩, ⟨mm, xx, no⟩]⟩
  | 0xBA => some ⟨fun m => m.toNat % 4 != 3, fun m =>
      if m.toNat % 4 == 0 then [⟨tt, tt, gg⟩] else [⟨tt, tt, ff⟩]⟩
  | 0xC0 => some ⟨modHi0, one no gai gai⟩
  | 0xC1 | 0xCA => some ⟨modNone, one no gai no⟩
  | 0xC2 | 0xC3 => some ⟨modNone, one no gai ge⟩
  | 0xC4 => some ⟨modNone, one ge gai no⟩
  | 0xC5 => some ⟨modAny, one no gai ge⟩
  | 0xC6 => some ⟨modNone, one gai gai gai⟩
  | 0xC8 => some ⟨modLe 1, fun m => if m.getLsbD 0 then [⟨no, gai, no⟩] else [⟨no, no, no⟩]⟩
  | 0xC9 => some ⟨modNone, one gg ga ga⟩
  | 0xCB => some ⟨modNone, one gg gai no⟩
  | 0xCC => some ⟨modNone, one gg ga (gaiR 0 63)⟩
  | 0xD0 | 0xD1 | 0xD2 | 0xD3 | 0xD8 | 0xD9 => some ⟨modLe 1, one no m0 gai⟩
  | 0xD4 => some ⟨modNone, one m0 gai no⟩
  | 0xD5 => some ⟨modNone, one gg m0 (gaiR 0 65535)⟩
  | 0xD6 => some ⟨modNone, one gg gai no⟩
  | 0xD7 => some ⟨modNone, one gg m0 gai⟩
  | 0xE0 => some ⟨modLe 2, fun m =>
      if m == 0 then [⟨no, ga, gai⟩] else if m == 1 then [⟨no, no, gai⟩] else [⟨no, no, no⟩]⟩
  | 0xE1 => some ⟨modNone, one gg (gaiR 0 15) (gaiR 0 7)⟩
  | 0xE2 => some ⟨modNone, one gg (gaiR 0 15) no⟩
  | 0xE3 => some ⟨modLe 1, fun m => if m.getLsbD 0 then [⟨no, gai, no⟩] else [⟨gg, gai, no⟩]⟩
  | 0xE5 => some ⟨modLe 1, fun m =>
      if m.getLsbD 0 then [⟨gg, m0, gaiR 0 65535⟩] else [⟨gg, no, gaiR 0 65535⟩]⟩
  | 0xE6 => some ⟨modHi0, fun m =>
      if m == 0 then [⟨no, no, no⟩] else if m == 3 then [⟨gg, no, no⟩] else [⟨no, m0, gai⟩]⟩
  | 0xE7 => some ⟨modLe 1, fun m => if m.getLsbD 0 then [⟨gg, no, gaiR 0 3⟩] else [⟨gg, m0, gaiR 0 3⟩]⟩
  | 0xE8 => some ⟨modLe 1, one no ga no⟩
  | _ => none

/-- The encoding rows of the engine forms (R320); every other accepted opcode reads as on a slot (R307). -/
def hartRow (opc : Nat) : Option Row :=
  match opc with
  | 0xD0 => some ⟨modLe 1, one mEng mEng [.g, .imm (immRange 1 4096)]⟩
  | 0xD1 => some ⟨modNone, one mEng gg [.g, .imm (immRange 1 4096)]⟩
  | 0xD8 | 0xD9 => some ⟨modNone, one mEng mEng no⟩
  | n => slotRow n

/-- The opcodes a hart accepts (R307). -/
def hartAccepts (opc : Nat) : Bool :=
  decide (opc ≤ 5) || opc == 0x08 || opc == 0x0A || opc == 0x10 || (decide (0x20 ≤ opc) && decide (opc ≤ 0x48))
    || [0x60, 0x61, 0x75, 0x76, 0xD0, 0xD1, 0xD8, 0xD9].contains opc

end Enc

/-- Some alternative of the list accepts the operand. -/
def accepts (alts : List Alt) (o : Operand) : Bool := alts.any (·.has o)

/-- The fields meet the row: a valid MOD and one accepted combination. [log 16, DEDUCED] -/
def Row.ok (r : Row) (f : Fields) : Bool :=
  r.modOk f.mod && (r.forms f.mod).any fun fm =>
    accepts fm.dst f.dst && accepts fm.src1 f.src1 && accepts fm.src2 f.src2

/-- The opcode and the fields of an instruction; none for a machine event or an unassigned word. -/
def Instr.head : Instr → Option (Nat × Fields)
  | .nop f => some (0x00, f)
  | .bra f => some (0x01, f)
  | .call f => some (0x02, f)
  | .jmp f => some (0x03, f)
  | .callr f => some (0x04, f)
  | .ret f => some (0x05, f)
  | .loopI f => some (0x06, f)
  | .loopx f => some (0x07, f)
  | .halt f => some (0x08, f)
  | .yield f => some (0x09, f)
  | .cut f => some (0x0A, f)
  | .waitv f => some (0x0B, f)
  | .waitd f => some (0x0C, f)
  | .trapI f => some (0x0D, f)
  | .syscall f => some (0x0E, f)
  | .eret f => some (0x0F, f)
  | .csrr f => some (0x10, f)
  | .csrw f => some (0x11, f)
  | .csrxSwp f => some (0x12, f)
  | .csrxSet f => some (0x12, f)
  | .csrxClr f => some (0x12, f)
  | .iflush f => some (0x13, f)
  | .barset f => some (0x14, f)
  | .bararr f => some (0x15, f)
  | .barwait f => some (0x16, f)
  | .launch f => some (0x17, f)
  | .preack f => some (0x18, f)
  | .probe f => some (0x19, f)
  | .add f => some (0x20, f)
  | .sub f => some (0x21, f)
  | .mul f => some (0x22, f)
  | .mulh f => some (0x23, f)
  | .div f => some (0x24, f)
  | .rem f => some (0x25, f)
  | .andI f => some (0x26, f)
  | .orI f => some (0x27, f)
  | .xorI f => some (0x28, f)
  | .andn f => some (0x29, f)
  | .orn f => some (0x2A, f)
  | .shl f => some (0x2B, f)
  | .shr f => some (0x2C, f)
  | .sar f => some (0x2D, f)
  | .rol f => some (0x2E, f)
  | .minI f => some (0x2F, f)
  | .maxI f => some (0x30, f)
  | .absI f => some (0x31, f)
  | .negI f => some (0x32, f)
  | .clz f => some (0x33, f)
  | .ctz f => some (0x34, f)
  | .popc f => some (0x35, f)
  | .brev f => some (0x36, f)
  | .bfx f => some (0x37, f)
  | .bfi f => some (0x38, f)
  | .ext f => some (0x39, f)
  | .cmp f => some (0x3A, f)
  | .sel f => some (0x3B, f)
  | .mov f => some (0x3C, f)
  | .movi f => some (0x3D, f)
  | .movh f => some (0x3E, f)
  | .lea f => some (0x3F, f)
  | .plog f => some (0x40, f)
  | .pset f => some (0x41, f)
  | .pget f => some (0x42, f)
  | .pcnt f => some (0x43, f)
  | .amov f => some (0x44, f)
  | .mulw f => some (0x45, f)
  | .madd f => some (0x46, f)
  | .shlf f => some (0x47, f)
  | .bswap f => some (0x48, f)
  | .fadd f => some (0x50, f)
  | .fsub f => some (0x51, f)
  | .fmul f => some (0x52, f)
  | .ffma f => some (0x53, f)
  | .fdiv f => some (0x54, f)
  | .fsqrt f => some (0x55, f)
  | .fmin f => some (0x56, f)
  | .fmax f => some (0x57, f)
  | .fcmp f => some (0x58, f)
  | .fcvt f => some (0x59, f)
  | .fcvi f => some (0x5A, f)
  | .icvf f => some (0x5B, f)
  | .fclass f => some (0x5C, f)
  | .fsgn f => some (0x5D, f)
  | .frnd f => some (0x5E, f)
  | .fscale f => some (0x5F, f)
  | .ld f => some (0x60, f)
  | .st f => some (0x61, f)
  | .lda f => some (0x62, f)
  | .pref f => some (0x63, f)
  | .lsr f => some (0x64, f)
  | .lsw f => some (0x65, f)
  | .lsadd f => some (0x66, f)
  | .amsg f => some (0x67, f)
  | .aadd f => some (0x68, f)
  | .aand f => some (0x69, f)
  | .aor f => some (0x6A, f)
  | .axor f => some (0x6B, f)
  | .amin f => some (0x6C, f)
  | .amax f => some (0x6D, f)
  | .axchg f => some (0x6E, f)
  | .acas f => some (0x6F, f)
  | .acas2 f => some (0x70, f)
  | .fence f => some (0x71, f)
  | .fenceSys f => some (0x71, f)
  | .cflush f => some (0x72, f)
  | .cinv f => some (0x73, f)
  | .cwb f => some (0x74, f)
  | .ld2 f => some (0x75, f)
  | .st2 f => some (0x76, f)
  | .vmov f => some (0x80, f)
  | .vbcast f => some (0x81, f)
  | .vadd f => some (0x82, f)
  | .vsub f => some (0x83, f)
  | .vmul f => some (0x84, f)
  | .vfma f => some (0x85, f)
  | .vmin f => some (0x86, f)
  | .vmax f => some (0x87, f)
  | .vabs f => some (0x88, f)
  | .vneg f => some (0x89, f)
  | .vand f => some (0x8A, f)
  | .vor f => some (0x8B, f)
  | .vxor f => some (0x8C, f)
  | .vshl f => some (0x8D, f)
  | .vshr f => some (0x8E, f)
  | .vsar f => some (0x8F, f)
  | .vcmp f => some (0x90, f)
  | .vsel f => some (0x91, f)
  | .vcvt f => some (0x92, f)
  | .vshuf f => some (0x93, f)
  | .vslide f => some (0x94, f)
  | .vred f => some (0x95, f)
  | .vld f => some (0x96, f)
  | .vst f => some (0x97, f)
  | .vgath f => some (0x98, f)
  | .vscat f => some (0x99, f)
  | .vdiv f => some (0x9A, f)
  | .vsqrt f => some (0x9B, f)
  | .vext f => some (0x9C, f)
  | .vins f => some (0x9D, f)
  | .viota f => some (0x9E, f)
  | .fset f => some (0x9F, f)
  | .fget f => some (0xA0, f)
  | .fadj f => some (0xA1, f)
  | .vplane f => some (0xA2, f)
  | .vunpl f => some (0xA3, f)
  | .sfx f => some (0xA4, f)
  | .rngx f => some (0xA5, f)
  | .rngf f => some (0xA6, f)
  | .vmulh f => some (0xA7, f)
  | .vpopc f => some (0xA8, f)
  | .vdot f => some (0xA9, f)
  | .vcomp f => some (0xAA, f)
  | .mzero f => some (0xB0, f)
  | .mma f => some (0xB1, f)
  | .mld f => some (0xB2, f)
  | .mst f => some (0xB3, f)
  | .mmov f => some (0xB4, f)
  | .xclr f => some (0xB5, f)
  | .xacc f => some (0xB6, f)
  | .xadd f => some (0xB7, f)
  | .xrnd f => some (0xB8, f)
  | .xget f => some (0xB9, f)
  | .mscl f => some (0xBA, f)
  | .capnew f => some (0xC0, f)
  | .capsend f => some (0xC1, f)
  | .caphead f => some (0xC2, f)
  | .cappush f => some (0xC3, f)
  | .cappop f => some (0xC4, f)
  | .capset f => some (0xC5, f)
  | .capsplit f => some (0xC6, f)
  | .capend f => some (0xC7, f)
  | .capnext f => some (0xC8, f)
  | .capplace f => some (0xC9, f)
  | .capinj f => some (0xCA, f)
  | .capget f => some (0xCB, f)
  | .capkey f => some (0xCC, f)
  | .xcopy f => some (0xD0, f)
  | .xfill f => some (0xD1, f)
  | .xgath f => some (0xD2, f)
  | .xscat f => some (0xD3, f)
  | .arrset f => some (0xD4, f)
  | .await f => some (0xD5, f)
  | .equery f => some (0xD6, f)
  | .eload f => some (0xD7, f)
  | .xcmpr f => some (0xD8, f)
  | .xdcmp f => some (0xD9, f)
  | .tlbinvVa f => some (0xE0, f)
  | .tlbinvCtx f => some (0xE0, f)
  | .tlbinvAll f => some (0xE0, f)
  | .decant f => some (0xE1, f)
  | .stkq f => some (0xE2, f)
  | .slotctlRd f => some (0xE3, f)
  | .slotctlStop f => some (0xE3, f)
  | .hostint f => some (0xE4, f)
  | .ckptqTest f => some (0xE5, f)
  | .ckptqTake f => some (0xE5, f)
  | .jrnlOff f => some (0xE6, f)
  | .jrnlRec f => some (0xE6, f)
  | .jrnlRpl f => some (0xE6, f)
  | .jrnlStat f => some (0xE6, f)
  | .faultqPop f => some (0xE7, f)
  | .faultqCnt f => some (0xE7, f)
  | .resume f => some (0xE8, f)
  | .resumeFail f => some (0xE8, f)
  | .hartXcopy f => some (0xD0, f)
  | .hartXfill f => some (0xD1, f)
  | .hartXcmpr f => some (0xD8, f)
  | .hartXdcmp f => some (0xD9, f)
  | .hartHalt f => some (0x08, f)
  | _ => none

/-- The instruction is one of the forms that only an engine hart runs (R307, R319). -/
def Instr.hartOnly : Instr → Bool
  | .hartXcopy _ | .hartXfill _ | .hartXcmpr _ | .hartXdcmp _ | .hartHalt _ => true
  | _ => false

/-- The operand names a register or CSR that a hart has (R306, R307). -/
def hartHas : Operand → Bool
  | .g n => decide (n.toNat < 16)
  | .csr n => n == 2 || (decide (0xF0 ≤ n.toNat) && decide (n.toNat ≤ 0xF7))
  | _ => true

/-- The mnemonic selected by MOD agrees with the fields (rows of one opcode that MOD tells apart). -/
def Instr.modAgrees : Instr → Bool
  | .csrxSwp f | .tlbinvVa f | .slotctlRd f | .ckptqTest f | .jrnlOff f | .faultqPop f | .resume f => f.mod == 0
  | .csrxSet f | .tlbinvCtx f | .slotctlStop f | .ckptqTake f | .jrnlRec f | .faultqCnt f | .resumeFail f => f.mod == 1
  | .csrxClr f | .tlbinvAll f | .jrnlRpl f => f.mod == 2
  | .jrnlStat f => f.mod == 3
  | .fence f => !f.mod.getLsbD 3
  | .fenceSys f => f.mod.getLsbD 3
  | _ => true

/-- A well-formed instruction: one that some word encodes. Machine events have no word and are always well formed. -/
def Instr.wf (i : Instr) : Bool :=
  match i with
  | .unassignedOpcode w => (Enc.slotRow (w.extractLsb' 88 8).toNat).isNone
  | _ =>
    match i.head with
    | some (opc, f) =>
      i.modAgrees && (!i.hartOnly || (hartHas f.dst && hartHas f.src1 && hartHas f.src2))
        && (match (if i.hartOnly then Enc.hartRow opc else Enc.slotRow opc) with
        | some r => r.ok f
        | none => false)
    | none => true

end Sys2Proof
end

