-- ==== Sys2Proof/Machine/Ops.lean ====
section
/-! DEFINITION. How an instruction ends: guard, hints, the next program counter, cuts; taking a trap and returning from one (01 R22 to R26, 03 R72 R73 R75, 04 R94, 09 R213 R214 R227, 14 R334 R338). -/

namespace Sys2Proof.Machine

/-- What an instruction comes to. -/
inductive Eff where
  /-- It completes; the next program counter is that of R94. -/
  | done (s : State)
  /-- It completes and transfers control. -/
  | jump (s : State) (pc : Word)
  /-- A progress step of a long instruction; the program counter stays (R134, R160). -/
  | step (s : State)
  /-- It faults (R227). -/
  | trap (s : State) (t : Trap)
  /-- It needs a cut before it, and then issues again in the next chunk. -/
  | cut (s : State) (code : Byte)
  /-- It is an edge access and something precedes it (R228). -/
  | edge (s : State)
  /-- It is a solo step and something precedes it (R236). -/
  | solo (s : State) (code : Byte)
  /-- Its turn is idle; it issues again (R22). -/
  | stay (s : State)
  /-- The slot's own state already says what comes next: parked, squashed or ended. -/
  | left (s : State)

/-- An instruction's steps that may end it. -/
abbrev Res (α : Type) := Except Eff (α × State)

/-- The steps that follow a step. -/
def Res.andThen {α β : Type} (r : Res α) (f : α → State → Res β) : Res β :=
  match r with
  | .ok (x, s) => f x s
  | .error e => .error e

/-- What the instruction comes to after its steps. -/
def Res.fin {α : Type} (r : Res α) (f : α → State → Eff) : Eff :=
  match r with
  | .ok (x, s) => f x s
  | .error e => e

/-- The guard's lanes: Pg with NEG applied (R25). -/
def State.guardMask (s : State) (f : Fields) : Word :=
  if f.neg then ~~~(s.getP f.grd) else s.getP f.grd

/-- The scalar guard (R25). -/
def State.guard (s : State) (f : Fields) : Bool := (s.guardMask f).getLsbD 0

/-- Some of the first n lanes is active (R25). -/
def State.anyLane (s : State) (f : Fields) (n : Nat) : Bool := fieldNat (s.guardMask f) 0 n != 0

/-- The dead-bit position of a register operand (R72); none for any other operand. -/
def operandDead : Operand → Option Nat
  | .g n => some (deadG n)
  | .v n => some (deadV n)
  | .p n => some (deadP n)
  | .a n => some (deadA n)
  | _ => none

/-- The A register that a memory operand updates (R13). -/
def operandUpdates : Operand → Option (BitVec 3)
  | .mem an m _ => if m = .offset then none else some an
  | _ => none

/-- Opcodes whose DST field, or whose SRC1 or SRC2 field, names an even-odd pair of G registers. -/
def pairDst (opc : Nat) (m : BitVec 4) : Bool :=
  opc == 0x75 || opc == 0x70 || opc == 0xC4 || (opc == 0x45 && (m == 3 || m == 7)) || opc == 0xA5
def pairSrc1 (opc : Nat) : Bool := opc == 0x76 || opc == 0xA5
def pairSrc2 (opc : Nat) : Bool := opc == 0x70 || opc == 0xC2 || opc == 0xC3 || opc == 0xC5

/-- The G registers that an operand names. -/
def gsOf (o : Operand) (pair : Bool) : List (BitVec 5) :=
  match o with
  | .g n => if pair then [n, n + 1] else [n]
  | _ => []

/-- The G registers that an instruction reads or writes (R122). -/
def gUsed (opc : Nat) (f : Fields) : List (BitVec 5) :=
  gsOf f.dst (pairDst opc f.mod) ++ gsOf f.src1 (pairSrc1 opc) ++ gsOf f.src2 (pairSrc2 opc)
    ++ (if opc == 0x02 || opc == 0x04 then [31] else [])

/-- Dead-bit positions that the instruction writes: a value written is live again (R72). -/
def wroteMask (opc : Nat) (f : Fields) : BitVec 64 :=
  let gs := if opc == 0xC6 then [] else gsOf f.dst (pairDst opc f.mod) ++ (if opc == 0x02 || opc == 0x04 then [31] else [])
  let m := gs.foldl (fun (m : BitVec 64) n => m ||| (1#64 <<< deadG n)) 0
  let m := match f.dst with
    | .v n => m ||| (1#64 <<< deadV n)
    | .p n => m ||| (1#64 <<< deadP n)
    | .pp t c _ => m ||| (1#64 <<< deadP t) ||| (1#64 <<< deadP c)
    | .a n => m ||| (1#64 <<< deadA n)
    | _ => m
  [f.dst, f.src1, f.src2].foldl (fun m o => match operandUpdates o with
    | some n => m ||| (1#64 <<< deadA n)
    | none => m) m

/-- The last-read hints of a completed instruction are noted for the chunk's grant (R72). -/
def State.hint (s : State) (opc : Nat) (f : Fields) : State :=
  let one (on : Bool) (o : Operand) : BitVec 64 := match on, operandDead o with
    | true, some n => 1#64 <<< n
    | _, _ => 0
  let m := (one f.lr1 f.src1 ||| one f.lr2 f.src2) &&& ~~~(wroteMask opc f)
  if m = 0 then s else s.setChunk { s.chunk with deadSet := s.chunk.deadSet ||| m }

/-- Loop ends at address a: the next program counter and the registers after it, over the levels listed (R94). -/
def loopEnds (a next : Word) : List Nat → Regs → Word × Regs
  | [], r => (next, r)
  | n :: ns, r =>
    if h : n < 4 then
      if r.lact.getLsbD n && r.le[n] == a then
        let c := r.lc[n] - 1
        let r := { r with lc := r.lc.set n c h }
        if c != 0 then (r.lb[n], r)
        else loopEnds a next ns { r with lact := r.lact &&& ~~~(1#4 <<< n) }
      else loopEnds a next ns r
    else (next, r)

/-- The program counter after an instruction that transfers no control (R94). -/
def Regs.advance (r : Regs) : Regs :=
  let (pc, r) := loopEnds r.pc (r.pc + 12) [0, 1, 2, 3] r
  { r with pc := pc }

/-- Snapshots taken at trap entry (R330). -/
def snapDeadv (dead : BitVec 64) : BitVec 32 :=
  (dead.extractLsb' 56 8 ++ 0#1 ++ dead.extractLsb' 48 7 ++ dead.extractLsb' 32 16 : BitVec 32)

def snapFvalid (r : Regs) : BitVec 32 :=
  (List.range 32).foldl (fun m n => if h : n < 32 then (if r.forms[n].isSome then m ||| (1#32 <<< n) else m) else m) 0

/-- The registers after taking a trap (R334). -/
def Regs.trapped (r : Regs) (t : Trap) : Regs :=
  { r with
    trapcause := t.cause, trappc := r.pc &&& ~~~(3#64), trapaddr := t.addr, trapinfo := t.info
    deadg := r.dead.extractLsb' 0 32, deadv := snapDeadv r.dead, fvalid := snapFvalid r
    ppriv := r.priv, inh := true, priv := true, pc := r.trapvec }

/-- A trap is taken once its prefix is granted: the handler begins in a new chunk, or with no handler or INH set the launch is aborted (R334). -/
def State.takeTrap (s : State) (c : CoreId) (k : SlotId) (t : Trap) : State :=
  let y := s.slot c k
  if y.regs.trapvec = 0 ∨ y.regs.inh = true then
    let r := { s.slotRec c k t.cause 1 with
      sub := t.info.setWidth 8, dbl := y.regs.inh, va := t.addr, entry := t.entry
      lvl := if t.cause = 0x06 then fieldNat t.info 0 3 else 0 }
    let s := s.setSlot c k { y with park := .idle }
    (s.report (towerOf c) r).abortLaunch (entrySeq y.entry)
  else
    let sqc := if t.cause = 0x10 then 0 else y.sqc
    (s.setSlot c k { y with regs := y.regs.trapped t, chunk := {}, park := .ready, sqc := sqc }).postTurn c k

/-- The registers after a return from a trap (R338). -/
def Regs.returned (r : Regs) : Regs :=
  { r with pc := r.trappc, priv := r.ppriv, inh := false, awr := false }

/-- Causes that a capsule visit traps with; any other strands the capsule (R253). -/
def visitTraps (cause : Byte) : Bool := cause == 0x0E || cause == 0x0F || cause == 0x12

/-- A fault of a slot in a capsule visit strands the capsule (R253). -/
def Slot.strands (y : Slot) (t : Trap) : Bool := y.regs.vis && entryCapr y.entry && !visitTraps t.cause

/-- What follows the prefix of a fault. -/
def Slot.afterFault (y : Slot) (t : Trap) : After := if y.strands t then .strand t else .trap t

/-- The slot is to stop, or is pre-empted with INH = 0: what it has not yet performed is abandoned (R210, R346). -/
def Slot.truncates (y : Slot) : Bool := y.stopping || (y.preempt && !y.regs.inh)

/-- What a parked slot becomes when its cut chunk has been granted, with the event that performs it. -/
def State.resumeAfter (s : State) (c : CoreId) (k : SlotId) (a : After) : State :=
  let y := s.slot c k
  match a with
  | .go => s.wake c k
  | .stop => s
  | .trap t => (s.setSlot c k { y with park := .trap t }).postEvent (.slot c k) .trapEntry
  | .strand t =>
    let s := s.setSlot c k { y with park := .strand t }
    let x := s.core c
    let b := x.bays.get y.regs.bay.toFin
    (s.setCore c { x with bays := x.bays.set y.regs.bay.toNat { b with st := .stranding } y.regs.bay.isLt }).postEvent
      (.slot c k) .capsuleVisitStrand
  | .read m x => (s.setSlot c k { y with park := .read m x }).postOnce (.core c) .lsrRequestService
  | .solo i =>
    if y.truncates then s.wake c k else (s.setSlot c k { y with park := .solo i }).postEvent (.slot c k) .soloStep
  | .edge i =>
    if y.truncates then s.wake c k else (s.setSlot c k { y with park := .edge i }).postEvent (.slot c k) .edgeAccess

/-- A slot waits for the grant of everything before it and then does something: at the grant of the waiting chunk, or by cutting the open chunk, or, when D0 to D3 or an earlier chunk forbid the cut, by issuing again (R123, R219). -/
def State.afterGrant (s : State) (c : CoreId) (k : SlotId) (code : Byte) (a : After) : State :=
  let y := s.slot c k
  if y.chunk.isEmpty then
    if y.waiting.isNone then s.resumeAfter c k a
    else s.setSlot c k { y with park := .grant a }
  else if y.canCut then s.cutChunk c k code (some a)
  else s.postTurn c k

/-- A fault at the next instruction or step: truncate, commit the prefix, then trap (R227). -/
def State.raise (s : State) (c : CoreId) (k : SlotId) (t : Trap) : State :=
  match s.showProgress c k t.prog with
  | (s, false) => s
  | (s, true) =>
    let y := s.slot c k
    if y.alone && !y.strands t then s.takeTrap c k t
    else s.afterGrant c k 0x0A (y.afterFault t)

/-- A fault that falls due for a slot outside its turn: at once, at the grant of what precedes it, or as soon as its chunk can be cut (R227, R343). -/
def State.trapDue (s : State) (c : CoreId) (k : SlotId) (t : Trap) : State :=
  match (s.setSlot c k { s.slot c k with park := .ready }).showProgress c k t.prog with
  | (s, false) => s
  | (s, true) =>
  let y := s.slot c k
  if !y.chunk.isEmpty && !y.canCut then
    (s.setSlot c k { y with cutDue := some { code := 0x0A, after := some (y.afterFault t) } }).postTurn c k
  else s.raise c k t

/-- A cut that fell due after an instruction is made as soon as D0 to D3 and the earlier chunk allow (R123, R219); a chunk without an instruction commits nothing and records no code (R214). -/
def State.tryCut (s : State) (c : CoreId) (k : SlotId) : State :=
  let y := s.slot c k
  match y.cutDue with
  | none => s.postTurn c k
  | some d =>
    if y.chunk.isEmpty then
      let s := s.setSlot c k { y with cutDue := none }
      match d.after with
      | none => s.postTurn c k
      | some a => s.afterGrant c k d.code a
    else if y.canCut then
      let s := s.cutChunk c k d.code d.after
      if d.after.isNone then s.postTurn c k else s
    else s.postTurn c k

/-- A cut noted for after the instruction; an instruction's own reason stands first (R214). -/
def Slot.due (y : Slot) (code : Byte) (after : Option After) : Slot :=
  if y.cutDue.isNone then { y with cutDue := some { code := code, after := after } } else y

def State.setDue (s : State) (code : Byte) (after : Option After) : State :=
  match s.cur with
  | .slot c k => s.setSlot c k ((s.slot c k).due code after)
  | .engine e => s.setEngine e { s.engine e with cutAfter := true }
  | _ => s

/-- One more instruction or step in the open chunk (R213). -/
def Slot.lengthened (y : Slot) : Slot := { y with chunk := { y.chunk with len := y.chunk.len + 1 } }

/-- The length has reached EFF: the chunk is cut after the instruction, with code 0x01 or, when squashes have lowered EFF, 0x0D (R213, R214, R224). -/
def Slot.lengthDue (y : Slot) : Slot :=
  if y.eff.toNat ≤ y.chunk.len then y.due (if y.eff = y.regs.target then 0x01 else 0x0D) none else y

/-- The length has reached that of the replayed record (R243). -/
def Slot.replayDue (y : Slot) (len : Option Nat) : Slot := if len = some y.chunk.len then y.due 0x0F none else y

/-- A cut hint, which the device may take (R73). [log 92, DESIGN CHOICE] -/
def State.hintDue (s : State) (c : CoreId) (k : SlotId) (cb : Bool) : State :=
  if cb then
    let r := s.choose 2
    if r.1 = 1 then r.2.setSlot c k ((r.2.slot c k).due 0x01 none) else r.2
  else s

/-- An instruction or step has completed: the length counts it, and the chunk is cut when its length, a hint taken or a replayed length says so (R213, R214, R73, R243). After a solo step or edge access a new chunk begins instead (R211, R228). -/
def State.counted (s : State) (c : CoreId) (k : SlotId) (cb : Bool) : State :=
  let y := s.slot c k
  if y.chunk.solo then
    let s := s.freshChunk c k
    if y.park = .ready then s.postTurn c k else s
  else
    let s := (s.setSlot c k (y.lengthened.lengthDue.replayDue (s.replayLen c k))).hintDue c k cb
    if y.park = .ready then s.tryCut c k else s

/-- The codes whose cut parks the slot until the cut chunk has been granted (R219). -/
def cutParks (code : Byte) : Bool := code == 0x0E || (decide (6 ≤ code.toNat) && decide (code.toNat ≤ 9))

/-- In replay, a chunk that meets a capacity limit waits for its record and is granted before the slot goes on (R243). -/
def State.replayHolds (s : State) (c : CoreId) (k : SlotId) (code : Byte) : Bool :=
  (s.journal (entryCtx (s.slot c k).entry)).rpl && (code == 2 || code == 3 || code == 4)

/-- The slot is parked by an instruction that is being performed and completes when the wait ends; its hints count from then on (R72). -/
def Park.performs (p : Park) : Bool :=
  match p with
  | .waitv .. | .await .. | .remote .. | .eload .. | .decant .. => true
  | _ => false

/-- The consequence of an instruction's effect for a slot. -/
def concludeSlot (c : CoreId) (k : SlotId) (opc : Nat) (i : Instr) (f : Fields) (e : Eff) : State :=
  match e with
  | .done s => ((s.hint opc f).setRegs (s.hint opc f).regs.advance).counted c k f.cb
  | .jump s pc => ((s.hint opc f).setPc pc).counted c k f.cb
  | .step s => s.counted c k false
  | .trap s t => s.raise c k t
  | .cut s code =>
    if !(s.slot c k).chunk.isEmpty && (s.slot c k).canCut then
      if cutParks code || s.replayHolds c k code then s.cutChunk c k code (some .go) else (s.cutChunk c k code none).postTurn c k
    else s.postTurn c k
  | .edge s => s.afterGrant c k 0x07 (.edge i)
  | .solo s code => s.afterGrant c k code (.solo i)
  | .stay s => (if (s.slot c k).chunk.solo then s.freshChunk c k else s).postTurn c k
  | .left s => if (s.slot c k).park.performs then s.hint opc f else s

/-- An engine's instruction or step has completed: the limits of its chunk are looked at; a step that ran alone has its effect already, and nothing of it can be squashed (R311, R228). -/
def State.ecounted (s : State) (e : EngineId) : State :=
  let x := s.engine e
  let x := { x with chunk := { x.chunk with len := x.chunk.len + 1 } }
  if x.chunk.solo then
    let chunk : Chunk :=
      { chk := x.regs, start := x.chunk.start, len := x.chunk.len, effects := x.chunk.effects, opened := true, solo := true }
    (s.setEngine e { x with chunk := chunk, cutAfter := false }).engineCut e [] none
  else if x.cutAfter || decide (x.limCount ≤ x.chunk.len) then
    (s.setEngine e { x with cutAfter := false }).engineCut e [] none
  else (s.setEngine e x).postEturn e

/-- An engine that holds on a page: the prefix of its chunk is cut and commits (R315). -/
def State.engineHeld (s : State) (e : EngineId) : State :=
  let x := s.engine e
  match x.park with
  | .held _ _ _ =>
    if x.chunk.isEmpty || x.waiting then s
    else
      let s := s.engineCut e [] none
      s.setEngine e { s.engine e with park := x.park }
  | _ => s

/-- The consequence of an instruction's effect for an engine hart (R307, R311, R315); addresses of control transfers are modulo 2^16 (R306). -/
def concludeEngine (e : EngineId) (eff : Eff) : State :=
  match eff with
  | .done s => (s.setPc ((s.regs.pc + 12) &&& 0xFFFF)).ecounted e
  | .jump s pc => (s.setPc (pc &&& 0xFFFF)).ecounted e
  | .step s => s.ecounted e
  | .trap s t => s.engineAbort e t.cause.toNat t
  | .cut s _ | .edge s | .solo s _ =>
    if (s.engine e).chunk.isEmpty then s.postEturn e else s.engineCut e [] none
  | .stay s => s.postEturn e
  | .left s => s.engineHeld e

/-- Nothing precedes the agent's next access, and every earlier chunk is granted (R228, R236). [log 17, DEDUCED] -/
def State.isAlone (s : State) : Bool :=
  match s.cur with
  | .slot c k => (s.slot c k).alone
  | .engine e => (s.engine e).chunk.isEmpty && !(s.engine e).waiting
  | _ => true

/-- The opcodes that need supervisor level (R329). -/
def privileged (opc : Nat) : Bool :=
  [0x0F, 0x18, 0x73, 0xD7, 0xE0, 0xE1, 0xE3, 0xE4, 0xE5, 0xE6, 0xE7, 0xE8].contains opc

/-- TRAPINFO of an Illegal Encoding (R332). -/
def illegal (check field sub : Nat) : Trap :=
  { cause := 0x01, info := BitVec.ofNat 64 (check + 256 * sub + 65536 * field) }

/-- The opcode of an instruction. -/
def opcOf (i : Instr) : Nat := match i.head with
  | some (opc, _) => opc
  | none => 0

/-- One of the registers is pending: an LDA or an awaited remote result will write it (R122, R338). -/
def Slot.pending (y : Slot) (gs : List (BitVec 5)) : Bool :=
  (y.ldas.any fun l => gs.contains l.g) || (match y.awaiting with
    | some d => gs.contains d
    | none => false)

/-- An instruction issues: the privilege check of R75, then the guard over its lanes, then the pending registers of R122, then its body. -/
def issue (i : Instr) (f : Fields) (lanes : Nat) (s : State) (body : State → Eff) : Host.Outcome State Fault Refusal :=
  match s.cur with
  | .slot c k =>
    let eff :=
      if privileged (opcOf i) && !s.priv then .trap s { cause := 0x03 }
      else if !s.anyLane f lanes then .done s
      else if (s.slot c k).pending (gUsed (opcOf i) f) then .stay s
      else body s
    let f' := if s.anyLane f lanes then f else { f with lr1 := false, lr2 := false }
    .next (concludeSlot c k (opcOf i) i f' eff)
  | .engine e => .next (concludeEngine e (if s.anyLane f lanes then body s else .done s))
  | _ => .fault .wrongAgent

/-- A scalar instruction issues (R25). -/
def scalar (i : Instr) (f : Fields) (s : State) (body : State → Eff) : Host.Outcome State Fault Refusal :=
  issue i f 1 s body

/-- The instruction needs every earlier chunk granted and runs alone, in no chunk; a new chunk follows (R214 codes 0x06 and 0x0E). [log 17, DEDUCED] -/
def State.serial (s : State) (code : Byte) (body : State → Eff) : Eff :=
  if s.isAlone then body (s.setChunk { s.chunk with solo := true })
  else if s.chunk.isEmpty then .stay s
  else .cut s code

/-- The instruction begins a chunk of its own: every earlier chunk is granted and nothing precedes it in its chunk (R205, R214). -/
def State.beginsChunk (s : State) (code : Byte) (body : State → Eff) : Eff :=
  if s.isAlone then body s else if s.chunk.isEmpty then .stay s else .cut s code

/-- An instruction that has completed is the last of its chunk (R214). -/
def Eff.due (e : Eff) (code : Byte) : Eff :=
  match e with
  | .done s => .done (s.setDue code none)
  | .jump s pc => .jump (s.setDue code none) pc
  | e => e

/-- A serialising instruction is the only one of its chunk (R214 code 0x0E); one that faults leaves no chunk to cut. [log 17, DEDUCED] -/
def State.ownChunk (s : State) (body : State → Eff) : Eff :=
  s.beginsChunk 0x0E fun s => (body s).due 0x0E

end Sys2Proof.Machine
end

