-- ==== Sys2Proof/Machine/Device.lean ====
section
/-! DEFINITION. Device control space: the registers of R190, R341, R350, R366, R368, R390, R399, R401, R403, R416, R419 as 64-bit words, with the access codes of 00_scope.md R5. -/

namespace Sys2Proof.Machine

/-- The capacity of a command queue (R190). -/
def Queue.size (q : Queue) : Nat := 2 ^ max 4 q.logn.toNat

/-- The virtual address of record n of a queue's ring (R190). -/
def Queue.slotAt (q : Queue) (n : BitVec 32) : Word := q.base + BitVec.ofNat 64 (32 * (n.toNat % q.size))

/-- A ring record that cannot be read or written stops the queue (R190). [log 72, DEDUCED] -/
def State.stopQueue (s : State) (t : TowerId) (q : QueueId) : State :=
  s.setQueue t q { s.queue t q with en := false, busy := false }

/-- The context is pre-empted: its launches are not placed and its records not taken until resume (R423). -/
def State.ctxStopped (s : State) (n : CtxId) : Bool := (s.ctx n).preempting.isSome || (s.saves.find n.toNat).isSome

/-- The event that takes a record with operation code op (R191). -/
def cmdEvent (op : Nat) : Instr :=
  match op with
  | 0 => .cmdNop
  | 1 => .cmdLaunch
  | 2 => .cmdWait
  | 3 => .cmdSignal
  | _ => .cmdBadOperation

/-- The Nose looks at the record at HEAD and goes to its operation (R191, R192); one record at a time, and none after the halt of an alarm (R420). While the record's stack is handed over, an event looks again. [log 85, DEDUCED] -/
def State.queueNext (s : State) (t : TowerId) (q : QueueId) : State :=
  let y := s.queue t q
  if !y.en || y.busy || y.head == y.tail || s.svc.halted || s.ctxStopped y.ctx then s
  else match s.noseAt t y.ctx (y.slotAt y.head) false with
    | .fail => s.stopQueue t q
    | .wait => (s.setQueue t q { y with busy := true }).postEvent (.queue t q) .cmdNop
    | .at_ l => (s.setQueue t q { y with busy := true }).postEvent (.queue t q) (cmdEvent (leNat (s.bytesAt l 1)))

/-- TAIL is written: the doorbell (R190). -/
def State.doorbell (s : State) (t : TowerId) (q : QueueId) (tail : BitVec 32) : State :=
  (s.setQueue t q { s.queue t q with tail := tail }).queueNext t q

/-- The deferred records of a fault queue can be looked at again (R341). -/
def State.faultqAgain (s : State) (t : TowerId) : State :=
  if (s.faultq t).wait.isEmpty then s else s.postOnce (.tower t) .faultRecordDeferredWrite

/-- Which register word an offset in device control space names; regions by bits 27 to 24 (R390). -/
inductive Reg where
  | queue (t : TowerId) (q : QueueId) (w : Nat)
  | faultq (t : TowerId) (w : Nat)
  | ctx (n : CtxId) (w : Nat)
  | diepart (d : DieId)
  | stack (m : StackId)
  | pkgbar (n : CtxId)
  | route (p : Byte)
  | port (p : BitVec 4)
  | msix (v : BitVec 11) (hi : Bool)
  | pba (n : Nat)
  | monstat (d : DieId) (hi : Bool)
  | alarm
  | none
  deriving DecidableEq, Repr

/-- The register at a byte offset aligned to 8. The status of Ouvken port p lies behind the route table. [log 114, DESIGN CHOICE] -/
def regAt (off : Nat) : Reg :=
  let r := off / 2 ^ 24
  let o := off % 2 ^ 24
  if r = 1 then
    if o < 0x40000 ∧ o % 0x10000 < 0x1000 then .queue (BitVec.ofNat 2 (o / 0x10000)) (BitVec.ofNat 6 (o % 0x10000 / 0x40)) (o % 0x40 / 8)
    else .none
  else if r = 2 then
    if o < 0x40000 ∧ o % 0x10000 < 0x40 then .faultq (BitVec.ofNat 2 (o / 0x10000)) (o % 0x40 / 8) else .none
  else if r = 3 then
    if o < 0x40000 then .ctx (BitVec.ofNat 12 (o / 0x40)) (o % 0x40 / 8) else .none
  else if r = 4 then
    if o < 0x200 ∧ o % 0x40 < 8 then .diepart (BitVec.ofNat 3 (o / 0x40)) else .none
  else if r = 5 then
    if o < 0x400 ∧ o % 0x40 < 8 then .stack (BitVec.ofNat 4 (o / 0x40)) else .none
  else if r = 6 then
    if o < 0x40000 ∧ o % 0x40 < 8 then .pkgbar (BitVec.ofNat 12 (o / 0x40)) else .none
  else if r = 7 then
    if o < 0x800 then .route (BitVec.ofNat 8 (o / 8)) else if o < 0x880 then .port (BitVec.ofNat 4 (o / 8)) else .none
  else if r = 9 then
    if o < 0x8000 then .msix (BitVec.ofNat 11 (o / 16)) (decide (o % 16 = 8))
    else if o < 0x8100 then .pba ((o - 0x8000) / 8) else .none
  else if r = 10 then
    if o < 0x200 ∧ o % 0x40 < 16 then .monstat (BitVec.ofNat 3 (o / 0x40)) (decide (o % 0x40 = 8))
    else if o = 0x400 then .alarm else .none
  else .none

/-- MONSTAT words (R416). -/
def Die.monLo (d : Die) : Word := (d.cecnt ++ d.rosc ++ 0#14 ++ d.tidx ++ d.tmax : BitVec 64)
def Die.monHi (d : Die) : Word := (0#32 ++ d.vmin ++ 0#4 ++ d.throt : BitVec 64)

/-- ALARM (R419). -/
def Service.alarm (v : Service) : Word := (0#16 ++ v.num ++ v.cause ++ 0#5 ++ BitVec.ofBool v.lock ++ v.pol : BitVec 64)

/-- The owner register of a stack (R366). -/
def State.ownerReg (s : State) (m : StackId) : Word :=
  let k := s.stack m
  (0#32 ++ k.rej ++ 0#1 ++ stackDie1 m ++ 0#1 ++ stackDie0 m ++ k.epoch ++ 0#5 ++ BitVec.ofNat 2 k.st.code
    ++ BitVec.ofBool k.port : BitVec 64)

/-- The value of a register word. -/
def State.regRead (s : State) (r : Reg) : Word :=
  match r with
  | .queue t q w =>
    let y := s.queue t q
    match w with
    | 0 => y.base
    | 1 => (0#20 ++ y.ctx ++ 0#6 ++ y.cls ++ y.weight ++ 0#7 ++ BitVec.ofBool y.en ++ 0#4 ++ y.logn : BitVec 64)
    | 2 => (y.head ++ y.tail : BitVec 64)
    | 3 => (0#32 ++ y.lastseq : BitVec 64)
    | _ => 0
  | .faultq t w =>
    let y := s.faultq t
    match w with
    | 0 => y.base
    | 1 => (0#54 ++ BitVec.ofBool y.irq ++ BitVec.ofBool y.en ++ 0#4 ++ y.logn : BitVec 64)
    | 2 => (y.cons ++ y.prod : BitVec 64)
    | 3 => y.drop
    | _ => 0
  | .ctx n w =>
    let y := s.ctx n
    match w with
    | 0 => y.save
    | 1 => (0#60 ++ BitVec.ofBool y.dcnt ++ y.part : BitVec 64)
    | 2 => y.ptroot
    | _ => 0
  | .diepart d => (s.die d).part.setWidth 64
  | .stack m => s.ownerReg m
  | .pkgbar n =>
    let y := s.pkgBar n
    (0#16 ++ y.bmask ++ 0#7 ++ y.npkg ++ y.master ++ y.group : BitVec 64)
  | .route p =>
    let (port, v) := s.routes.look (0, false) p.toNat
    (0#59 ++ BitVec.ofBool v ++ port : BitVec 64)
  | .port p => (BitVec.ofBool (s.ports.look {} p.toNat).up).setWidth 64
  | .msix v hi => if hi then (s.host.entry v.toNat).extractLsb' 64 64 else (s.host.entry v.toNat).extractLsb' 0 64
  | .pba n => s.host.pending.extractLsb' (64 * n) 64
  | .monstat d hi => if hi then (s.die d).monHi else (s.die d).monLo
  | .alarm => s.svc.alarm
  | .none => 0

/-- A write of the bytes selected by a mask: the others keep their value. -/
def merge (old x mask : Word) : Word := (old &&& ~~~mask) ||| (x &&& mask)

/-- A slot of the die is bound (R368): from its bind record until its entry is freed. -/
def State.dieBusy (s : State) (d : DieId) : Bool :=
  s.allSlots.any fun (c, k) =>
    let st := entryState (s.slot c k).entry
    dieOf c == d && (st == stBound || st == stRun || st == stDone || st == stSaved)

/-- The pending interrupts that are no longer masked are sent by the port (R399). -/
def State.flushPending (s : State) : State :=
  (List.range 2048).foldl (fun s v =>
    if s.host.pending.getLsbD v && s.host.enabled && !s.host.fmask && !(s.host.entry v).getLsbD 96 then
      s.postOnce .none (.msixPendingSend (BitVec.ofNat 11 v))
    else s) s

/-- A write to DIEPART: ignored while a slot of the die is bound (R368). -/
def State.writeDiepart (s : State) (d : DieId) (x : Word) : State :=
  if s.dieBusy d then s else s.setDie d { s.die d with part := x.extractLsb' 0 3 }

/-- A write to a queue's control block (R190): BASE, LOGN, CTX and CLASS only while EN = 0; TAIL rings the doorbell. [log 108, DEDUCED] -/
def State.writeQueue (s : State) (t : TowerId) (q : QueueId) (w : Nat) (x mask : Word) : State :=
  let y := s.queue t q
  let v := merge (s.regRead (.queue t q w)) x mask
  match w with
  | 0 => if y.en then s else s.setQueue t q { y with base := v }
  | 1 =>
    let y := if y.en then y else { y with logn := v.extractLsb' 0 4, cls := v.extractLsb' 24 2, ctx := v.extractLsb' 32 12 }
    (s.setQueue t q { y with weight := v.extractLsb' 16 8, en := v.getLsbD 8 }).queueNext t q
  | 2 => if mask.extractLsb' 0 32 = 0 then s else s.doorbell t q (v.extractLsb' 0 32)
  | _ => s

/-- A write to a fault queue's control block (R341). -/
def State.writeFaultq (s : State) (t : TowerId) (w : Nat) (x mask : Word) : State :=
  let y := s.faultq t
  let v := merge (s.regRead (.faultq t w)) x mask
  match w with
  | 0 => s.setFaultq t { y with base := v }
  | 1 => (s.setFaultq t { y with logn := v.extractLsb' 0 4, en := v.getLsbD 8, irq := v.getLsbD 9 }).faultqAgain t
  | 2 => (s.setFaultq t { y with cons := v.extractLsb' 32 32 }).faultqAgain t
  | _ => s

/-- Who writes a register: the host through BAR0, a Nose at machine level, or a supervisor-level store of a slot. -/
inductive Writer where
  | host
  | nose
  | slot
  deriving DecidableEq, Repr

/-- The registers that only some agents write: fault-queue control blocks and DIEPART the host and the Nose (R341, R368), MONSTAT and ALARM the Nose (R416, R419). [log 20, DEDUCED] -/
def Reg.takes (r : Reg) (w : Writer) : Bool :=
  match r with
  | .faultq _ _ => w != .slot
  | .diepart _ => w != .slot
  | .monstat _ _ => w == .nose
  | .alarm => w == .nose
  | _ => true

/-- POL as it acts (R419). [log 84, DEDUCED] -/
def polActs (p : BitVec 2) : Nat := min 2 p.toNat

/-- ALARM after a write: v with the bytes not written kept, x the bits written as 1 (R419). [log 84, DEDUCED] -/
def Service.write (a : Service) (v x : Word) : Service :=
  let p : BitVec 2 := v.extractLsb' 0 2
  { a with
    pol := if a.lock && decide (polActs p < polActs a.pol) then a.pol else p
    lock := a.lock || v.getLsbD 2, cause := a.cause &&& ~~~(x.extractLsb' 8 8) }

/-- MONSTAT after a write (R416). [log 82, DEDUCED] -/
def Die.write (d : Die) (hi : Bool) (v : Word) : Die :=
  if hi then { d with throt := v.extractLsb' 0 12 } else { d with cecnt := v.extractLsb' 48 16 }

/-- A register write of the bytes selected by a mask; fields that are RO keep their value (R5). Placement looks again after a change that it depends on (R189). [log 20, DEDUCED] -/
def State.regWrite (s : State) (r : Reg) (w : Writer) (x mask : Word) : State :=
  let v := merge (s.regRead r) x mask
  if !r.takes w then s
  else match r with
  | .queue t q w => s.writeQueue t q w x mask
  | .faultq t w => s.writeFaultq t w x mask
  | .ctx n w =>
    let y := s.ctx n
    (match w with
      | 0 => s.setCtx n { y with save := v }
      | 1 => s.setCtx n { y with part := v.extractLsb' 0 3, dcnt := v.getLsbD 3 }
      | 2 => s.setCtx n { y with ptroot := v }
      | _ => s).pokeLaunches
  | .diepart d => (s.writeDiepart d v).pokeLaunches
  | .stack m =>
    let k := s.stack m
    s.setStack m { k with rej := k.rej &&& ~~~((x &&& mask).extractLsb' 24 8) }
  | .pkgbar n =>
    { s with pkgBars := s.pkgBars.put n.toNat ⟨v.extractLsb' 0 16, v.extractLsb' 16 8, v.extractLsb' 24 9, v.extractLsb' 40 8⟩ }
  | .route p => { s with routes := s.routes.put p.toNat (v.extractLsb' 0 4, v.getLsbD 4) }
  | .msix n hi =>
    let e := s.host.entry n.toNat
    let e : BitVec 128 := if hi then (v ++ e.extractLsb' 0 64 : BitVec 128) else (e.extractLsb' 64 64 ++ v : BitVec 128)
    ({ s with host := { s.host with msix := s.host.msix.put n.toNat e } }).flushPending
  | .monstat d hi => s.setDie d ((s.die d).write hi v)
  | .alarm => { s with svc := s.svc.write v (x &&& mask) }
  | _ => s

/-- The offsets of the register words that n bytes of device control space touch. -/
def wordsAt (off n : Nat) : List Nat :=
  if n = 0 then [] else (List.range ((off + n - 1) / 8 - off / 8 + 1)).map fun i => 8 * (off / 8 + i)

/-- The bytes of device control space from an offset on. -/
def State.regBytes (s : State) (off n : Nat) : List Byte :=
  (List.range n).map fun i => (s.regRead (regAt ((off + i) / 8 * 8))).extractLsb' (8 * ((off + i) % 8)) 8

/-- A read of a register has been made: VMIN begins again at the voltage of the moment, which is outside the model (R416). [log 82, DEDUCED] -/
def State.regTouch (s : State) (r : Reg) : State :=
  match r with
  | .monstat d true =>
    let (v, s) := s.choose 65536
    s.setDie d { s.die d with vmin := BitVec.ofNat 16 v }
  | _ => s

/-- Bytes written to device control space, word by word from the lowest address (R5). -/
def State.regStore (s : State) (off : Nat) (w : Writer) (bs : List Byte) : State :=
  (wordsAt off bs.length).foldl (fun s a =>
    let word := (List.range 8).map fun i => if off ≤ a + i then bs[a + i - off]? else none
    let x : Word := BitVec.ofNat 64 (leNat (word.map fun b => b.getD 0))
    let mask : Word := BitVec.ofNat 64 (leNat (word.map fun b => if b.isSome then 0xFF else 0))
    s.regWrite (regAt a) w x mask) s

/-- A read of device control space is over. -/
def State.regTouched (s : State) (off n : Nat) : State := (wordsAt off n).foldl (fun s a => s.regTouch (regAt a)) s

end Sys2Proof.Machine
end

