-- ==== Sys2Proof/Machine/Access.lean ====
section
/-! DEFINITION. Data accesses of slots and engine harts: window and region checks, translation and holds, ownership, conflicts, poison, speculative writes, the local store, edge accesses (01 R27 R28, 09 R215 R216 R222 R228 R230 R235, 12 R277 to R282, 14 R339 R345, 16 R367 R369, 17 R391 R392 R402). -/

namespace Sys2Proof.Machine

/-- The Ownership fault, counted by the stack (R332, R366, R367). -/
def State.rejected (s : State) (m : StackId) (va : Word) : Eff :=
  .trap (s.countRejection m)
    { cause := 0x09, addr := va, info := BitVec.ofNat 64 (m.toNat + 16 * s.curDie.toNat) }

/-- The agent waits on a hold of the page, which is opened with its record if need be (R339). -/
def State.holdAt (s : State) (k : Kind) (va : Word) (lvl : Nat) (entry : Word) : State :=
  let fail := absentTrap k lvl false va entry
  match s.cur with
  | .slot c k =>
    let r := { s.slotRec c k 0x05 0 with lvl := lvl, entry := entry }
    let (hid, s) := s.openHold (towerOf c) s.curCtx va r
    s.setSlot c k { s.slot c k with park := .held (towerOf c) hid fail }
  | .engine e =>
    let r : FaultRec :=
      { cause := 0x05, kind := 0, eng := true, core := e.toNat, ctx := s.curCtx, lseq := s.curSeq, lvl := lvl, entry := entry }
    let (hid, s) := s.openHold (engineTower e) s.curCtx va r
    s.setEngine e { s.engine e with park := .held (engineTower e) hid fail }
  | _ => s

/-- A translation used by the open chunk (R302). -/
def State.noteTlb (s : State) (va : Word) (l : Leaf) : State :=
  let x := s.chunk
  s.setChunk { x with tlb := insertOnce x.tlb (s.curCtx, va.toNat / 2 ^ l.size, l.size) }

/-- An address outside the window: non-canonical, or above the window (R27, R284). -/
def badVa (va : Word) : Bool := !canonical va || decide (windowEnd ≤ va.toNat)

/-- The user level of an access: an engine's accesses are at user level (R310). -/
def State.isUser (s : State) : Bool := !s.priv

/-- Where the n bytes at a virtual address lie, all in one page, and the leaf that says so (R27, R28, R284 to R291, R333 order 3). -/
def State.locateLeaf (s : State) (va : Word) (n : Nat) (k : Kind) : Res (Loc × Option Leaf) :=
  let last := va + BitVec.ofNat 64 (n - 1)
  let user := s.isUser
  if inWindow va && inWindow last then .ok ((.ls s.curCore (va.toNat - windowBase), none), s)
  else if inWindow va || inWindow last || badVa va || badVa last then .error (.trap s (protTrap k user true va 0))
  else
    let ((w, walked), s) := s.lookup s.curCtx s.curPtroot va
    match if walked then s.walkStop s.curDie s.curPtroot va else none with
    | some (m, .reject) => .error (s.rejected m va)
    | some _ => .error (.stay s)
    | none => match w.check va k user with
      | .trap t => .error (.trap s t)
      | .held lvl e => .error (.left (s.holdAt k va lvl e))
      | .ok pa l => .ok ((s.region pa, some l), s.noteTlb va l)

def State.locate (s : State) (va : Word) (n : Nat) (k : Kind) : Res Loc :=
  (s.locateLeaf va n k).andThen fun x s => .ok (x.1, s)

/-- The chunk has a deferred atomic pending on one of the lines (R235). -/
def Chunk.atomicOn (x : Chunk) (lines : List Nat) : Bool :=
  x.effects.any fun d => match d with
    | .atomic _ _ pa _ => lines.contains (pa / 64)
    | _ => false

/-- The chunk has an LSW or LSADD pending on one of the granules of the core (R295). -/
def Chunk.remoteOn (x : Chunk) (c : CoreId) (gs : List Nat) : Bool :=
  gs.any fun g => x.effects.any fun d => match d with
    | .lsw c' off _ _ => c' == c && off / 64 == g
    | .lsadd c' off _ _ => c' == c && off / 64 == g
    | _ => false

/-- The chunk has a deferred update pending on one of the granules of the core (R176, R235, R295). -/
def Chunk.updateOn (x : Chunk) (c : CoreId) (gs : List Nat) : Bool := (gs.any fun g => x.lsA.contains g) || x.remoteOn c gs

/-- The first poisoned line among lines, and where the poison lies. -/
def State.poisoned (s : State) (lines : List Nat) : Option (Nat × Nat) :=
  lines.findSome? fun n => (s.poison.find n).map fun p => (n, p.toNat)

/-- The Poisoned Data trap (R332, R345). [log 19, DEDUCED] -/
def poisonTrap (va : Word) (at3 : Nat) (lda : Bool) : Trap :=
  { cause := 0x0C, addr := va &&& ~~~(0x3F#64), info := BitVec.ofNat 64 (bit lda + 2 * at3) }

/-- A test of the agent's own conflicts inside its core (R216): a slot contends, an engine does not. -/
def State.contendCur (s : State) (test : Chunk → Bool) : Res Unit :=
  match s.cur with
  | .slot c k =>
    let (s, won) := s.contend c k test
    if won then .ok ((), s) else .error (.left s)
  | _ => .ok ((), s)

/-- Lines entered as read: signature, sharer record, stack record (R215, R218, R371). -/
def State.noteRead (s : State) (lines : List Nat) : State :=
  let x := s.chunk
  (s.cacheLines lines).setChunk { x with
    rsig := lines.foldl (fun m n => m ||| sigBits n) x.rsig
    rlines := lines.foldl insertOnce x.rlines
    stks := lines.foldl (fun m n => m ||| (1#16 <<< (stackOf (64 * n)).toNat)) x.stks }

/-- Lines read under range watches: only the sharer and stack records (R217). -/
def State.noteWatched (s : State) (lines : List Nat) : State :=
  let x := s.chunk
  (s.cacheLines lines).setChunk { x with
    rlines := lines.foldl insertOnce x.rlines
    stks := lines.foldl (fun m n => m ||| (1#16 <<< (stackOf (64 * n)).toNat)) x.stks }

/-- The speculative bytes of the agent's waiting chunk. -/
def State.waitingBytes (s : State) : List Host.Cell :=
  match s.cur with
  | .slot c k => ((s.slot c k).waiting.getD {}).wr
  | _ => []

/-- A byte of local memory as the agent's next load sees it: its open chunk's, then its waiting chunk's, then the committed byte (R230). -/
def State.seenByte (s : State) (pa : Nat) : Byte :=
  ((specByte s.chunk.wr pa).or (specByte s.waitingBytes pa)).getD (s.mem.byte pa)

/-- The reach of local memory, as an effect (R367, R371): the request wakes sleeping links on its way (R378), and waits for room in the home's directory (R281). [log 19, DEDUCED] -/
def State.reachMem (s : State) (va : Word) (pa : Nat) : Res Unit :=
  match s.reach s.curDie (stackOf pa) with
  | .yes =>
    let way := s.wayTo (s.homeOf (pa / 64))
    if !s.linksUp way then .error (.stay (s.wakeLinks way))
    else if !s.dirRoom [pa / 64] then .error (.stay (s.post .caches))
    else .ok ((), s)
  | .park => .error (.stay s)
  | .reject => .error (s.rejected (stackOf pa) va)

/-- The checks of an access that follow its translation (R333 order 3): Ownership, then poison where it reads. An instruction of several accesses makes them access by access, before any of them takes effect. -/
def State.touchable (s : State) (va : Word) (l : Loc) (n : Nat) (k : Kind) : Res Unit :=
  match l with
  | .mem pa =>
    (s.reachMem va pa).andThen fun _ s =>
    match if k.isWrite then none else s.poisoned (linesOf pa n) with
    | some (m, p) => .error (.trap s (poisonTrap (va + BitVec.ofNat 64 (64 * m) - BitVec.ofNat 64 pa) p false))
    | none => .ok ((), s)
  | .ls c off =>
    match if k.isWrite then none else (s.core c).lsPoison.find? fun g => (linesOf off n).contains g with
    | some g => .error (.trap s (poisonTrap (BitVec.ofNat 64 (windowBase + 64 * g)) 3 false))
    | none => .ok ((), s)
  | _ => .ok ((), s)

/-- A read of n bytes of local memory in one page (R333 order 3, R230); watched: covered by range watches (R217). -/
def State.readMem (s : State) (va : Word) (pa n : Nat) (watched : Bool) : Res (List Byte) :=
  let lines := linesOf pa n
  (s.reachMem va pa).andThen fun _ s =>
  if s.chunk.atomicOn lines then .error (.cut s 0x08)
  else
    (s.contendCur fun x => lines.any x.holds).andThen fun _ s =>
    match s.poisoned lines with
    | some (l, p) => .error (.trap s (poisonTrap (va + BitVec.ofNat 64 (64 * l) - BitVec.ofNat 64 pa) p false))
    | none =>
      let bs := (List.range n).map fun i => s.seenByte (pa + i)
      .ok (bs, if watched then s.noteWatched lines else s.noteRead lines)

/-- Speculative lines of all the chunks of a core (R216). -/
def Core.allSpecLines (x : Core) : List Nat :=
  x.slots.flatMap fun e => specLines e.2.chunk.wr ++ (match e.2.waiting with
    | some w => specLines w.wr
    | none => [])

/-- A new speculative line finds room: 1,024 lines a core, eight ways a set of 512 (R216). [log 24, PRESUMED] -/
def Core.roomFor (x : Core) (line : Nat) : Bool :=
  let all := x.allSpecLines
  decide (all.length < 1024) && decide ((all.filter fun l => l % 512 == line % 512).length < 8)

/-- The write has room: for a slot in the L1, for an engine in its 64 KiB write buffer (R216, R311). [log 24, PRESUMED] [log 37, DEDUCED] -/
def State.roomCur (s : State) (pa n : Nat) : Bool :=
  match s.cur with
  | .slot c _ => (linesOf pa n).all fun l => s.chunk.holds l || (s.core c).roomFor l
  | .engine e =>
    let new := (List.range n).filter fun i => (specByte s.chunk.wr (pa + i)).isNone
    decide (s.chunk.wr.length + new.length ≤ (s.engine e).limBytes)
  | _ => true

/-- A write of bytes of local memory in one page, held back until the grant (R216, R235); by an instruction that runs alone, committed at once (R228). -/
def State.writeMem (s : State) (va : Word) (pa : Nat) (bs : List Byte) : Res Unit :=
  let lines := linesOf pa bs.length
  (s.reachMem va pa).andThen fun _ s =>
  if s.chunk.solo then
    if s.tokenBars lines then .error (.stay s) else .ok ((), s.commitWrite pa bs (some s.curCore))
  else if s.chunk.atomicOn lines then .error (.cut s 0x08)
  else if !s.roomCur pa bs.length then .error (.cut s 0x02)
  else
    (s.contendCur fun x => lines.any fun l => x.holds l || sigHas x.rsig l).andThen fun _ s =>
    let x := s.chunk
    .ok ((), (s.cacheLines lines).setChunk { x with
      wr := setSpecs x.wr pa bs
      wsig := lines.foldl (fun m n => m ||| sigBits n) x.wsig
      stks := x.stks ||| (1#16 <<< (stackOf pa).toNat) })

/-- Undo entries of all the open and waiting chunks of a core (R279). -/
def Core.undoCount (x : Core) : Nat :=
  x.slots.foldl (fun n e => n + e.2.chunk.undo.length + (match e.2.waiting with
    | some w => w.undo.length
    | none => 0)) 0

/-- The marks of a local-store access of the executing slot: pending updates cut the chunk, the journal takes the old contents at a first write, and the younger of two conflicting chunks is squashed (R176, R212, R277, R279). -/
def State.touchLs (s : State) (off n : Nat) (write : Bool) : Res Unit :=
  match s.cur with
  | .slot c k =>
    let gs := linesOf off n
    if s.chunk.updateOn c gs then .error (.cut s 0x08)
    else
      let first := if write then gs.filter fun g => !s.chunk.lsW.contains g else []
      if decide (204 < (s.core c).undoCount + first.length) then .error (.cut s 0x03)
      else
        let (won, s) := (fun (r : State × Bool) => (r.2, r.1)) (s.contend c k fun x =>
          gs.any fun g => x.lsW.contains g || x.lsA.contains g || (write && x.lsR.contains g))
        if !won then .error (.left s)
        else
          let x := s.chunk
          let ls := (s.core c).ls
          .ok ((), s.setChunk { x with
            lsR := if write then x.lsR else gs.foldl insertOnce x.lsR
            lsW := if write then gs.foldl insertOnce x.lsW else x.lsW
            undo := first.foldl (fun u g => (g, BitVec.ofNat 512 (ls.nat (64 * g) 64)) :: u) x.undo })
  | _ => .ok ((), s)

/-- The bytes of a core's local store as committed: what open chunks wrote is passed over (R212). -/
def State.committedLs (s : State) (c : CoreId) (off n : Nat) : List Byte :=
  let x := s.core c
  let ls := x.slots.foldl (fun ls e =>
    let ls := undoLs ls e.2.chunk.undo
    match e.2.waiting with
    | some w => undoLs ls w.undo
    | none => ls) x.ls
  ls.bytes off n

/-- Where an engine's buffered writes to a local store lie in its write buffer, beyond every physical address. -/
def lsKey (off : Nat) : Nat := 2 ^ 52 + off

/-- A read of local store: a slot's own, or by an engine its ORIG's as committed, overlaid by its own buffered writes (R277, R309). -/
def State.readLs (s : State) (c : CoreId) (off n : Nat) : Res (List Byte) :=
  let gs := linesOf off n
  let bad := (s.core c).lsPoison.find? fun g => gs.contains g
  match s.cur with
  | .slot _ _ =>
    (s.touchLs off n false).andThen fun _ s =>
    match bad with
    | some g => .error (.trap s (poisonTrap (BitVec.ofNat 64 (windowBase + 64 * g)) 3 false))
    | none => .ok ((s.core c).ls.bytes off n, s)
  | _ => match bad with
    | some g => .error (.trap s (poisonTrap (BitVec.ofNat 64 (windowBase + 64 * g)) 3 false))
    | none =>
      let bs := s.committedLs c off n
      let bs := (List.range n).map fun i => (specByte s.chunk.wr (lsKey (off + i))).getD (bs.getD i 0)
      .ok (bs, s.setChunk { s.chunk with lsR := gs.foldl insertOnce s.chunk.lsR })

/-- A write of local store: in place under the journal, or into an engine's write buffer, or at once by an engine step that runs alone (R212, R311). -/
def State.writeLs (s : State) (c : CoreId) (off : Nat) (bs : List Byte) : Res Unit :=
  match s.cur with
  | .slot _ _ =>
    (s.touchLs off bs.length true).andThen fun _ s =>
    let x := s.core c
    let bad := ((List.range bs.length).map (off + ·)).filter fun i => x.lsPoison.contains (i / 64)
    let s := if bad.isEmpty then s else s.setChunk { s.chunk with lsHealed := bad.foldl insertOnce s.chunk.lsHealed }
    let x := s.core c
    .ok ((), s.setCore c { x with ls := x.ls.setBytes off bs })
  | _ =>
    if s.chunk.solo then
      if s.tokenBarsLs c (linesOf off bs.length) then .error (.stay s) else .ok ((), s.lsOutside c off bs)
    else if !s.roomCur (lsKey off) bs.length then .error (.cut s 0x02)
    else .ok ((), s.setChunk { s.chunk with wr := setSpecs s.chunk.wr (lsKey off) bs })

/-- The Edge Completion Error trap (R332, R392). -/
def edgeTrap (va : Word) (posted : Bool) (status : Nat) : Trap :=
  { cause := 0x11, addr := va, info := BitVec.ofNat 64 (bit posted + 2 * status) }

/-- The answer of the outside to an edge access: 0, or a status of R392 (the tape's choice); 6 when the link is down. [log 31, DESIGN CHOICE] -/
def State.edgeStatus (s : State) (l : Loc) : Nat × State :=
  let told : Nat × State := match s.answer with
    | some a => (a, s)
    | none => s.choose 7
  match l with
  | .host _ _ => if s.host.up then told else (6, s)
  | .peer p _ =>
    let (port, v) := s.routes.look (0, false) p.toNat
    if !v || !(s.ports.look {} port.toNat).up then (6, s) else told
  | _ => (0, s)

/-- Address of a peer's byte in the model of peer memory. -/
def peerKey (p : Byte) (pa : Nat) : Nat := p.toNat * 2 ^ 40 + pa

/-- The bytes that an edge load reads at its point (R230). [log 8, DESIGN CHOICE] [log 20, DEDUCED] -/
def State.edgeBytes (s : State) (l : Loc) (n : Nat) : List Byte :=
  match l with
  | .host _ a => s.hostMem.bytes a n
  | .peer p a => s.peerMem.bytes (peerKey p a) n
  | .dev off => s.regBytes off n
  | .mem pa => s.mem.bytes pa n
  | .ls c off => s.committedLs c off n

/-- The executing agent's edge access is recorded as an event of its own (R228, R242). [log 31, DESIGN CHOICE] -/
def State.edgeEvent (s : State) : State :=
  let s := s.setChunk { s.chunk with solo := true }
  match s.cur with
  | .slot c k => s.journalGrant s.curCtx c.toNat k.toNat 1 (s.slot c k).seq 1
  | _ => s

/-- Replay lets a solo step or edge access of the executing slot take its point now, or it waits, or the replay diverges (R243). -/
def State.eventGate (s : State) : Res Unit :=
  match s.cur with
  | .slot c k =>
    let n := s.curCtx
    if s.replayAdmits n c.toNat k.toNat 1 then .ok ((), s)
    else if s.replayDiverges n c.toNat k.toNat 1 1 false then .ok ((), s.diverge n c k)
    else .error (.stay s)
  | _ => .ok ((), s)

/-- An edge access waits while a range flush of the slot is under way (R298). -/
def State.holdGate (s : State) : Res Unit :=
  match s.cur with
  | .slot c k => if (s.slot c k).holdBack ≠ 0 then .error (.stay s) else .ok ((), s)
  | _ => .ok ((), s)

/-- An edge access takes its point. [log 31, DESIGN CHOICE] -/
def State.edgeTurn (s : State) : Res Unit := s.holdGate.andThen fun _ s => s.eventGate

/-- The bytes that an edge read returns: one of a non-coherent window does not pass the posted writes before it (R391, 18 R407), one of device control space counts as a read of its registers. -/
def State.edgeRead (s : State) (l : Loc) (n : Nat) : List Byte × State :=
  match l with
  | .host false _ => (s.landAll.edgeBytes l n, s.landAll)
  | .dev off => (s.regBytes off n, s.regTouched off n)
  | l => (s.edgeBytes l n, s)

/-- An edge load: alone, or not yet (R228, R391, R402). -/
def State.edgeLoad (s : State) (va : Word) (l : Loc) (n : Nat) : Res (List Byte) :=
  if !s.isAlone then .error (.edge s)
  else
    s.edgeTurn.andThen fun _ s =>
    let (st, s) := s.edgeStatus l
    let s := s.edgeEvent
    if st = 0 then .ok (s.edgeRead l n) else .error (.trap s (edgeTrap va false st))

/-- One more posted write of a slot since its last FENCE.SYS (R393): on its way, or lost on a link that is down. -/
def Posted.issue (p : Posted) (va : Word) (up : Bool) : Posted :=
  { p with
    count := p.count + 1, open_ := if up then p.open_ + 1 else p.open_, first := if p.count = 0 then va else p.first, last := va
    err := if up || p.err != 0 then p.err else 6 }

/-- A posted write to a non-coherent window leaves behind every earlier one (R391); the slot counts it, and a link that is down is found at FENCE.SYS (R393). -/
def State.postWrite (s : State) (va : Word) (hpa : Nat) (bs : List Byte) : State :=
  let s := match s.cur with
    | .slot c k => s.setSlot c k { s.slot c k with posted := (s.slot c k).posted.issue va s.host.up }
    | _ => s
  if s.host.up then (s.sendTlp (.write s.cur hpa bs)).postEvent s.cur (.postedWriteCompletion 0) else s

/-- An edge write whose answer is good, or a posted one, takes effect (R228, R391, R393). -/
def State.edgeWrite (s : State) (va : Word) (l : Loc) (bs : List Byte) : State :=
  match l with
  | .host false a => s.postWrite va a bs
  | .host true a => { s with hostMem := s.hostMem.setBytes a bs }
  | .peer p a => { s with peerMem := s.peerMem.setBytes (peerKey p a) bs }
  | .dev off => s.regStore off .slot bs
  | _ => s

/-- Bytes that the Nose writes: a committed write of the package's memory, or a write to the host or a peer (R190). -/
def State.noseWrite (s : State) (l : Loc) (bs : List Byte) : State :=
  match l with
  | .mem pa => s.commitWrite pa bs none
  | l => s.edgeWrite 0 l bs

/-- The answer to an edge write: a slot's posted write has none, for its errors are raised at FENCE.SYS (R392, R393); an engine's fails on a link that is down. [log 116, DEDUCED] -/
def State.writeStatus (s : State) (l : Loc) : Nat × State :=
  match s.cur, l with
  | .engine _, .host false _ => (if s.host.up then 0 else 6, s)
  | _, .host false _ => (0, s)
  | _, l => s.edgeStatus l

/-- An edge store: alone, or not yet (R228, R391, R402). -/
def State.edgeStore (s : State) (va : Word) (l : Loc) (bs : List Byte) : Res Unit :=
  if !s.isAlone then .error (.edge s)
  else
    s.edgeTurn.andThen fun _ s =>
    let (st, s) := s.writeStatus l
    let s := s.edgeEvent
    if st ≠ 0 then .error (.trap s (edgeTrap va false st)) else .ok ((), s.edgeWrite va l bs)

/-- The Misaligned trap of a data access (R332). -/
def misaligned (va : Word) (n : Nat) : Trap :=
  { cause := 0x04, addr := va, info := BitVec.ofNat 64 (Nat.log2 n % 8) }

/-- A load of n bytes in one page, aligned to align (R28, R116, R333). -/
def State.load (s : State) (va : Word) (n align : Nat) : Res (List Byte) :=
  if va.toNat % align ≠ 0 then .error (.trap s (misaligned va align))
  else
    (s.locate va n .read).andThen fun l s =>
    match l with
    | .ls c off => s.readLs c off n
    | .mem pa => s.readMem va pa n false
    | l => s.edgeLoad va l n

/-- A store of bytes in one page, aligned to align (R28, R116, R333). -/
def State.store (s : State) (va : Word) (bs : List Byte) (align : Nat) : Res Unit :=
  if va.toNat % align ≠ 0 then .error (.trap s (misaligned va align))
  else
    (s.locate va bs.length .write).andThen fun l s =>
    match l with
    | .ls c off => s.writeLs c off bs
    | .mem pa => s.writeMem va pa bs
    | l => s.edgeStore va l bs

/-- Bytes that an engine's step adds to the arrival bytes of its chunk (R312); nothing for a slot. -/
def State.countArrival (s : State) (n : Nat) : State :=
  match s.cur with
  | .engine e => s.setEngine e { s.engine e with bytes := (s.engine e).bytes + n }
  | _ => s

/-- The address of a memory operand, and the A register's value afterwards (R13). -/
def State.memAddr (s : State) (an : BitVec 3) (m : AddrMode) (d : BitVec 16) (size : Nat) : Word × Word :=
  let a := s.getA an
  let d64 : Word := d.signExtend 64
  match m with
  | .offset => (a + d64, a)
  | .postAdd => (a, a + d64)
  | .preSub => (a - d64, a - d64)
  | .postInc => (a, a + BitVec.ofNat 64 size)

/-- The address that a memory operand names; 0 for any other operand. -/
def State.addrOf (s : State) (o : Operand) (size : Nat) : Word :=
  match o with
  | .mem an m d => (s.memAddr an m d size).1
  | _ => 0

/-- The update of a memory operand's A register, made when the access has completed (R13). -/
def State.update (s : State) (o : Operand) (size : Nat) : State :=
  match o with
  | .mem an m d => if m = .offset then s else s.setA an (s.memAddr an m d size).2
  | _ => s

end Sys2Proof.Machine
end

