-- ==== Sys2Proof/Machine/Operands.lean ====
section
/-! DEFINITION. Operand forms: scalar sources, integer types, destinations (01 R9, 02 R35, R36, 04 R85, R86). -/

namespace Sys2Proof.Machine

/-- A scalar source: a G register, an A register as a value, an immediate sign-extended (R85). -/
def State.src (s : State) (o : Operand) : Word :=
  match o with
  | .g n => s.getG n
  | .a n => s.getA n
  | .imm i => i.signExtend 64
  | _ => 0

/-- The number of a G operand. -/
def gNum (o : Operand) : BitVec 5 :=
  match o with
  | .g n => n
  | _ => 0

/-- A pair of G registers, the even one low (R117, R234, R245). -/
def State.pair (s : State) (o : Operand) : BitVec 128 := (s.getG (gNum o + 1) ++ s.getG (gNum o) : BitVec 128)

def State.setPair (s : State) (o : Operand) (x : BitVec 128) : State :=
  (s.setG (gNum o) (x.extractLsb' 0 64)).setG (gNum o + 1) (x.extractLsb' 64 64)

/-- A result to a G or A destination. -/
def State.setDst (s : State) (o : Operand) (x : Word) : State :=
  match o with
  | .g n => s.setG n x
  | .a n => s.setA n x
  | .p n => s.setP n x
  | _ => s

/-- The P register of an operand. -/
def pNum (o : Operand) : BitVec 3 :=
  match o with
  | .p n => n
  | _ => 0

/-- Width and signedness of an integer type code (R35). -/
def tyWidth (ty : Nat) : Nat := 8 <<< (ty % 4)
def tySigned (ty : Nat) : Bool := !ty.testBit 2
def tyMin (ty : Nat) : Int := if tySigned ty then -(2 ^ (tyWidth ty - 1)) else 0
def tyMax (ty : Nat) : Int := if tySigned ty then 2 ^ (tyWidth ty - 1) - 1 else 2 ^ tyWidth ty - 1

/-- The type of an integer MOD (R71). -/
def modTy (m : BitVec 4) : Nat := m.toNat % 8
/-- The saturation bit of an integer MOD (R71). -/
def modSat (m : BitVec 4) : Bool := m.getLsbD 3

/-- The e-bit pattern of a source (R85). -/
def patOf (ty : Nat) (x : Nat) : Nat := x % 2 ^ tyWidth ty

/-- A pattern read in the type (R85). -/
def intOf (ty : Nat) (x : Nat) : Int :=
  let p := patOf ty x
  if tySigned ty && decide (2 ^ (tyWidth ty - 1) ≤ p) then (p : Int) - 2 ^ tyWidth ty else p

/-- An exact value wrapped or clamped to a type (R36). -/
def narrow (ty : Nat) (sat : Bool) (v : Int) : Int :=
  if sat then max (tyMin ty) (min (tyMax ty) v)
  else intOf ty (v % 2 ^ tyWidth ty).toNat

/-- An integer result extended to 64 bits (R86). -/
def extend (ty : Nat) (sat : Bool) (v : Int) : Word := BitVec.ofInt 64 (narrow ty sat v)

/-- A pattern extended to 64 bits by its type (R86). -/
def extendPat (ty : Nat) (p : Nat) : Word := BitVec.ofInt 64 (intOf ty p)

end Sys2Proof.Machine
end

