-- ==== Sys2Proof/Machine/Flags.lean ====
section
/-! DEFINITION. FPSR flags and FP traps (01 R30, 02 R43, R44). -/

namespace Sys2Proof.Machine

/-- The FP Trap of the flags raised (R44, R332). -/
def fpTrap (fl : Flags) : Trap := { cause := 0x0D, info := fl.setWidth 64 }

/-- The enabled flags among those raised (R44). -/
def enabledFlags (fpsr : BitVec 13) (fl : Flags) : Flags := fl &&& fpsr.extractLsb' 8 5

/-- Sticky flags set (R43). -/
def State.sticky (s : State) (fl : Flags) : State :=
  if fl = 0 then s else s.setRegs { s.regs with fpsr := s.regs.fpsr ||| fl.setWidth 13 }

/-- Flags raised by an operation: all are set, and an enabled one traps before any destination is written (R44). -/
def State.flags (s : State) (fl : Flags) : Res Unit :=
  let s' := s.sticky fl
  if enabledFlags s.regs.fpsr fl = 0 then .ok ((), s') else .error (.trap s' (fpTrap fl))

/-- FPSR.IDZ set; it never traps (R37). An engine hart keeps no FPSR (R307). -/
def State.idz (s : State) : State :=
  match s.cur with
  | .slot _ _ => s.setRegs { s.regs with fpsr := s.regs.fpsr ||| 0x20 }
  | _ => s

/-- A floating-point result written to a G register, with its flags (R44, R109). -/
def State.fpResult (s : State) (d : BitVec 5) (r : FpRes) : Eff :=
  (s.flags r.2).fin fun _ s => .done (s.setG d (BitVec.ofNat 64 r.1))

end Sys2Proof.Machine
end

