-- ==== Sys2Proof/Machine/Tile.lean ====
section
/-! DEFINITION. Tiles: access marks, shadows, progress registers (01 R8, R17, 06 R158 to R162). -/

namespace Sys2Proof.Machine

/-- Element k = 64 i + j of a tile (R17). -/
def tileElem (t : List (BitVec 32)) (k : Nat) : BitVec 32 := t.getD k 0

/-- A tile from its elements; an all-zero tile is the empty list. -/
def mkTile (t : List (BitVec 32)) : List (BitVec 32) := if t.all (· == 0) then [] else t

/-- An access of the executing slot to a tile (R8, R161). -/
def State.touchTile (s : State) (n : BitVec 2) (write : Bool) : Res Unit :=
  match s.cur with
  | .slot c k =>
    let r := s.markTile c k n write
    if r.2 then .ok ((), r.1) else .error (.left r.1)
  | _ => .ok ((), s)

def State.setTile (s : State) (n : BitVec 2) (t : List (BitVec 32)) : State :=
  let x := s.core s.curCore
  s.setCore s.curCore { x with tiles := x.tiles.set n.toNat (mkTile t) n.isLt }

def State.setMprog (s : State) (n : BitVec 2) (v : BitVec 32) : State :=
  let x := s.core s.curCore
  s.setCore s.curCore { x with mprog := x.mprog.set n.toNat v n.isLt }

/-- A progress register: STEP, OPC, SLOT, BUSY (R30). -/
def mkProg (step opc slot : Nat) : BitVec 32 :=
  (1#1 ++ 0#3 ++ BitVec.ofNat 4 slot ++ BitVec.ofNat 8 opc ++ BitVec.ofNat 16 step : BitVec 32)

def progStep (v : BitVec 32) : Nat := fieldNat v 0 16
def progOpc (v : BitVec 32) : Nat := fieldNat v 16 8
def progSlot (v : BitVec 32) : Nat := fieldNat v 24 4
def progBusy (v : BitVec 32) : Bool := v.getLsbD 31

end Sys2Proof.Machine
end

