-- ==== Sys2Proof/Machine/Csr.lean ====
section
/-! DEFINITION. The CSRs of a slot and of an engine hart, and the instructions CSRR, CSRW and CSRX (01 R30, R31, 04 R95, 05 R125, 13 R306, 14 R330). -/

namespace Sys2Proof.Machine

/-- SLOTINFO. -/
def State.slotinfo (s : State) : Word :=
  let c := s.curCore
  let e := (s.slot c s.curSlot).entry
  (0#24 ++ s.pkg ++ 0#11 ++ BitVec.ofBool (entryMsgr e) ++ BitVec.ofBool (entryCapr e) ++ towerOf c ++ dieOf c ++ c ++ s.curSlot
    : BitVec 64)

/-- The class of the slot's queue at bind; 3 acts as 2 and does not occur (R30, R190). -/
def effClass (c : BitVec 2) : BitVec 2 := if c = 3 then 2 else c

/-- LAUNCHID. -/
def State.launchid (s : State) : Word :=
  let e := (s.slot s.curCore s.curSlot).entry
  (0#6 ++ entryQtwr e ++ entryQown e ++ effClass (s.slot s.curCore s.curSlot).cls ++ 0#4 ++ entryCtx e ++ entrySeq e
    : BitVec 64)

/-- CHUNKCFG. -/
def State.chunkcfg (s : State) : Word :=
  (0#31 ++ BitVec.ofBool (s.journal s.curCtx).rpl ++ 0#3 ++ (s.slot s.curCore s.curSlot).eff ++ 0#3 ++ s.regs.target : BitVec 64)

/-- CHUNKSTAT. -/
def State.chunkstat (s : State) : Word :=
  let y := s.slot s.curCore s.curSlot
  (y.seq ++ 0#15 ++ BitVec.ofBool (s.token = some (.slot s.curCore s.curSlot)) ++ y.sqc ++ y.cut : BitVec 64)

/-- CAPBAY. -/
def Regs.capbay (r : Regs) : Word := (0#45 ++ r.bayOff ++ 0#3 ++ BitVec.ofBool r.vis ++ r.bay : BitVec 64)

/-- CAPSTAT. -/
def State.capstat (s : State) : Word :=
  let x := s.core s.curCore
  let occ : BitVec 4 := (List.range 4).foldl (fun m b => if h : b < 4 then
    (if x.bays[b].st = .free then m else m ||| (1#4 <<< b)) else m) 0
  (x.spill.look 0 s.curSeq.toNat ++ 0#12 ++ s.regs.fcode ++ s.regs.hops ++ occ : BitVec 64)

/-- TRAPSTATE. -/
def Regs.trapstate (r : Regs) : Word :=
  (0#54 ++ r.awreg ++ BitVec.ofBool r.awr ++ 0#1 ++ BitVec.ofBool r.ppend ++ BitVec.ofBool r.inh ++ BitVec.ofBool r.ppriv : BitVec 64)

/-- VPROG and MPROG show STEP, OPC, SLOT and BUSY; other bits read zero (R6). -/
def progMask : BitVec 32 := 0x8FFFFFFF

/-- The value of a CSR; none for a number that no chapter assigns (R30). -/
def State.csrVal (s : State) (n : Nat) : Option Word :=
  let r := s.regs
  match n with
  | 0x000 => some s.slotinfo
  | 0x001 => some s.launchid
  | 0x002 => some (BitVec.ofNat 64 s.cycle)
  | 0x003 => some (BitVec.ofNat 64 (s.rot % 2 ^ 60))
  | 0x010 => some ((r.fpsr &&& 0x1F3F).setWidth 64)
  | 0x020 => some s.chunkcfg
  | 0x021 => some s.chunkstat
  | 0x022 => some (r.waittmo.setWidth 64)
  | 0x030 => some r.lb[0]
  | 0x031 => some r.lb[1]
  | 0x032 => some r.lb[2]
  | 0x033 => some r.lb[3]
  | 0x034 => some r.le[0]
  | 0x035 => some r.le[1]
  | 0x036 => some r.le[2]
  | 0x037 => some r.le[3]
  | 0x038 => some (r.lc[0].setWidth 64)
  | 0x039 => some (r.lc[1].setWidth 64)
  | 0x03A => some (r.lc[2].setWidth 64)
  | 0x03B => some (r.lc[3].setWidth 64)
  | 0x03C => some (r.lact.setWidth 64)
  | 0x040 => some (r.d[0].setWidth 64)
  | 0x041 => some (r.d[1].setWidth 64)
  | 0x042 => some (r.d[2].setWidth 64)
  | 0x043 => some (r.d[3].setWidth 64)
  | 0x050 => some (((s.core s.curCore).mprogOf 0 &&& progMask).setWidth 64)
  | 0x051 => some (((s.core s.curCore).mprogOf 1 &&& progMask).setWidth 64)
  | 0x052 => some (((s.core s.curCore).mprogOf 2 &&& progMask).setWidth 64)
  | 0x053 => some (((s.core s.curCore).mprogOf 3 &&& progMask).setWidth 64)
  | 0x054 => some ((r.vprog &&& 0x80FFFFFF).setWidth 64)
  | 0x058 => some (r.vkind.setWidth 64)
  | 0x060 => some ((r.xbase ++ 0#10 : BitVec 19).setWidth 64)
  | 0x070 => some r.capbay
  | 0x071 => some s.capstat
  | 0x100 => some r.trapvec
  | 0x101 => some (r.trapcause.setWidth 64)
  | 0x102 => some r.trappc
  | 0x103 => some r.trapaddr
  | 0x104 => some r.trapinfo
  | 0x105 => some r.trapstate
  | 0x108 => some r.sscr[0]
  | 0x109 => some r.sscr[1]
  | 0x10A => some r.sscr[2]
  | 0x10B => some r.sscr[3]
  | 0x10C => some (r.deadg.setWidth 64)
  | 0x10D => some (r.deadv.setWidth 64)
  | 0x10E => some (r.fvalid.setWidth 64)
  | 0x110 => some (BitVec.ofNat 64 (bit r.priv))
  | _ => none

/-- TARGET as it is stored: clamped to 16 to 4,096 (R30). -/
def clampTarget (x : BitVec 13) : BitVec 13 := if x.toNat < 16 then 16 else if 4096 < x.toNat then 4096 else x

/-- The slot registers after a write of x to a CSR that holds slot state; RO bits ignore it. -/
def Regs.csrSet (r : Regs) (n : Nat) (x : Word) : Regs :=
  match n with
  | 0x010 => { r with fpsr := x.setWidth 13 &&& 0x1F3F }
  | 0x020 => { r with target := clampTarget (x.setWidth 13), targetNew := true }
  | 0x022 => { r with waittmo := x.setWidth 32 }
  | 0x030 => { r with lb := r.lb.set 0 (addrCsr x) }
  | 0x031 => { r with lb := r.lb.set 1 (addrCsr x) }
  | 0x032 => { r with lb := r.lb.set 2 (addrCsr x) }
  | 0x033 => { r with lb := r.lb.set 3 (addrCsr x) }
  | 0x034 => { r with le := r.le.set 0 (addrCsr x) }
  | 0x035 => { r with le := r.le.set 1 (addrCsr x) }
  | 0x036 => { r with le := r.le.set 2 (addrCsr x) }
  | 0x037 => { r with le := r.le.set 3 (addrCsr x) }
  | 0x038 => { r with lc := r.lc.set 0 (x.setWidth 32) }
  | 0x039 => { r with lc := r.lc.set 1 (x.setWidth 32) }
  | 0x03A => { r with lc := r.lc.set 2 (x.setWidth 32) }
  | 0x03B => { r with lc := r.lc.set 3 (x.setWidth 32) }
  | 0x03C => { r with lact := x.setWidth 4 }
  | 0x054 => if r.priv then { r with vprog := x.setWidth 32 &&& 0x80FFFFFF } else r
  | 0x058 => { r with vkind := x.setWidth 1 }
  | 0x060 => { r with xbase := x.extractLsb' 10 9 }
  | 0x100 => { r with trapvec := addrCsr x }
  | 0x101 => { r with trapcause := x.setWidth 8 }
  | 0x102 => { r with trappc := addrCsr x }
  | 0x103 => { r with trapaddr := x }
  | 0x104 => { r with trapinfo := x }
  | 0x105 => { r with ppriv := x.getLsbD 0, inh := x.getLsbD 1, awr := x.getLsbD 4, awreg := x.extractLsb' 5 5 }
  | 0x108 => { r with sscr := r.sscr.set 0 x }
  | 0x109 => { r with sscr := r.sscr.set 1 x }
  | 0x10A => { r with sscr := r.sscr.set 2 x }
  | 0x10B => { r with sscr := r.sscr.set 3 x }
  | _ => r

/-- A write to MPROGn at supervisor level; at user level it is ignored (R30, R161). [log 98, DEDUCED] -/
def State.writeMprog (s : State) (n : BitVec 2) (x : Word) : Res Unit :=
  if !s.priv then .ok ((), s)
  else (s.touchTile n true).andThen fun _ s => .ok ((), s.setMprog n (x.setWidth 32 &&& progMask))

/-- A CSR write (R95). [log 18, DEDUCED] [log 98, DEDUCED] -/
def State.csrWrite (s : State) (n : Nat) (x : Word) : Res Unit :=
  match n with
  | 0x050 => s.writeMprog 0 x
  | 0x051 => s.writeMprog 1 x
  | 0x052 => s.writeMprog 2 x
  | 0x053 => s.writeMprog 3 x
  | n => .ok ((), s.setRegs (s.regs.csrSet n x))

/-- The number of a CSR operand. -/
def csrNum (o : Operand) : Nat :=
  match o with
  | .csr n => n.toNat
  | _ => 0

/-- The checks of R30 on a CSR number; then its value. -/
def State.csrRead (s : State) (n : Nat) : Res Word :=
  if 0x100 ≤ n ∧ ¬ s.priv then .error (.trap s { cause := 0x03, info := 1 })
  else match s.csrVal n with
    | some x => .ok (x, s)
    | none => .error (.trap s (illegal 0x12 0 0))

/-- Word w of the command of the running engine (R306). [log 105, DEDUCED] -/
def State.ecmd (s : State) (w : Nat) : Word :=
  match s.cur with
  | .engine e => ((s.engine e).cmd.getD 0).extractLsb' (64 * w) 64
  | _ => 0

/-- A CSR write at supervisor level is serialising: it runs alone in a chunk of its own (R214 code 0x0E). [log 18, DEDUCED] -/
def State.csrSerial (s : State) (body : State → Eff) : Eff :=
  if !s.priv then body s else s.ownChunk body

/-- A pre-emption that waited for INH = 0 falls due when INH is cleared (R336, R346); the slot's turn takes it. [log 98, DEDUCED] -/
def State.inhCleared (s : State) : State := if s.regs.inh then s else s.setRegs { s.regs with ppend := false }

/-- CSRR (R95). -/
def execCsrr (f : Fields) (s : State) : Host.Outcome State Fault Refusal :=
  scalar (.csrr f) f s fun s =>
    let n := csrNum f.src1
    match s.cur with
    | .engine _ => .done (s.setG (gNum f.dst) (if n = 2 then BitVec.ofNat 64 s.cycle else s.ecmd (n - 0xF0)))
    | _ => (s.csrRead n).fin fun x s => .done (s.setG (gNum f.dst) x)

/-- CSRW (R95). -/
def execCsrw (f : Fields) (s : State) : Host.Outcome State Fault Refusal :=
  scalar (.csrw f) f s fun s =>
    let n := csrNum f.dst
    (s.csrRead n).fin fun _ s => s.csrSerial fun s =>
      (s.csrWrite n (s.src f.src1)).fin fun _ s => .done s.inhCleared

/-- CSRX with its operation on the old value and the source (R95). -/
def csrExchange (i : Instr) (f : Fields) (s : State) (op : Word → Word → Word) : Host.Outcome State Fault Refusal :=
  scalar i f s fun s =>
    let n := csrNum f.src1
    (s.csrRead n).fin fun o s => s.csrSerial fun s =>
      (s.csrWrite n (op o (s.src f.src2))).fin fun _ s => .done (s.inhCleared.setG (gNum f.dst) o)

def execCsrxSwp (f : Fields) (s : State) : Host.Outcome State Fault Refusal :=
  csrExchange (.csrxSwp f) f s fun _ x => x
def execCsrxSet (f : Fields) (s : State) : Host.Outcome State Fault Refusal :=
  csrExchange (.csrxSet f) f s fun o x => o ||| x
def execCsrxClr (f : Fields) (s : State) : Host.Outcome State Fault Refusal :=
  csrExchange (.csrxClr f) f s fun o x => o &&& ~~~x

end Sys2Proof.Machine
end

