-- ==== Sys2Proof/Machine/Integer.lean ====
section
/-! DEFINITION. Scalar integer, predicate, constant and address instructions (04_scalar_and_control.md R96 to R108, 02 R35 to R37, R49). -/

namespace Sys2Proof.Machine

/-- A scalar result into the destination. -/
def toDst (f : Fields) (x : State → Word) (s : State) : Eff := .done (s.setDst f.dst (x s))

/-- An operation on both operands read in the type, wrapped or clamped (R96). -/
def arith (f : Fields) (op : Int → Int → Int) (s : State) : Eff :=
  let ty := modTy f.mod
  toDst f (fun s => extend ty (modSat f.mod) (op (intOf ty (s.src f.src1).toNat) (intOf ty (s.src f.src2).toNat))) s

/-- A bitwise operation on both patterns (R96). -/
def bitwise (f : Fields) (op : Word → Word → Word) (s : State) : Eff :=
  toDst f (fun s => extendPat (modTy f.mod) (op (s.src f.src1) (s.src f.src2)).toNat) s

/-- A shift or rotate of the e-bit pattern by an unsigned amount (R97). -/
def shift (f : Fields) (op : Nat → Nat → Nat → Nat) (s : State) : Eff :=
  let ty := modTy f.mod
  toDst f (fun s => extendPat ty (op (tyWidth ty) (patOf ty (s.src f.src1).toNat) (s.src f.src2).toNat)) s

/-- SHR, SAR and ROL of an e-bit pattern (R97). -/
def shrPat (e p n : Nat) : Nat := if e ≤ n then 0 else p >>> n
def sarPat (e p n : Nat) : Nat :=
  let ones := 2 ^ e - 1
  if p.testBit (e - 1) then (if e ≤ n then ones else (p >>> n) ||| (ones - (ones >>> n)))
  else (if e ≤ n then 0 else p >>> n)
def rolPat (e p n : Nat) : Nat :=
  let k := n % e
  ((p <<< k) ||| (p >>> (e - k))) % 2 ^ e

/-- The exact value x × 2^n; beyond 64 places only its sign and its low zeros matter (R97). -/
def shlExact (x : Int) (n : Nat) : Int := x * 2 ^ min n 64

/-- A count or pattern of the e-bit pattern of SRC1 (R98). -/
def onPattern (f : Fields) (op : Nat → Nat → Nat) (s : State) : Nat :=
  let ty := modTy f.mod
  op (tyWidth ty) (patOf ty (s.src f.src1).toNat)

def clzPat (e p : Nat) : Nat := if p = 0 then e else e - 1 - Nat.log2 p
def ctzPat (e p : Nat) : Nat := ((List.range e).find? fun i => p.testBit i).getD e
def popPat (e p : Nat) : Nat := ((List.range e).filter fun i => p.testBit i).length
def brevPat (e p : Nat) : Nat := (List.range e).foldl (fun a i => if p.testBit i then a + 2 ^ (e - 1 - i) else a) 0
def bswapPat (e p : Nat) : Nat :=
  (List.range (e / 8)).foldl (fun a i => a + (p / 2 ^ (8 * i) % 256) * 2 ^ (e - 8 - 8 * i)) 0

/-- Quotient and remainder (R37): truncated; by zero the quotient is all ones or the extremes, and the remainder the dividend. -/
def quotient (ty : Nat) (x y : Int) : Int :=
  if y = 0 then (if tySigned ty then -1 else tyMax ty) else x.tdiv y
def remainder (x y : Int) : Int := if y = 0 then x else x.tmod y

/-- Both destinations of a compare (R103, R68). -/
def State.setCompare (s : State) (o : Operand) (t c : Word) : State :=
  match o with
  | .pp pt pc _ => (s.setP pt t).setP pc c
  | _ => s

/-- The condition of a compare's destination (R68). -/
def condOf (o : Operand) : Nat :=
  match o with
  | .pp _ _ n => n.toNat
  | _ => 0

/-- An integer condition (R102). -/
def intCond (cond : Nat) (x y : Int) (px py : Nat) : Bool :=
  match cond with
  | 0 => x == y
  | 1 => x != y
  | 2 => decide (x < y)
  | 3 => decide (x ≤ y)
  | 4 => decide (y < x)
  | 5 => decide (y ≤ x)
  | 6 => px &&& py != 0
  | _ => px &&& py == 0

def boolMask (b : Bool) : Word := if b then BitVec.allOnes 64 else 0

def execAdd (f : Fields) (s : State) : Host.Outcome State Fault Refusal :=
  scalar (.add f) f s (arith f fun x y => x + y)
def execSub (f : Fields) (s : State) : Host.Outcome State Fault Refusal :=
  scalar (.sub f) f s (arith f fun x y => x - y)
def execMul (f : Fields) (s : State) : Host.Outcome State Fault Refusal :=
  scalar (.mul f) f s (arith f fun x y => x * y)

/-- MULH (R99). -/
def execMulh (f : Fields) (s : State) : Host.Outcome State Fault Refusal :=
  scalar (.mulh f) f s (arith f fun x y => (x * y).fdiv (2 ^ tyWidth (modTy f.mod)))

/-- A division by zero sets FPSR.IDZ (R37). -/
def divide (f : Fields) (op : Int → Int → Int) (s : State) : Eff :=
  let y := intOf (modTy f.mod) (s.src f.src2).toNat
  arith f op (if y = 0 then s.idz else s)

def execDiv (f : Fields) (s : State) : Host.Outcome State Fault Refusal :=
  scalar (.div f) f s (divide f (quotient (modTy f.mod)))
def execRem (f : Fields) (s : State) : Host.Outcome State Fault Refusal :=
  scalar (.rem f) f s (divide f remainder)

def execAndI (f : Fields) (s : State) : Host.Outcome State Fault Refusal :=
  scalar (.andI f) f s (bitwise f fun x y => x &&& y)
def execOrI (f : Fields) (s : State) : Host.Outcome State Fault Refusal :=
  scalar (.orI f) f s (bitwise f fun x y => x ||| y)
def execXorI (f : Fields) (s : State) : Host.Outcome State Fault Refusal :=
  scalar (.xorI f) f s (bitwise f fun x y => x ^^^ y)
def execAndn (f : Fields) (s : State) : Host.Outcome State Fault Refusal :=
  scalar (.andn f) f s (bitwise f fun x y => x &&& ~~~y)
def execOrn (f : Fields) (s : State) : Host.Outcome State Fault Refusal :=
  scalar (.orn f) f s (bitwise f fun x y => x ||| ~~~y)

/-- SHL: the amount is the whole 64-bit source (R97). -/
def execShl (f : Fields) (s : State) : Host.Outcome State Fault Refusal :=
  scalar (.shl f) f s fun s =>
    let ty := modTy f.mod
    toDst f (fun s => extend ty (modSat f.mod) (shlExact (intOf ty (s.src f.src1).toNat) (s.src f.src2).toNat)) s
def execShr (f : Fields) (s : State) : Host.Outcome State Fault Refusal := scalar (.shr f) f s (shift f shrPat)
def execSar (f : Fields) (s : State) : Host.Outcome State Fault Refusal := scalar (.sar f) f s (shift f sarPat)
def execRol (f : Fields) (s : State) : Host.Outcome State Fault Refusal := scalar (.rol f) f s (shift f rolPat)

def execMinI (f : Fields) (s : State) : Host.Outcome State Fault Refusal :=
  scalar (.minI f) f s (arith f fun x y => min x y)
def execMaxI (f : Fields) (s : State) : Host.Outcome State Fault Refusal :=
  scalar (.maxI f) f s (arith f fun x y => max x y)
def execAbsI (f : Fields) (s : State) : Host.Outcome State Fault Refusal :=
  scalar (.absI f) f s (arith f fun x _ => x.natAbs)
def execNegI (f : Fields) (s : State) : Host.Outcome State Fault Refusal :=
  scalar (.negI f) f s (arith f fun x _ => -x)

/-- Counts are written zero-extended (R98). -/
def execClz (f : Fields) (s : State) : Host.Outcome State Fault Refusal :=
  scalar (.clz f) f s (toDst f fun s => BitVec.ofNat 64 (onPattern f clzPat s))
def execCtz (f : Fields) (s : State) : Host.Outcome State Fault Refusal :=
  scalar (.ctz f) f s (toDst f fun s => BitVec.ofNat 64 (onPattern f ctzPat s))
def execPopc (f : Fields) (s : State) : Host.Outcome State Fault Refusal :=
  scalar (.popc f) f s (toDst f fun s => BitVec.ofNat 64 (onPattern f popPat s))
def execBrev (f : Fields) (s : State) : Host.Outcome State Fault Refusal :=
  scalar (.brev f) f s (toDst f fun s => extendPat (modTy f.mod) (onPattern f brevPat s))
def execBswap (f : Fields) (s : State) : Host.Outcome State Fault Refusal :=
  scalar (.bswap f) f s (toDst f fun s => extendPat (modTy f.mod) (onPattern f bswapPat s))

/-- Position and width of a field (R100). -/
def fieldPos (x : Word) : Nat := fieldNat x 0 6
def fieldWidth (x : Word) : Nat := fieldNat x 6 6 + 1

/-- BFX (R100). -/
def execBfx (f : Fields) (s : State) : Host.Outcome State Fault Refusal :=
  scalar (.bfx f) f s (toDst f fun s =>
    let w := fieldWidth (s.src f.src2)
    let x := fieldNat (s.src f.src1) (fieldPos (s.src f.src2)) w
    if tySigned (modTy f.mod) && x.testBit (w - 1) then BitVec.ofInt 64 ((x : Int) - 2 ^ w) else BitVec.ofNat 64 x)

/-- BFI (R100). -/
def execBfi (f : Fields) (s : State) : Host.Outcome State Fault Refusal :=
  scalar (.bfi f) f s (toDst f fun s =>
    let p := fieldPos (s.src f.src2)
    let m : Word := BitVec.ofNat 64 (2 ^ fieldWidth (s.src f.src2) - 1)
    (s.src f.dst &&& ~~~(m <<< p)) ||| ((s.src f.src1 &&& m) <<< p))

/-- The value of an immediate operand as a number. -/
def immNat (o : Operand) : Nat :=
  match o with
  | .imm i => i.toNat
  | _ => 0

/-- EXT: the source type is SRC2's (R101). -/
def execExt (f : Fields) (s : State) : Host.Outcome State Fault Refusal :=
  scalar (.ext f) f s (toDst f fun s =>
    extend (modTy f.mod) (modSat f.mod) (intOf (immNat f.src2 % 8) (s.src f.src1).toNat))

/-- CMP (R102, R103). -/
def execCmp (f : Fields) (s : State) : Host.Outcome State Fault Refusal :=
  scalar (.cmp f) f s fun s =>
    let ty := modTy f.mod
    let x := (s.src f.src1).toNat
    let y := (s.src f.src2).toNat
    let c := intCond (condOf f.dst) (intOf ty x) (intOf ty y) (patOf ty x) (patOf ty y)
    .done (s.setCompare f.dst (boolMask c) (boolMask !c))

/-- SEL (R104). -/
def execSel (f : Fields) (s : State) : Host.Outcome State Fault Refusal :=
  scalar (.sel f) f s (toDst f fun s =>
    if (s.getP (f.mod.extractLsb' 0 3)).getLsbD 0 != f.mod.getLsbD 3 then s.src f.src1 else s.src f.src2)

def execMov (f : Fields) (s : State) : Host.Outcome State Fault Refusal :=
  scalar (.mov f) f s (toDst f fun s => s.src f.src1)

/-- The 48-bit immediate of MOVI (R70, R107). -/
def movImm (f : Fields) : BitVec 48 :=
  match f.src1, f.src2 with
  | .half hi, .half lo => (hi ++ lo : BitVec 48)
  | _, _ => 0

def execMovi (f : Fields) (s : State) : Host.Outcome State Fault Refusal :=
  scalar (.movi f) f s (toDst f fun _ => (movImm f).signExtend 64)

/-- MOVH (R107). -/
def execMovh (f : Fields) (s : State) : Host.Outcome State Fault Refusal :=
  scalar (.movh f) f s (toDst f fun s =>
    ((s.src f.src1).extractLsb' 0 16 ++ (s.src f.dst).extractLsb' 0 48 : BitVec 64))

/-- LEA (R108): the update comes first, so that the destination is written last. -/
def execLea (f : Fields) (s : State) : Host.Outcome State Fault Refusal :=
  scalar (.lea f) f s fun s =>
    let x := s.addrOf f.src1 0 + (s.src f.src2 <<< (f.mod.extractLsb' 0 2).toNat)
    .done ((s.update f.src1 0).setDst f.dst x)

/-- PLOG (R105): bit i is t[4 a + 2 b + c]. -/
def plogBits (t a b c : Nat) : Word :=
  BitVec.ofNat 64 ((List.range 64).foldl (fun x i =>
    if t.testBit (4 * bit (a.testBit i) + 2 * bit (b.testBit i) + bit (c.testBit i)) then x + 2 ^ i else x) 0)

def execPlog (f : Fields) (s : State) : Host.Outcome State Fault Refusal :=
  scalar (.plog f) f s fun s =>
    let t := immNat f.src2
    let d := pNum f.dst
    let b : BitVec 3 := BitVec.ofNat 3 (t / 256)
    .done (s.setP d (plogBits (t % 256) (s.getP (pNum f.src1)).toNat (s.getP b).toNat (s.getP d).toNat))

def execPset (f : Fields) (s : State) : Host.Outcome State Fault Refusal :=
  scalar (.pset f) f s (toDst f fun s => s.src f.src1)
def execPget (f : Fields) (s : State) : Host.Outcome State Fault Refusal :=
  scalar (.pget f) f s (toDst f fun s => s.getP (pNum f.src1))
def execPcnt (f : Fields) (s : State) : Host.Outcome State Fault Refusal :=
  scalar (.pcnt f) f s (toDst f fun s => BitVec.ofNat 64 (popPat 64 (s.getP (pNum f.src1)).toNat))
def execAmov (f : Fields) (s : State) : Host.Outcome State Fault Refusal :=
  scalar (.amov f) f s (toDst f fun s => s.src f.src1)

/-- MULW: one register up to 32 bits, a pair at 64 (R99). -/
def execMulw (f : Fields) (s : State) : Host.Outcome State Fault Refusal :=
  scalar (.mulw f) f s fun s =>
    let ty := modTy f.mod
    let x := intOf ty (s.src f.src1).toNat * intOf ty (s.src f.src2).toNat
    if tyWidth ty = 64 then .done (s.setPair f.dst (BitVec.ofInt 128 x)) else .done (s.setDst f.dst (BitVec.ofInt 64 x))

/-- MADD (R96). -/
def execMadd (f : Fields) (s : State) : Host.Outcome State Fault Refusal :=
  scalar (.madd f) f s fun s =>
    let d := intOf (modTy f.mod) (s.src f.dst).toNat
    arith f (fun x y => d + x * y) s

/-- SHLF (R97). -/
def execShlf (f : Fields) (s : State) : Host.Outcome State Fault Refusal :=
  scalar (.shlf f) f s (toDst f fun s =>
    let m := fieldNat (s.src f.src2) 0 6
    if m = 0 then s.src f.dst else (s.src f.dst <<< m) ||| (s.src f.src1 >>> (64 - m)))

end Sys2Proof.Machine
end

