-- ==== Sys2Proof/Machine/ScalarFp.lean ====
section
/-! DEFINITION. Scalar floating point (04_scalar_and_control.md R109 to R114, 02 R40 to R48). -/

namespace Sys2Proof.Machine

/-- Format and rounding mode of a floating-point MOD (R38, R41). -/
def modFmt (m : BitVec 4) : Fmt := fmtOf (m.toNat % 4)
def modRm (m : BitVec 4) : Nat := m.toNat / 4

/-- A source as its encoding; the functions of Float ignore the bits above the format (R109). -/
def State.fsrc (s : State) (o : Operand) : Nat := (s.src o).toNat

/-- A result of two sources. -/
def fp2 (f : Fields) (op : Fmt → Nat → Nat → Nat → FpRes) (s : State) : Eff :=
  s.fpResult (gNum f.dst) (op (modFmt f.mod) (modRm f.mod) (s.fsrc f.src1) (s.fsrc f.src2))

/-- A result of one source. -/
def fp1 (f : Fields) (op : Fmt → Nat → Nat → FpRes) (s : State) : Eff :=
  s.fpResult (gNum f.dst) (op (modFmt f.mod) (modRm f.mod) (s.fsrc f.src1))

def execFadd (f : Fields) (s : State) : Host.Outcome State Fault Refusal := scalar (.fadd f) f s (fp2 f fpAdd)
def execFsub (f : Fields) (s : State) : Host.Outcome State Fault Refusal := scalar (.fsub f) f s (fp2 f fpSub)
def execFmul (f : Fields) (s : State) : Host.Outcome State Fault Refusal := scalar (.fmul f) f s (fp2 f fpMul)
def execFdiv (f : Fields) (s : State) : Host.Outcome State Fault Refusal := scalar (.fdiv f) f s (fp2 f fpDiv)

/-- FFMA: the old destination is the addend (R110). -/
def execFfma (f : Fields) (s : State) : Host.Outcome State Fault Refusal :=
  scalar (.ffma f) f s fun s => fp2 f (fun t rm x y => fpFma t rm x y (s.fsrc f.dst)) s

def execFsqrt (f : Fields) (s : State) : Host.Outcome State Fault Refusal := scalar (.fsqrt f) f s (fp1 f fpSqrt)
def execFmin (f : Fields) (s : State) : Host.Outcome State Fault Refusal :=
  scalar (.fmin f) f s (fp2 f fun t _ => fpMinMax t false)
def execFmax (f : Fields) (s : State) : Host.Outcome State Fault Refusal :=
  scalar (.fmax f) f s (fp2 f fun t _ => fpMinMax t true)

/-- A floating-point condition and the flags it sets (R111). -/
def fpCond (t : Fmt) (cond x y : Nat) : Bool × Flags :=
  let a := unpack t x
  let b := unpack t y
  let un := isNan a || isNan b
  let o := fpKey false a b
  let rel (r : Bool) : Bool × Flags := (!un && r, if un then flNV else 0)
  match cond with
  | 0 => (!un && o == .eq, nvOf [a, b])
  | 1 => (un || o != .eq, nvOf [a, b])
  | 2 => rel (o == .lt)
  | 3 => rel (o != .gt)
  | 4 => rel (o == .gt)
  | 5 => rel (o != .lt)
  | 8 => (un, nvOf [a, b])
  | _ => (!un, nvOf [a, b])

/-- FCMP (R103, R111). -/
def execFcmp (f : Fields) (s : State) : Host.Outcome State Fault Refusal :=
  scalar (.fcmp f) f s fun s =>
    let (c, fl) := fpCond (modFmt f.mod) (condOf f.dst) (s.fsrc f.src1) (s.fsrc f.src2)
    (s.flags fl).fin fun _ s => .done (s.setCompare f.dst (boolMask c) (boolMask !c))

/-- FCVT: SRC2 gives the source format (R112). -/
def execFcvt (f : Fields) (s : State) : Host.Outcome State Fault Refusal :=
  scalar (.fcvt f) f s (fp1 f (fpConv (fmtOf (immNat f.src2))))

/-- A floating-point value as an integer of a type, with its flags (R47). -/
def fpToInt (t : Fmt) (mode ty x : Nat) : Int × Flags :=
  match unpack t x with
  | .nan _ => (0, flNV)
  | .inf n => (if n then tyMin ty else tyMax ty, flNV)
  | .fin n m e =>
    let (v, exact) := roundInt mode n m e
    if v < tyMin ty then (tyMin ty, flNV)
    else if tyMax ty < v then (tyMax ty, flNV)
    else (v, if exact then 0 else flNX)

/-- FCVI: SRC2 gives the destination type (R112). -/
def execFcvi (f : Fields) (s : State) : Host.Outcome State Fault Refusal :=
  scalar (.fcvi f) f s fun s =>
    let (v, fl) := fpToInt (modFmt f.mod) (modRm f.mod) (immNat f.src2 % 8) (s.fsrc f.src1)
    (s.flags fl).fin fun _ s => .done (s.setG (gNum f.dst) (BitVec.ofInt 64 v))

/-- ICVF: SRC2 gives the source type (R112). -/
def execIcvf (f : Fields) (s : State) : Host.Outcome State Fault Refusal :=
  scalar (.icvf f) f s (fp1 f fun t rm x => fpOfInt t rm (intOf (immNat f.src2 % 8) x))

/-- The class mask of a value (R113). -/
def fpClass (t : Fmt) (x : Nat) : Nat :=
  match unpack t x with
  | .inf n => if n then 0x001 else 0x080
  | .nan sig => if sig then 0x100 else 0x200
  | .fin n m _ =>
    if m = 0 then (if n then 0x008 else 0x010)
    else if isSubnormal t x then (if n then 0x004 else 0x020)
    else if n then 0x002 else 0x040

def execFclass (f : Fields) (s : State) : Host.Outcome State Fault Refusal :=
  scalar (.fclass f) f s (toDst f fun s => BitVec.ofNat 64 (fpClass (modFmt f.mod) (s.fsrc f.src1)))

/-- A value with the sign of R114. -/
def fpSign (t : Fmt) (op x y : Nat) : Nat :=
  let sx := x.testBit (t.ew + t.fw)
  let sy := y.testBit (t.ew + t.fw)
  let n := match op with
    | 0 => sy
    | 1 => !sy
    | _ => sx != sy
  signed t n (x % t.signBit)

def execFsgn (f : Fields) (s : State) : Host.Outcome State Fault Refusal :=
  scalar (.fsgn f) f s (toDst f fun s =>
    BitVec.ofNat 64 (fpSign (modFmt f.mod) (modRm f.mod) (s.fsrc f.src1) (s.fsrc f.src2)))

def execFrnd (f : Fields) (s : State) : Host.Outcome State Fault Refusal := scalar (.frnd f) f s (fp1 f fpRoundInt)

/-- FSCALE: k is SRC2 read as I64 (R110). -/
def execFscale (f : Fields) (s : State) : Host.Outcome State Fault Refusal :=
  scalar (.fscale f) f s fun s => fp1 f (fun t rm x => fpScale t rm x (s.src f.src2).toInt) s

end Sys2Proof.Machine
end

