-- ==== Sys2Proof/Machine/LoadStore.lean ====
section
/-! DEFINITION. Scalar loads and stores, pairs, prefetch and asynchronous loads (04_scalar_and_control.md R115 to R123). -/

namespace Sys2Proof.Machine

/-- Bytes of an access (R115). -/
def accSize (m : BitVec 4) : Nat :=
  match m.toNat % 8 with
  | 0 => 1
  | 1 => 2
  | 2 => 4
  | 3 => 8
  | 4 => 2
  | 5 => 2
  | _ => 4

/-- The formats of a converting access: in memory and in the register (R115). -/
def accConv (m : BitVec 4) : Option (Fmt × Fmt) :=
  match m.toNat % 8 with
  | 4 => some (f16, f32)
  | 5 => some (bf16, f32)
  | 6 => some (f32, f64)
  | _ => none

/-- The register value of the bytes read, with its flags (R115). -/
def loadValue (m : BitVec 4) (bs : List Byte) : Word × Flags :=
  let x := leNat bs
  match accConv m with
  | some (mf, rf) =>
    let r := fpConv mf rf 0 x
    (BitVec.ofNat 64 r.1, r.2)
  | none =>
    let e := 8 * bs.length
    if m.getLsbD 3 && x.testBit (e - 1) then (BitVec.ofInt 64 ((x : Int) - 2 ^ e), 0) else (BitVec.ofNat 64 x, 0)

/-- The bytes that a store writes, with its flags (R115). -/
def storeBytes (m : BitVec 4) (x : Word) : List Byte × Flags :=
  match accConv m with
  | some (mf, rf) =>
    let r := fpConv rf mf 0 x.toNat
    (leBytes (accSize m) r.1, r.2)
  | none => (leBytes (accSize m) x.toNat, 0)

/-- LD (R116). -/
def execLd (f : Fields) (s : State) : Host.Outcome State Fault Refusal :=
  scalar (.ld f) f s fun s =>
    let n := accSize f.mod
    (s.load (s.addrOf f.src1 n) n n).fin fun bs s =>
      let (x, fl) := loadValue f.mod bs
      (s.flags fl).fin fun _ s => .done ((s.update f.src1 n).setG (gNum f.dst) x)

/-- ST: an FP trap comes after every check of the access and before the store (R116, R333). -/
def execSt (f : Fields) (s : State) : Host.Outcome State Fault Refusal :=
  scalar (.st f) f s fun s =>
    let n := accSize f.mod
    let (bs, fl) := storeBytes f.mod (s.src f.src1)
    (s.store (s.addrOf f.dst n) bs n).fin fun _ t =>
      if enabledFlags s.regs.fpsr fl ≠ 0 then .trap (s.sticky fl) (fpTrap fl)
      else .done (((t.sticky fl).update f.dst n).countArrival n)

/-- LD2 (R117). -/
def execLd2 (f : Fields) (s : State) : Host.Outcome State Fault Refusal :=
  scalar (.ld2 f) f s fun s =>
    (s.load (s.addrOf f.src1 16) 16 16).fin fun bs s =>
      .done ((s.update f.src1 16).setPair f.dst (BitVec.ofNat 128 (leNat bs)))

/-- ST2 (R117). -/
def execSt2 (f : Fields) (s : State) : Host.Outcome State Fault Refusal :=
  scalar (.st2 f) f s fun s =>
    (s.store (s.addrOf f.dst 16) (leBytes 16 (s.pair f.src1).toNat) 16).fin fun _ s => .done ((s.update f.dst 16).countArrival 16)

/-- PREF (R120). -/
def execPref (f : Fields) (s : State) : Host.Outcome State Fault Refusal :=
  scalar (.pref f) f s fun s => .done s

/-- The counter of an LDA. -/
def depNum (o : Operand) : BitVec 2 :=
  match o with
  | .dep n => n
  | _ => 0

/-- A poison trap met by an LDA says so (R332). -/
def ldaTrap (t : Trap) : Trap := if t.cause = 0x0C then { t with info := t.info ||| 1 } else t

/-- An LDA's error is raised at the LDA (R123). [log 33, DEDUCED] -/
def ldaError (e : Eff) : Eff :=
  match e with
  | .trap s t => .trap s (ldaTrap t)
  | e => e

/-- The asynchronous part of an LDA: counter and pending register (R121). [log 33, DEDUCED] -/
def State.issueLda (s : State) (g : BitVec 5) (d : BitVec 2) (x : Word) : State :=
  match s.cur with
  | .slot c k =>
    let r := s.regs
    let s := s.setRegs { r with d := r.d.set d.toNat (r.d.get d.toFin + 1) d.isLt }
    let y := s.slot c k
    (s.setSlot c k { y with ldas := y.ldas ++ [{ g := g, d := d, x := x }] }).postEvent (.slot c k) (.ldaDataReturn g)
  | _ => s

/-- LDA: its value is that of memory at its place in program order; as an edge access it completes at once (R121, R123). [log 33, DEDUCED] -/
def execLda (f : Fields) (s : State) : Host.Outcome State Fault Refusal :=
  scalar (.lda f) f s fun s =>
    let n := accSize f.mod
    let d := depNum f.src2
    if s.regs.d.get d.toFin = 255 then .stay s
    else match s.load (s.addrOf f.src1 n) n n with
      | .error e => ldaError e
      | .ok (bs, s) =>
        let (x, fl) := loadValue f.mod bs
        (s.flags fl).fin fun _ s =>
          let s := s.update f.src1 n
          if s.chunk.solo then .done (s.setG (gNum f.dst) x) else .done (s.issueLda (gNum f.dst) d x)

/-- The data of an LDA arrives (R121). -/
def execLdaDataReturn (g : BitVec 5) (s : State) : Host.Outcome State Fault Refusal :=
  match s.cur with
  | .slot c k =>
    match (s.slot c k).ldas.find? fun l => l.g == g with
    | none => .next s
    | some l =>
      let y := s.slot c k
      let s := s.setSlot c k { y with ldas := y.ldas.filter fun m => m.g != g }
      let r := s.regs
      .next ((s.setRegs { r with d := r.d.set l.d.toNat (r.d.get l.d.toFin - 1) l.d.isLt }).setG g l.x)
  | _ => .fault .wrongAgent

end Sys2Proof.Machine
end

