-- ==== Sys2Proof/Machine/Lanes.lean ====
section
/-! DEFINITION. Lanes of V registers, lane kinds, and element-wise operations (05_vector_forms_functions.md R125 to R127, R140, 01 R10, R11, R25). -/

namespace Sys2Proof.Machine

/-- Lane i of e bits (R10). -/
def laneOf (v : VWord) (e i : Nat) : Nat := fieldNat v (e * i) e
def putLane (v : VWord) (e i x : Nat) : VWord := setField v (e * i) e x

/-- How the lanes of an instruction are read: element width, floating-point or not, integer type, format, rounding mode, saturation (R126). -/
structure Lane where
  e : Nat
  flt : Bool
  ty : Nat
  t : Fmt
  rm : Nat
  sat : Bool

/-- The integer layout of MOD (R71). -/
def Lane.int (m : BitVec 4) : Lane := ⟨tyWidth (modTy m), false, modTy m, f16, 0, modSat m⟩
/-- The floating-point layout. -/
def Lane.fp (m : BitVec 4) : Lane := ⟨(modFmt m).width, true, 0, modFmt m, modRm m, false⟩
/-- The Width layout. -/
def Lane.width (m : BitVec 4) : Lane := ⟨8 <<< (m.toNat % 4), false, 4 + m.toNat % 4, f16, 0, false⟩
/-- The Kind layout: VKIND.FLT chooses (R125). -/
def State.kindLane (s : State) (m : BitVec 4) : Lane := if s.regs.vkind = 1 then .fp m else .int m

def Lane.count (l : Lane) : Nat := 512 / l.e

/-- An operation on the patterns of x, y and the old destination, with the flags it raises. -/
abbrev LaneOp := Lane → Nat → Nat → Nat → Nat × Flags

/-- An integer operation, wrapped or clamped (R36, R96). -/
def intLane (op : Int → Int → Int) : LaneOp := fun l x y _ =>
  ((narrow l.ty l.sat (op (intOf l.ty x) (intOf l.ty y)) % 2 ^ l.e).toNat, 0)

/-- An integer operation or a floating-point one, by the lane kind. -/
def kindOp (i : LaneOp) (p : LaneOp) : LaneOp := fun l => if l.flt then p l else i l

def fpLane (op : Fmt → Nat → Nat → Nat → FpRes) : LaneOp := fun l x y _ => op l.t l.rm x y

/-- A bitwise operation on patterns (R140). -/
def bitLane (op : Nat → Nat → Nat) : LaneOp := fun l x y _ => (op (x % 2 ^ l.e) (y % 2 ^ l.e) % 2 ^ l.e, 0)

/-- A sign operation: no flag but for a signalling NaN (R140). -/
def signLane (op : Bool → Bool) : LaneOp := fun l x _ _ =>
  match unpack l.t x with
  | .nan sig => (l.t.nanBits, if sig then flNV else 0)
  | _ => (signed l.t (op (x.testBit (l.e - 1))) (x % l.t.signBit), 0)

/-- The SRC2 value of lane i: a lane of a V register, or a broadcast value whole (R133, R140). -/
def State.laneSrc (s : State) (o : Operand) (e i : Nat) : Nat :=
  match o with
  | .v n => laneOf (s.getV n) e i
  | o => (s.src o).toNat

def vNum (o : Operand) : BitVec 4 :=
  match o with
  | .v n => n
  | _ => 0

/-- The active lanes among the first n, each with the value that a function gives it; none keeps the lane. -/
def State.laneFold (s : State) (f : Fields) (e : Nat) (old : VWord) (fn : Nat → Option (Nat × Flags)) : VWord × Flags :=
  (List.range (512 / e)).foldl (fun (acc : VWord × Flags) i =>
    if (s.guardMask f).getLsbD i then match fn i with
      | some (x, fl) => (putLane acc.1 e i x, acc.2 ||| fl)
      | none => acc
    else acc) (old, 0)

/-- Lanes of a V destination written from a function of the lane; an FP trap writes none (R140, R44). -/
def State.toLanes (s : State) (f : Fields) (e : Nat) (fn : Nat → Option (Nat × Flags)) : Eff :=
  let d := vNum f.dst
  let r := s.laneFold f e (s.getV d) fn
  (s.flags r.2).fin fun _ s => .done (s.setV d r.1)

/-- Lanes of a V destination that raise no flag. -/
def State.moveLanes (s : State) (f : Fields) (e : Nat) (fn : Nat → Option Nat) : Eff :=
  s.toLanes f e fun i => (fn i).map fun x => (x, 0)

/-- A limit that depends on VKIND (R128). -/
def kindLimit : Trap := illegal 0x14 0 0

end Sys2Proof.Machine
end

