-- ==== Sys2Proof/Machine/Form.lean ====
section
/-! DEFINITION. Form records and form-iterated execution (05_vector_forms_functions.md R129 to R136, 09 R217, 02 R51). -/

namespace Sys2Proof.Machine

/-- Fields of a form record (R129). -/
def formBase (r : VWord) : Nat := fieldNat r 0 64
def formScale (r : VWord) : Nat := fieldNat r 64 64
def formE (r : VWord) (n : Nat) : Nat := fieldNat r (128 + 32 * n) 32
def formS (r : VWord) (n : Nat) : Int := (r.extractLsb' (256 + 32 * n) 32).toInt
def formFmt (r : VWord) : Nat := fieldNat r 384 8
def formPs (r : VWord) : Nat := fieldNat r 392 4
def formPrField (r : VWord) : Nat := fieldNat r 396 4
def formLsp (r : VWord) : Bool := r.getLsbD 400
def formCtr (r : VWord) : Bool := r.getLsbD 401
def formSls (r : VWord) : Bool := r.getLsbD 402
def formCmj (r : VWord) : Bool := r.getLsbD 403
def formBlk (r : VWord) : Nat := fieldNat r 408 8
def formBn (r : VWord) : Bool := formFmt r == 0x20
/-- Planes read; 0 means PS (R51). -/
def formPr (r : VWord) : Nat := if formPrField r = 0 then formPs r else formPrField r

/-- Bytes of an element, or of a block record (R131). -/
def formSize (r : VWord) : Nat :=
  let c := formFmt r
  if c = 0x20 then 4 * formPs r
  else if c = 0x10 ∨ c = 0x11 then 2
  else if c = 0x12 then 4
  else if c = 0x13 then 8
  else 2 ^ ((c - 1) % 4)

def formatKnown (c : Nat) : Bool := (decide (1 ≤ c) && decide (c ≤ 8)) || (decide (0x10 ≤ c) && decide (c ≤ 0x13)) || c == 0x20

/-- Bits 63 to 56 all equal (R130). -/
def topEqual (a : Nat) : Bool := a / 2 ^ 56 % 256 == 0 || a / 2 ^ 56 % 256 == 255

/-- The first failing check of R130; none: the record is valid. -/
def formCheck (r : VWord) : Option Nat :=
  let bn := formBn r
  if !formatKnown (formFmt r) then some 1
  else if fieldNat r 404 4 ≠ 0 ∨ fieldNat r 416 96 ≠ 0 then some 2
  else if !bn && (formPs r != 0 || formPrField r != 0 || formCtr r || formSls r || formBlk r != 0 || formScale r != 0) then some 3
  else if bn && (decide (formPs r < 2) || decide (8 < formPs r) || decide (formPs r < formPrField r)
      || !(formBlk r == 0 || formBlk r == 32) || formCmj r) then some 4
  else if formBase r % (if bn then 4 else formSize r) ≠ 0 ∨ (bn ∧ formScale r % 4 ≠ 0) then some 5
  else if (formLsp r && decide (0x80000 ≤ formBase r)) || (formSls r && decide (0x80000 ≤ formScale r)) then some 6
  else if (!formLsp r && !topEqual (formBase r)) || (bn && !formSls r && !topEqual (formScale r)) then some 7
  else none

/-- The Illegal Encoding of a failed form validation (R130, R332). [log 38, DEDUCED] -/
def formInvalid (check : Nat) : Trap := illegal 0x10 0 check
/-- The Illegal Encoding of a failed form-mode check (R132, R332). -/
def formModeTrap (check : Nat) : Trap := illegal 0x11 0 check

/-- The record of a form register, or check 1 of R132. [log 38, DEDUCED] -/
def State.form (s : State) (n : BitVec 5) : Res VWord :=
  match s.regs.forms.get n.toFin with
  | some r => .ok (r, s)
  | none => .error (.trap s (formModeTrap 1))

/-- The element offset of an index, exactly (R131). -/
def formOff (r : VWord) (i0 i1 i2 i3 : Nat) : Int :=
  i0 * formS r 0 + i1 * formS r 1 + i2 * formS r 2 + i3 * formS r 3

/-- The exact address of an element, before reduction modulo 2^64 (R131, R136). -/
def formAddr (r : VWord) (i0 i1 i2 i3 : Nat) : Int := formBase r + formSize r * formOff r i0 i1 i2 i3

/-- Lowest and highest exact element offsets over the extents, none of which is 0. -/
def offRange (r : VWord) (ext : List Nat) : Int × Int :=
  ((List.range 4).zip ext).foldl (fun (acc : Int × Int) (n, e) =>
    let x := ((e - 1 : Nat) : Int) * formS r n
    (acc.1 + min 0 x, acc.2 + max 0 x)) (0, 0)

def formExt (r : VWord) : List Nat := (List.range 4).map (formE r)
def formEmpty (r : VWord) : Bool := (formExt r).any (· == 0)

/-- The footprint of a form that is not empty: the first byte and the byte after the last, exactly (R136). -/
def footprint (r : VWord) : Int × Int :=
  let (lo, hi) := offRange r (formExt r)
  (formBase r + formSize r * lo, formBase r + formSize r * hi + formSize r)

/-- A footprint reduced modulo 2^64: one range or two (R136). -/
def wrapRange (p : Int × Int) : List (Int × Int) :=
  if p.1 < 0 then [(0, p.2), (p.1 + 2 ^ 64, 2 ^ 64)]
  else if 2 ^ 64 < p.2 then [(p.1, 2 ^ 64), (0, p.2 - 2 ^ 64)]
  else [p]

def rangesMeet (a b : List (Int × Int)) : Bool :=
  a.any fun x => b.any fun y => decide (x.1 < y.2) && decide (y.1 < x.2)

/-- The footprints of a source and the destination intersect, and the records differ (R136); an empty form has no element and so no footprint. -/
def formOverlaps (src dst : VWord) : Bool :=
  src != dst && !formEmpty src && !formEmpty dst && formLsp src == formLsp dst && rangesMeet (wrapRange (footprint src)) (wrapRange (footprint dst))

/-- The state that an instruction leaves when one of its accesses stops it: nothing it did stays, but for counts at the stacks, events posted, choices made, and slots squashed or parked. -/
def Eff.rebase (e : Eff) (s : State) : Eff :=
  let keep (x : State) : State := { s with agenda := x.agenda, stks := x.stks, tape := x.tape, tlb := x.tlb, fresh := x.fresh }
  match e with
  | .trap x t => .trap (keep x) t
  | .cut x c => .cut (keep x) c
  | .edge x => .edge (keep x)
  | .solo x c => .solo (keep x) c
  | .stay x => .stay (keep x)
  | e => e

/-- Steps that take effect completely or not at all (R148, R160). -/
def State.atomic {α : Type} (s : State) (r : State → Res α) : Res α :=
  match r s with
  | .error e => .error (e.rebase s)
  | .ok x => .ok x

/-- A fold whose steps may end the instruction. -/
def foldRes {α β : Type} (xs : List α) (b : β) (f : β → α → State → Res β) (s : State) : Res β :=
  match xs with
  | [] => .ok (b, s)
  | x :: xs => (f b x s).andThen fun b s => foldRes xs b f s

/-- Where an operand element lies: local store or local package memory; anything else raises Protection (R29, R131, R135). -/
def State.elemLoc (s : State) (lsp : Bool) (exact : Int) (n : Nat) (k : Kind) : Res (Word × Loc) :=
  let a : Word := BitVec.ofInt 64 exact
  if lsp then
    if 0x80000 < a.toNat + n then .error (.trap s (protTrap k s.isUser true a 0)) else .ok ((a, .ls s.curCore a.toNat), s)
  else
    (s.locate a n k).andThen fun l s =>
    match l with
    | .ls c off => .ok ((a, .ls c off), s)
    | .mem pa => .ok ((a, .mem pa), s)
    | _ => .error (.trap s (protTrap k s.isUser true a 0))

/-- The chunk's watches over a virtual address take in the bytes that the translation just used gives them (R217): a page held when the watch was taken, or one read through an older cached translation. -/
def State.extendWatch (s : State) (va : Word) (pa n : Nat) : State :=
  let x := s.chunk
  if x.noWatch || (linesOf pa n).all x.watched then s
  else s.setChunk { x with watches := x.watches.map fun w =>
    if w.vlo ≤ va.toNat ∧ va.toNat < w.vhi ∧ va.toNat - w.vlo ≤ pa then
      let lo := pa - (va.toNat - w.vlo)
      { w with spans := insertOnce w.spans (lo, lo + (w.vhi - w.vlo)) }
    else w }

/-- Operand bytes read: a read that the chunk's watches cover enters no signature, any other does (R217). -/
def State.readElem (s : State) (w : Word × Loc) (n : Nat) : Res (List Byte) :=
  match w.2 with
  | .ls c off => s.readLs c off n
  | .mem pa =>
    let s := s.extendWatch w.1 pa n
    s.readMem w.1 pa n (!s.chunk.noWatch && !s.chunk.solo && (linesOf pa n).all s.chunk.watched)
  | _ => .ok ([], s)

/-- Operand bytes written. -/
def State.writeElem (s : State) (w : Word × Loc) (bs : List Byte) : Res Unit :=
  match w.2 with
  | .ls c off => s.writeLs c off bs
  | .mem pa => s.writeMem w.1 pa bs
  | _ => .ok ((), s)

/-- The page of a virtual address as the watches count it: its base, the address after it, and its frame if a walk finds one (R217). -/
def State.watchPage (s : State) (va : Nat) : Nat × Nat × Option Nat :=
  let a : Word := BitVec.ofNat 64 va
  if inWindow a then (windowBase, windowEnd, none)
  else match s.walkTop (towerOfDie s.curDie) s.curPtroot a with
    | .leaf l => (va - va % 2 ^ l.size, va - va % 2 ^ l.size + 2 ^ l.size, some l.frame)
    | _ => (va - va % 4096, va - va % 4096 + 4096, none)

/-- The watches that a region needs, at most as many as the fuel (R217). -/
def State.watchesOf (s : State) (lo hi : Int) : Nat → Nat → Nat → List Watch
  | 0, _, _ => []
  | fuel + 1, va, stop =>
    if stop ≤ va then []
    else
      let (base, next, frame) := s.watchPage va
      let rest := s.watchesOf lo hi fuel next stop
      match frame with
      | some p =>
        let top := min next stop
        { lo := lo, hi := hi, page := base, vlo := va, vhi := top, spans := [(p + (va - base), p + (top - base))] } :: rest
      | none =>
        if inWindow (BitVec.ofNat 64 va) then rest
        else { lo := lo, hi := hi, page := base, vlo := va, vhi := min next stop, spans := [] } :: rest

/-- The watches that memory regions, given as exact ranges, need (R217, R163). -/
def State.watchesFor (s : State) (regions : List (Int × Int)) : List Watch :=
  regions.flatMap fun (lo, hi) =>
    (wrapRange (lo, hi)).flatMap fun (a, b) => s.watchesOf lo hi 5 a.toNat b.toNat

/-- Two watches are for the same region and page (R217). -/
def Watch.same (a b : Watch) : Bool := a.lo == b.lo && a.hi == b.hi && a.page == b.page

/-- Watches taken for the regions of a long instruction, or a cut, or none at all (R217). -/
def State.takeWatches (s : State) (regions : List (Int × Int)) : Res Unit :=
  let x := s.chunk
  if x.noWatch then .ok ((), s)
  else
    let all := s.watchesFor regions
    let old := x.watches.map fun v => match all.find? fun w => v.same w with
      | some w => { v with spans := w.spans.foldl insertOnce v.spans }
      | none => v
    let new := all.foldl (fun acc w => if x.watches.any w.same || acc.contains w then acc else acc ++ [w]) []
    let held := x.watches.length + (match s.cur with
      | .slot c k => match (s.slot c k).waiting with
        | some w => w.watches.length
        | none => 0
      | _ => 0)
    if new.length ≤ 4 - held then .ok ((), s.setChunk { x with watches := old ++ new })
    else if !x.isEmpty then .error (.cut s 0x04)
    else .ok ((), s.setChunk { x with noWatch := true })

/-- VPROG while an instruction is at a step (R134). -/
def State.setVprog (s : State) (v : BitVec 32) : State := s.setRegs { s.regs with vprog := v }

/-- The step at which a form-mode instruction begins (R134). -/
def State.vprogStep (s : State) (opc : Nat) : Nat :=
  if progBusy s.regs.vprog && progOpc s.regs.vprog == opc then progStep s.regs.vprog else 0

/-- The trap, or the hold that the executing slot waits on with the trap that RESUME.FAIL makes of it, names the progress of the stopped step (R135, R162). -/
def Eff.stopAt (e : Eff) (p : Progress) : Eff :=
  match e with
  | .trap s t => .trap s { t with prog := some p }
  | .left s => .left (match s.cur with
    | .slot c k => match (s.slot c k).park with
      | .held t hid fail => s.setSlot c k { s.slot c k with park := .held t hid { fail with prog := some p } }
      | _ => s
    | _ => s)
  | e => e

/-- A step of a form-mode instruction stops: VPROG shows the step when the trap is taken (R135). -/
def atStep (e : Eff) (opc t : Nat) : Eff := e.stopAt { tile := none, value := mkProg t opc 0 }

/-- A step has been done: the instruction is complete, or goes on at the next (R134). -/
def State.stepDone (s : State) (opc t total : Nat) : Eff :=
  if t + 1 < total then .step (s.setVprog (mkProg (t + 1) opc 0))
  else .done ((s.setVprog 0).setChunk { s.chunk with noWatch := false })

/-- Groups of a line of E0 elements (R133). -/
def groupCount (e0 l : Nat) : Nat := (e0 + l - 1) / l

/-- The indices of step t: the active elements of its group (R127, R133). -/
def State.groupElems (s : State) (f : Fields) (r : VWord) (l t : Nat) : List (Nat × Nat × Nat × Nat) :=
  let g := groupCount (formE r 0) l
  let q := t / g
  let first := t % g * l
  ((List.range l).map (first + ·)).filterMap fun i0 =>
    if i0 < formE r 0 ∧ (s.guardMask f).getLsbD (i0 % l) = true then
      some (i0, q % formE r 1, q / formE r 1 % formE r 2, q / (formE r 1 * formE r 2))
    else none

/-- One element of a form read. -/
def State.readForm (s : State) (r : VWord) (i : Nat × Nat × Nat × Nat) : Res Nat :=
  let n := formSize r
  (s.elemLoc (formLsp r) (formAddr r i.1 i.2.1 i.2.2.1 i.2.2.2) n .read).andThen fun w s =>
    (s.readElem w n).andThen fun bs s => .ok (leNat bs, s)

/-- Where a destination element lies. -/
def State.destForm (s : State) (r : VWord) (i : Nat × Nat × Nat × Nat) : Res (Word × Loc) :=
  s.elemLoc (formLsp r) (formAddr r i.1 i.2.1 i.2.2.1 i.2.2.2) (formSize r) .write

/-- A destination element located, with the bytes it receives; its access passes the checks that come before any effect (R135, R333). -/
def State.placeForm (s : State) (r : VWord) (i : Nat × Nat × Nat × Nat) (v : Nat) : Res ((Word × Loc) × List Byte) :=
  (s.destForm r i).andThen fun w s =>
    (s.touchable w.1 w.2 (formSize r) .write).andThen fun _ s => .ok ((w, leBytes (formSize r) v), s)

/-- A form-mode instruction: its opcode, destination, sources read under watches, number of steps, and what a step gives: destination elements located, with their bytes, and flags. -/
structure FormRun where
  opc : Nat
  dst : VWord
  srcs : List VWord
  total : Nat
  compute : Nat → State → Res (List ((Word × Loc) × List Byte) × Flags)

def FormRun.staged (r : FormRun) : Bool := r.srcs.any fun x => formOverlaps x r.dst

/-- Bytes staged (R136). -/
def FormRun.stagedBytes (r : FormRun) : Nat :=
  r.srcs.foldl (fun n x => if formOverlaps x r.dst then n + formSize x * (formExt x).foldl (· * ·) 1 else n) 0

/-- Checks 5 and 6 of R132. -/
def FormRun.check (r : FormRun) : Option Nat :=
  let (lo, hi) := footprint r.dst
  if formEmpty r.dst then none
  else if 65536 < r.total then some 5
  else if r.staged && (decide (65536 < r.stagedBytes) || decide (16384 < hi - lo)) then some 6
  else none

/-- Everything that steps a to b - 1 compute. -/
def FormRun.computeFrom (r : FormRun) (a : Nat) (n : Nat) (s : State) : Res (List ((Word × Loc) × List Byte) × Flags) :=
  foldRes ((List.range n).map (a + ·)) ([], 0) (fun acc t s =>
    (r.compute t s).andThen fun x s => .ok ((acc.1 ++ x.1, acc.2 ||| x.2), s)) s

/-- The step's effect: element by element the sources read and the destination located, then an FP trap, then the writes in order (R133, R135, R333). [log 36, DEDUCED] -/
def FormRun.effect (r : FormRun) (a n : Nat) (s : State) : Res Unit :=
  (r.computeFrom a n s).andThen fun x s =>
    let trial := foldRes x.1 () (fun _ (w, bs) s => s.writeElem w bs) s
    if enabledFlags s.regs.fpsr x.2 ≠ 0 then
      match trial with
      | .error e => .error e
      | .ok _ => .error (.trap s (fpTrap x.2))
    else trial.andThen fun _ s => .ok ((), s.sticky x.2)

/-- The flags of an FP trap are set at the step that stops (R44, R135). -/
def trapFlags (e : Eff) : Eff :=
  match e with
  | .trap s t => if t.cause = 0x0D then .trap (s.sticky (t.info.setWidth 5)) t else .trap s t
  | e => e

/-- One turn of a form-mode instruction; the checks are those of its step 0 (R132 to R136). [log 22, DEDUCED] [log 36, DEDUCED] [log 100, DEDUCED] -/
def FormRun.turn (r : FormRun) (s : State) : Eff :=
  let t := s.vprogStep r.opc
  let bad := if t = 0 then r.check else none
  match bad with
  | some k => .trap s (formModeTrap k)
  | none =>
    let total := if r.staged then 1 else r.total
    if formEmpty r.dst || decide (total ≤ t) then .done (s.setVprog 0)
    else
      let regions := (r.srcs.filter fun x => !formLsp x && !formEmpty x).map footprint
      match s.takeWatches regions with
      | .error e => e
      | .ok (_, s) =>
        match s.atomic (r.effect (if r.staged then 0 else t) (if r.staged then r.total else 1)) with
        | .error e => trapFlags (atStep e r.opc t)
        | .ok (_, s) => s.stepDone r.opc t total

/-- The number of a form operand. -/
def fNum (o : Operand) : BitVec 5 :=
  match o with
  | .f n => n
  | _ => 0

def isForm (o : Operand) : Bool :=
  match o with
  | .f _ => true
  | _ => false

/-- The form operands of an instruction, destination first: every one holds a valid record, or check 1 fails (R132). -/
def State.formsOf (s : State) (os : List Operand) : Res (List VWord) :=
  foldRes (os.filter isForm) [] (fun acc o s => (s.form (fNum o)).andThen fun r s => .ok (acc ++ [r], s)) s

/-- The format code of an integer type or of a format (R129). -/
def tyFmt (ty : Nat) : Nat := ty + 1
def fpFmtCode (m : BitVec 4) : Nat := 0x10 + m.toNat % 4

end Sys2Proof.Machine
end

