-- ==== Sys2Proof/Machine/Vector.lean ====
section
/-! DEFINITION. Element-wise vector instructions in register and form mode, compares, and rearranging (05_vector_forms_functions.md R128, R132, R133, R137 to R143). -/

namespace Sys2Proof.Machine

/-- A form's FMT matches the lanes (R132 check 3); exact: the very type or format, else the element size. -/
def Lane.matches (l : Lane) (exact : Bool) (r : VWord) : Bool :=
  if exact then formFmt r == (if l.flt then (if l.e = 16 then (if l.t = f16 then 0x10 else 0x11) else if l.e = 32 then 0x12 else 0x13) else tyFmt l.ty)
  else 8 * formSize r == l.e

/-- Checks 2 to 4 of R132 over the forms an instruction names. -/
def formChecks (rs : List VWord) (fmtOk : Bool) (extOk : Bool) : Option Nat :=
  if rs.any formBn then some 2 else if !fmtOk then some 3 else if !extOk then some 4 else none

def sameExt (rs : List VWord) : Bool := rs.all fun r => formExt r == formExt (rs.headD 0)

/-- Steps of an element-wise sweep (R133). -/
def formSteps (r : VWord) (l : Nat) : Nat := groupCount (formE r 0) l * formE r 1 * formE r 2 * formE r 3

/-- The checks of a first step, which is step 0 also where an instruction resumes there, then a turn (R132, R134). [log 100, DEDUCED] -/
def State.formTurn (s : State) (bad : Option Nat) (r : FormRun) : Eff :=
  match bad, s.vprogStep r.opc with
  | some k, 0 => .trap s (formModeTrap k)
  | _, _ => r.turn s

/-- Some element of a form is active under the guard (R127, R128): an index of dimension 0 whose guard bit is set. -/
def State.anyElem (s : State) (f : Fields) (r : VWord) (l : Nat) : Bool :=
  !formEmpty r && (List.range (min l (formE r 0))).any fun i => (s.guardMask f).getLsbD i

/-- The run of an element-wise instruction over the forms rs: destination, sources a and b, and the old destination where it is read (R133). -/
def wiseRun (opc : Nat) (f : Fields) (l : Lane) (needD : Bool) (op : LaneOp) (rs : List VWord) : FormRun :=
  let d := rs.headD 0
  let a := (rs[1]?).getD 0
  let compute (t : Nat) (s : State) : Res (List ((Word × Loc) × List Byte) × Flags) :=
    foldRes (s.groupElems f d l.count t) ([], 0) (fun acc i s =>
      (s.readForm a i).andThen fun x s =>
      (match rs[2]? with
        | some b => s.readForm b i
        | none => .ok ((s.src f.src2).toNat, s)).andThen fun y s =>
      (if needD then s.readForm d i else .ok (0, s)).andThen fun old s =>
        let r := op l x y old
        (s.placeForm d i r.1).andThen fun w s => .ok ((acc.1 ++ [w], acc.2 ||| r.2), s)) s
  { opc := opc, dst := d, srcs := rs.drop 1 ++ (if needD then [d] else []), total := formSteps d l.count, compute := compute }

/-- An element-wise instruction over forms (R132, R133); its limit on VKIND is met where an element is active (R128). [log 101, DEDUCED] -/
def formWise (opc : Nat) (f : Fields) (l : Lane) (needD : Bool) (limit : Bool) (fmtOk : List VWord → Bool) (op : LaneOp)
    (s : State) : Eff :=
  (s.formsOf [f.dst, f.src1, f.src2]).fin fun rs s =>
    if !limit && s.anyElem f (rs.headD 0) l.count then .trap s kindLimit
    else s.formTurn (formChecks rs (fmtOk rs) (sameExt rs)) (wiseRun opc f l needD op rs)

/-- An element-wise instruction in a register: one lane of each source and the old destination (R140). -/
def regWise (f : Fields) (l : Lane) (op : LaneOp) (s : State) : Eff :=
  s.toLanes f l.e fun i =>
    some (op l (s.laneSrc f.src1 l.e i) (s.laneSrc f.src2 l.e i) (laneOf (s.getV (vNum f.dst)) l.e i))

/-- The formats of an element-wise instruction's forms fit its lanes; those of VMOV are the same (R132, R143). -/
def wiseFmt (opc : Nat) (l : Lane) (exact : Bool) (rs : List VWord) : Bool :=
  rs.all (l.matches exact) && (exact || rs.all fun r => formFmt r == formFmt (rs.headD 0) || opc != 0x80)

/-- An element-wise instruction: its limit on VKIND, then registers or forms (R128, R140). -/
def vector (i : Instr) (f : Fields) (s : State) (lane : State → Lane) (exact needD : Bool) (limit : Lane → Bool)
    (op : LaneOp) : Host.Outcome State Fault Refusal :=
  issue i f (lane s).count s fun s =>
    let l := lane s
    if isForm f.dst then formWise (opcOf i) f l needD (limit l) (wiseFmt (opcOf i) l exact) op s
    else if !limit l then .trap s kindLimit
    else regWise f l op s

def noLimit (_ : Lane) : Bool := true

def execVadd (f : Fields) (s : State) : Host.Outcome State Fault Refusal :=
  vector (.vadd f) f s (·.kindLane f.mod) true false noLimit (kindOp (intLane fun x y => x + y) (fpLane fpAdd))
def execVsub (f : Fields) (s : State) : Host.Outcome State Fault Refusal :=
  vector (.vsub f) f s (·.kindLane f.mod) true false noLimit (kindOp (intLane fun x y => x - y) (fpLane fpSub))
def execVmul (f : Fields) (s : State) : Host.Outcome State Fault Refusal :=
  vector (.vmul f) f s (·.kindLane f.mod) true false noLimit (kindOp (intLane fun x y => x * y) (fpLane fpMul))

/-- MOD [3] = 0 for integer lanes, MOD [3:2] = 0 for floating-point lanes (R128). -/
def minMaxLimit (l : Lane) : Bool := if l.flt then l.rm == 0 else !l.sat

def execVmin (f : Fields) (s : State) : Host.Outcome State Fault Refusal :=
  vector (.vmin f) f s (·.kindLane f.mod) true false minMaxLimit
    (kindOp (intLane fun x y => min x y) (fpLane fun t _ => fpMinMax t false))
def execVmax (f : Fields) (s : State) : Host.Outcome State Fault Refusal :=
  vector (.vmax f) f s (·.kindLane f.mod) true false minMaxLimit
    (kindOp (intLane fun x y => max x y) (fpLane fun t _ => fpMinMax t true))
def execVabs (f : Fields) (s : State) : Host.Outcome State Fault Refusal :=
  vector (.vabs f) f s (·.kindLane f.mod) true false noLimit
    (kindOp (intLane fun x _ => x.natAbs) (signLane fun _ => false))
def execVneg (f : Fields) (s : State) : Host.Outcome State Fault Refusal :=
  vector (.vneg f) f s (·.kindLane f.mod) true false noLimit (kindOp (intLane fun x _ => -x) (signLane fun n => !n))

/-- VFMA: the old destination is the addend (R140). -/
def execVfma (f : Fields) (s : State) : Host.Outcome State Fault Refusal :=
  vector (.vfma f) f s (fun _ => .fp f.mod) true true noLimit fun l x y d => fpFma l.t l.rm x y d
def execVdiv (f : Fields) (s : State) : Host.Outcome State Fault Refusal :=
  vector (.vdiv f) f s (fun _ => .fp f.mod) true false noLimit (fpLane fpDiv)
def execVsqrt (f : Fields) (s : State) : Host.Outcome State Fault Refusal :=
  vector (.vsqrt f) f s (fun _ => .fp f.mod) true false noLimit (fpLane fun t rm x _ => fpSqrt t rm x)

def execVand (f : Fields) (s : State) : Host.Outcome State Fault Refusal :=
  vector (.vand f) f s (fun _ => .width f.mod) false false noLimit (bitLane fun x y => x &&& y)
def execVor (f : Fields) (s : State) : Host.Outcome State Fault Refusal :=
  vector (.vor f) f s (fun _ => .width f.mod) false false noLimit (bitLane fun x y => x ||| y)
def execVxor (f : Fields) (s : State) : Host.Outcome State Fault Refusal :=
  vector (.vxor f) f s (fun _ => .width f.mod) false false noLimit (bitLane fun x y => x ^^^ y)

/-- A shift of the pattern by an amount read unsigned (R97, R140). -/
def shiftLane (op : Nat → Nat → Nat → Nat) : LaneOp := fun l x y _ => (op l.e (x % 2 ^ l.e) y % 2 ^ l.e, 0)

def execVshl (f : Fields) (s : State) : Host.Outcome State Fault Refusal :=
  vector (.vshl f) f s (fun _ => .int f.mod) true false noLimit fun l x y _ =>
    ((narrow l.ty l.sat (shlExact (intOf l.ty x) y) % 2 ^ l.e).toNat, 0)
def execVshr (f : Fields) (s : State) : Host.Outcome State Fault Refusal :=
  vector (.vshr f) f s (fun _ => .int f.mod) true false noLimit (shiftLane shrPat)
def execVsar (f : Fields) (s : State) : Host.Outcome State Fault Refusal :=
  vector (.vsar f) f s (fun _ => .int f.mod) true false noLimit (shiftLane sarPat)
def execVmulh (f : Fields) (s : State) : Host.Outcome State Fault Refusal :=
  vector (.vmulh f) f s (fun _ => .int f.mod) true false noLimit fun l x y d =>
    intLane (fun a b => (a * b).fdiv (2 ^ l.e)) l x y d
def execVpopc (f : Fields) (s : State) : Host.Outcome State Fault Refusal :=
  vector (.vpopc f) f s (fun _ => .int f.mod) true false noLimit fun l x _ _ => (popPat l.e x, 0)

/-- VMOV copies patterns; in form mode both forms have the same FMT (R143). -/
def execVmov (f : Fields) (s : State) : Host.Outcome State Fault Refusal :=
  vector (.vmov f) f s (fun _ => .width f.mod) false false noLimit fun l x _ _ => (x % 2 ^ l.e, 0)

/-- VDOT: four products into a lane four times as wide, wrapped or clamped once (R141). -/
def execVdot (f : Fields) (s : State) : Host.Outcome State Fault Refusal :=
  let ty := modTy f.mod
  let e := tyWidth ty
  issue (.vdot f) f (512 / (4 * e)) s fun s =>
    let x := s.getV (vNum f.src1)
    let y := s.getV (vNum f.src2)
    let d := s.getV (vNum f.dst)
    s.moveLanes f (4 * e) fun i =>
      let p := (List.range 4).foldl (fun (n : Int) k => n + intOf ty (laneOf x e (4 * i + k)) * intOf ty (laneOf y e (4 * i + k))) 0
      some ((narrow (ty + 2) (modSat f.mod) (intOf (ty + 2) (laneOf d (4 * e) i) + p) % 2 ^ (4 * e)).toNat)

/-- A condition on lanes, with its flags (R142). -/
def laneCond (l : Lane) (cond x y : Nat) : Bool × Flags :=
  if l.flt then fpCond l.t cond x y
  else (intCond cond (intOf l.ty x) (intOf l.ty y) (patOf l.ty x) (patOf l.ty y), 0)

/-- The condition is one that the lane kind accepts, and MOD within the limit (R128). -/
def condLimit (l : Lane) (cond : Nat) : Bool := minMaxLimit l && (if l.flt then condFp cond else decide (cond < 8))
where
  condFp (c : Nat) : Bool := decide (c < 6) || c == 8 || c == 9

/-- Mask bits below L replaced in active lanes, and bits from L on cleared (R11, R142). -/
def maskUpdate (old : Nat) (n : Nat) (active : Nat → Bool) (x : Nat → Bool) : Nat :=
  (List.range n).foldl (fun m i => if (if active i then x i else old.testBit i) then m + 2 ^ i else m) 0

/-- VCMP (R142). -/
def execVcmp (f : Fields) (s : State) : Host.Outcome State Fault Refusal :=
  issue (.vcmp f) f (s.kindLane f.mod).count s fun s =>
    let l := s.kindLane f.mod
    let cond := condOf f.dst
    if !condLimit l cond then .trap s kindLimit
    else
      let act (i : Nat) : Bool := (s.guardMask f).getLsbD i
      let res (i : Nat) : Bool × Flags := laneCond l cond (s.laneSrc f.src1 l.e i) (s.laneSrc f.src2 l.e i)
      let fl := (List.range l.count).foldl (fun (a : Flags) i => if act i then a ||| (res i).2 else a) 0
      (s.flags fl).fin fun _ s => match f.dst with
        | .pp pt pc _ =>
          let t := maskUpdate (s.getP pt).toNat l.count act fun i => (res i).1
          let c := maskUpdate (s.getP pc).toNat l.count act fun i => !(res i).1
          .done (s.setCompare f.dst (BitVec.ofNat 64 t) (BitVec.ofNat 64 c))
        | _ => .done s

/-- The element width of the Width layout (R126). -/
def widthOf (m : BitVec 4) : Nat := 8 <<< (m.toNat % 4)

/-- An instruction of the Width layout on V registers. -/
def widthOp (i : Instr) (f : Fields) (s : State) (body : Nat → State → Eff) : Host.Outcome State Fault Refusal :=
  let e := widthOf f.mod
  issue i f (512 / e) s (body e)

def execVbcast (f : Fields) (s : State) : Host.Outcome State Fault Refusal :=
  widthOp (.vbcast f) f s fun e s => s.moveLanes f e fun _ => some ((s.src f.src1).toNat % 2 ^ e)

/-- VSEL: MOD [3] negates the selector, MOD [2] fills with zero (R143). -/
def execVsel (f : Fields) (s : State) : Host.Outcome State Fault Refusal :=
  widthOp (.vsel f) f s fun e s =>
    let m := s.getP (pNum f.src2)
    s.moveLanes f e fun i =>
      if m.getLsbD i != f.mod.getLsbD 3 then some (s.laneSrc f.src1 e i)
      else if f.mod.getLsbD 2 then some 0 else none

def execVshuf (f : Fields) (s : State) : Host.Outcome State Fault Refusal :=
  widthOp (.vshuf f) f s fun e s => s.moveLanes f e fun i => some (s.laneSrc f.src1 e (s.laneSrc f.src2 e i % (512 / e)))

/-- VSLIDE: MOD [2] rotates (R143). -/
def execVslide (f : Fields) (s : State) : Host.Outcome State Fault Refusal :=
  widthOp (.vslide f) f s fun e s =>
    let k := (s.src f.src2).toInt
    s.moveLanes f e fun i =>
      let j := (i : Int) + k
      if (0 ≤ j ∧ j < (512 / e : Nat)) ∨ f.mod.getLsbD 2 = true then some (s.laneSrc f.src1 e (j % (512 / e : Nat)).toNat)
      else some 0

/-- VCOMP: the selected lanes, packed (R143). -/
def execVcomp (f : Fields) (s : State) : Host.Outcome State Fault Refusal :=
  widthOp (.vcomp f) f s fun e s =>
    let m := s.getP (pNum f.src2)
    let picked := ((List.range (512 / e)).filter fun j => m.getLsbD j).map (s.laneSrc f.src1 e)
    s.moveLanes f e fun i => some (picked.getD i 0)

/-- VEXT: the guard bit of the selected lane decides (R127, R143). -/
def execVext (f : Fields) (s : State) : Host.Outcome State Fault Refusal :=
  let ty := modTy f.mod
  let e := tyWidth ty
  issue (.vext f) f (512 / e) s fun s =>
    let j := (s.src f.src2).toNat % (512 / e)
    if (s.guardMask f).getLsbD j then .done (s.setG (gNum f.dst) (extendPat ty (s.laneSrc f.src1 e j))) else .done s

/-- VINS (R143). -/
def execVins (f : Fields) (s : State) : Host.Outcome State Fault Refusal :=
  widthOp (.vins f) f s fun e s =>
    let j := (s.src f.src2).toNat % (512 / e)
    s.moveLanes f e fun i => if i = j then some ((s.src f.src1).toNat % 2 ^ e) else none

/-- VIOTA: exact, then wrapped or clamped; the sources are 64-bit values read in the type (R85, R143). [log 39, DEDUCED] -/
def execViota (f : Fields) (s : State) : Host.Outcome State Fault Refusal :=
  let ty := modTy f.mod
  let e := tyWidth ty
  issue (.viota f) f (512 / e) s fun s =>
    let x := intOf ty (s.src f.src1).toNat
    let y := intOf ty (s.src f.src2).toNat
    s.moveLanes f e fun i => some ((narrow ty (modSat f.mod) (x + i * y) % 2 ^ e).toNat)

/-- The local-store offset of a form instruction's memory operand (R137, R138): aligned to 64 and below 512 KiB. -/
def State.formOffset (s : State) (o : Operand) (k : Kind) : Res Nat :=
  let a := s.addrOf o 64
  if a.toNat % 64 ≠ 0 then .error (.trap s (misaligned a 64))
  else if 0x80000 ≤ a.toNat then .error (.trap s (protTrap k s.isUser true a 0))
  else .ok (a.toNat, s)

/-- A form register written. -/
def State.setForm (s : State) (n : BitVec 5) (r : VWord) : State :=
  s.setRegs { s.regs with forms := s.regs.forms.set n.toNat (some r) n.isLt }

/-- FSET (R137). -/
def execFset (f : Fields) (s : State) : Host.Outcome State Fault Refusal :=
  scalar (.fset f) f s fun s =>
    (s.formOffset f.src1 .read).fin fun off s => (s.readLs s.curCore off 64).fin fun bs s =>
      let r : VWord := BitVec.ofNat 512 (leNat bs)
      match formCheck r with
      | some k => .trap s (formInvalid k)
      | none => .done ((s.setForm (fNum f.dst) r).update f.src1 64)

/-- FGET (R138). -/
def execFget (f : Fields) (s : State) : Host.Outcome State Fault Refusal :=
  scalar (.fget f) f s fun s =>
    (s.form (fNum f.src1)).fin fun r s =>
      match f.dst with
      | .g d => .done (s.setG d (r.extractLsb' (64 * immNat f.src2) 64))
      | o => (s.formOffset o .write).fin fun off s =>
        (s.writeLs s.curCore off (leBytes 64 r.toNat)).fin fun _ s => .done (s.update o 64)

/-- A form record with the field of FADJ changed (R139). -/
def adjust (r : VWord) (field : Nat) (x : Word) : VWord :=
  match field with
  | 0 => setField r 0 64 (formBase r + x.toNat)
  | 1 => setField r 64 64 (formScale r + x.toNat)
  | 10 => setField r 396 4 x.toNat
  | n => if n < 6 then setField r (128 + 32 * (n - 2)) 32 x.toNat else setField r (256 + 32 * (n - 6)) 32 x.toNat

/-- FADJ (R139). -/
def execFadj (f : Fields) (s : State) : Host.Outcome State Fault Refusal :=
  scalar (.fadj f) f s fun s =>
    (s.form (fNum f.dst)).fin fun r s =>
      let r := adjust r f.mod.toNat (s.src f.src1)
      match formCheck r with
      | some k => .trap s (formInvalid k)
      | none => .done (s.setForm (fNum f.dst) r)

end Sys2Proof.Machine
end

