-- ==== Sys2Proof/Machine/Reduce.lean ====
section
/-! DEFINITION. Conversion, reduction, vector memory access, bit planes and random numbers (05_vector_forms_functions.md R144 to R154, 02 R50 to R52, R64). -/

namespace Sys2Proof.Machine

/-- Codes of VCVT (R144): source, destination, part. -/
def cvtSrc (o : Operand) : Nat := immNat o % 16
def cvtDst (o : Operand) : Nat := immNat o / 16 % 16
def cvtPart (o : Operand) : Nat := immNat o / 256 % 4

/-- The width of an element code (R144). -/
def cvtWidth (c : Nat) : Nat := if c < 8 then tyWidth c else (fmtOf (c - 8)).width

/-- One element converted (R46 to R49, R144). -/
def convert (sc dc : Nat) (m : BitVec 4) (x : Nat) : Nat × Flags :=
  if sc < 8 then
    if dc < 8 then ((narrow dc (m.getLsbD 3) (intOf sc x) % 2 ^ tyWidth dc).toNat, 0)
    else fpOfInt (fmtOf (dc - 8)) (modRm m) (intOf sc x)
  else if dc < 8 then
    let (v, fl) := fpToInt (fmtOf (sc - 8)) (modRm m) dc x
    ((v % 2 ^ tyWidth dc).toNat, fl)
  else fpConv (fmtOf (sc - 8)) (fmtOf (dc - 8)) (modRm m) x

/-- The FMT that an element code asks of a form (R129, R144). -/
def cvtFmt (c : Nat) : Nat := if c < 8 then tyFmt c else 0x10 + (c - 8)

/-- A conversion as an operation on lanes. -/
def cvtOp (f : Fields) : LaneOp := fun _ x _ _ => convert (cvtSrc f.src2) (cvtDst f.src2) f.mod x

/-- VCVT between V registers (R144). -/
def cvtReg (f : Fields) (s : State) : Eff :=
  let sc := cvtSrc f.src2
  let dc := cvtDst f.src2
  let es := cvtWidth sc
  let ed := cvtWidth dc
  let n := 512 / max es ed
  let h := cvtPart f.src2
  s.toLanes f ed fun i =>
    if es ≤ ed then some (convert sc dc f.mod (s.laneSrc f.src1 es (h * n + i)))
    else if h * n ≤ i ∧ i < h * n + n then some (convert sc dc f.mod (s.laneSrc f.src1 es (i - h * n)))
    else none

/-- The formats of VCVT's forms are those its codes name (R144). -/
def cvtForms (f : Fields) (rs : List VWord) : Bool :=
  (rs.map formFmt) == [cvtFmt (cvtDst f.src2), cvtFmt (cvtSrc f.src2)]

/-- VCVT (R144): in form mode L comes from the wider format (R127). -/
def execVcvt (f : Fields) (s : State) : Host.Outcome State Fault Refusal :=
  let w := max (cvtWidth (cvtSrc f.src2)) (cvtWidth (cvtDst f.src2))
  let lanes := if isForm f.dst then 512 / w else 512 / cvtWidth (cvtDst f.src2)
  issue (.vcvt f) f lanes s fun s =>
    if isForm f.dst then
      formWise 0x92 { f with src2 := .none } ⟨w, false, 0, f16, 0, false⟩ false true
        (cvtForms f) (cvtOp f) s
    else cvtReg f s

/-- One level of the tree of R64: a node with one valued child passes its bits on as they are, a NaN that is not canonical too, where R40 would let no payload pass. [log 102, DEDUCED] -/
def treeLevel {α : Type} (op : α → α → α) : List (Option α) → List (Option α)
  | some a :: some b :: xs => some (op a b) :: treeLevel op xs
  | some a :: none :: xs => some a :: treeLevel op xs
  | none :: b :: xs => b :: treeLevel op xs
  | xs => xs

/-- The root of the tree of R64 over a power of two of lanes. -/
def treeRoot {α : Type} (op : α → α → α) : Nat → List (Option α) → Option α
  | 0, xs => (xs.headD none)
  | n + 1, xs => treeRoot op n (treeLevel op xs)

/-- A floating-point node: value and flags so far (R64). -/
def fpNode (l : Lane) (k : Nat) (a b : Nat × Flags) : Nat × Flags :=
  let r := match k with
    | 0 => fpAdd l.t l.rm a.1 b.1
    | 1 => fpMinMax l.t false a.1 b.1
    | _ => fpMinMax l.t true a.1 b.1
  (r.1, a.2 ||| b.2 ||| r.2)

/-- The reduction of lanes, some with no value (R145). -/
def reduce (l : Lane) (k : Nat) (xs : List (Option Nat)) : Nat × Flags :=
  let levels := Nat.log2 xs.length
  if l.flt then
    match treeRoot (fpNode l k) levels (xs.map fun o => o.map fun x => (x, (0 : Flags))) with
    | some r => r
    | none => (match k with
      | 0 => 0
      | 1 => l.t.infBits
      | _ => l.t.infBits + l.t.signBit, 0)
  else
    let pat (v : Int) : Nat := (v % 2 ^ l.e).toNat
    let vals := xs.filterMap id
    let ints := vals.map (intOf l.ty)
    (match k with
      | 0 => pat (narrow l.ty l.sat (ints.foldl (· + ·) 0))
      | 1 => pat (ints.foldl min (tyMax l.ty))
      | 2 => pat (ints.foldl max (tyMin l.ty))
      | 3 => vals.foldl (· &&& ·) (2 ^ l.e - 1)
      | 4 => vals.foldl (· ||| ·) 0
      | _ => vals.foldl (· ^^^ ·) 0, 0)

/-- The run of VRED over forms: one source line into one destination element a step (R145). The guard acts on the source elements, and each destination element is written (R127). [log 103, DEDUCED] -/
def redRun (f : Fields) (l : Lane) (rs : List VWord) : FormRun :=
  let d := rs.headD 0
  let a := (rs[1]?).getD 0
  let n := formE a 0
  let width := if n ≤ 1 then 1 else 2 ^ (Nat.log2 (n - 1) + 1)
  let compute (t : Nat) (s : State) : Res (List ((Word × Loc) × List Byte) × Flags) :=
    let i1 := t % formE d 1
    let i2 := t / formE d 1 % formE d 2
    let i3 := t / (formE d 1 * formE d 2)
    (foldRes (List.range width) [] (fun acc i0 s =>
      if i0 < n ∧ (s.guardMask f).getLsbD (i0 % l.count) = true then
        (s.readForm a (i0, i1, i2, i3)).andThen fun x s => .ok (acc ++ [some x], s)
      else .ok (acc ++ [none], s)) s).andThen fun xs s =>
        let r := reduce l (immNat f.src2) xs
        (s.placeForm d (0, i1, i2, i3) r.1).andThen fun w s => .ok (([w], r.2), s)
  { opc := 0x95, dst := d, srcs := [a], total := formE d 1 * formE d 2 * formE d 3, compute := compute }

/-- The extents of the forms of VRED fit: lines of at most 4,096 elements into single ones (R132, R145). -/
def redExt (rs : List VWord) : Bool :=
  let d := rs.headD 0
  let a := (rs[1]?).getD 0
  formE d 0 == 1 && (formExt d).drop 1 == (formExt a).drop 1 && decide (formE a 0 ≤ 4096)

/-- VRED over a form (R145); its limit on VKIND is met where a source element is active (R128). [log 101, DEDUCED] -/
def redForm (f : Fields) (l : Lane) (limit : Bool) (s : State) : Eff :=
  (s.formsOf [f.dst, f.src1]).fin fun rs s =>
    if !limit && !formEmpty (rs.headD 0) && s.anyElem f ((rs[1]?).getD 0) l.count then .trap s kindLimit
    else s.formTurn (formChecks rs (rs.all (l.matches true)) (redExt rs)) (redRun f l rs)

/-- VRED (R145). -/
def execVred (f : Fields) (s : State) : Host.Outcome State Fault Refusal :=
  issue (.vred f) f (s.kindLane f.mod).count s fun s =>
    let l := s.kindLane f.mod
    let k := immNat f.src2
    let limit := !l.flt || decide (k ≤ 2)
    if isForm f.dst then redForm f l limit s
    else if !limit then .trap s kindLimit
    else
      let xs := (List.range l.count).map fun i =>
        if (s.guardMask f).getLsbD i then some (s.laneSrc f.src1 l.e i) else none
      let r := reduce l k xs
      (s.flags r.2).fin fun _ s =>
        .done (s.setG (gNum f.dst) (if l.flt then BitVec.ofNat 64 r.1 else extendPat l.ty r.1))

/-- The active lanes of an instruction. -/
def State.lanesOn (s : State) (f : Fields) (n : Nat) : List Nat := (List.range n).filter fun i => (s.guardMask f).getLsbD i

def Loc.isEdge : Loc → Bool
  | .ls _ _ => false
  | .mem _ => false
  | _ => true

/-- Lanes and their addresses, each with the checks of its access, in ascending order (R146 to R148, R333). -/
def State.locateLanes (s : State) (xs : List (Nat × Word)) (n : Nat) (k : Kind) : Res (List (Nat × Word × Loc)) :=
  foldRes xs [] (fun acc (i, a) s =>
    if a.toNat % n ≠ 0 then .error (.trap s (misaligned a n))
    else (s.locate a n k).andThen fun l s => (s.touchable a l n k).andThen fun _ s => .ok (acc ++ [(i, a, l)], s)) s

/-- An access with a lane outside the package runs alone as one edge access, and the outside answers for each such lane (R148, R228, R392). -/
def State.edgeLanes (s : State) (ls : List (Nat × Word × Loc)) (k : Kind) : Res Unit :=
  if !(ls.any fun l => l.2.2.isEdge) then .ok ((), s)
  else if !s.isAlone then .error (.edge s)
  else
    s.edgeTurn.andThen fun _ s =>
    (foldRes ls () (fun _ (_, a, l) s =>
      if l.isEdge then
        let (st, s) := if k.isWrite then s.writeStatus l else s.edgeStatus l
        if st = 0 then .ok ((), s) else .error (.trap s (edgeTrap a false st))
      else .ok ((), s)) s).andThen fun _ s => .ok ((), s.edgeEvent)

/-- The bytes of one lane. -/
def State.loadLane (s : State) (a : Word) (l : Loc) (n : Nat) : Res (List Byte) :=
  match l with
  | .ls c off => s.readLs c off n
  | .mem pa => s.readMem a pa n false
  | l => .ok (s.edgeRead l n)

/-- The bytes of one lane written. -/
def State.storeLane (s : State) (a : Word) (l : Loc) (bs : List Byte) : Res Unit :=
  match l with
  | .ls c off => s.writeLs c off bs
  | .mem pa => s.writeMem a pa bs
  | l => .ok ((), s.edgeWrite a l bs)

/-- All lanes read, or none (R148). -/
def State.loadLanes (s : State) (xs : List (Nat × Word)) (n : Nat) : Res (List (Nat × Nat)) :=
  s.atomic fun s =>
    (s.locateLanes xs n .read).andThen fun ls s => (s.edgeLanes ls .read).andThen fun _ s =>
      foldRes ls [] (fun acc (i, a, l) s => (s.loadLane a l n).andThen fun bs s => .ok (acc ++ [(i, leNat bs)], s)) s

/-- All lanes written in ascending order, or none (R147, R148). -/
def State.storeLanes (s : State) (xs : List (Nat × Word)) (n : Nat) (v : Nat → Nat) : Res Unit :=
  s.atomic fun s =>
    (s.locateLanes xs n .write).andThen fun ls s => (s.edgeLanes ls .write).andThen fun _ s =>
      foldRes ls () (fun _ (i, a, l) s => s.storeLane a l (leBytes n (v i))) s

/-- The 64 bytes lie on both sides of an end of the window (R146). -/
def crossesWindow (a : Word) : Bool := inWindow a != inWindow (a + 63)

/-- Lanes read put into the destination. -/
def State.deliverLanes (s : State) (d : BitVec 4) (e : Nat) (xs : List (Nat × Nat)) : State :=
  s.setV d (xs.foldl (fun v (i, x) => putLane v e i x) (s.getV d))

/-- The address of each active lane of a contiguous access (R146). -/
def State.rowLanes (s : State) (f : Fields) (a : Word) (n : Nat) : List (Nat × Word) :=
  (s.lanesOn f (64 / n)).map fun i => (i, a + BitVec.ofNat 64 (i * n))

/-- VLD (R146). -/
def execVld (f : Fields) (s : State) : Host.Outcome State Fault Refusal :=
  widthOp (.vld f) f s fun e s =>
    let a := s.addrOf f.src1 64
    if a.toNat % (e / 8) ≠ 0 then .trap s (misaligned a (e / 8))
    else if crossesWindow a then .trap s (protTrap .read s.isUser true a 0)
    else (s.loadLanes (s.rowLanes f a (e / 8)) (e / 8)).fin fun xs s =>
      .done ((s.deliverLanes (vNum f.dst) e xs).update f.src1 64)

/-- VST (R146). -/
def execVst (f : Fields) (s : State) : Host.Outcome State Fault Refusal :=
  widthOp (.vst f) f s fun e s =>
    let a := s.addrOf f.dst 64
    if a.toNat % (e / 8) ≠ 0 then .trap s (misaligned a (e / 8))
    else if crossesWindow a then .trap s (protTrap .write s.isUser true a 0)
    else (s.storeLanes (s.rowLanes f a (e / 8)) (e / 8) fun i => s.laneSrc f.src1 e i).fin fun _ s =>
      .done (s.update f.dst 64)

/-- The address of each active lane of a gather or scatter (R147). -/
def State.indexLanes (s : State) (f : Fields) (base : Word) (idx : Operand) (e : Nat) : List (Nat × Word) :=
  (s.lanesOn f (512 / e)).map fun i =>
    let x := s.laneSrc idx e i
    let k : Int := if x.testBit (e - 1) then (x : Int) - 2 ^ e else x
    (i, base + BitVec.ofInt 64 (k * (e / 8 : Nat)))

/-- VGATH (R147). -/
def execVgath (f : Fields) (s : State) : Host.Outcome State Fault Refusal :=
  widthOp (.vgath f) f s fun e s =>
    (s.loadLanes (s.indexLanes f (s.addrOf f.src1 0) f.src2 e) (e / 8)).fin fun xs s =>
      .done (s.deliverLanes (vNum f.dst) e xs)

/-- VSCAT: SRC1 is the index, SRC2 the data (R147). -/
def execVscat (f : Fields) (s : State) : Host.Outcome State Fault Refusal :=
  widthOp (.vscat f) f s fun e s =>
    (s.storeLanes (s.indexLanes f (s.addrOf f.dst 0) f.src1 e) (e / 8) fun i => s.laneSrc f.src2 e i).fin fun _ s => .done s

/-- A lane reduced to Ps bits (R149). -/
def planeValue (ps : Nat) (sat : Bool) (x : Nat) : Nat :=
  let v := intOf 0 x
  let lim : Int := 2 ^ (ps - 1)
  let v := if sat then max (-lim) (min (lim - 1) v) else v
  (v % 2 ^ ps).toNat

/-- VPLANE (R149). -/
def execVplane (f : Fields) (s : State) : Host.Outcome State Fault Refusal :=
  issue (.vplane f) f 64 s fun s =>
    let ps := immNat f.src2 % 16
    let x := s.getV (vNum f.src1)
    let d := s.getV (vNum f.dst)
    let act (i : Nat) : Bool := (s.guardMask f).getLsbD i
    let half (v : VWord) (h : Nat) : VWord :=
      if !((List.range 32).any fun j => act (32 * h + j)) then v
      else
        let v := setField v (256 * h + 32 * ps) (256 - 32 * ps) 0
        (List.range 32).foldl (fun v j =>
          if act (32 * h + j) then
            let n := planeValue ps (f.mod.getLsbD 3) (laneOf x 8 (32 * h + j))
            (List.range ps).foldl (fun v p => setField v (256 * h + 32 * p + j) 1 (bit (n.testBit (ps - 1 - p)))) v
          else v) v
    .done (s.setV (vNum f.dst) (half (half d 0) 1))

/-- The value that Pr of Ps planes give element j of a block record of plane words (R52). -/
def planeRead (word : Nat → Nat) (ps pr : Nat) (centred : Bool) (j : Nat) : Int :=
  let raw := (List.range pr).foldl (fun n p => 2 * n + bit ((word p).testBit j)) 0
  let vr : Int := if raw.testBit (pr - 1) then (raw : Int) - 2 ^ pr else raw
  let d := ps - pr
  vr * 2 ^ d + (if centred && decide (0 < d) then 2 ^ (d - 1) else 0)

/-- VUNPL (R150). -/
def execVunpl (f : Fields) (s : State) : Host.Outcome State Fault Refusal :=
  issue (.vunpl f) f 64 s fun s =>
    let ps := immNat f.src2 % 16
    let pr := if immNat f.src2 / 16 % 16 = 0 then ps else immNat f.src2 / 16 % 16
    let x := s.getV (vNum f.src1)
    s.moveLanes f 8 fun i =>
      let v := planeRead (fun p => fieldNat x (256 * (i / 32) + 32 * p) 32) ps pr (f.mod.getLsbD 0) (i % 32)
      some (v % 256).toNat

/-- Orris (R152): the output as x : y. -/
def orrisRound (key : Word) (xy : Word × Word) (i : Nat) : Word × Word :=
  let rho := [17, 29, 11, 41, 23, 7, 37, 53].getD i 0
  let k := key + BitVec.ofNat 64 i * 0xC6E13F7B9D2458A9#64
  let x := (xy.1 + (xy.2 ^^^ k)).rotateLeft rho
  (x, (xy.2 * 0xA3B195E52C6F0D17#64) ^^^ x)

def orris (key : Word) (c : BitVec 128) : Word × Word :=
  (List.range 8).foldl (orrisRound key) (c.extractLsb' 64 64, c.extractLsb' 0 64)

/-- RNGX (R153). -/
def execRngx (f : Fields) (s : State) : Host.Outcome State Fault Refusal :=
  match f.dst with
  | .v d => issue (.rngx f) f 4 s fun s =>
      let key := s.src f.src2
      let a := s.getV (vNum f.src1)
      let v := (s.lanesOn f 4).foldl (fun v j =>
        let r := orris key (a.extractLsb' (128 * j) 128)
        putLane (putLane v 64 (2 * j) r.2.toNat) 64 (2 * j + 1) r.1.toNat) (s.getV d)
      .done (s.setV d v)
  | o => scalar (.rngx f) f s fun s =>
      let r := orris (s.src f.src2) (s.pair f.src1)
      .done (s.setPair o (r.1 ++ r.2 : BitVec 128))

/-- A draw converted exactly: F32 or F64 (R154). -/
def drawValue (f64bits : Bool) (v : Nat) : Nat :=
  if f64bits then (roundFp f64 0 false (v / 2 ^ 11) (-53) false).1 else (roundFp f32 0 false (v / 2 ^ 40) (-24) false).1

/-- RNGF (R154). -/
def execRngf (f : Fields) (s : State) : Host.Outcome State Fault Refusal :=
  let wide := f.mod = 3
  match f.dst with
  | .v _ =>
    if wide then issue (.rngf f) f 8 s fun s => s.moveLanes f 64 fun i => some (drawValue true (s.laneSrc f.src1 64 i))
    else issue (.rngf f) f 16 s fun s =>
      let h := immNat f.src2
      s.moveLanes f 32 fun i =>
        if 8 * h ≤ i ∧ i < 8 * h + 8 then some (drawValue false (s.laneSrc f.src1 64 (i - 8 * h))) else none
  | .g d => scalar (.rngf f) f s fun s => .done (s.setG d (BitVec.ofNat 64 (drawValue wide (s.src f.src1).toNat)))
  | _ => scalar (.rngf f) f s fun s => .done s

end Sys2Proof.Machine
end

