-- ==== Sys2Proof/Machine/Sfx.lean ====
section
/-! DEFINITION. Special functions, correctly rounded (05_vector_forms_functions.md R151): exact rational cases first, then enclosures in fixed point that are tightened until one integer part is left. -/

namespace Sys2Proof.Machine

/-- An enclosure [lo, hi] in units of 2^-w; every function below takes w first. -/
structure Iv where
  lo : Int
  hi : Int

/-- Division towards minus and plus infinity by a positive number. -/
def divDown (a : Int) (n : Nat) : Int := a.fdiv n
def divUp (a : Int) (n : Nat) : Int := -((-a).fdiv n)

def Iv.add (a b : Iv) : Iv := ⟨a.lo + b.lo, a.hi + b.hi⟩
def Iv.sub (a b : Iv) : Iv := ⟨a.lo - b.hi, a.hi - b.lo⟩
def Iv.divN (a : Iv) (n : Nat) : Iv := ⟨divDown a.lo n, divUp a.hi n⟩
def Iv.mulN (a : Iv) (n : Nat) : Iv := ⟨a.lo * n, a.hi * n⟩
def Iv.neg (a : Iv) : Iv := ⟨-a.hi, -a.lo⟩
/-- Widened by k units on both sides. -/
def Iv.widen (a : Iv) (k : Int) : Iv := ⟨a.lo - k, a.hi + k⟩
def Iv.ofInt (w : Nat) (n : Int) : Iv := ⟨n * 2 ^ w, n * 2 ^ w⟩

def Iv.mul (w : Nat) (a b : Iv) : Iv :=
  let p := a.lo * b.lo
  let q := a.lo * b.hi
  let r := a.hi * b.lo
  let t := a.hi * b.hi
  ⟨divDown (min (min p q) (min r t)) (2 ^ w), divUp (max (max p q) (max r t)) (2 ^ w)⟩

/-- A quotient of positive enclosures. -/
def Iv.div (w : Nat) (a b : Iv) : Iv := ⟨divDown (a.lo * 2 ^ w) b.hi.toNat, divUp (a.hi * 2 ^ w) b.lo.toNat⟩

/-- The dyadic number n × 2^e. -/
def Iv.dyadic (w : Nat) (n : Int) (e : Int) : Iv :=
  if 0 ≤ e + w then let x := n * 2 ^ (e + w).toNat; ⟨x, x⟩
  else let d := 2 ^ (-(e + w)).toNat; ⟨divDown n d, divUp n d⟩

/-- Terms t, t x / 1 ..., with a factor for each step, summed: n terms from index k on. -/
def sumTerms (step : Nat → Iv → Iv) : Nat → Nat → Iv → Iv → Iv
  | 0, _, _, acc => acc
  | n + 1, k, t, acc => sumTerms step n (k + 1) (step k t) (acc.add t)

/-- Terms enough for a series whose terms fall by a half or more each. -/
def manyTerms (w : Nat) : Nat := w + 20

/-- e^r for |r| at most 1: the Taylor series; the tail is below 2^-w. -/
def expIv (w : Nat) (r : Iv) : Iv :=
  (sumTerms (fun k t => (t.mul w r).divN (k + 1)) (w / 4 + 20) 0 (.ofInt w 1) ⟨0, 0⟩).widen 1

/-- artanh t = Σ t^(2k+1) / (2k+1) for |t| at most 1/3. -/
def atanhIv (w : Nat) (t : Iv) : Iv :=
  let t2 := t.mul w t
  let powers := (List.range (manyTerms w / 2)).foldl (fun (acc : Iv × Iv) k =>
    (acc.1.mul w t2, acc.2.add (acc.1.divN (2 * k + 1)))) (t, ⟨0, 0⟩)
  powers.2.widen 1

/-- ln 2 = 2 artanh (1/3). -/
def ln2Iv (w : Nat) : Iv := (atanhIv w ((Iv.ofInt w 1).divN 3)).mulN 2

/-- arctan (1/n), for n at least 5. -/
def atanInv (w n : Nat) : Iv :=
  let r := (List.range (manyTerms w / 2)).foldl (fun (acc : Iv × Iv) k =>
    let term := acc.1.divN (2 * k + 1)
    (acc.1.divN (n * n), if k % 2 = 0 then acc.2.add term else acc.2.sub term)) ((Iv.ofInt w 1).divN n, ⟨0, 0⟩)
  r.2.widen 1

/-- π, by Machin's formula. -/
def piIv (w : Nat) : Iv := ((atanInv w 5).mulN 16).sub ((atanInv w 239).mulN 4)

/-- sin z and cos z for |z| at most 1. -/
def sinIv (w : Nat) (z : Iv) : Iv :=
  let z2 := z.mul w z
  (sumTerms (fun k t => ((t.mul w z2).divN ((2 * k + 2) * (2 * k + 3))).neg) (w / 8 + 20) 0 z ⟨0, 0⟩).widen 1
def cosIv (w : Nat) (z : Iv) : Iv :=
  let z2 := z.mul w z
  (sumTerms (fun k t => ((t.mul w z2).divN ((2 * k + 1) * (2 * k + 2))).neg) (w / 8 + 20) 0 (.ofInt w 1) ⟨0, 0⟩).widen 1

/-- e^x for a dyadic x as 2^k times an enclosure of e^r with |r| at most 1. -/
def expParts (w : Nat) (n : Int) (e : Int) : Int × Iv :=
  let x := Iv.dyadic w n e
  let k := (x.lo * 2).fdiv (2 * (ln2Iv w).lo) 
  (k, expIv w (x.sub (let l := ln2Iv w; if 0 ≤ k then l.mulN k.toNat else (l.mulN (-k).toNat).neg)))

/-- ln of the dyadic n × 2^e, n positive: the exponent part and the enclosure are added; near 1 there is no cancellation. -/
def lnIv (w : Nat) (n : Nat) (e : Int) : Iv :=
  let l := Nat.log2 n
  let m := Iv.dyadic w n (-(l : Int))
  let k := e + l
  let (m, k) := if Iv.lo m * 2 < 3 * 2 ^ w then (m, k) else (m.divN 2, k + 1)
  let one := Iv.ofInt w 1
  let d := m.sub one
  let t := if 0 ≤ d.lo then Iv.div w d (m.add one) else (Iv.div w d.neg (m.add one)).neg
  let lm := (atanhIv w t).mulN 2
  lm.add (let l2 := ln2Iv w; if 0 ≤ k then l2.mulN k.toNat else (l2.mulN (-k).toNat).neg)

/-- 2 / √π, from the integer square root of 2^2w / π. -/
def twoOverSqrtPi (w : Nat) : Iv :=
  let p := piIv w
  let lo := isqrt ((2 ^ (3 * w)) / p.hi.toNat)
  let hi := isqrt ((2 ^ (3 * w)) / p.lo.toNat + 1) + 1
  (Iv.mk lo hi).mulN 2

/-- erf x for 0 < x at most 6: (2/√π) e^(-x²) Σ 2^n x^(2n+1) / (2n+1)!!. -/
def erfIv (w : Nat) (n : Nat) (e : Int) : Iv :=
  let x := Iv.dyadic w n e
  let x2 := (x.mul w x).mulN 2
  let sum := (sumTerms (fun k t => (t.mul w x2).divN (2 * k + 3)) (w + 120) 0 x ⟨0, 0⟩).widen 1
  let (k, r) := expParts w (-((n : Int) * n)) (2 * e)
  let ex := Iv.mul w r (Iv.dyadic w 1 k)
  ((sum.mul w ex).mul w (twoOverSqrtPi w)).widen 1

/-- A positive enclosure whose ends have the same integer part at p bits: that part, with something to follow. [log 41, DESIGN CHOICE] -/
def Iv.settle (w : Nat) (a : Iv) (e : Int) : Option (Nat × Int) :=
  if a.lo ≤ 0 then none
  else
    let l := Nat.log2 a.lo.toNat
    let sh := l - 40
    let m := a.lo.toNat >>> sh
    if a.hi.toNat >>> sh = m ∧ 40 ≤ l then some (m, e - w + sh) else none

/-- The working precisions, in order. -/
def sfxPrecisions : List Nat := [192, 400]

/-- What a special function comes to before rounding. -/
inductive SfxVal where
  /-- A result that needs no rounding, with its flags. -/
  | exactly (r : FpRes)
  /-- ± (m + part) × 2^e, the part strictly between 0 and 1 when sticky. -/
  | value (neg : Bool) (m : Nat) (e : Int) (sticky : Bool)
  /-- Not settled at the largest precision. -/
  | open_

/-- A positive value enclosed at each precision as an enclosure times 2^e. [log 41, DESIGN CHOICE] -/
def settle (neg : Bool) (f : Nat → Iv × Int) : SfxVal :=
  match sfxPrecisions.findSome? fun w => let r := f w; Iv.settle w r.1 r.2 with
  | some (m, e) => .value neg m e true
  | none => .open_

/-- A value just below or just above n × 2^e. -/
def justBelow (neg : Bool) (n : Nat) (e : Int) : SfxVal := .value neg (n * 2 ^ 32 - 1) (e - 32) true
def justAbove (neg : Bool) (n : Nat) (e : Int) : SfxVal := .value neg (n * 2 ^ 32) (e - 32) true

/-- Far below every subnormal, and far above every finite value. -/
def vanishing (neg : Bool) : SfxVal := .value neg 1 (-1000) true
def huge : SfxVal := .value false 1 1000 true

/-- 1/x for a finite non-zero x. -/
def sfxRcp (n : Bool) (m : Nat) (e : Int) : SfxVal :=
  let k := Nat.log2 m + 40
  .value n (2 ^ k / m) (-e - k) (2 ^ k % m != 0)

/-- 1/√x for a positive x: the integer square root of a quotient, exact only when both are. -/
def sfxRsq (m : Nat) (e : Int) : SfxVal :=
  let (m, e) := if e % 2 = 0 then (m, e) else (2 * m, e - 1)
  let k := Nat.log2 m + 100
  let k := k + k % 2
  let q := 2 ^ k / m
  let r := isqrt q
  .value false r (-(e + k) / 2) (2 ^ k != r * r * m)

/-- The dyadic x is below -200 or above 200. -/
def beyond200 (m : Nat) (e : Int) : Bool := decide (8 ≤ e + Nat.log2 m) || (decide (-60 ≤ e) && decide (e < 8) && decide (200 * 2 ^ 60 < m * 2 ^ (e + 60).toNat))

/-- The magnitude is below 2^-60. -/
def tiny60 (m : Nat) (e : Int) : Bool := decide (e + Nat.log2 m < -60)

def signedInt (n : Bool) (m : Nat) : Int := if n then -(m : Int) else m

/-- 2^x. -/
def sfxExp2 (n : Bool) (m : Nat) (e : Int) : SfxVal :=
  if beyond200 m e then (if n then vanishing false else huge)
  else if tiny60 m e then (if n then justBelow false 1 0 else justAbove false 1 0)
  else
    let x := signedInt n m
    if 0 ≤ e then .value false 1 (x * 2 ^ e.toNat) false
    else
      let d : Int := 2 ^ (-e).toNat
      let k := x.fdiv d
      let fr := x - k * d
      if fr = 0 then .value false 1 k false
      else settle false fun w => (expIv w ((Iv.dyadic w fr e).mul w (ln2Iv w)), k)

/-- e^x. -/
def sfxExp (n : Bool) (m : Nat) (e : Int) : SfxVal :=
  if beyond200 m e then (if n then vanishing false else huge)
  else if tiny60 m e then (if n then justBelow false 1 0 else justAbove false 1 0)
  else settle false fun w => let r := expParts w (signedInt n m) e; (r.2, r.1)

/-- ln x or log2 x of a positive x other than 1 (and, for log2, no power of two). -/
def sfxLog (two : Bool) (m : Nat) (e : Int) : SfxVal :=
  let neg := decide (e + Nat.log2 m < 0)
  settle neg fun w =>
    let l := lnIv w m e
    let l := if neg then l.neg else l
    (if two then l.div w (ln2Iv w) else l, 0)

/-- A dyadic reduced modulo 2 to a quarter turn: x = q/2 + r with |r| at most 1/4, as q modulo 4 and r = n × 2^e. -/
def quarter (x : Int) (e : Int) : Nat × Int :=
  let d : Int := 2 ^ (-e).toNat
  let y := x % (2 * d)
  let q := (4 * y + d).fdiv (2 * d)
  ((q % 4).toNat, 2 * y - q * d)

/-- sin(πr) for r = n × 2^e, 0 < |r| at most 1/4, in magnitude. -/
def sinPiMag (neg : Bool) (n : Nat) (e : Int) : SfxVal :=
  if tiny60 n e then settle neg fun w => let p := (piIv w).mulN n; (⟨p.lo - p.lo / 2 ^ 100, p.hi⟩, e)
  else settle neg fun w => (sinIv w ((piIv w).mul w (Iv.dyadic w n e)), 0)

/-- cos(πr) in magnitude. -/
def cosPiMag (neg : Bool) (n : Nat) (e : Int) : SfxVal :=
  if tiny60 n e then justBelow neg 1 0
  else settle neg fun w => (cosIv w ((piIv w).mul w (Iv.dyadic w n e)), 0)

/-- sin(πx) at a reduced argument: q quarter turns of 1/2 and r = n2 × 2^(e-1). -/
def sinTurn (q : Nat) (n2 : Int) (e : Int) : SfxVal :=
  let neg := decide (2 ≤ q)
  if q % 2 = 0 then
    if n2 = 0 then .value neg 0 0 false else sinPiMag (neg != decide (n2 < 0)) n2.natAbs (e - 1)
  else if n2 = 0 then .value neg 1 0 false
  else cosPiMag neg n2.natAbs (e - 1)

/-- sin(πx): zero with the sign of x at an integer. -/
def sfxSinpi (n : Bool) (m : Nat) (e : Int) : SfxVal :=
  if 0 ≤ e then .value n 0 0 false
  else if tiny60 m e then sinPiMag n m e
  else
    let (q, r) := quarter (signedInt n m) e
    if q % 2 = 0 ∧ r = 0 then .value n 0 0 false else sinTurn q r e

/-- cos(πx): +0 half way between integers. -/
def sfxCospi (n : Bool) (m : Nat) (e : Int) : SfxVal :=
  if tiny60 m e then justBelow false 1 0
  else if 0 ≤ e then .value (decide (e = 0) && m.testBit 0) 1 0 false
  else
    let (q, r) := quarter (signedInt n m) e
    if q % 2 = 1 ∧ r = 0 then .value false 0 0 false else sinTurn ((q + 1) % 4) r e

/-- tanh x in magnitude: (1 - E) / (1 + E) with E = e^(-2x). -/
def sfxTanh (n : Bool) (m : Nat) (e : Int) : SfxVal :=
  if e + Nat.log2 m < -43 then .value n (m * 2 ^ 16 - 1) (e - 16) true
  else if 6 ≤ e + Nat.log2 m then justBelow n 1 0
  else settle n fun w =>
    let (k, r) := expParts w (-(m : Int)) (e + 1)
    let ex := Iv.mul w r (Iv.dyadic w 1 k)
    let one := Iv.ofInt w 1
    (Iv.div w (one.sub ex) (one.add ex), 0)

/-- 1 / (1 + e^-x). -/
def sfxSigm (n : Bool) (m : Nat) (e : Int) : SfxVal :=
  if tiny60 m e then (if n then justBelow false 1 (-1) else justAbove false 1 (-1))
  else if beyond200 m e then (if n then vanishing false else justBelow false 1 0)
  else settle false fun w =>
    let (k, r) := expParts w (-(m : Int)) e
    let ex := Iv.mul w r (Iv.dyadic w 1 k)
    let den := (Iv.ofInt w 1).add ex
    if n then (Iv.div w r den, k) else (Iv.div w (Iv.ofInt w 1) den, 0)

/-- erf x in magnitude. -/
def sfxErf (n : Bool) (m : Nat) (e : Int) : SfxVal :=
  if tiny60 m e then settle n fun w => let p := (twoOverSqrtPi w).mulN m; (⟨p.lo - p.lo / 2 ^ 100, p.hi⟩, e)
  else if decide (3 ≤ e + Nat.log2 m) || (decide (-60 ≤ e) && decide (6 * 2 ^ 60 ≤ m * 2 ^ (e + 60).toNat)) then justBelow n 1 0
  else settle n fun w => (erfIv w m e, 0)

/-- A zero or a power of two: the position of its only bit. -/
def powerOfTwo (m : Nat) (e : Int) : Option Int := if m = 2 ^ Nat.log2 m then some (e + Nat.log2 m) else none

/-- A special function of a value that is not NaN, before rounding (R151). -/
def sfxVal (t : Fmt) (k : Nat) (v : FpVal) : SfxVal :=
  let inf (n : Bool) : SfxVal := .exactly (signed t n t.infBits, 0)
  let zero (n : Bool) : SfxVal := .exactly (signed t n 0, 0)
  let pole (n : Bool) : SfxVal := .exactly (signed t n t.infBits, flDZ)
  let bad : SfxVal := .exactly (invalid t)
  let one (n : Bool) : SfxVal := .value n 1 0 false
  match v with
  | .nan sig => .exactly (t.nanBits, if sig then flNV else 0)
  | .inf n => match k with
    | 0 => zero n
    | 1 => if n then bad else zero false
    | 2 => if n then zero false else inf false
    | 3 => if n then bad else inf false
    | 4 => if n then zero false else inf false
    | 5 => if n then bad else inf false
    | 6 => bad
    | 7 => bad
    | 8 => one n
    | 9 => if n then zero false else one false
    | _ => one n
  | .fin n m e =>
    if m = 0 then match k with
      | 0 => pole n
      | 1 => pole n
      | 2 => one false
      | 3 => pole true
      | 4 => one false
      | 5 => pole true
      | 6 => zero n
      | 7 => one false
      | 8 => zero n
      | 9 => .value false 1 (-1) false
      | _ => zero n
    else match k with
      | 0 => sfxRcp n m e
      | 1 => if n then bad else sfxRsq m e
      | 2 => sfxExp2 n m e
      | 3 => if n then bad else match powerOfTwo m e with
        | some p => .value (decide (p < 0)) p.natAbs 0 false
        | none => sfxLog true m e
      | 4 => sfxExp n m e
      | 5 => if n then bad else if powerOfTwo m e = some 0 then zero false else sfxLog false m e
      | 6 => sfxSinpi n m e
      | 7 => sfxCospi n m e
      | 8 => sfxTanh n m e
      | 9 => sfxSigm n m e
      | _ => sfxErf n m e

/-- A special function, rounded once (R42, R43, R151); a value the enclosures do not settle is a free one. [log 41, DESIGN CHOICE] -/
def sfxRes (t : Fmt) (mode k x : Nat) : FpRes :=
  match sfxVal t k (unpack t x) with
  | .exactly r => r
  | .value n m e sticky => roundFp t mode n m e sticky
  | .open_ => ((Config.freeSfx k (BitVec.ofNat 4 mode) (BitVec.ofNat 64 x)).toNat % 2 ^ t.width, flNX)

/-- SFX (R151). -/
def execSfx (f : Fields) (s : State) : Host.Outcome State Fault Refusal :=
  vector (.sfx f) { f with src2 := .none } s (fun _ => .fp f.mod) true false noLimit fun l x _ _ =>
    sfxRes l.t l.rm (immNat f.src2) x

end Sys2Proof.Machine
end

