-- ==== Sys2Proof/Machine/Matrix.lean ====
section
/-! DEFINITION. The matrix unit: tile progress, MZERO, MMA, MLD, MST, MMOV, MSCL (06_matrix_and_absolute.md R156 to R174, 02 R50 to R57). -/

namespace Sys2Proof.Machine

/-- The tile of an operand. -/
def tNum (o : Operand) : BitVec 2 :=
  match o with
  | .tile n => n
  | _ => 0

/-- MPROG of a tile before the writes of a chunk that is not yet granted. [log 45, DEDUCED] -/
def Chunk.oldProgs (x : Chunk) (n : BitVec 2) : List (BitVec 32) :=
  x.shadows.filterMap fun sh => if sh.tile = n then some sh.mprog else none

/-- Every value of a tile's MPROG that stands now or would stand again after a squash: an end of BUSY counts only once its chunk is granted (R159, R161). [log 45, DEDUCED] -/
def Core.progs (x : Core) (n : BitVec 2) : List (BitVec 32) :=
  x.mprogOf n :: x.slots.flatMap fun e => e.2.chunk.oldProgs n ++ (match e.2.waiting with
    | some w => w.oldProgs n
    | none => [])

/-- Where a long tile instruction begins on a tile, unless another slot's progress there parks it (R159). [log 45, DEDUCED] -/
def State.tileStart (s : State) (n : BitVec 2) (opc : Nat) : Res Nat :=
  let v := (s.core s.curCore).mprogOf n
  if ((s.core s.curCore).progs n).any fun v => progBusy v && progSlot v != s.curSlot.toNat then .error (.stay s)
  else .ok (if progBusy v && progOpc v == opc then progStep v else 0, s)

/-- The instruction is at its first step: step 0, also where it resumes there (R159, R165). [log 100, DEDUCED] -/
def State.tileFirst (s : State) (n : BitVec 2) (opc : Nat) : Bool :=
  let v := (s.core s.curCore).mprogOf n
  !(progBusy v && progSlot v == s.curSlot.toNat && progOpc v == opc) || progStep v == 0

/-- A step that stops: MPROG shows the step when the trap is taken (R162). -/
def tileStop (e : Eff) (n : BitVec 2) (opc t slot : Nat) : Eff := e.stopAt { tile := some n, value := mkProg t opc slot }

/-- A step's accesses to tiles, then its own effect (R161). -/
def tileRun (reads : List (BitVec 2)) (n : BitVec 2) (body : State → Res Unit) (s : State) : Res Unit :=
  (foldRes reads () (fun _ r s => s.touchTile r false) s).andThen fun _ s =>
  (s.touchTile n true).andThen fun _ s => body s

/-- One step of a tile instruction that records its progress in a tile's MPROG (R159 to R162): the accesses to tiles, then the step's own effect, all or nothing. [log 44, DEDUCED] -/
def State.tileTurn (s : State) (n : BitVec 2) (opc total : Nat) (reads : List (BitVec 2)) (regions : List (Int × Int))
    (body : Nat → State → Res Unit) : Eff :=
  (s.tileStart n opc).fin fun t s =>
    if total ≤ t then (s.touchTile n true).fin fun _ s => .done (s.setMprog n 0)
    else
      (s.takeWatches regions).fin fun _ s =>
      match s.atomic (tileRun reads n (body t)) with
      | .error e => trapFlags (tileStop e n opc t s.curSlot.toNat)
      | .ok (_, s) =>
        if t + 1 < total then .step (s.setMprog n (mkProg (t + 1) opc s.curSlot.toNat))
        else .done ((s.setMprog n 0).setChunk { s.chunk with noWatch := false })

/-- The tile with elements replaced where a function of row and column gives a value; the flags of all are collected. -/
def mapTile (old : List (BitVec 32)) (fn : Nat → Nat → Option (Nat × Flags)) : List (BitVec 32) × Flags :=
  let xs := (List.range 4096).map fun k => (tileElem old k, fn (k / 64) (k % 64))
  (xs.map fun x => match x.2 with
    | some v => BitVec.ofNat 32 v.1
    | none => x.1, xs.foldl (fun fl x => match x.2 with
      | some v => fl ||| v.2
      | none => fl) 0)

/-- A tile of the executing slot's core. -/
def State.tileOf (s : State) (n : BitVec 2) : List (BitVec 32) := (s.core s.curCore).tile n

/-- New elements of a tile with their flags; an enabled flag traps and writes none (R162). -/
def State.writeTile (s : State) (n : BitVec 2) (x : List (BitVec 32) × Flags) : Res Unit :=
  (s.flags x.2).andThen fun _ s => .ok ((), s.setTile n x.1)

/-- MZERO (R166). -/
def execMzero (f : Fields) (s : State) : Host.Outcome State Fault Refusal :=
  scalar (.mzero f) f s fun s =>
    let n := tNum f.dst
    (s.tileStart n 0xB0).fin fun _ s => (s.touchTile n true).fin fun _ s => .done ((s.setTile n []).setMprog n 0)

/-- A block scale (R54). -/
inductive Scale where
  | zero
  | nan
  | fin (m : Nat) (e : Int)
  deriving DecidableEq, Repr

def scaleOf (w : Nat) : Scale :=
  match w / 65536 % 256 with
  | 0 => .zero
  | 255 => .nan
  | e => .fin (65536 + w % 65536) ((e : Int) - 127 - 16)

/-- The region of a form's records, and of its scale words (R163). -/
def scaleFootprint (r : VWord) : Int × Int :=
  let (lo, hi) := offRange r (formExt r)
  (formScale r + 4 * lo, formScale r + 4 * hi + 4)

/-- The extents of a BN form in blocks of 32 elements along dimension 0 (R131). -/
def blockForm (r : VWord) : VWord := setField r 128 32 ((formE r 0 + 31) / 32)

/-- The memory regions that a form's reads cover, in their own spaces (R163, R217). -/
def matrixRegions (r : VWord) : List (Int × Int) :=
  if formBn r then
    let b := blockForm r
    (if formLsp r then [] else [footprint b]) ++ (if formSls r then [] else [scaleFootprint b])
  else if formLsp r then [] else [footprint r]

/-- The first words of a block record, and its scale (R52, R167). -/
def State.readBlock (s : State) (r : VWord) (b i1 : Nat) : Res ((Nat → Nat) × Scale) :=
  let at_ := formAddr r b i1 0 0
  (foldRes (List.range (formPr r)) [] (fun acc p s =>
    (s.elemLoc (formLsp r) (at_ + 4 * p) 4 .read).andThen fun w s =>
      (s.readElem w 4).andThen fun bs s => .ok (acc ++ [leNat bs], s)) s).andThen fun ws s =>
  (s.elemLoc (formSls r) (formScale r + 4 * formOff r b i1 0 0) 4 .read).andThen fun w s =>
    (s.readElem w 4).andThen fun bs s => .ok ((fun p => ws.getD p 0, scaleOf (leNat bs)), s)

/-- The values of a block's elements before scaling (R52). -/
def blockValues (r : VWord) (word : Nat → Nat) (n : Nat) : List Int :=
  (List.range n).map (planeRead word (formPs r) (formPr r) (formCtr r))

/-- Checks of R165: validity has been checked; the formats, then emptiness, then the extents. Some true: the instruction completes at once. -/
def matrixCheck (rs : List VWord) (fmtOk extOk : Bool) : Option (Option Nat) :=
  if !fmtOk then some (some 2)
  else if rs.any fun r => formE r 0 == 0 || formE r 1 == 0 then some none
  else if !extOk then some (some 3)
  else none

/-- The checks of R165, made at the first step and before the park of R159, with what follows them. [log 100, DEDUCED] [log 104, DEDUCED] -/
def State.matrixForms (s : State) (first : Bool) (rs : List VWord) (fmtOk extOk : Bool) (go : State → Eff) : Eff :=
  match if first then matrixCheck rs fmtOk extOk else none with
  | some (some k) => .trap s (formModeTrap k)
  | some none => .done s
  | none => go s

def unitExt (r : VWord) : Bool := formE r 2 == 1 && formE r 3 == 1

/-- Exact accumulation of p · 2^e into an element, rounded once to nearest even (R55, R56). -/
def accumulate (old : Nat) (p : Int) (e : Int) : Nat × Flags :=
  match unpack f32 old with
  | .fin n m x =>
    let (sn, sm, se) := exactAdd 0 n m x (decide (p < 0)) p.natAbs e
    roundFp f32 0 sn sm se false
  | _ => (old, 0)

/-- The new value of an element after one block; none: unchanged (R55). -/
def blockStep (old : Nat) (a b : List Int × Scale) : Option (Nat × Flags) :=
  match a.2, b.2 with
  | .nan, _ => some (f32.nanBits, flNV)
  | _, .nan => some (f32.nanBits, flNV)
  | .fin ma ea, .fin mb eb =>
    let p := (a.1.zip b.1).foldl (fun (n : Int) xy => n + xy.1 * xy.2) 0
    if p = 0 then none else some (accumulate old (p * ma * mb) (ea + eb))
  | _, _ => none

/-- Block b of the lines of a form, in order. -/
def State.readBlocks (s : State) (r : VWord) (b n : Nat) : Res (List (List Int × Scale)) :=
  foldRes (List.range (formE r 1)) [] (fun acc i s =>
    (s.readBlock r b i).andThen fun x s => .ok (acc ++ [(blockValues r x.1 n, x.2)], s)) s

/-- Step t of MMA: block t of every line of a and of b, accumulated into the tile (R167, R168). -/
def mmaStep (n : BitVec 2) (a b : VWord) (t : Nat) (s : State) : Res Unit :=
  let len := min 32 (formE a 0 - 32 * t)
  (s.readBlocks a t len).andThen fun xs s => (s.readBlocks b t len).andThen fun ys s =>
    let old := s.tileOf n
    s.writeTile n (mapTile old fun i j => match xs[i]?, ys[j]? with
      | some x, some y => blockStep (tileElem old (64 * i + j)).toNat x y
      | _, _ => none)

/-- The extents of the forms of MMA fit (R165, R167). -/
def mmaExt (rs : List VWord) : Bool :=
  let a := rs.headD 0
  let b := (rs[1]?).getD 0
  formE b 0 == formE a 0 && decide (formE a 0 ≤ 1048576) && decide (formE a 1 ≤ 64) && decide (formE b 1 ≤ 64) && unitExt a && unitExt b

/-- MMA (R167, R168). -/
def execMma (f : Fields) (s : State) : Host.Outcome State Fault Refusal :=
  scalar (.mma f) f s fun s =>
    (s.formsOf [f.src1, f.src2]).fin fun rs s =>
      let a := rs.headD 0
      let b := (rs[1]?).getD 0
      s.matrixForms (s.tileFirst (tNum f.dst) 0xB1) rs (formBn a && formBn b) (mmaExt rs) fun s =>
        s.tileTurn (tNum f.dst) 0xB1 ((formE a 0 + 31) / 32) [tNum f.dst] (matrixRegions a ++ matrixRegions b) (mmaStep (tNum f.dst) a b)

/-- The tile coordinates of form element (i0, i1) (R164). -/
def tileIndex (r : VWord) (i0 i1 : Nat) : Nat := if !formBn r && formCmj r then 64 * i0 + i1 else 64 * i1 + i0

/-- An F32 value of a loaded element (R170). -/
def widen (fmt x : Nat) : Nat × Flags :=
  if fmt = 0x10 then fpConv f16 f32 0 x else if fmt = 0x11 then fpConv bf16 f32 0 x else (x, 0)

/-- A BN element scaled and rounded once (R170). -/
def scaled (v : Int) (sc : Scale) : Nat × Flags :=
  match sc with
  | .zero => (0, 0)
  | .nan => (f32.nanBits, flNV)
  | .fin m e => roundFp f32 0 (decide (v < 0)) (v.natAbs * m) e false

/-- The values that one line of a form gives a tile, by i0 (R170). -/
def State.loadLine (s : State) (r : VWord) (i1 : Nat) : Res (List (Nat × Flags)) :=
  if formBn r then
    foldRes (List.range ((formE r 0 + 31) / 32)) [] (fun acc b s =>
      (s.readBlock r b i1).andThen fun x s =>
        .ok (acc ++ (blockValues r x.1 (min 32 (formE r 0 - 32 * b))).map fun v => scaled v x.2, s)) s
  else
    foldRes (List.range (formE r 0)) [] (fun acc i0 s =>
      (s.readForm r (i0, i1, 0, 0)).andThen fun x s => .ok (acc ++ [widen (formFmt r) x], s)) s

def tileFmt (r : VWord) : Bool := [0x10, 0x11, 0x12, 0x20].contains (formFmt r)
def tileExt (r : VWord) : Bool := decide (formE r 0 ≤ 64) && decide (formE r 1 ≤ 64) && unitExt r

/-- Step i1 of MLD: line i1 of the form into a row or a column of the tile (R164, R170). -/
def mldStep (n : BitVec 2) (r : VWord) (i1 : Nat) (s : State) : Res Unit :=
  (s.loadLine r i1).andThen fun xs s =>
    s.writeTile n (mapTile (s.tileOf n) fun i j =>
      let i0 := if !formBn r && formCmj r then i else j
      if (if !formBn r && formCmj r then j else i) = i1 then xs[i0]? else none)

/-- MLD (R170). -/
def execMld (f : Fields) (s : State) : Host.Outcome State Fault Refusal :=
  scalar (.mld f) f s fun s =>
    (s.formsOf [f.src1]).fin fun rs s =>
      let r := rs.headD 0
      let n := tNum f.dst
      s.matrixForms (s.tileFirst n 0xB2) rs (tileFmt r) (tileExt r) fun s =>
        s.tileTurn n 0xB2 (formE r 1) [] (matrixRegions r) (mldStep n r)

/-- Quantising to BN (R57): codes, scale word, flags. -/
def quantise (ps : Nat) (xs : List Nat) : List Int × Nat × Flags :=
  let vs := xs.map (unpack f32)
  let finite := vs.all fun v => match v with
    | .fin _ _ _ => true
    | _ => false
  if !finite then (xs.map fun _ => 0, 0x00FF0000, flNV)
  else if vs.all fun v => match v with
    | .fin _ m _ => m == 0
    | _ => true then (xs.map fun _ => 0, 0, 0)
  else
    let c := 2 ^ (ps - 1) - 1
    let fits (k : Int) : Bool := vs.all fun v => match v with
      | .fin _ m e => if e ≤ k then decide (m ≤ c * 2 ^ (k - e).toNat) else decide (m * 2 ^ (e - k).toNat ≤ c)
      | _ => true
    let found := ((List.range 254).map fun (n : Nat) => (n : Int) - 126).find? fits
    let k := found.getD 127
    let codes := vs.map fun v => match v with
      | .fin n m e =>
        let (x, exact) := roundInt 0 n m (e - k)
        let y := max (-(c : Int)) (min (c : Int) x)
        (y, exact && y == x)
      | _ => (0, true)
    (codes.map (·.1), (k + 127).toNat * 65536,
      (if found.isNone then flOF else 0) ||| (if codes.all (·.2) then 0 else flNX))

/-- Plane p of a block of codes (R50). -/
def planeWord (ps : Nat) (codes : List Int) (p : Nat) : Nat :=
  (List.range 32).foldl (fun n j =>
    n + (if ((codes.getD j 0) % 2 ^ ps).toNat.testBit (ps - 1 - p) then 2 ^ j else 0)) 0

/-- What MST writes for one line: place and bytes in order, and flags (R171, R172). -/
def lineStores (r : VWord) (t : List (BitVec 32)) (rm i1 : Nat) :
    List (Bool × Int × List Byte) × Flags :=
  if formBn r then
    (List.range ((formE r 0 + 31) / 32)).foldl (fun (acc : List (Bool × Int × List Byte) × Flags) b =>
      let n := min 32 (formE r 0 - 32 * b)
      let (codes, sw, fl) := quantise (formPs r) ((List.range n).map fun j => (tileElem t (tileIndex r (32 * b + j) i1)).toNat)
      let at_ := formAddr r b i1 0 0
      let words := (List.range (formPs r)).map fun (p : Nat) => (formLsp r, at_ + 4 * (p : Int), leBytes 4 (planeWord (formPs r) codes p))
      (acc.1 ++ words ++ [(formSls r, formScale r + 4 * formOff r b i1 0 0, leBytes 4 sw)], acc.2 ||| fl)) ([], 0)
  else
    (List.range (formE r 0)).foldl (fun (acc : List (Bool × Int × List Byte) × Flags) i0 =>
      let x := (tileElem t (tileIndex r i0 i1)).toNat
      let v := if formFmt r = 0x10 then fpConv f32 f16 rm x else if formFmt r = 0x11 then fpConv f32 bf16 rm x else (x, 0)
      (acc.1 ++ [(formLsp r, formAddr r i0 i1 0 0, leBytes (formSize r) v.1)], acc.2 ||| v.2)) ([], 0)

/-- A step's stores: every one with the checks of its access in order, then an FP trap, then the writes (R162, R171, R333). -/
def State.storeAll (s : State) (xs : List (Bool × Int × List Byte)) (fl : Flags) : Res Unit :=
  (foldRes xs [] (fun acc x s =>
    (s.elemLoc x.1 x.2.1 x.2.2.length .write).andThen fun w s =>
      (s.touchable w.1 w.2 x.2.2.length .write).andThen fun _ s => .ok (acc ++ [(w, x.2.2)], s)) s).andThen fun ws s =>
  let trial := foldRes ws () (fun _ x s => s.writeElem x.1 x.2) s
  if enabledFlags s.regs.fpsr fl ≠ 0 then
    match trial with
    | .error e => .error e
    | .ok _ => .error (.trap s (fpTrap fl))
  else trial.andThen fun _ s => .ok ((), s.sticky fl)

/-- Step i1 of MST: line i1 of the form stored from the tile (R171, R172). -/
def mstStep (n : BitVec 2) (r : VWord) (rm : Nat) (i1 : Nat) (s : State) : Res Unit :=
  let x := lineStores r (s.tileOf n) rm i1
  s.storeAll x.1 x.2

/-- MST (R171, R172). -/
def execMst (f : Fields) (s : State) : Host.Outcome State Fault Refusal :=
  scalar (.mst f) f s fun s =>
    (s.formsOf [f.dst]).fin fun rs s =>
      let r := rs.headD 0
      let n := tNum f.src1
      let rm := f.mod.toNat / 4
      let modOk := rm == 0 || formFmt r == 0x10 || formFmt r == 0x11
      s.matrixForms (s.tileFirst n 0xB3) rs (tileFmt r && modOk) (tileExt r) fun s =>
        s.tileTurn n 0xB3 (formE r 1) [n] [] (mstStep n r rm)

/-- The image's 64-byte pieces of row i, with the tile elements each holds (R17, R173). -/
def rowPieces (va : Word) (i : Nat) : List (Int × Nat) :=
  (List.range 4).map fun j => (((va + BitVec.ofNat 64 (256 * i + 64 * j)).toNat : Int), 64 * i + 16 * j)

/-- The image lies on both sides of an end of the window (R163). -/
def imageCrosses (va : Word) : Bool := inWindow va != inWindow (va + 16383)

/-- The checks of an image's address, made in each step after the park of R159 (R162, R163, R173). [log 104, DEDUCED] -/
def State.imageAddr (s : State) (va : Word) (k : Kind) : Res Unit :=
  if va.toNat % 64 ≠ 0 then .error (.trap s (misaligned va 64))
  else if imageCrosses va then .error (.trap s (protTrap k s.isUser true va 0))
  else .ok ((), s)

/-- MMOV between tiles: a copy, or the transpose (R173). -/
def tileCopy (d n : BitVec 2) (turned : Bool) (_ : Nat) (s : State) : Res Unit :=
  let old := s.tileOf n
  .ok ((), s.setTile d (if turned then (List.range 4096).map fun k => tileElem old (64 * (k % 64) + k / 64) else old))

/-- Step i of an image's load: row i of the tile (R173). -/
def imageLoad (d : BitVec 2) (va : Word) (i : Nat) (s : State) : Res Unit :=
  (s.imageAddr va .read).andThen fun _ s =>
  (foldRes (rowPieces va i) [] (fun acc p s =>
    (s.elemLoc false p.1 64 .read).andThen fun w s =>
      (s.readElem w 64).andThen fun bs s => .ok (acc ++ [(p.2, leNat bs)], s)) s).andThen fun xs s =>
    .ok ((), s.setTile d (mapTile (s.tileOf d) fun r c =>
      if r = i then some (fieldNat (BitVec.ofNat 512 ((xs[c / 16]?).getD (0, 0)).2) (32 * (c % 16)) 32, 0) else none).1)

/-- Step i of an image's store: row i of the tile (R173). -/
def imageStore (n : BitVec 2) (va : Word) (i : Nat) (s : State) : Res Unit :=
  (s.imageAddr va .write).andThen fun _ s =>
  let t := s.tileOf n
  s.storeAll ((rowPieces va i).map fun p =>
    (false, p.1, (List.range 16).flatMap fun c => leBytes 4 (tileElem t (p.2 + c)).toNat)) 0

/-- The A register is updated when the whole image has been moved (R13). -/
def imageEnd (o : Operand) (e : Eff) : Eff :=
  match e with
  | .done s => .done (s.update o 16384)
  | e => e

/-- The memory region of an image (R163). -/
def imageRegion (va : Word) : List (Int × Int) :=
  if inWindow va || imageCrosses va || va.toNat % 64 != 0 then [] else [((va.toNat : Int), (va.toNat : Int) + 16384)]

/-- MMOV (R173). -/
def execMmov (f : Fields) (s : State) : Host.Outcome State Fault Refusal :=
  scalar (.mmov f) f s fun s =>
    match f.dst, f.src1 with
    | .tile d, .tile n => s.tileTurn d 0xB4 1 [n] [] (tileCopy d n (f.mod.getLsbD 0))
    | .tile d, o =>
      let va := s.addrOf o 16384
      imageEnd o (s.tileTurn d 0xB4 64 [] (imageRegion va) (imageLoad d va))
    | o, .tile n => imageEnd o (s.tileTurn n 0xB4 64 [n] [] (imageStore n (s.addrOf o 16384)))
    | _, _ => .stay s

/-- The factors of MSCL by row or column: one scalar, or the elements of a form (R174). -/
def State.factors (s : State) (f : Fields) : Res (List Nat) :=
  match f.src2 with
  | .f n => (s.form n).andThen fun r s =>
    foldRes (List.range 64) [] (fun acc k s => (s.readForm r (k, 0, 0, 0)).andThen fun x s => .ok (acc ++ [x], s)) s
  | o => .ok (List.replicate 64 ((s.src o).toNat % 2 ^ 32), s)

/-- The effect of MSCL: every element times the factor of its row, or of its column (R174). -/
def msclRun (f : Fields) (s : State) : Res Unit :=
  let n := tNum f.src1
  (s.touchTile n false).andThen fun _ s => (s.touchTile (tNum f.dst) true).andThen fun _ s =>
  (s.factors f).andThen fun fs s =>
    let old := s.tileOf n
    s.writeTile (tNum f.dst) (mapTile old fun i j =>
      some (fpMul f32 (f.mod.toNat / 4) (tileElem old (64 * i + j)).toNat (fs.getD (if f.mod.toNat % 4 = 2 then j else i) 0)))

/-- The forms of MSCL fit (R165, R174). -/
def msclExt (rs : List VWord) : Bool := rs.all fun r => formE r 0 == 64 && formE r 1 == 1 && unitExt r

/-- MSCL: one step over the whole tile; it keeps no progress (R159, R174). [log 44, DEDUCED] -/
def execMscl (f : Fields) (s : State) : Host.Outcome State Fault Refusal :=
  scalar (.mscl f) f s fun s =>
    (s.formsOf [f.src2]).fin fun rs s =>
      s.matrixForms true rs (rs.all fun r => formFmt r == 0x12) (msclExt rs) fun s =>
        (s.tileStart (tNum f.dst) 0xBA).fin fun _ s =>
        (s.takeWatches (rs.flatMap matrixRegions)).fin fun _ s =>
        match s.atomic (msclRun f) with
        | .error e => trapFlags e
        | .ok (_, s) => .done (s.setChunk { s.chunk with noWatch := false })

end Sys2Proof.Machine
end

