-- ==== Sys2Proof/Machine/Absolute.lean ====
section
/-! DEFINITION. Absolute records: exact addition, pending deltas, XCLR, XACC, XADD, XRND, XGET (02_number_formats.md R58 to R63, 06_matrix_and_absolute.md R175 to R181). -/

namespace Sys2Proof.Machine

/-- Fields of a record (R58). -/
def absValue (r : VWord) : Nat := fieldNat r 0 384
def absStatus (r : VWord) : BitVec 5 := r.extractLsb' 384 5
def absCount (r : VWord) : Nat := fieldNat r 448 64

/-- Status bits. -/
def absINX : BitVec 5 := 1
def absOVF : BitVec 5 := 2
def absNANS : BitVec 5 := 4
def absPINF : BitVec 5 := 8
def absNINF : BitVec 5 := 16

/-- A record from its fields; bits 447 to 389 are written 0 (R58). -/
def mkAbs (value : Nat) (status : BitVec 5) (count : Nat) : VWord :=
  (BitVec.ofNat 64 count ++ 0#59 ++ status ++ BitVec.ofNat 384 value : BitVec 512)

/-- One record merged into another (R60). -/
def absMerge (a b : VWord) : VWord :=
  mkAbs ((absValue a + absValue b) % 2 ^ 384) (absStatus a ||| absStatus b) ((absCount a + absCount b) % 2 ^ 64)

/-- The record that one value adds (R59); INX and OVF by the magnitude truncated to a multiple of 2^-149. -/
def absFinite (neg : Bool) (m : Nat) (e : Int) : VWord :=
  let up := e + 149
  let t := if 0 ≤ up then m * 2 ^ up.toNat else m / 2 ^ (-up).toNat
  let dropped := decide (up < 0) && decide (m % 2 ^ (-up).toNat ≠ 0)
  let st : BitVec 5 := (if dropped then absINX else 0) ||| (if 2 ^ 383 ≤ t then absOVF else 0)
  mkAbs (if neg then ((2 : Int) ^ 384 - (t % 2 ^ 384 : Nat)).toNat % 2 ^ 384 else t % 2 ^ 384) st 1

/-- The record of one XACC value: type 0 F32, 1 F64, 2 I64, 3 N64 (R59, R156). -/
def absOf (ty x : Nat) : VWord :=
  match ty with
  | 2 => let v := intOf 3 x
         absFinite (decide (v < 0)) v.natAbs 0
  | 3 => absFinite false (x % 2 ^ 64) 0
  | ty => match unpack (if ty = 0 then f32 else f64) x with
    | .nan _ => mkAbs 0 absNANS 1
    | .inf n => mkAbs 0 (if n then absNINF else absPINF) 1
    | .fin n m e => absFinite n m e

/-- The local-store offset of record Xn (R18). -/
def State.absOff (s : State) (o : Operand) : Nat :=
  match o with
  | .abs n => s.regs.xbase.toNat * 1024 + 64 * n.toNat
  | _ => 0

/-- An accumulation folded into the slot's pending delta, under the accumulate-only mark (R175); an LSW or LSADD pending on the granule is granted first (R295). -/
def State.addDelta (s : State) (off : Nat) (d : VWord) : Res Unit :=
  match s.cur with
  | .slot c k =>
    let g := off / 64
    if s.chunk.remoteOn c [g] then .error (.cut s 0x08)
    else if (s.chunk.deltas.find off).isNone && decide (4 ≤ s.chunk.deltas.length) then .error (.cut s 0x03)
    else
      let r := s.contend c k fun x => x.lsR.contains g || x.lsW.contains g
      if !r.2 then .error (.left r.1)
      else
        let s := r.1
        let x := s.chunk
        .ok ((), s.setChunk { x with
          deltas := x.deltas.put off (absMerge (x.deltas.look 0 off) d), lsA := insertOnce x.lsA g })
  | _ => .ok ((), s)

/-- The records among pending deltas merged into a local store (R175). -/
def mergeDeltas (ls : Mem) (ds : Tab VWord) : Mem :=
  ds.foldl (fun ls d => ls.setNat d.1 64 (absMerge (BitVec.ofNat 512 (ls.nat d.1 64)) d.2).toNat) ls

/-- XCLR (R177). -/
def execXclr (f : Fields) (s : State) : Host.Outcome State Fault Refusal :=
  scalar (.xclr f) f s fun s =>
    (s.writeLs s.curCore (s.absOff f.dst) (leBytes 64 0)).fin fun _ s => .done s

/-- Element width and form format of an XACC type (R178). -/
def absWidth (ty : Nat) : Nat := if ty = 0 then 32 else 64
def absFmt (ty : Nat) : Nat := [0x12, 0x13, 0x04, 0x08].getD ty 0

/-- The last step that VPROG can count takes every group that is left (R134, R178). [log 43, DEDUCED] -/
def xaccLast : Nat := 65535

/-- The groups that step t of a form XACC covers. -/
def xaccGroups (total t : Nat) : List Nat := if t = xaccLast then (List.range (total - t)).map (t + ·) else [t]

/-- Step t of XACC over a form: the active elements of its groups accumulated (R178). [log 43, DEDUCED] -/
def xaccRun (f : Fields) (r : VWord) (l total t : Nat) (s : State) : Res Unit :=
  (foldRes ((xaccGroups total t).flatMap fun g => s.groupElems f r l g) [] (fun acc i s =>
    (s.readForm r i).andThen fun x s => .ok (acc ++ [absOf (f.mod.toNat % 4) x], s)) s).andThen fun xs s =>
  if xs.isEmpty then .ok ((), s) else s.addDelta (s.absOff f.dst) (xs.foldl absMerge 0)

/-- XACC over a form, one group a step (R178). -/
def xaccForm (f : Fields) (s : State) : Eff :=
  let ty := f.mod.toNat % 4
  (s.formsOf [f.src1]).fin fun rs s =>
    let r := rs.headD 0
    s.matrixForms (s.vprogStep 0xB6 == 0) rs (formFmt r == absFmt ty) true fun s =>
      let l := 512 / absWidth ty
      let total := formSteps r l
      let steps := min total 65536
      let t := s.vprogStep 0xB6
      if steps ≤ t then .done (s.setVprog 0)
      else
        (s.takeWatches (if formLsp r then [] else [footprint r])).fin fun _ s =>
        match s.atomic (xaccRun f r l total t) with
        | .error e => atStep e 0xB6 t
        | .ok (_, s) => s.stepDone 0xB6 t steps

/-- XACC (R178). -/
def execXacc (f : Fields) (s : State) : Host.Outcome State Fault Refusal :=
  let ty := f.mod.toNat % 4
  let e := absWidth ty
  let lanes := match f.src1 with
    | .g _ => 1
    | _ => 512 / e
  issue (.xacc f) f lanes s fun s =>
    match f.src1 with
    | .f _ => xaccForm f s
    | .v n =>
      let v := s.getV n
      let xs := (s.lanesOn f (512 / e)).map fun i => absOf ty (laneOf v e i)
      (s.addDelta (s.absOff f.dst) (xs.foldl absMerge 0)).fin fun _ s => .done s
    | o => (s.addDelta (s.absOff f.dst) (absOf ty ((s.src o).toNat % 2 ^ e))).fin fun _ s => .done s

/-- A memory operand of 64 aligned bytes inside the package (R163, R179, R181). -/
def State.recordAddr (s : State) (o : Operand) (k : Kind) : Res (Word × Loc) :=
  let va := s.addrOf o 64
  if va.toNat % 64 ≠ 0 then .error (.trap s (misaligned va 64)) else s.elemLoc false va.toNat 64 k

/-- Bytes of a record operand in memory, read as a load reads them (R215). -/
def State.readRecord (s : State) (w : Word × Loc) : Res (List Byte) :=
  match w.2 with
  | .ls c off => s.readLs c off 64
  | .mem pa => s.readMem w.1 pa 64 false
  | _ => .ok ([], s)

/-- XADD: a source record accumulated into the destination (R179). -/
def execXadd (f : Fields) (s : State) : Host.Outcome State Fault Refusal :=
  scalar (.xadd f) f s fun s =>
    let rec_ : Res (List Byte) := match f.src1 with
      | .abs _ => s.readLs s.curCore (s.absOff f.src1) 64
      | o => (s.recordAddr o .read).andThen fun w s => s.readRecord w
    rec_.fin fun bs s =>
      let r : VWord := BitVec.ofNat 512 (leNat bs)
      (s.addDelta (s.absOff f.dst) (mkAbs (absValue r) (absStatus r) (absCount r))).fin fun _ s => .done (s.update f.src1 64)

/-- The result of rounding a record (R62). -/
def absRound (t : Fmt) (mode : Nat) (r : VWord) : FpRes :=
  let st := absStatus r
  let has (b : BitVec 5) : Bool := st &&& b != 0
  if has absNANS || has absOVF || (has absPINF && has absNINF) then (t.nanBits, flNV)
  else if has absPINF then (t.infBits, 0)
  else if has absNINF then (signed t true t.infBits, 0)
  else
    let v : Int := (r.extractLsb' 0 384).toInt
    let x : FpRes := if v = 0 then (0, 0) else roundFp t mode (decide (v < 0)) v.natAbs (-149) false
    let tiny := decide (v ≠ 0) && decide (x.1 / 2 ^ t.fw % 2 ^ t.ew = 0)
    (x.1, x.2 ||| (if has absINX then flNX else 0) ||| (if has absINX && tiny then flUF else 0))

/-- XRND (R180). -/
def execXrnd (f : Fields) (s : State) : Host.Outcome State Fault Refusal :=
  scalar (.xrnd f) f s fun s =>
    (s.readLs s.curCore (s.absOff f.src1) 64).fin fun bs s =>
      s.fpResult (gNum f.dst) (absRound (modFmt f.mod) (modRm f.mod) (BitVec.ofNat 512 (leNat bs)))

/-- XGET (R181). -/
def execXget (f : Fields) (s : State) : Host.Outcome State Fault Refusal :=
  scalar (.xget f) f s fun s =>
    match f.dst with
    | .g d => (s.readLs s.curCore (s.absOff f.src1) 64).fin fun bs s =>
      .done (s.setG d ((BitVec.ofNat 512 (leNat bs) : BitVec 512).extractLsb' (64 * immNat f.src2) 64))
    | o => (s.recordAddr o .write).fin fun w s => (s.readLs s.curCore (s.absOff f.src1) 64).fin fun bs s =>
      (s.writeElem w bs).fin fun _ s => .done (s.update o 64)

end Sys2Proof.Machine
end

