-- ==== Sys2Proof/Machine/Atomic.lean ====
section
/-! DEFINITION. Events of a slot at a home, atomics, FENCE, CUT, WAITV and JRNL (09_chunks_and_consistency.md R233 to R243, 17 R393, R394). -/

namespace Sys2Proof.Machine

/-- A solo step: alone, or after the grant of everything before it (R236). -/
def State.soloGate (s : State) (code : Byte) : Res Unit :=
  if s.isAlone then .ok ((), s.setChunk { s.chunk with solo := true }) else .error (.solo s code)

/-- A translated place that the stack of its memory lets the agent reach (R333 order 3). -/
def State.locateReach (s : State) (va : Word) (n : Nat) (k : Kind) : Res Loc :=
  (s.locate va n k).andThen fun l s =>
  match l with
  | .mem pa => (s.reachMem va pa).andThen fun _ s => .ok (.mem pa, s)
  | l => .ok (l, s)

/-- An access inside the package: local store or local memory; anything else raises Protection (R228, R234). -/
def State.locateInside (s : State) (va : Word) (n : Nat) (k : Kind) : Res Loc :=
  (s.locate va n k).andThen fun l s =>
  match l with
  | .ls c off => .ok (.ls c off, s)
  | .mem pa => (s.reachMem va pa).andThen fun _ s => .ok (.mem pa, s)
  | _ => .error (.trap s (protTrap k s.isUser true va 0))

/-- Committed bytes read by an event at a home (R230); poison is consumed (R345). -/
def State.homeRead (s : State) (va : Word) (l : Loc) (n : Nat) : Res (List Byte) :=
  match l with
  | .ls c off => match (s.core c).lsPoison.find? fun g => (linesOf off n).contains g with
    | some g => .error (.trap s (poisonTrap (BitVec.ofNat 64 (windowBase + 64 * g)) 3 false))
    | none => .ok (s.committedLs c off n, s)
  | .mem pa => match s.poisoned (linesOf pa n) with
    | some (ln, p) => .error (.trap s (poisonTrap (va + BitVec.ofNat 64 (64 * ln) - BitVec.ofNat 64 pa) p false))
    | none => .ok (s.mem.bytes pa n, s)
  | l => .ok (s.edgeRead l n)

/-- The token's holder bars a write of an event (R225). -/
def State.homeBarred (s : State) (l : Loc) (n : Nat) : Bool :=
  match l with
  | .ls c off => s.tokenBarsLs c (linesOf off n)
  | .mem pa => s.tokenBars (linesOf pa n)
  | _ => false

/-- Bytes written by an event at a home, committed at once (R236, R391). -/
def State.homeWrite (s : State) (l : Loc) (bs : List Byte) : State :=
  match l with
  | .ls c off => s.lsOutside c off bs
  | .mem pa => s.commitWrite pa bs none
  | .host _ a => { s with hostMem := s.hostMem.setBytes a bs }
  | .peer p a => { s with peerMem := s.peerMem.setBytes (peerKey p a) bs }
  | .dev _ => s.edgeWrite 0 l bs

/-- The new memory value of an atomic on bytes of e bits: operation by opcode, type, operand, compare value (R234). -/
def atomicNew (opc : Nat) (ty : BitVec 2) (e m v c : Nat) : Nat :=
  let w := 2 ^ e
  let m := m % w
  let v := v % w
  let num (x : Nat) : Int := if ty.getLsbD 1 && decide (w / 2 ≤ x) then (x : Int) - w else x
  match opc with
  | 0x68 => (m + v) % w
  | 0x69 => m &&& v
  | 0x6A => m ||| v
  | 0x6B => m ^^^ v
  | 0x6C => if num v < num m then v else m
  | 0x6D => if num m < num v then v else m
  | 0x6E => v
  | _ => if m = c % w then v else m

/-- Operand width of an atomic's type (R233). -/
def atomicBits (ty : BitVec 2) : Nat := if ty.getLsbD 0 then 64 else 32

/-- The value returned, extended by the type (R86, R234). -/
def atomicOld (ty : BitVec 2) (m : Nat) : Word :=
  let e := atomicBits ty
  if ty.getLsbD 1 && (m % 2 ^ e).testBit (e - 1) then BitVec.ofInt 64 ((m % 2 ^ e : Nat) - (2 : Int) ^ e) else BitVec.ofNat 64 (m % 2 ^ e)

/-- Deferred updates that the chunk holds: atomics, LSW, LSADD and messages without a result (R235, R295). -/
def Chunk.deferredCount (x : Chunk) : Nat :=
  (x.effects.filter fun d => match d with
    | .atomic _ _ _ _ => true
    | .lsAtomic _ _ _ _ => true
    | .lsw _ _ _ _ => true
    | .lsadd _ _ _ _ => true
    | .amsg _ => true
    | _ => false).length

/-- A deferred update is recorded; the 65th cuts the chunk before it (R235, R295). -/
def State.defer (s : State) (d : Deferred) : Res Unit :=
  if 64 ≤ s.chunk.deferredCount then .error (.cut s 0x02)
  else .ok ((), s.setChunk { s.chunk with effects := s.chunk.effects ++ [d] })

/-- The accumulate-only mark on a granule of the own local store (R175). -/
def State.markAccumulate (s : State) (g : Nat) : Res Unit :=
  match s.cur with
  | .slot c k =>
    let r := s.contend c k fun x => x.lsR.contains g || x.lsW.contains g
    if !r.2 then .error (.left r.1)
    else .ok ((), r.1.setChunk { r.1.chunk with lsA := insertOnce r.1.chunk.lsA g })
  | _ => .ok ((), s)

/-- A deferred atomic is recorded in the chunk (R235); on an own granule with an LSW or LSADD pending the chunk is cut first (R295). -/
def State.deferAtomic (s : State) (opc : Byte) (ty : BitVec 2) (va : Word) (v : Word) : Res Unit :=
  (s.locateInside va (atomicBits ty / 8) .write).andThen fun l s =>
  match l with
  | .ls c off =>
    if s.chunk.remoteOn c [off / 64] then .error (.cut s 0x08)
    else (s.defer (.lsAtomic opc ty off v)).andThen fun _ s => s.markAccumulate (off / 64)
  | .mem pa => (s.defer (.atomic opc ty pa v)).andThen fun _ s =>
    .ok ((), s.setChunk { s.chunk with stks := s.chunk.stks ||| (1#16 <<< (stackOf pa).toNat) })
  | _ => .ok ((), s)

/-- PCIe has an AtomicOp for the operation (R237). [log 49, DEDUCED] -/
def pcieAtomic (opc : Nat) : Bool := [0x68, 0x6E, 0x6F, 0x70].contains opc

/-- The answer to an atomic outside the package (R237, R391, R392). [log 49, DEDUCED] -/
def State.atomicStatus (s : State) (opc : Nat) (l : Loc) : Nat × State :=
  match l with
  | .host false _ => if pcieAtomic opc then s.edgeStatus l else (1, s)
  | .ls _ _ | .mem _ => (0, s)
  | l => s.edgeStatus l

/-- An atomic performed alone as one event: old value read, new value written, old value returned (R236, R237). -/
def State.atomicEvent (s : State) (opc : Nat) (va : Word) (l : Loc) (n : Nat) (new : Nat → Nat) : Res Nat :=
  s.eventGate.andThen fun _ s =>
  let (st, s) := s.atomicStatus opc l
  if st ≠ 0 then .error (.trap s.edgeEvent (edgeTrap va false st))
  else if s.homeBarred l n then .error (.stay s)
  else
    (s.homeRead va l n).andThen fun bs s =>
      let m := leNat bs
      .ok (m, s.edgeEvent.homeWrite l (leBytes n (new m)))

/-- A value-returning atomic, or one with `.SYS`: alone, in its own event (R236, R237). -/
def State.atomicAlone (s : State) (f : Fields) (opc : Nat) (va : Word) (n : Nat) (new : Nat → Nat) : Res Nat :=
  let sys := f.mod.getLsbD 3
  if va.toNat % n ≠ 0 then .error (.trap s (misaligned va n))
  else if sys then
    (s.locate va n .write).andThen fun l s =>
    if !s.isAlone then .error (.edge s)
    else (match l with
      | .mem pa => s.reachMem va pa
      | _ => .ok ((), s)).andThen fun _ s => s.holdGate.andThen fun _ s => s.atomicEvent opc va l n new
  else if !s.isAlone then .error (.solo s 0x08)
  else (s.locateInside va n .write).andThen fun l s => s.atomicEvent opc va l n new

/-- The atomics of 32 and 64 bits (R233 to R237). -/
def atomicOp (i : Instr) (f : Fields) (s : State) : Host.Outcome State Fault Refusal :=
  scalar i f s fun s =>
    let opc := opcOf i
    let ty : BitVec 2 := f.mod.extractLsb' 0 2
    let e := atomicBits ty
    let va := s.addrOf f.src1 (e / 8)
    let v := s.src f.src2
    if !f.mod.getLsbD 2 && !f.mod.getLsbD 3 then
      if va.toNat % (e / 8) ≠ 0 then .trap s (misaligned va (e / 8))
      else (s.deferAtomic (BitVec.ofNat 8 opc) ty va v).fin fun _ s => .done s
    else
      let c := (s.getG (gNum f.dst)).toNat
      (s.atomicAlone f opc va (e / 8) fun m => atomicNew opc ty e m v.toNat c).fin fun m s =>
        .done (if f.mod.getLsbD 2 then s.setG (gNum f.dst) (atomicOld ty m) else s)

def execAadd (f : Fields) (s : State) : Host.Outcome State Fault Refusal := atomicOp (.aadd f) f s
def execAand (f : Fields) (s : State) : Host.Outcome State Fault Refusal := atomicOp (.aand f) f s
def execAor (f : Fields) (s : State) : Host.Outcome State Fault Refusal := atomicOp (.aor f) f s
def execAxor (f : Fields) (s : State) : Host.Outcome State Fault Refusal := atomicOp (.axor f) f s
def execAmin (f : Fields) (s : State) : Host.Outcome State Fault Refusal := atomicOp (.amin f) f s
def execAmax (f : Fields) (s : State) : Host.Outcome State Fault Refusal := atomicOp (.amax f) f s
def execAxchg (f : Fields) (s : State) : Host.Outcome State Fault Refusal := atomicOp (.axchg f) f s
def execAcas (f : Fields) (s : State) : Host.Outcome State Fault Refusal := atomicOp (.acas f) f s

/-- ACAS2 (R234). -/
def execAcas2 (f : Fields) (s : State) : Host.Outcome State Fault Refusal :=
  scalar (.acas2 f) f s fun s =>
    let c := (s.pair f.dst).toNat
    let v := (s.pair f.src2).toNat
    (s.atomicAlone f 0x70 (s.addrOf f.src1 16) 16 fun m => if m = c then v else m).fin fun m s =>
      .done (s.setPair f.dst (BitVec.ofNat 128 m))

/-- CUT (R238). -/
def execCut (f : Fields) (s : State) : Host.Outcome State Fault Refusal :=
  scalar (.cut f) f s fun s => .done (s.setDue 0x05 none)

/-- FENCE (R239). -/
def execFence (f : Fields) (s : State) : Host.Outcome State Fault Refusal :=
  scalar (.fence f) f s fun s => .done s

/-- The status that FENCE.SYS finds: the slot's error flag, a link that is down, or the answer to its own read (R393). -/
def State.fenceStatus (s : State) (p : Posted) : Nat × State :=
  if p.err ≠ 0 then (p.err.toNat, s)
  else if !s.host.up then (6, s)
  else match s.answer with
    | some a => (a, s)
    | none =>
      let (n, s) := s.choose 3
      (if n = 0 then 0 else n + 1, s)

/-- FENCE.SYS (R239, R393). -/
def execFenceSys (f : Fields) (s : State) : Host.Outcome State Fault Refusal :=
  scalar (.fenceSys f) f s fun s =>
    match s.cur with
    | .slot c k =>
      if !s.isAlone then .edge s
      else
        let s := s.setChunk { s.chunk with solo := true }
        let p := (s.slot c k).posted
        if p.count = 0 then .done s
        else if p.open_ ≠ 0 then .stay s
        else
          let (st, s) := s.fenceStatus p
          let s := s.setSlot c k { s.slot c k with posted := {} }
          if st = 0 then .done s else .trap s (edgeTrap p.first true st)
    | _ => .done s

/-- The time at which a wait that begins now ends of itself; none when TMO is 0 (R240, R323). -/
def State.waitExpiry (s : State) : Option Nat :=
  if s.regs.waittmo = 0 then none else some (s.rot + s.regs.waittmo.toNat)

/-- The value at the place of a wait, read at its home (R240). [log 88, DEDUCED] -/
def State.waitValue (s : State) (va : Word) (n : Nat) : Res (Loc × Nat) :=
  if va.toNat % n ≠ 0 then .error (.trap s (misaligned va n))
  else (s.locateInside va n .read).andThen fun l s =>
    (s.homeRead va l n).andThen fun bs s => .ok ((l, leNat bs), s)

/-- The slot parks, to be woken by an event; a time-out is posted when there is one. The translation of its place stays recorded (R302). [log 111, DEDUCED] -/
def State.parkUntil (s : State) (p : Park) (expiry : Option Nat) (ev : Instr) : State :=
  match s.cur with
  | .slot c k =>
    let s := s.setSlot c k { s.slot c k with park := p, chunk := { tlb := s.chunk.tlb } }
    if expiry.isSome then s.postEvent (.slot c k) ev else s
  | _ => s

/-- WAITV (R240). -/
def execWaitv (f : Fields) (s : State) : Host.Outcome State Fault Refusal :=
  scalar (.waitv f) f s fun s =>
    (s.soloGate 0x06).fin fun _ s =>
      let n := if f.mod.getLsbD 0 then 8 else 4
      (s.waitValue (s.addrOf f.src1 n) n).fin fun lm s =>
        if lm.2 ≠ (s.src f.src2).toNat % 2 ^ (8 * n) then .done (s.setG (gNum f.dst) (BitVec.ofNat 64 lm.2))
        else
          let ex := s.waitExpiry
          match lm.1 with
          | .ls _ off => .left (s.parkUntil (.waitv (gNum f.dst) true off n ex) ex .waitvTimeout)
          | .mem pa => .left (s.parkUntil (.waitv (gNum f.dst) false pa n ex) ex .waitvTimeout)
          | _ => .stay s

/-- The frames of a journal buffer's pages, from its first page on (R241). -/
def State.bufferFrames (s : State) (va : Word) (k : Kind) : Nat → Res (List Nat)
  | 0 => .ok ([], s)
  | n + 1 =>
    (s.locateInside va 4096 k).andThen fun l s =>
    match l with
    | .mem pa => (s.bufferFrames (va + 4096) k n).andThen fun fs s => .ok (pa :: fs, s)
    | _ => .error (.trap s (protTrap k s.isUser true va 0))

/-- The checks of a JRNL buffer (R241): alignment and size, then every page. -/
def State.journalBuffer (s : State) (f : Fields) (k : Kind) : Res (List Nat) :=
  let va := s.addrOf f.src1 8
  let n := (s.src f.src2).toNat
  if va.toNat % 4096 ≠ 0 then .error (.trap s (illegal 0x13 1 0))
  else if n = 0 then .error (.trap s (illegal 0x13 2 0))
  else s.bufferFrames va k n

/-- A JRNL operation recorded for the grant of its chunk (R221, R241). -/
def State.jrnl (s : State) (d : Deferred) : Eff := .done (s.setChunk { s.chunk with effects := s.chunk.effects ++ [d] })

def execJrnlOff (f : Fields) (s : State) : Host.Outcome State Fault Refusal :=
  scalar (.jrnlOff f) f s fun s => s.ownChunk fun s => s.jrnl .jrnlOff

def execJrnlRec (f : Fields) (s : State) : Host.Outcome State Fault Refusal :=
  scalar (.jrnlRec f) f s fun s => s.ownChunk fun s =>
    (s.journalBuffer f .write).fin fun frames s => s.jrnl (.jrnlOn false frames 0)

def execJrnlRpl (f : Fields) (s : State) : Host.Outcome State Fault Refusal :=
  scalar (.jrnlRpl f) f s fun s => s.ownChunk fun s =>
    (s.journalBuffer f .read).fin fun frames s =>
      (s.homeRead (s.addrOf f.src1 8) (.mem (frames.headD 0)) 64).fin fun bs t =>
        let h : BitVec 512 := BitVec.ofNat 512 (leNat bs)
        let count : BitVec 32 := h.extractLsb' 0 32
        if !h.getLsbD 63 || h.extractLsb' 32 12 != t.curCtx || decide (journalRoom frames.length < count.toNat) then
          .trap s (illegal 0x14 0 0)
        else t.jrnl (.jrnlOn true frames count)

/-- The JRNL status word (R241). -/
def Journal.status (j : Journal) : Word :=
  (j.count ++ 0#28 ++ BitVec.ofBool j.div ++ BitVec.ofBool j.full ++ BitVec.ofBool j.rpl ++ BitVec.ofBool j.rec_ : BitVec 64)

def execJrnlStat (f : Fields) (s : State) : Host.Outcome State Fault Refusal :=
  scalar (.jrnlStat f) f s fun s => s.ownChunk fun s => .done (s.setG (gNum f.dst) (s.journal s.curCtx).status)

end Sys2Proof.Machine
end

