-- ==== Sys2Proof/Machine/Cooperate.lean ====
section
/-! DEFINITION. YIELD, barriers, LAUNCH and SLOTCTL (08_cores_launches_scheduling.md R201 to R210). -/

namespace Sys2Proof.Machine

/-- The barrier of an operand. -/
def barNum (o : Operand) : BitVec 3 :=
  match o with
  | .bar n => n
  | _ => 0

/-- YIELD: k idle turns pass, and the slot issues again in the rotation after them (R208). -/
def execYield (f : Fields) (s : State) : Host.Outcome State Fault Refusal :=
  scalar (.yield f) f s fun s =>
    match s.cur with
    | .slot c k =>
      let n := (s.src f.src1).toNat % 65536
      let ex := s.rot + max n 1 + 1
      .done ((s.setSlot c k { s.slot c k with park := .yield ex }).postEvent (.slot c k) .yieldExpiry)
    | _ => .done s

/-- The refusals of BARSET (R203, R332), among them the shape of a barrier that spans packages (17 R404). -/
def State.barsetTrap (s : State) (b : BitVec 3) (shape : Word) : Option Trap :=
  match s.launch s.curSeq with
  | none => some (illegal 0x14 0 0)
  | some l =>
    let lw := fieldNat shape 0 3
    let lh := fieldNat shape 3 3
    if shape.toNat / 64 ≠ 0 ∨ descW l.desc < 2 ^ lw ∨ descH l.desc < 2 ^ lh then some (illegal 0x13 1 0)
    else if s.spans (descCtx l.desc) b ∧ ¬ (lw = descLw l.desc ∧ lh = descLh l.desc) then some (illegal 0x13 1 0)
    else if (s.bar s.curCore b).arrv ≠ 0 ∨ ¬ descGang l.desc then some (illegal 0x14 0 0)
    else none

/-- BARSET: barrier state is no chunk state, so it takes effect at issue (R202, R203); tokens held for the shape are taken (R204). -/
def execBarset (f : Fields) (s : State) : Host.Outcome State Fault Refusal :=
  scalar (.barset f) f s fun s =>
    let b := barNum f.dst
    let shape := s.src f.src1
    match s.barsetTrap b shape with
    | some t => .trap s t
    | none =>
      let v := { s.bar s.curCore b with valid := true, lw := shape.extractLsb' 0 3, lh := shape.extractLsb' 3 3 }
      .done (((s.setBar s.curCore b v).retakeTokens s.curCore b).sweep s.curCore b)

/-- The ARRV bit is set and the sweep goes on (R204, R205); GEN as it stood before any release. -/
def State.arriveNew (s : State) (c : CoreId) (k : SlotId) (b : BitVec 3) : Byte × State :=
  let v := s.bar c b
  let y := s.slot c k
  let s := s.setSlot c k { y with barred := some (y.seq, b, v.gen) }
  (v.gen, (s.setBar c b { v with arrv := v.arrv ||| (1#16 <<< k.toNat) }).sweep c b)

/-- A slot arrives at a barrier; in a chunk that runs again it has arrived already (R205). -/
def State.arriveAt (s : State) (c : CoreId) (k : SlotId) (b : BitVec 3) : Byte × State :=
  let y := s.slot c k
  match y.barred with
  | some (seq, b', g) => if seq = y.seq ∧ b' = b then (g, s) else s.arriveNew c k b
  | none => s.arriveNew c k b

/-- BARARR (R205). -/
def execBararr (f : Fields) (s : State) : Host.Outcome State Fault Refusal :=
  scalar (.bararr f) f s fun s =>
    let b := barNum f.src1
    if !(s.bar s.curCore b).valid then .trap s (illegal 0x14 0 0)
    else s.beginsChunk 0x06 fun s =>
      let r := s.arriveAt s.curCore s.curSlot b
      .done (if f.mod.getLsbD 0 then r.2.setG (gNum f.dst) (r.1.setWidth 64) else r.2)

/-- BARWAIT: a release makes the slot ready, and it looks again (R206). -/
def execBarwait (f : Fields) (s : State) : Host.Outcome State Fault Refusal :=
  scalar (.barwait f) f s fun s => s.serial 0x06 fun s =>
    let b := barNum f.src1
    let g : Byte := (s.src f.src2).setWidth 8
    if (s.bar s.curCore b).gen ≠ g then .done s
    else match s.cur with
      | .slot c k => .left (s.setSlot c k { s.slot c k with park := .barwait b g, chunk := {} })
      | _ => .stay s

/-- A queue has no ring entry left (R190, R209). -/
def Queue.full (q : Queue) : Bool := decide (q.size ≤ (q.tail - q.head).toNat + q.reserved)

/-- LAUNCH (R209). [log 72, DEDUCED] -/
def execLaunch (f : Fields) (s : State) : Host.Outcome State Fault Refusal :=
  scalar (.launch f) f s fun s =>
    let va := s.addrOf f.src1 8
    let x := s.src f.src2
    let q : QueueId := x.extractLsb' 0 6
    let t : TowerId := x.extractLsb' 6 2
    let y := s.queue t q
    if va.toNat % 128 ≠ 0 then .trap s (misaligned va 128)
    else if y.ctx ≠ s.curCtx then .trap s (protTrap .read s.isUser false va 0)
    else if y.full then .stay s
    else
      let s := s.setQueue t q { y with reserved := y.reserved + 1 }
      .done (s.setChunk { s.chunk with effects := s.chunk.effects ++ [.launch t q va] })

/-- SLOTCTL.RD (R210). -/
def execSlotctlRd (f : Fields) (s : State) : Host.Outcome State Fault Refusal :=
  scalar (.slotctlRd f) f s fun s =>
    let x := s.src f.src1
    let e := (s.slot s.curCore (x.extractLsb' 0 4)).entry
    .done (s.setG (gNum f.dst) (if x.getLsbD 4 then e.extractLsb' 64 64 else e.extractLsb' 0 64))

/-- SLOTCTL.STOP: it parks until the slot has ended (R210). A slot that it may not name is an operand out of range; where the slot has ended meanwhile, the instruction completes and leaves a new tenant of the slot alone. [log 106, DEDUCED] -/
def execSlotctlStop (f : Fields) (s : State) : Host.Outcome State Fault Refusal :=
  scalar (.slotctlStop f) f s fun s =>
    let w := s.src f.src1
    let k : SlotId := w.extractLsb' 0 4
    let c := s.curCore
    let own := s.curSlot
    let y := s.slot c k
    let st := entryState y.entry
    if (s.slot c own).stopDone then .done (s.setSlot c own { s.slot c own with stopDone := false })
    else if k = own ∨ ((k = 14 ∨ k = 15) ∧ (entryCapr y.entry ∨ entryMsgr y.entry)) then .trap s (illegal 0x13 1 0)
    else if st ≠ stFree ∧ entryCtx y.entry ≠ s.curCtx then .trap s (protTrap .read s.isUser false w 0)
    else if st ≠ stRun then .done s
    else
      let t := if y.stopping then s else s.stopSlot c k
      if !(t.slot c k).isRun then .done t
      else .left (t.setSlot c own { t.slot c own with park := .stop k })

end Sys2Proof.Machine
end

