-- ==== Sys2Proof/Machine/Capsule.lean ====
section
/-! DEFINITION. Capsule images, places, and the capsule instructions (10_capsules.md R244 to R249, R254, R260 to R270). -/

namespace Sys2Proof.Machine

/-- Fields of a capsule header (R244). -/
def capOrig (h : BitVec 512) : CoreId := h.extractLsb' 64 10
def capPrio (h : BitVec 512) : Nat := fieldNat h 78 2
def capIlen (h : BitVec 512) : Nat := fieldNat h 80 5
def capHead (h : BitVec 512) : Nat := fieldNat h 88 5
def capHops (h : BitVec 512) : Nat := fieldNat h 96 8
def capFcode (h : BitVec 512) : Nat := fieldNat h 104 8
def capHlim (h : BitVec 512) : Nat := fieldNat h 120 8
def capPlen (h : BitVec 512) : Nat := fieldNat h 160 14

/-- The header's listed bits; every other bit is RZ (R244). -/
def capMask : BitVec 512 :=
  [(0, 80), (80, 5), (88, 5), (96, 16), (120, 16), (136, 7), (144, 7), (152, 4), (160, 14), (192, 44), (256, 64), (320, 128)].foldl
    (fun m f => m ||| ((BitVec.ofNat 512 (2 ^ f.2 - 1)) <<< f.1)) 0

/-- A malformed header (R246). -/
def capMalformed (h : BitVec 512) : Bool :=
  decide (16 < capIlen h) || decide (capIlen h < capHead h) || decide (8192 < capPlen h) || (h &&& ~~~capMask != 0)

/-- Bytes of an image (R244). -/
def capBytes : Nat := 8512

/-- The payload bytes that a capsule moves (R246). -/
def capPayload (h : BitVec 512) : Nat := (capPlen h + 63) / 64 * 64

/-- 64-byte flits of a capsule (R246, R255). -/
def capFlits (h : BitVec 512) : Nat := (64 + 16 * capIlen h + capPayload h + 63) / 64

/-- Fields of an itinerary entry (R245). -/
def entParam (e : BitVec 128) : Word := e.extractLsb' 0 64
def entHoff (e : BitVec 128) : BitVec 32 := e.extractLsb' 64 32
def entPlace (e : BitVec 128) : BitVec 32 := e.extractLsb' 96 32

/-- Offset of itinerary entry i in an image (R244). -/
def entAt (i : Nat) : Nat := 0x40 + 16 * i

/-- The handler of an entry (R245). -/
def handlerPc (l : Launch) (e : BitVec 128) : Word := descEntry l.desc + ((entHoff e).signExtend 64 <<< 2)

/-- hash of R248. -/
def capHash (k : Word) (b : Nat) : Nat := if b = 0 then 0 else (k * 0x9F3AC58DE1B27365#64).toNat >>> (64 - b)

/-- pick of R248: logical coordinates in a rectangle. -/
def capPick (x0 y0 lw lh : Nat) (k : Word) : Nat × Nat :=
  let t := capHash k (lw + lh)
  (x0 + t % 2 ^ lw, y0 + t / 2 ^ lw)

/-- A resolved place. -/
inductive Place where
  | core (c : CoreId)
  | fail (code : Byte)
  /-- The stack is being poured (R248). -/
  | wait
  deriving DecidableEq, Repr

/-- The part of a launch on a die, in logical coordinates: corner and log2 sides (R248). -/
def diePart (l : Launch) (d : DieId) : Option (Nat × Nat × Nat × Nat) :=
  match l.origin with
  | none => none
  | some (ox, oy) =>
    let dx := 16 * (d.toNat / 2 % 2)
    let dy := 16 * (d.toNat / 4) + 8 * (d.toNat % 2)
    let x0 := max ox dx
    let x1 := min (ox + descW l.desc) (dx + 16)
    let y0 := max oy dy
    let y1 := min (oy + descH l.desc) (dy + 8)
    if x0 < x1 ∧ y0 < y1 then some (x0 - ox, y0 - oy, Nat.log2 (x1 - x0), Nat.log2 (y1 - y0)) else none

/-- An address place (R248). -/
def State.resolveAddress (s : State) (l : Launch) (c : CoreId) (param : Word) : Place :=
  if !canonical param || decide (windowBase ≤ param.toNat) then .fail 0x42
  else match s.walkStop (dieOf c) (descPtroot l.desc) param with
  | some (_, .park) => .wait
  | some _ => .fail 0x42
  | none => match s.xlateWalk (towerOf c) (descPtroot l.desc) param .read true true with
    | .ok pa _ =>
      if !isLocal pa then .fail 0x42
      else
        let m := stackOf pa
        let k := s.stack m
        if k.st = .pouring ∨ k.st = .claiming then .wait
        else match diePart l (k.owner m) with
          | none => .fail 0x43
          | some (x0, y0, lw, lh) =>
            let (x, y) := capPick x0 y0 lw lh param
            .core (l.at x y)
    | _ => .fail 0x42

/-- A place resolved by a core of a launch (R247, R248). -/
def State.resolve (s : State) (l : Launch) (c : CoreId) (place : BitVec 32) (param : Word) (orig : CoreId) : Place :=
  let low := fieldNat place 0 30
  let x := fieldNat place 0 5
  let y := fieldNat place 5 5
  match fieldNat place 30 2 with
  | 0 => if low / 1024 ≠ 0 ∨ descW l.desc ≤ x ∨ descH l.desc ≤ y then .fail 0x40 else .core (l.at x y)
  | 1 => if low ≠ 0 then .fail 0x40 else .core orig
  | 2 =>
    let lw := fieldNat place 10 3
    let lh := fieldNat place 13 3
    if low / 65536 ≠ 0 then .fail 0x40
    else if x % 2 ^ lw ≠ 0 ∨ y % 2 ^ lh ≠ 0 ∨ descW l.desc < x + 2 ^ lw ∨ descH l.desc < y + 2 ^ lh then .fail 0x41
    else
      let (px, py) := capPick x y lw lh param
      .core (l.at px py)
  | _ => if low ≠ 0 then .fail 0x40 else s.resolveAddress l c param

/-- A Capsule trap with an instruction code, which CAPSTAT.FCODE takes (R260). -/
def State.capTrap (s : State) (code : Byte) : Eff :=
  .trap (s.setRegs { s.regs with fcode := code }) { cause := 0x0A, info := code.setWidth 64 }

/-- The launch of the executing slot; a launch that does not exist has an all-zero descriptor. -/
def State.curLaunch (s : State) : Launch := (s.launch s.curSeq).getD { desc := 0, t := 0, q := 0 }

/-- h names the live bay (R262). -/
def State.liveBay (s : State) (h : Nat) : Bool := s.regs.vis && h == s.regs.bayOff.toNat * 64

/-- h names a staging area (R262). -/
def Launch.staging (l : Launch) (h : Nat) : Bool :=
  let lo := descLslo l.desc * 1024
  h % 64 == 0 && decide (lo ≤ h) && decide (h + capBytes ≤ lo + descLskib l.desc * 1024)
    && !(l.capsOk && decide (h < lo + 0x8500))

/-- The area that h names: the live bay (true) or a staging area, or code 0x51. -/
def State.capArea (s : State) (h : Nat) : Res Bool :=
  if s.liveBay h then .ok (true, s)
  else if s.curLaunch.staging h then .ok (false, s) else .error (s.capTrap 0x51)

/-- A staging area only: code 0x58 for the live bay (R263, R266, R270). -/
def State.stagingArea (s : State) (h : Nat) : Res Unit :=
  if s.liveBay h then .error (s.capTrap 0x58)
  else if s.curLaunch.staging h then .ok ((), s) else .error (s.capTrap 0x51)

def State.readHeader (s : State) (h : Nat) : Res (BitVec 512) :=
  (s.readLs s.curCore h 64).andThen fun bs s => .ok (BitVec.ofNat 512 (leNat bs), s)

def State.writeHeader (s : State) (h : Nat) (x : BitVec 512) : Res Unit := s.writeLs s.curCore h (leBytes 64 x.toNat)

def State.readEntry (s : State) (h i : Nat) : Res (BitVec 128) :=
  (s.readLs s.curCore (h + entAt i) 16).andThen fun bs s => .ok (BitVec.ofNat 128 (leNat bs), s)

def State.writeEntry (s : State) (h i : Nat) (e : BitVec 128) : Res Unit :=
  s.writeLs s.curCore (h + entAt i) (leBytes 16 e.toNat)

/-- The header that CAPNEW writes (R263). -/
def newHeader (cid : Word) (c : CoreId) (k : SlotId) (prio : Nat) (seq : SeqNo) (ctx : CtxId) : BitVec 512 :=
  let x := setField (setField 0 0 64 cid.toNat) 64 10 c.toNat
  let x := setField (setField x 74 4 k.toNat) 78 2 prio
  setField (setField x 192 32 seq.toNat) 224 12 ctx.toNat

/-- CAPNEW (R263). -/
def execCapnew (f : Fields) (s : State) : Host.Outcome State Fault Refusal :=
  scalar (.capnew f) f s fun s =>
    let h := (s.src f.src1).toNat
    if !s.curLaunch.capsOk then s.capTrap 0x57
    else (s.stagingArea h).fin fun _ s =>
      let x := newHeader (s.src f.src2) s.curCore s.curSlot f.mod.toNat s.curSeq s.curCtx
      (s.writeHeader h x).fin fun _ s => .done s

/-- The header for an itinerary instruction: code 0x55 when malformed or spent; with the lowest index that it may change (R264). -/
def State.itinerary (s : State) (h : Nat) : Res (BitVec 512 × Nat) :=
  (s.capArea h).andThen fun live s => (s.readHeader h).andThen fun x s =>
    if capMalformed x || (live && decide (capIlen x ≤ capHead x)) then .error (s.capTrap 0x55)
    else .ok ((x, if live then capHead x + 1 else capHead x), s)

/-- An itinerary instruction: what it does to the header, given the lowest index. -/
def itineraryOp (i : Instr) (f : Fields) (s : State) (body : Nat → BitVec 512 → Nat → State → Eff) :
    Host.Outcome State Fault Refusal :=
  scalar i f s fun s =>
    let h := (s.src f.src1).toNat
    (s.itinerary h).fin fun xj t =>
      match body h xj.1 xj.2 t with
      | .trap u tr => if tr.cause = 0x0A then s.capTrap (tr.info.setWidth 8) else .trap u tr
      | e => e

def setIlen (x : BitVec 512) (n : Nat) : BitVec 512 := setField x 80 5 n

/-- An entry appended to an itinerary of header x (R264). -/
def pushRun (h : Nat) (x : BitVec 512) (e : BitVec 128) (s : State) : Res Unit :=
  (s.writeEntry h (capIlen x) e).andThen fun _ s => s.writeHeader h (setIlen x (capIlen x + 1))

/-- An entry put in at index j, with the later ones moved up, last first (R264). -/
def headRun (h : Nat) (x : BitVec 512) (j : Nat) (e : BitVec 128) (s : State) : Res Unit :=
  let n := capIlen x
  (foldRes ((List.range (n - j)).map fun i => n - 1 - i) () (fun _ i s =>
    (s.readEntry h i).andThen fun e s => s.writeEntry h (i + 1) e) s).andThen fun _ s =>
  (s.writeEntry h j e).andThen fun _ s => s.writeHeader h (setIlen x (n + 1))

/-- The last entry cleared (R264). -/
def popRun (h : Nat) (x : BitVec 512) (s : State) : Res Unit :=
  (s.writeEntry h (capIlen x - 1) 0).andThen fun _ s => s.writeHeader h (setIlen x (capIlen x - 1))

/-- CAPPUSH (R264). -/
def execCappush (f : Fields) (s : State) : Host.Outcome State Fault Refusal :=
  itineraryOp (.cappush f) f s fun h x _ s =>
    let n := capIlen x
    if 16 ≤ n then s.capTrap 0x52
    else (s.atomic (pushRun h x (s.pair f.src2))).fin fun _ s => .done s

/-- CAPHEAD (R264). -/
def execCaphead (f : Fields) (s : State) : Host.Outcome State Fault Refusal :=
  itineraryOp (.caphead f) f s fun h x j s =>
    let n := capIlen x
    if 16 ≤ n then s.capTrap 0x52
    else (s.atomic (headRun h x j (s.pair f.src2))).fin fun _ s => .done s

/-- CAPPOP (R264). -/
def execCappop (f : Fields) (s : State) : Host.Outcome State Fault Refusal :=
  itineraryOp (.cappop f) f s fun h x j s =>
    let n := capIlen x
    if n ≤ j then s.capTrap 0x53
    else (s.readEntry h (n - 1)).fin fun e s =>
      (s.atomic (popRun h x)).fin fun _ s => .done (s.setPair f.dst e)

/-- CAPSET (R264). -/
def execCapset (f : Fields) (s : State) : Host.Outcome State Fault Refusal :=
  itineraryOp (.capset f) f s fun h x j s =>
    let i := f.mod.toNat
    if i < j ∨ capIlen x ≤ i then s.capTrap 0x54
    else (s.writeEntry h i (s.pair f.src2)).fin fun _ s => .done s

/-- The header of the capsule that CAPSPLIT makes (R265). [log 47, DEDUCED] -/
def splitHeader (x : BitVec 512) (n : Nat) (cid : Word) (c : CoreId) (k : SlotId) : BitVec 512 :=
  let x := setField (setField x 0 64 cid.toNat) 64 10 c.toNat
  let x := setField (setField x 74 4 k.toNat) 80 5 (capIlen x - n)
  let x := setField (setField x 88 5 0) 96 16 0
  setField x 256 64 0

/-- The rest of an itinerary from index n, the payload bytes that a capsule moves, and the header hdr, written at d (R265). [log 47, DEDUCED] -/
def splitRun (d h : Nat) (x : BitVec 512) (n : Nat) (hdr : BitVec 512) (s : State) : Res Unit :=
  (foldRes (List.range 16) () (fun _ i s =>
    if i < capIlen x - n then (s.readEntry h (n + i)).andThen fun e s => s.writeEntry d i e else s.writeEntry d i 0) s).andThen fun _ s =>
  (foldRes (List.range (capPayload x / 64)) () (fun _ i s =>
    (s.readLs s.curCore (h + 0x140 + 64 * i) 64).andThen fun bs s => s.writeLs s.curCore (d + 0x140 + 64 * i) bs) s).andThen
    fun _ s => s.writeHeader d hdr

/-- CAPSPLIT (R265): the payload bytes that a capsule moves are copied. -/
def execCapsplit (f : Fields) (s : State) : Host.Outcome State Fault Refusal :=
  scalar (.capsplit f) f s fun s =>
    let d := (s.src f.dst).toNat
    let h := (s.src f.src1).toNat
    (s.stagingArea d).fin fun _ s => (s.capArea h).fin fun live s =>
    if d < h + capBytes ∧ h < d + capBytes then s.capTrap 0x59
    else match s.readHeader h with
      | .error e => e
      | .ok (x, t) =>
        if capMalformed x || (live && decide (capIlen x ≤ capHead x)) then s.capTrap 0x55
        else
          let n := if live then capHead x + 1 else capHead x
          (t.atomic (splitRun d h x n (splitHeader x n (s.src f.src2) s.curCore s.curSlot))).fin fun _ s => .done s

/-- A spill or refill of the launch waits for a held page, so its senders park (R257). -/
def State.spillWaits (s : State) (n : SeqNo) : Bool :=
  s.capsules.any fun x => x.2.seq == n && (match x.2.at_ with
    | .spillHeld _ _ _ => true
    | _ => false)

/-- CAPSEND and CAPINJ (R266). -/
def capSendOp (i : Instr) (f : Fields) (s : State) (inj : Bool) : Host.Outcome State Fault Refusal :=
  scalar i f s fun s =>
    let h := (s.src f.src1).toNat
    if !s.curLaunch.capsOk then s.capTrap 0x57
    else (s.stagingArea h).fin fun _ s => match s.readHeader h with
      | .error e => e
      | .ok (x, t) =>
        if capMalformed x then s.capTrap 0x55
        else if !inj && capFcode x != 0 then s.capTrap 0x56
        else if s.spillWaits s.curSeq then .stay s
        else .done (t.setChunk { t.chunk with effects := t.chunk.effects ++ [.capsend h inj] })

def execCapsend (f : Fields) (s : State) : Host.Outcome State Fault Refusal := capSendOp (.capsend f) f s false
def execCapinj (f : Fields) (s : State) : Host.Outcome State Fault Refusal := capSendOp (.capinj f) f s true

/-- A visit is in progress on this slot (R267). -/
def State.inVisit (s : State) : Bool := s.regs.vis && entryCapr (s.slot s.curCore s.curSlot).entry

/-- The end of a visit is noted for the grant, and the chunk is cut after it (R267); it waits for a remote result awaited since an ERET (R24). -/
def State.endVisit (s : State) (d : Deferred) : Eff :=
  if (s.slot s.curCore s.curSlot).awaiting.isSome then .stay s else
  .step ((s.setChunk { s.chunk with effects := s.chunk.effects ++ [d] }).setDue 0x0C (some .stop))

/-- CAPEND (R267). -/
def execCapend (f : Fields) (s : State) : Host.Outcome State Fault Refusal :=
  scalar (.capend f) f s fun s =>
    if !s.inVisit then s.capTrap 0x50 else s.endVisit (.capend s.regs.bay)

/-- CAPNEXT (R267). -/
def execCapnext (f : Fields) (s : State) : Host.Outcome State Fault Refusal :=
  scalar (.capnext f) f s fun s =>
    if !s.inVisit then s.capTrap 0x50
    else
      let go (n : Nat) (t : State) : Eff := if 15 < n then s.capTrap 0x54 else t.endVisit (.capnext s.regs.bay n)
      if f.mod.getLsbD 0 then go (s.src f.src1).toNat s
      else (s.readHeader (s.regs.bayOff.toNat * 64)).fin fun x t => go (capHead x + 1) t

/-- The result word of CAPPLACE (R268). -/
def placeWord (l : Launch) (p : Place) : Word :=
  match p with
  | .core c =>
    let (x, y) := l.logical c
    (0#38 ++ BitVec.ofNat 5 y ++ BitVec.ofNat 5 x ++ 0#6 ++ c : BitVec 64)
  | .fail code => (1#1 ++ 0#55 ++ code : BitVec 64)
  | .wait => 0

/-- CAPPLACE (R268). -/
def execCapplace (f : Fields) (s : State) : Host.Outcome State Fault Refusal :=
  scalar (.capplace f) f s fun s =>
    let x := s.src f.src1
    let origin : Res CoreId := if s.regs.vis then
        (s.readHeader (s.regs.bayOff.toNat * 64)).andThen fun h s => .ok (capOrig h, s)
      else .ok (s.curCore, s)
    origin.fin fun orig s =>
      let l := s.curLaunch
      let p := if x.toNat / 2 ^ 32 ≠ 0 then .fail 0x40 else s.resolve l s.curCore (x.setWidth 32) (s.src f.src2) orig
      if p = .wait then .stay s else .done (s.setG (gNum f.dst) (placeWord l p))

/-- CAPKEY (R269). -/
def execCapkey (f : Fields) (s : State) : Host.Outcome State Fault Refusal :=
  scalar (.capkey f) f s fun s =>
    .done (s.setG (gNum f.dst) (BitVec.ofNat 64 (capHash (s.src f.src1) ((s.src f.src2).toNat % 64))))

/-- A range cut at the ends of 4 KiB pages: addresses and lengths. -/
def pagePieces (va : Word) (n : Nat) : List (Word × Nat) :=
  let a := va.toNat
  (List.range ((a + n - 1) / 4096 - a / 4096 + 1)).map fun i =>
    let lo := max a ((a / 4096 + i) * 4096)
    (BitVec.ofNat 64 lo, min (a + n) ((a / 4096 + i + 1) * 4096) - lo)

/-- Bytes of a stranded list read by a solo step (R270). -/
def State.listRead (s : State) (va : Word) (n : Nat) : Res (List Byte) :=
  foldRes (pagePieces va n) [] (fun acc p s =>
    (s.locateInside p.1 p.2 .read).andThen fun l s => (s.homeRead p.1 l p.2).andThen fun bs s => .ok (acc ++ bs, s)) s

/-- Record number cons of a stranded list at at_ taken: CONS moved on, the image written at h, the record's answer (R270). -/
def State.takeRecord (s : State) (at_ : Word) (h cons nrec : Nat) : Res Word :=
  (s.locateInside (at_ + 4) 4 .write).andThen fun l s =>
  (s.listRead (at_ + BitVec.ofNat 64 (64 + 0x2180 * (cons % nrec))) 8576).andThen fun rec_ s =>
  if s.homeBarred l 4 || s.homeBarred (.ls s.curCore h) capBytes then .error (.stay s)
  else .ok (BitVec.ofNat 64 (leNat (rec_.take 8)),
    (s.homeWrite l (leBytes 4 ((cons + 1) % 2 ^ 32))).homeWrite (.ls s.curCore h) (rec_.drop 64))

/-- CAPGET: one record taken into a staging area (R270). -/
def execCapget (f : Fields) (s : State) : Host.Outcome State Fault Refusal :=
  scalar (.capget f) f s fun s =>
    let h := (s.src f.src1).toNat
    (s.stagingArea h).fin fun _ s => (s.soloGate 0x08).fin fun _ s =>
    let at_ := descStrand s.curLaunch.desc
    let none_ (s : State) : Eff := .done (s.setG (gNum f.dst) (BitVec.allOnes 64))
    if at_ = 0 then none_ s
    else (s.listRead at_ 64).fin fun bs s =>
      let b : BitVec 512 := BitVec.ofNat 512 (leNat bs)
      let cons := fieldNat b 32 32
      let nrec := fieldNat b 64 32
      if fieldNat b 0 32 = cons ∨ nrec = 0 then none_ s
      else
        (s.takeRecord at_ h cons nrec).fin fun x s => .done (s.setG (gNum f.dst) x)

end Sys2Proof.Machine
end

