-- ==== Sys2Proof/Machine/Control.lean ====
section
/-! DEFINITION. Control transfers, loop levels, HALT, WAITD, TRAP, SYSCALL and ERET (04_scalar_and_control.md R88 to R94, R124, 14_faults_preemption.md R337, R338). -/

namespace Sys2Proof.Machine

/-- The link register (R34, R89). -/
def linkReg : BitVec 5 := 31

/-- A transfer to a target taken from a register: aligned, or Misaligned with the target's address (R23, R90). [log 40, DEDUCED] -/
def State.transfer (s : State) (target : Word) (k : State → Eff) : Eff :=
  if target.extractLsb' 0 2 ≠ 0 then .trap s { cause := 0x04, addr := target, info := 8 } else k s

/-- The address a + 4k of a word offset (R89, R92). -/
def State.wordTarget (s : State) (o : Operand) : Word := s.regs.pc + (s.src o <<< 2)

def execNop (f : Fields) (s : State) : Host.Outcome State Fault Refusal :=
  scalar (.nop f) f s fun s => .done s

def execBra (f : Fields) (s : State) : Host.Outcome State Fault Refusal :=
  scalar (.bra f) f s fun s => .jump s (s.wordTarget f.src1)

/-- CALL (R89): it writes the link register G31, on a hart too (R306, R307). [log 42, DEDUCED] -/
def execCall (f : Fields) (s : State) : Host.Outcome State Fault Refusal :=
  scalar (.call f) f s fun s => .jump (s.setG linkReg (s.regs.pc + 12)) (s.wordTarget f.src1)

def execJmp (f : Fields) (s : State) : Host.Outcome State Fault Refusal :=
  scalar (.jmp f) f s fun s =>
    let t := s.src f.src1
    s.transfer t fun s => .jump s t

def execCallr (f : Fields) (s : State) : Host.Outcome State Fault Refusal :=
  scalar (.callr f) f s fun s =>
    let t := s.src f.src1
    s.transfer t fun s => .jump (s.setG linkReg (s.regs.pc + 12)) t

def execRet (f : Fields) (s : State) : Host.Outcome State Fault Refusal :=
  scalar (.ret f) f s fun s =>
    let t := s.src f.src1
    s.transfer t fun s => .jump s t

/-- The loop level of MOD [1:0] (R87). -/
def loopLevel (f : Fields) : BitVec 2 := f.mod.extractLsb' 0 2

/-- A loop level armed (R92). -/
def Regs.armLoop (r : Regs) (n : BitVec 2) (lb le : Word) (count : BitVec 32) : Regs :=
  { r with
    lb := r.lb.set n.toNat lb n.isLt, le := r.le.set n.toNat le n.isLt, lc := r.lc.set n.toNat count n.isLt
    lact := r.lact ||| (1#4 <<< n) }

/-- LOOP (R92). -/
def execLoopI (f : Fields) (s : State) : Host.Outcome State Fault Refusal :=
  scalar (.loopI f) f s fun s =>
    let n := loopLevel f
    let count : BitVec 32 := (s.src f.src1).setWidth 32
    let le := s.wordTarget f.src2
    if count = 0 then .jump (s.setRegs { s.regs with lact := s.regs.lact &&& ~~~(1#4 <<< n) }) (le + 12)
    else .done (s.setRegs (s.regs.armLoop n (s.regs.pc + 12) le count))

/-- LOOPX (R93). -/
def execLoopx (f : Fields) (s : State) : Host.Outcome State Fault Refusal :=
  scalar (.loopx f) f s fun s =>
    let n := loopLevel f
    if s.regs.lact.getLsbD n.toNat then
      .jump (s.setRegs { s.regs with lact := s.regs.lact &&& ~~~(BitVec.ofNat 4 (2 ^ (n.toNat + 1) - 1)) })
        (s.regs.le.get n.toFin + 12)
    else .done s

/-- HALT: it waits until a remote result awaited since an ERET has arrived (R24); on a hart the command ends; in a capsule visit a Capsule fault, whose code the spec does not give; else the chunk is cut after it and its grant ends the slot or the message handler (R91, R296, R307). [log 35, DESIGN CHOICE] -/
def execHalt (f : Fields) (s : State) : Host.Outcome State Fault Refusal :=
  scalar (.halt f) f s fun s =>
    match s.cur with
    | .engine e => .left ((s.setChunk { s.chunk with len := s.chunk.len + 1 }).engineCut e [.cmdEnd e] none)
    | .slot c k =>
      if (s.slot c k).awaiting.isSome then .stay s
      else if s.regs.vis then
        let (n, s) := s.takeFresh
        let code := Config.freeCapCode n
        .trap (s.setRegs { s.regs with fcode := code }) { cause := 0x0A, info := code.setWidth 64 }
      else
        let eff : Deferred := if entryMsgr (s.slot c k).entry then .msgEnd else .halt
        .step ((s.setChunk { s.chunk with effects := s.chunk.effects ++ [eff] }).setDue 0x05 (some .stop))
    | _ => .stay s

/-- WAITD: the slot waits while the counter is above the bound (R124). -/
def execWaitd (f : Fields) (s : State) : Host.Outcome State Fault Refusal :=
  scalar (.waitd f) f s fun s =>
    let n : BitVec 2 := match f.src1 with
      | .dep n => n
      | _ => 0
    if (s.src f.src2).toNat < (s.regs.d.get n.toFin).toNat then .stay s else .done s

/-- TRAP (R337). -/
def execTrapI (f : Fields) (s : State) : Host.Outcome State Fault Refusal :=
  scalar (.trapI f) f s fun s => .done (s.setDue 0x09 (some (.trap { cause := 0x0E, info := s.src f.src1 })))

/-- SYSCALL (R337). -/
def execSyscall (f : Fields) (s : State) : Host.Outcome State Fault Refusal :=
  scalar (.syscall f) f s fun s => .done (s.setDue 0x09 (some (.trap { cause := 0x0F, info := s.src f.src1 })))

/-- The awaited remote result at ERET (R338): its register takes a result that has arrived, or becomes pending; a squash of the chunk brings the awaiting state back. -/
def State.takeAwaited (s : State) : State :=
  if !s.regs.awr then s
  else match s.cur with
    | .slot c k =>
      let s := s.setChunk { s.chunk with eret := true }
      match (s.slot c k).arrived with
      | some x => s.setG s.regs.awreg x
      | none => s.setSlot c k { s.slot c k with awaiting := some s.regs.awreg }
    | _ => s

/-- A resuming core whose TILES slot has not executed ERET holds the other slots (R338): true when this slot must wait, else the state with the wait lifted by its own ERET. -/
def State.tilesGate (s : State) : Bool × State :=
  let n := s.curCtx
  let x := s.ctx n
  match x.tilesWait.find? fun w => w.1 == s.curCore with
  | some (_, k) =>
    if k = s.curSlot then (false, s.setCtx n { x with tilesWait := x.tilesWait.filter fun w => w.1 != s.curCore })
    else (true, s)
  | none => (false, s)

/-- ERET (R338). [log 40, DEDUCED] -/
def execEret (f : Fields) (s : State) : Host.Outcome State Fault Refusal :=
  scalar (.eret f) f s fun s =>
    s.transfer s.regs.trappc fun s =>
      let (wait, s) := s.tilesGate
      if wait then .stay s
      else
        let pc := s.regs.trappc
        let s := s.takeAwaited
        let s := s.setRegs s.regs.returned
        .jump s.inhCleared pc

end Sys2Proof.Machine
end

