-- ==== Sys2Proof/Machine/Message.lean ====
section
/-! DEFINITION. Remote local-store accesses, active messages, cache maintenance, IFLUSH, PROBE and TLBINV (12_memory_levels_translation.md R292 to R302). -/

namespace Sys2Proof.Machine

/-- A remote access's Protection: TRAPADDR holds the word (R293). -/
def State.remoteTrap (s : State) (k : Kind) (w : Word) : Eff := .trap s (protTrap k s.isUser true w 0)

/-- The target core of a remote instruction, after checks 1 and 2 of R293; result: the instruction awaits one, which a message slot may not (R297). -/
def State.remoteCore (s : State) (k : Kind) (w bad : Word) (x y : Nat) (needMsg result : Bool) : Res CoreId :=
  let l := s.curLaunch
  if w &&& bad ≠ 0 ∨ descW l.desc ≤ x ∨ descH l.desc ≤ y then .error (s.remoteTrap k w)
  else if needMsg && !descMsg l.desc then .error (s.remoteTrap k w)
  else if result && entryMsgr (s.slot s.curCore s.curSlot).entry then .error (s.remoteTrap k w)
  else .ok (l.at x y, s)

/-- Bits of the remote-address word R that must be 0 (R293). -/
def remoteBad : Word := 0xFFFFFC00FFF80000
def remoteOff (w : Word) : Nat := fieldNat w 0 19

/-- Target and offset of the remote-address word R (R293). -/
def State.remote (s : State) (k : Kind) (w : Word) (n : Nat) (needMsg result : Bool) : Res (CoreId × Nat) :=
  (s.remoteCore k w remoteBad (fieldNat w 32 5) (fieldNat w 37 5) needMsg result).andThen fun c s =>
    if remoteOff w % n ≠ 0 then .error (.trap s (misaligned w n)) else .ok ((c, remoteOff w), s)

/-- A message leaves for its target, where its arrival is an event, behind earlier ones on its way between two base dies (R296, R297, R361). -/
def State.sendMsg (s : State) (m : Msg) : State :=
  let id := s.nextId
  let s := { s with nextId := id + 1, flying := s.flying.put id { m with id := id } }
  s.postAfter (s.sameChannel m) (.event (.item id) .activeMessageArrival)

/-- The slot parks until the result of a message arrives (R294, R296). -/
def State.awaitResult (s : State) (m : Msg) (d : BitVec 5) : Eff :=
  match s.cur with
  | .slot c k => .left ((s.setSlot c k { s.slot c k with park := .remote d, chunk := {} }).sendMsg m)
  | _ => .stay s

/-- LSR (R294). -/
def execLsr (f : Fields) (s : State) : Host.Outcome State Fault Refusal :=
  scalar (.lsr f) f s fun s =>
    let size : BitVec 2 := f.mod.extractLsb' 0 2
    (s.remote .read (s.src f.src1) (2 ^ size.toNat) true true).fin fun t s => (s.soloGate 0x08).fin fun _ s =>
      let d := gNum f.dst
      let m : Msg :=
        { id := 0, lsr := true, src := s.curCore, srcSlot := s.curSlot, dst := t.1, seq := s.curSeq, pc := BitVec.ofNat 64 t.2
          arg := (f.mod.extractLsb' 0 3 : BitVec 3).setWidth 64, ret := some d }
      s.awaitResult m d

/-- LSW (R295). -/
def execLsw (f : Fields) (s : State) : Host.Outcome State Fault Refusal :=
  scalar (.lsw f) f s fun s =>
    let size : BitVec 2 := f.mod.extractLsb' 0 2
    (s.remote .write (s.src f.src1) (2 ^ size.toNat) true false).fin fun t s =>
      (s.defer (.lsw t.1 t.2 size (s.src f.src2))).fin fun _ s => .done s

/-- LSADD (R295). -/
def execLsadd (f : Fields) (s : State) : Host.Outcome State Fault Refusal :=
  scalar (.lsadd f) f s fun s =>
    let ty : BitVec 2 := f.mod.extractLsb' 0 2
    (s.remote .write (s.src f.src1) (atomicBits ty / 8) false false).fin fun t s =>
      (s.defer (.lsadd t.1 t.2 ty (s.src f.src2))).fin fun _ s => .done s

/-- Bits of the message word W that must be 0 (R293). -/
def messageBad : Word := 0x00000000FFFFFC00

/-- AMSG (R296). -/
def execAmsg (f : Fields) (s : State) : Host.Outcome State Fault Refusal :=
  scalar (.amsg f) f s fun s =>
    let w := s.src f.src1
    let result := f.mod.getLsbD 0
    (s.remoteCore .write w messageBad (fieldNat w 0 5) (fieldNat w 5 5) true result).fin fun c s =>
      let d := gNum f.dst
      let m : Msg :=
        { id := 0, lsr := false, src := s.curCore, srcSlot := s.curSlot, dst := c, seq := s.curSeq
          pc := descEntry s.curLaunch.desc + ((w.extractLsb' 32 32).signExtend 64 <<< 2), arg := s.src f.src2
          ret := if result then some d else none }
      if result then (s.soloGate 0x08).fin fun _ s => s.awaitResult m d
      else (s.defer (.amsg m)).fin fun _ s => .done s

/-- The addresses in every valid copy of a read-duplicate page (R289, R298). -/
def State.copies (s : State) (l : Leaf) (va : Word) : List Nat :=
  if l.rp then
    let r : BitVec 512 := BitVec.ofNat 512 (s.mem.nat (fieldNat l.entry 6 46 * 64) 64)
    ((List.range 4).filterMap (replicaFrame r)).filter isLocal |>.map fun p => p + va.toNat % 2 ^ l.size
  else []

/-- The lines of local memory in a virtual range, page by page; a page elsewhere raises Protection (R298). -/
def State.rangeLines (s : State) (va : Word) (n : Nat) : Res (List Nat) :=
  foldRes (pagePieces va n) [] (fun acc p s =>
    (s.locateLeaf p.1 p.2 .read).andThen fun l s =>
    match l with
    | (.mem pa, leaf) =>
      let others := ((leaf.map fun l => s.copies l p.1).getD []).filter (· != pa)
      .ok (acc ++ linesOf pa p.2 ++ others.flatMap fun q => linesOf q p.2, s)
    | _ => .error (.trap s (protTrap .read s.isUser true p.1 0))) s

/-- CFLUSH, CINV and CWB (R298): 0, 1, 2. [log 46, DEDUCED] -/
def flushOp (i : Instr) (f : Fields) (s : State) (kind : BitVec 2) : Host.Outcome State Fault Refusal :=
  scalar i f s fun s =>
    let a := s.addrOf f.src1 8
    let n := (s.src f.src2).toNat
    if 2 ^ 26 < n ∨ 2 ^ 64 < a.toNat + n then .trap s (illegal 0x13 2 0)
    else if n = 0 then .done s
    else (s.rangeLines a n).fin fun ls s =>
      .done (s.setChunk { s.chunk with effects := s.chunk.effects ++ [.flush kind ls] })

def execCflush (f : Fields) (s : State) : Host.Outcome State Fault Refusal := flushOp (.cflush f) f s 0
def execCinv (f : Fields) (s : State) : Host.Outcome State Fault Refusal := flushOp (.cinv f) f s 1
def execCwb (f : Fields) (s : State) : Host.Outcome State Fault Refusal := flushOp (.cwb f) f s 2

/-- IFLUSH (R300): the slot's fetch buffer and the cluster's instruction cache are emptied. -/
def execIflush (f : Fields) (s : State) : Host.Outcome State Fault Refusal :=
  scalar (.iflush f) f s fun s => s.ownChunk fun s =>
    let cl := clusterOf s.curCore
    let s := { s with icache := s.icache.filter fun e => e.1 != cl }
    .done (match s.cur with
      | .slot c k => s.setSlot c k { s.slot c k with fetched := [] }
      | _ => s)

/-- The result word of PROBE from its fields (R301). [log 50, DEDUCED] -/
def probeWord (v w x u rp l1 lwin loc : Bool) (size : Nat) (die : DieId) (page : Nat) (cause : Byte) : Word :=
  (cause ++ 0#3 ++ BitVec.ofBool loc ++ BitVec.ofNat 40 page ++ die ++ BitVec.ofBool lwin ++ BitVec.ofBool l1
    ++ BitVec.ofNat 2 size ++ BitVec.ofBool rp ++ BitVec.ofBool u ++ BitVec.ofBool x ++ BitVec.ofBool w ++ BitVec.ofBool v
    : BitVec 64)

/-- PROBE of an address that has a leaf (R301): the leaf is described whether or not the access would be allowed. [log 50, DEDUCED] [log 95, DESIGN CHOICE] -/
def State.probeLeaf (s : State) (l : Leaf) (va : Word) (k : Kind) : Word :=
  let pa := l.frame + va.toNat % 2 ^ l.size
  let line := pa / 64
  let l1 := isLocal pa && (s.inL1 s.curCore line || (s.core s.curCore).speculates line)
  let cause : Byte := match checkLeaf l va k s.isUser true with
    | .trap t => t.cause
    | _ => 0
  let size := if l.size = 30 then 3 else if l.size = 21 then 2 else if l.size = 16 then 1 else 0
  let die := if isLocal pa then (s.stack (stackOf pa)).owner (stackOf pa) else 0
  probeWord (cause == 0) l.w l.x l.u l.rp l1 false (isLocal pa) size die (pa / 4096) cause

/-- The kind of an access that PROBE asks about (R292). -/
def probeKind (m : BitVec 4) : Kind := match m.toNat % 4 with
  | 0 => .read
  | 1 => .write
  | _ => .fetch

/-- PROBE (R301): a cached translation may be used as for any access (R291); a walk that reaches a rejecting stack gives the access's Ownership cause, one that reaches a stack being handed over waits (R367, R372). [log 50, DEDUCED] -/
def execProbe (f : Fields) (s : State) : Host.Outcome State Fault Refusal :=
  scalar (.probe f) f s fun s =>
    let va := s.addrOf f.src1 8
    let k := probeKind f.mod
    let put (x : Word) (s : State) : Eff := .done (s.setG (gNum f.dst) x)
    if inWindow va then
      put (probeWord (k != .fetch) true false true false false true false 0 0 ((va.toNat - windowBase) / 4096)
        (if k = .fetch then 0x07 else 0)) s
    else if badVa va then put (probeWord false false false false false false false false 0 0 0 0x07) s
    else
      let none_ (cause : Byte) (s : State) : Eff := put (probeWord false false false false false false false false 0 0 0 cause) s
      let ((w, walked), s) := s.lookup s.curCtx s.curPtroot va
      match if walked then s.walkStop s.curDie s.curPtroot va else none with
      | some (_, .reject) => none_ 0x09 s
      | some _ => .stay s
      | none => match w with
        | .leaf l => put (s.probeLeaf l va k) s
        | .held _ _ => none_ 0x05 s
        | .absent _ _ _ => none_ 0x06 s

/-- TLBINV: recorded for the grant (R302). -/
def tlbinvOp (i : Instr) (f : Fields) (s : State) (scope : BitVec 2) : Host.Outcome State Fault Refusal :=
  scalar i f s fun s =>
    .done (s.setChunk { s.chunk with
      effects := s.chunk.effects ++ [.tlbinv scope (s.src f.src1) ((s.src f.src2).setWidth 12)] })

def execTlbinvVa (f : Fields) (s : State) : Host.Outcome State Fault Refusal := tlbinvOp (.tlbinvVa f) f s 0
def execTlbinvCtx (f : Fields) (s : State) : Host.Outcome State Fault Refusal := tlbinvOp (.tlbinvCtx f) f s 1
def execTlbinvAll (f : Fields) (s : State) : Host.Outcome State Fault Refusal := tlbinvOp (.tlbinvAll f) f s 2

end Sys2Proof.Machine
end

