-- ==== Sys2Proof/Machine/Engine.lean ====
section
/-! DEFINITION. Copy engines: kicks, hart micro-steps, the standard programs, arrival words, AWAIT, EQUERY, ELOAD, the start of a command (13_copy_engines.md R304 to R325). -/

namespace Sys2Proof.Machine

/-- The engine with the fewest queued commands among the 16 of a die, the lowest of equals (R321). -/
def State.fewestQueued (s : State) (d : DieId) : EngineId :=
  let first := d.toNat / 2 * 32 + d.toNat % 2 * 16
  let n (i : Nat) : Nat := (s.engine (BitVec.ofNat 7 (first + i))).queue.length
  BitVec.ofNat 7 (first + (List.range 16).foldl (fun b i => if n i < n b then i else b) 0)

/-- The engine that a selector names (R321). -/
def State.engineOf (s : State) (v : Word) : EngineId :=
  if v.getLsbD 7 then s.fewestQueued (dieOf s.curCore) else v.extractLsb' 0 7

/-- Entries of an engine's queue (R304). -/
def engineQueueSize : Nat := 16

/-- The bits of a command record that R309 lists; the others read zero (R6). -/
def cmdMask : BitVec 512 :=
  [(0, 4), (8, 3), (64, 64), (128, 64), (192, 40), (256, 64), (320, 64), (384, 64), (448, 10), (458, 4), (462, 12), (480, 32)].foldl
    (fun m f => m ||| ((BitVec.ofNat 512 (2 ^ f.2 - 1)) <<< f.1)) 0

/-- The record of a command as it enters the queue: the kick fields are filled in (R309, R321), bits not listed are zero (R6). -/
def State.kickRecord (s : State) (m : BitVec 512) (prog : Option Nat) : BitVec 512 :=
  let m := m &&& cmdMask
  let m := match prog with
    | some p => setField m 0 4 p
    | none => m
  let m := setField (setField m 448 10 s.curCore.toNat) 458 4 s.curSlot.toNat
  setField (setField m 462 12 s.curCtx.toNat) 480 32 s.curSeq.toNat

/-- A command enters an engine's queue and counts towards its launch (R310); one that names the local store of a context under pre-emption is suspended before it starts (R316). -/
def State.enqueueCmd (s : State) (e : EngineId) (m : BitVec 512) : State :=
  let s := s.modLaunch (cmdLseq m) fun l => { l with commands := l.commands + 1 }
  let y := s.ctx (cmdCtx m)
  if y.preempting.isSome && cmdNamesLs m then s.setCtx (cmdCtx m) { y with owed := y.owed ++ [{ rec_ := m }] }
  else
    let x := s.engine e
    (s.setEngine e { x with queue := x.queue ++ [{ rec_ := m }] }).postOnce (.engine e) .engineCommandStart

/-- A kick: the record is read at its place in program order, an entry is reserved, and the grant enqueues the command (R310). A hart's slot form is an Illegal Encoding (R320). -/
def kickOp (i : Instr) (f : Fields) (s : State) (prog : Nat) : Host.Outcome State Fault Refusal :=
  scalar i f s fun s =>
    match s.cur with
    | .slot _ _ =>
      let v := s.src f.src2
      if v.toNat / 256 ≠ 0 then .trap s (illegal 0x13 2 0)
      else (s.load (s.addrOf f.src1 64) 64 64).fin fun bs t =>
        let e := t.engineOf v
        let x := t.engine e
        if engineQueueSize ≤ x.queue.length + x.reserved then .stay s
        else
          let m := t.kickRecord (BitVec.ofNat 512 (leNat bs)) (if f.mod.getLsbD 0 then none else some prog)
          if t.chunk.solo then .done (t.enqueueCmd e m)
          else
            let t := t.setEngine e { x with reserved := x.reserved + 1 }
            .done (t.setChunk { t.chunk with effects := t.chunk.effects ++ [.kick e m] })
    | _ => .trap s (illegal 4 0 0)

def execXcopy (f : Fields) (s : State) : Host.Outcome State Fault Refusal := kickOp (.xcopy f) f s 0
def execXfill (f : Fields) (s : State) : Host.Outcome State Fault Refusal := kickOp (.xfill f) f s 1
def execXgath (f : Fields) (s : State) : Host.Outcome State Fault Refusal := kickOp (.xgath f) f s 2
def execXscat (f : Fields) (s : State) : Host.Outcome State Fault Refusal := kickOp (.xscat f) f s 3
def execXcmpr (f : Fields) (s : State) : Host.Outcome State Fault Refusal := kickOp (.xcmpr f) f s 4
def execXdcmp (f : Fields) (s : State) : Host.Outcome State Fault Refusal := kickOp (.xdcmp f) f s 5

/-- A range of an engine's step, page by page (R284 to R291); one that crosses an end of the window raises Protection at its first byte (R28). -/
def State.bulkLocate (s : State) (va : Word) (n : Nat) (k : Kind) : Res (List (Word × Nat × Loc)) :=
  if n = 0 then .ok ([], s)
  else if inWindow va != inWindow (va + BitVec.ofNat 64 (n - 1)) then .error (.trap s (protTrap k s.isUser true va 0))
  else foldRes (pagePieces va n) [] (fun acc p s =>
    (s.locate p.1 p.2 k).andThen fun l s => .ok (acc ++ [(p.1, p.2, l)], s)) s

/-- A place outside the package (R228). -/
def Loc.outside : Loc → Bool
  | .ls _ _ => false
  | .mem _ => false
  | _ => true

/-- A step with a place outside the package runs alone (R311). [log 56, DEDUCED] -/
def State.edgeGate (s : State) (ps : List (Word × Nat × Loc)) : Res Unit :=
  if ps.any fun p => p.2.2.outside then
    if s.isAlone then .ok ((), s.setChunk { s.chunk with solo := true }) else .error (.edge s)
  else .ok ((), s)

/-- Range watches of an engine for a micro-step's reads, at most four; true: they cover the range (R311). -/
def State.engineWatch (s : State) (va : Word) (n : Nat) : Bool × State :=
  let x := s.chunk
  let lo : Int := va.toNat
  let new := (s.watchesFor [(lo, lo + n)]).filter fun w => !x.watches.any fun v => v.lo == w.lo && v.hi == w.hi && v.page == w.page
  if x.watches.length + new.length ≤ 4 then (true, s.setChunk { x with watches := x.watches ++ new }) else (false, s)

/-- The bytes of a located range. -/
def State.bulkRead (s : State) (ps : List (Word × Nat × Loc)) (watched : Bool) : Res (List Byte) :=
  foldRes ps [] (fun acc p s =>
    (match p.2.2 with
      | .ls c off => s.readLs c off p.2.1
      | .mem pa => s.readMem p.1 pa p.2.1 watched
      | l => s.edgeLoad p.1 l p.2.1).andThen fun bs s => .ok (acc ++ bs, s)) s

/-- Bytes written to a located range. -/
def State.bulkWrite (s : State) (ps : List (Word × Nat × Loc)) (bs : List Byte) : Res Unit :=
  (foldRes ps bs (fun bs p s =>
    let now := bs.take p.2.1
    (match p.2.2 with
      | .ls c off => s.writeLs c off now
      | .mem pa => s.writeMem p.1 pa now
      | l => s.edgeStore p.1 l now).andThen fun _ s => .ok (bs.drop p.2.1, s)) s).andThen fun _ s => .ok ((), s)

/-- A micro-step's read of n bytes (R311). -/
def State.bulkLoad (s : State) (va : Word) (n : Nat) : Res (List Byte) :=
  (s.bulkLocate va n .read).andThen fun ps s => (s.edgeGate ps).andThen fun _ s =>
    let (w, s) := if ps.all fun p => !p.2.2.outside then s.engineWatch va n else (false, s)
    s.bulkRead ps w

/-- A micro-step's write. -/
def State.bulkStore (s : State) (va : Word) (bs : List Byte) : Res Unit :=
  (s.bulkLocate va bs.length .write).andThen fun ps s => (s.edgeGate ps).andThen fun _ s => s.bulkWrite ps bs

/-- A read and a write of one micro-step, every place found before the first access (R319). [log 54, DEDUCED] -/
def State.bulkMove (s : State) (src dst : Word) (n : Nat) (order : List Byte → List Byte) : Res Unit :=
  (s.bulkLocate src n .read).andThen fun rs s => (s.bulkLocate dst n .write).andThen fun ws s =>
  (s.edgeGate (rs ++ ws)).andThen fun _ s =>
    let (w, s) := if rs.all fun p => !p.2.2.outside then s.engineWatch src n else (false, s)
    (s.bulkRead rs w).andThen fun bs s => s.bulkWrite ws (order bs)

/-- The bytes that a copy of one byte at a time leaves when source and destination may overlap: ascending, or descending (R317, R319). [log 54, DEDUCED] -/
def copyOrder (src dst : Word) (down : Bool) (bs : List Byte) : List Byte :=
  let n := bs.length
  if down then
    let d := (src - dst).toNat
    if d = 0 ∨ n ≤ d then bs else (List.range n).map fun k => bs.getD (n - 1 - (n - 1 - k) % d) 0
  else
    let d := (dst - src).toNat
    if d = 0 ∨ n ≤ d then bs else (List.range n).map fun k => bs.getD (k % d) 0

/-- The bytes of a fill at an address (R317). -/
def fillBytes (dst pat : Word) (n : Nat) : List Byte :=
  (List.range n).map fun k => pat.extractLsb' (8 * ((dst.toNat + k) % 8)) 8

/-- Byte of a tower's engine store: as an ELOAD left it, else as bring-up left it (R305, R325). -/
def EStore.byte (x : EStore) (off : Nat) : Byte :=
  if x.loaded.getLsbD (off / 4096) then x.bytes.byte off else Config.freeProgram off

/-- A region of the store is loading (R325). -/
def EStore.isLoading (x : EStore) (k : Nat) : Bool := x.loads.any fun l => l.1.toNat == k

/-- Regions in LOADING. -/
def EStore.loadingMask (x : EStore) : BitVec 16 := x.loads.foldl (fun m l => m ||| (1#16 <<< l.1.toNat)) 0

/-- A block of the engine store within the regions that the running program declares; code 0x42 otherwise (R305, R308). -/
def State.storeRead (s : State) (off n : Nat) : Res (List Byte) :=
  match s.cur with
  | .engine e =>
    let x := s.engine e
    let st := s.estore (engineTower e)
    let regions := (List.range ((off + n - 1) / 4096 - off / 4096 + 1)).map (off / 4096 + ·)
    if regions.all fun k => decide (k < 16) && x.regions.getLsbD k then .ok ((List.range n).map fun i => st.byte (off + i), s)
    else .error (.trap s { cause := 0x42 })
  | _ => .error (.trap s { cause := 0x42 })

/-- Entry t of the dictionary that ARG1 names (R317, R318). -/
def State.dictEntry (s : State) (arg1 : Word) (t : Nat) : Res (List Byte) :=
  s.storeRead (fieldNat arg1 0 16 + 64 * (t - 1)) 64

/-- Entries of the dictionary; a tag of 0xFF is never an entry (R318). -/
def dictCount (arg1 : Word) : Nat := min (fieldNat arg1 16 8) 254

/-- The lowest entry equal to a block, if any, from entry t on. -/
def State.dictFind (s : State) (arg1 : Word) (block : List Byte) : Nat → Nat → Res (Option Nat)
  | _, 0 => .ok (none, s)
  | t, n + 1 => (s.dictEntry arg1 t).andThen fun x s =>
    if x = block then .ok (some t, s) else s.dictFind arg1 block (t + 1) n

/-- The encoding of a block (R318). -/
def State.encodeBlock (s : State) (arg1 : Word) (block : List Byte) : Res (List Byte) :=
  if block.all (· == 0) then .ok ([0], s)
  else (s.dictFind arg1 block 1 (dictCount arg1)).andThen fun r s =>
    match r with
    | some t => .ok ([BitVec.ofNat 8 t], s)
    | none => .ok (0xFF :: block, s)

/-- The block that the input at an address encodes, and the input bytes used (R318). -/
def State.decodeBlock (s : State) (arg1 : Word) (src : Word) : Res (List Byte × Nat) :=
  (s.bulkLoad src 1).andThen fun tag s =>
    let t := (tag.headD 0).toNat
    if t = 0 then .ok ((List.replicate 64 0, 1), s)
    else if t = 255 then (s.bulkLoad (src + 1) 64).andThen fun bs s => .ok ((bs, 65), s)
    else if fieldNat arg1 16 8 < t then .error (.trap s { cause := 0x43 })
    else (s.dictEntry arg1 t).andThen fun bs s => .ok ((bs, 1), s)

/-- An engine form: only a hart issues it; a slot's is an Illegal Encoding (R320). [log 53, DEDUCED] -/
def hartOp (i : Instr) (f : Fields) (s : State) (body : State → Eff) : Host.Outcome State Fault Refusal :=
  scalar i f s fun s =>
    match s.cur with
    | .engine _ => body s
    | _ => .trap s (illegal 4 0 0)

/-- The byte count of a micro-step, 1 to 4,096 (R319). -/
def State.stepCount (s : State) (f : Fields) (k : Nat → Eff) : Eff :=
  let n := (s.src f.src2).toNat
  if n = 0 ∨ 4096 < n then .trap s (illegal 0x13 2 0) else k n

def execHartXcopy (f : Fields) (s : State) : Host.Outcome State Fault Refusal :=
  hartOp (.hartXcopy f) f s fun s => s.stepCount f fun n =>
    let dst := s.addrOf f.dst n
    let src := s.addrOf f.src1 n
    (s.atomic fun s => s.bulkMove src dst n (copyOrder src dst (f.mod.getLsbD 0))).fin fun _ s =>
      .done (((s.update f.dst n).update f.src1 n).countArrival n)

def execHartXfill (f : Fields) (s : State) : Host.Outcome State Fault Refusal :=
  hartOp (.hartXfill f) f s fun s => s.stepCount f fun n =>
    let dst := s.addrOf f.dst n
    (s.atomic fun s => s.bulkStore dst (fillBytes dst (s.src f.src1) n)).fin fun _ s =>
      .done ((s.update f.dst n).countArrival n)

def execHartXcmpr (f : Fields) (s : State) : Host.Outcome State Fault Refusal :=
  hartOp (.hartXcmpr f) f s fun s =>
    (s.atomic fun s => (s.bulkLoad (s.addrOf f.src1 64) 64).andThen fun block s =>
      (s.encodeBlock (s.ecmd 5) block).andThen fun out s =>
        (s.bulkStore (s.addrOf f.dst out.length) out).andThen fun _ s => .ok (out.length, s)).fin fun n s =>
      .done (((s.update f.dst n).update f.src1 64).countArrival 64)

def execHartXdcmp (f : Fields) (s : State) : Host.Outcome State Fault Refusal :=
  hartOp (.hartXdcmp f) f s fun s =>
    (s.atomic fun s => (s.decodeBlock (s.ecmd 5) (s.addrOf f.src1 1)).andThen fun b s =>
      (s.bulkStore (s.addrOf f.dst 64) b.1).andThen fun _ s => .ok (b.2, s)).fin fun n s =>
      .done (((s.update f.dst 64).update f.src1 n).countArrival 64)

/-- The open chunk is cut and the command completes at its grant (R307); what ran alone has its effect already, and nothing of it can be squashed (R228). -/
def State.endCommand (s : State) (e : EngineId) : Eff :=
  let x := s.chunk
  let x := if x.solo then { chk := s.regs, start := x.start, len := x.len, effects := x.effects, opened := true, solo := true } else x
  .left ((s.setChunk { x with len := x.len + 1 }).engineCut e [.cmdEnd e] none)

/-- HALT on an engine hart (R307). -/
def execHartHalt (f : Fields) (s : State) : Host.Outcome State Fault Refusal :=
  hartOp (.hartHalt f) f s fun s =>
    match s.cur with
    | .engine e => s.endCommand e
    | _ => .stay s

/-- Progress of a standard program: bytes done, and the position in the compressed stream. The model keeps them in G0 and G1 of the hart, whose use by the program the spec does not give. -/
def State.stdDone (s : State) : Nat := (s.getG 0).toNat
def State.stdPos (s : State) : Nat := (s.getG 1).toNat

/-- A micro-step of a standard program has been done. [log 6, DESIGN CHOICE] -/
def stdNext (r : Res Nat) (bytes : Nat) : Eff :=
  r.fin fun pos s => .step (((s.setG 0 (BitVec.ofNat 64 (s.stdDone + bytes))).setG 1 (BitVec.ofNat 64 (s.stdPos + pos))).countArrival bytes)

/-- The checks of a command for its standard program (R317). [log 6, DESIGN CHOICE] [log 55, DEDUCED] -/
def stdCheck (p : Nat) (m : BitVec 512) : Bool :=
  let e := 2 ^ cmdEsize m
  let a (x : Word) (n : Nat) : Bool := x.toNat % n == 0
  if p = 2 ∨ p = 3 then
    decide (cmdEsize m ≤ 6) && decide (cmdLen m % e = 0) && a (cmdSrc m) e && a (cmdDst m) e && a (cmdArg0 m) 8
  else if p = 4 ∨ p = 5 then
    decide (cmdLen m % 64 = 0) && a (if p = 4 then cmdSrc m else cmdDst m) 64
      && (p == 5 || decide (fieldNat (cmdArg1 m) 0 16 % 64 = 0)) && decide (fieldNat (cmdArg1 m) 16 8 ≤ 254)
  else true

/-- Committed bytes of a located range (R317). -/
def State.bulkCommitted (s : State) (ps : List (Word × Nat × Loc)) (seen : List Byte) : List Byte :=
  if ps.all fun p => !p.2.2.outside then
    ps.flatMap fun p => match p.2.2 with
      | .ls c off => s.committedLs c off p.2.1
      | .mem pa => s.mem.bytes pa p.2.1
      | _ => []
  else seen

/-- Index x_i of a gather or scatter, read as committed data (R317). -/
def State.stdIndex (s : State) (m : BitVec 512) (i : Nat) : Res Word :=
  let va := cmdArg0 m + BitVec.ofNat 64 (8 * i)
  (s.bulkLocate va 8 .read).andThen fun ps s => (s.edgeGate ps).andThen fun _ s =>
    (s.bulkRead ps false).andThen fun bs s => .ok (BitVec.ofNat 64 (leNat (s.bulkCommitted ps bs)), s)

/-- The last step of XCMPR and XDCMP: the result word and the end, in the last engine chunk (R317). [log 55, DEDUCED] -/
def State.stdResult (s : State) (e : EngineId) (m : BitVec 512) : Eff :=
  if cmdArg0 m = 0 then s.endCommand e
  else (s.store (cmdArg0 m) (leBytes 8 s.stdPos) 8).fin fun _ s => s.endCommand e

/-- One micro-step of a standard program, known by its effect (R317). [log 6, DESIGN CHOICE] -/
def State.stdStep (s : State) (e : EngineId) (m : BitVec 512) : Eff :=
  let p := cmdProg m
  let len := cmdLen m
  let done := s.stdDone
  let src := cmdSrc m
  let dst := cmdDst m
  let at_ (a : Word) (n : Nat) : Word := a + BitVec.ofNat 64 n
  if !stdCheck p m then .trap s { cause := 0x40 }
  else if len ≤ done then (if p = 4 ∨ p = 5 then s.stdResult e m else s.endCommand e)
  else match p with
    | 0 =>
      let n := min 4096 (len - done)
      let off := if dst.toNat ≤ src.toNat then done else len - done - n
      stdNext (s.atomic fun s => (s.bulkMove (at_ src off) (at_ dst off) n id).andThen fun _ s => .ok (0, s)) n
    | 1 =>
      let n := min 4096 (len - done)
      let a := at_ dst done
      stdNext (s.atomic fun s => (s.bulkStore a (fillBytes a (cmdArg0 m) n)).andThen fun _ s => .ok (0, s)) n
    | 2 =>
      let n := 2 ^ cmdEsize m
      stdNext (s.atomic fun s => (s.stdIndex m (done / n)).andThen fun x s =>
        (s.bulkMove (src + BitVec.ofNat 64 n * x) (at_ dst done) n id).andThen fun _ s => .ok (0, s)) n
    | 3 =>
      let n := 2 ^ cmdEsize m
      stdNext (s.atomic fun s => (s.stdIndex m (done / n)).andThen fun x s =>
        (s.bulkMove (at_ src done) (dst + BitVec.ofNat 64 n * x) n id).andThen fun _ s => .ok (0, s)) n
    | 4 =>
      stdNext (s.atomic fun s => (s.bulkLoad (at_ src done) 64).andThen fun b s =>
        (s.encodeBlock (cmdArg1 m) b).andThen fun out s =>
          (s.bulkStore (at_ dst s.stdPos) out).andThen fun _ s => .ok (out.length, s)) 64
    | _ =>
      stdNext (s.atomic fun s => (s.decodeBlock (cmdArg1 m) (at_ src s.stdPos)).andThen fun b s =>
        (s.bulkStore (at_ dst done) b.1).andThen fun _ s => .ok (b.2, s)) 64

/-- ARRSET: ordinary stores of the chunk; GEN is left (R322). -/
def execArrset (f : Fields) (s : State) : Host.Outcome State Fault Refusal :=
  scalar (.arrset f) f s fun s =>
    let va := s.addrOf f.dst 16
    let v := (s.src f.src1).toNat % 2 ^ 48
    if va.toNat % 16 ≠ 0 then .trap s (misaligned va 16)
    else (s.atomic fun s => (s.store va (leBytes 6 0) 1).andThen fun _ s => s.store (va + 8) (leBytes 8 v) 8).fin fun _ s => .done s

/-- GEN of an arrival word's first word (R313). -/
def arrivalGen (x : Nat) : Nat := x / 2 ^ 48 % 65536

/-- AWAIT (R323). -/
def execAwait (f : Fields) (s : State) : Host.Outcome State Fault Refusal :=
  scalar (.await f) f s fun s =>
    (s.soloGate 0x06).fin fun _ s =>
      (s.waitValue (s.addrOf f.src1 16) 16).fin fun lm s =>
        let w := lm.2 % 2 ^ 64
        if arrivalGen w ≠ (s.src f.src2).toNat % 65536 then .done (s.setG (gNum f.dst) (BitVec.ofNat 64 w))
        else
          let ex := s.waitExpiry
          match lm.1 with
          | .ls _ off => .left (s.parkUntil (.await (gNum f.dst) true off ex) ex .waitvTimeout)
          | .mem pa => .left (s.parkUntil (.await (gNum f.dst) false pa ex) ex .waitvTimeout)
          | _ => .stay s

/-- The engine waits on a held fault. -/
def EPark.isHeld (p : EPark) : Bool :=
  match p with
  | .held _ _ _ => true
  | _ => false

/-- EQUERY of an engine (R324). -/
def Engine.status (x : Engine) : Word :=
  (x.num ++ 0#20 ++ BitVec.ofBool (x.park == .loading) ++ BitVec.ofBool x.park.isHeld
    ++ BitVec.ofNat 4 (x.cmd.elim 0 cmdProg) ++ BitVec.ofBool x.cmd.isSome ++ BitVec.ofNat 5 x.queue.length : BitVec 64)

/-- Engines of a tower whose running program declares a region (R324, R325). -/
def State.regionUsers (s : State) (t : TowerId) (k : BitVec 4) : Nat :=
  (s.allEngines.filter fun e =>
    engineTower e == t && (s.engine e).cmd.isSome && (s.engine e).regions.getLsbD k.toNat).length

/-- EQUERY (R324). -/
def execEquery (f : Fields) (s : State) : Host.Outcome State Fault Refusal :=
  scalar (.equery f) f s fun s =>
    let v := s.src f.src1
    if v.getLsbD 7 then
      if v &&& ~~~(0xBF#64) ≠ 0 then .trap s (illegal 0x13 1 0)
      else
        let t : TowerId := v.extractLsb' 4 2
        let k : BitVec 4 := v.extractLsb' 0 4
        .done (s.setG (gNum f.dst)
          (BitVec.ofNat 64 (bit ((s.estore t).isLoading k.toNat) + 256 * s.regionUsers t k)))
    else if v.toNat / 256 ≠ 0 then .trap s (illegal 0x13 1 0)
    else .done (s.setG (gNum f.dst) (s.engine (v.extractLsb' 0 7)).status)

/-- ELOAD: alone; the region enters LOADING and the slot parks until the copy (R325). A source outside the package is an edge access. The translation of the source stays recorded (R302). [log 111, DEDUCED] -/
def execEload (f : Fields) (s : State) : Host.Outcome State Fault Refusal :=
  scalar (.eload f) f s fun s =>
    let v := s.src f.src2
    let va := s.addrOf f.src1 4096
    if v.toNat / 64 ≠ 0 then .trap s (illegal 0x13 2 0)
    else if va.toNat % 4096 ≠ 0 then .trap s (misaligned va 4096)
    else (s.locateReach va 4096 .read).fin fun l s => (s.soloGate 0x08).fin fun _ s =>
      match s.cur with
      | .slot c k =>
        let t : TowerId := v.extractLsb' 4 2
        let r : BitVec 4 := v.extractLsb' 0 4
        let x := s.estore t
        let s := s.setEstore t { x with loads := x.loads ++ [(r, c, k)] }
        let s := s.setSlot c k { s.slot c k with park := .eload t r l va (gNum f.dst), chunk := { tlb := s.chunk.tlb } }
        .left (s.postEvent (.slot c k) .eloadRegionLoad)
      | _ => .stay s

/-- Engines of a tower with a command to start are looked at again (R308, R325). -/
def State.startAgain (s : State) (t : TowerId) : State :=
  s.allEngines.foldl (fun s e =>
    let x := s.engine e
    if engineTower e = t ∧ x.cmd.isNone = true ∧ x.queue ≠ [] then s.postOnce (.engine e) .engineCommandStart else s) s

/-- Waiting ELOADs of a tower are looked at again when an engine's command has ended (R325). -/
def State.loadAgain (s : State) (t : TowerId) : State :=
  (s.estore t).loads.foldl (fun s l => s.postOnce (.slot l.2.1 l.2.2) .eloadRegionLoad) s

/-- The load of a slot is taken out of a tower's waiting loads. -/
def State.endLoad (s : State) (t : TowerId) (c : CoreId) (k : SlotId) : State :=
  let x := s.estore t
  let s := s.setEstore t { x with loads := x.loads.filter fun l => !(l.2.1 == c && l.2.2 == k) }
  (s.startAgain t).loadAgain t

/-- The bytes of 4 KiB that an ELOAD copies, read as committed data (R325); poison and a stack that rejects the read are faults, and a stack being handed over is waited for (R345, R367, R372). -/
def State.eloadBytes (s : State) (l : Loc) (va : Word) : Res (List Byte) :=
  match l with
  | .ls _ _ => s.homeRead va l 4096
  | .mem pa => (s.reachMem va pa).andThen fun _ s => s.homeRead va l 4096
  | l =>
    let (st, s) := s.edgeStatus l
    if st = 0 then .ok (s.edgeRead l 4096) else .error (.trap s (edgeTrap va false st))

/-- A region of a store replaced (R325); the standard programs are found through the directory in region 0, which they lose with it. [log 58, DEDUCED] -/
def EStore.replace (x : EStore) (k : BitVec 4) (bs : List Byte) : EStore :=
  { x with
    bytes := x.bytes.setBytes (4096 * k.toNat) bs, loaded := x.loaded ||| (1#16 <<< k.toNat)
    std := if k = 0 then 0 else x.std }

/-- The load of an ELOAD whose turn has come, once no engine of the tower runs a program that declares the region (R325); it waits otherwise. -/
def execEloadRegionLoad (s : State) : Host.Outcome State Fault Refusal :=
  match s.cur with
  | .slot c k =>
    let y := s.slot c k
    match y.park with
    | .eload t r l va dst =>
      let first := (s.estore t).loads.find? fun l => l.1 == r
      if first ≠ some (r, c, k) ∨ s.regionUsers t r ≠ 0 then .next s
      else match s.eloadBytes l va with
        | .error (.trap s tr) => .next (((s.setSlot c k { s.slot c k with park := .ready }).endLoad t c k).raise c k tr)
        | .error (.stay s) => .next (s.postEvent (.slot c k) .eloadRegionLoad)
        | .error _ => .next (s.postEvent (.slot c k) .eloadRegionLoad)
        | .ok (bs, s) =>
          let s := (s.setEstore t ((s.estore t).replace r bs)).endLoad t c k
          let s := (s.setG dst 0)
          let s := s.setRegs s.regs.advance
          .next ((s.freshChunk c k).wake c k)
    | _ => .next s
  | _ => .fault .wrongAgent

/-- The directory entry of a program slot: V and HDR (R305). -/
def EStore.directory (x : EStore) (p : Nat) : Option Nat :=
  if x.loaded.getLsbD 0 then
    (if (x.byte (8 * p + 2)).getLsbD 0 then some (leNat [x.byte (8 * p), x.byte (8 * p + 1)]) else none)
  else none

/-- A program found for a command (R305, R308). [log 6, DESIGN CHOICE] -/
structure Program where
  regions : BitVec 16
  entry : Word
  std : Bool

/-- Checks 1 and 2 of R308. [log 6, DESIGN CHOICE] -/
def EStore.program (x : EStore) (p : Nat) : Option Program :=
  if x.std.getLsbD p then some ⟨Config.freeRegions p, 0, true⟩
  else match x.directory p with
    | none => none
    | some h =>
      let regions : BitVec 16 := BitVec.ofNat 16 (leNat [x.byte h, x.byte (h + 1)])
      if regions.getLsbD (h / 4096) then some ⟨regions, BitVec.ofNat 64 (leNat [x.byte (h + 2), x.byte (h + 3)]), false⟩ else none

/-- An engine takes the command at the head of its queue (R306, R308); one with no program has no region and ends at its first step. A suspended one goes on where it was (R316). [log 57, DEDUCED] -/
def State.startCommand (s : State) (e : EngineId) (q : Cmd) (rest : List Cmd) : State :=
  let x := s.engine e
  let st := s.estore (engineTower e)
  let run (pr : Program) : State :=
    let regs : Regs := match q.saved with
      | some (r, _) => r
      | none => { pc := pr.entry }
    let num := match q.saved with
      | some (_, n) => n
      | none => x.num
    s.setEngine e { x with
      queue := rest, cmd := some q.rec_, regions := pr.regions, std := pr.std, regs := regs, chunk := {}, bytes := 0
      park := .ready, waiting := false, num := num, cutAfter := false, owed := false }
  if st.isLoading 0 then s.setEngine e { x with park := .loading }
  else match st.program (cmdProg q.rec_) with
    | none => (run ⟨0, 0, false⟩).postEturn e
    | some pr =>
      if !st.loads.isEmpty && st.loadingMask &&& pr.regions != 0 then s.setEngine e { x with park := .loading }
      else (run pr).postEturn e

/-- The start of a command. -/
def execEngineCommandStart (s : State) : Host.Outcome State Fault Refusal :=
  match s.cur with
  | .engine e =>
    let x := s.engine e
    match x.cmd, x.queue with
    | none, q :: rest => .next (s.startCommand e q rest)
    | _, _ => .next s
  | _ => .fault .wrongAgent

/-- An engine at 64 squashes (R311). -/
def execEngineWatchdog (s : State) : Host.Outcome State Fault Refusal :=
  match s.cur with
  | .engine e =>
    let m := (s.engine e).cmd.getD 0
    .next (s.report (engineTower e)
      { cause := 0x10, kind := 5, eng := true, core := e.toNat, ctx := cmdCtx m, lseq := cmdLseq m })
  | _ => .fault .wrongAgent

end Sys2Proof.Machine
end

