-- ==== Sys2Proof/Machine/Trap.lean ====
section
/-! DEFINITION. FAULTQ, RESUME and PREACK, the deferred fault records, trap entry and the livelock watchdog (14_faults_preemption.md R334, R341 to R343, R347, 09 R226). -/

namespace Sys2Proof.Machine

/-- The tower that SRC2 of FAULTQ names; other bits set are an Illegal Encoding (R342). -/
def State.faultTower (s : State) (f : Fields) (k : TowerId → Eff) : Eff :=
  let v := s.src f.src2
  if v.toNat / 4 ≠ 0 then .trap s (illegal 0x13 2 0) else k (v.extractLsb' 0 2)

/-- A line that a copy of the hardware has written keeps the poison of the line it was copied from (R345). [log 118, DEDUCED] -/
def State.keepPoison (s : State) (bad : Bool) (l : Loc) : State :=
  if !bad then s
  else match l with
    | .mem pa => s.spoilLines [pa / 64]
    | .ls c off => s.spoilGranules c [off / 64]
    | _ => s

/-- FAULTQ.POP: a solo step at the home of the control block (R342); a poisoned record keeps its poison in the copy (R345). [log 118, DEDUCED] -/
def execFaultqPop (f : Fields) (s : State) : Host.Outcome State Fault Refusal :=
  scalar (.faultqPop f) f s fun s => s.faultTower f fun t =>
    let va := s.addrOf f.src1 64
    if va.toNat % 64 ≠ 0 then .trap s (misaligned va 64)
    else (s.soloGate 0x08).fin fun _ s =>
      let q := s.faultq t
      if q.prod = q.cons then .done (s.setG (gNum f.dst) (BitVec.allOnes 64))
      else (s.locateInside va 64 .write).fin fun l s =>
        if s.homeBarred l 64 then .stay s
        else
          let bs := s.mem.bytes (q.slotAt q.cons) 64
          let s := s.setFaultq t { q with cons := q.cons + 1 }
          let bad := (s.poison.find (q.slotAt q.cons / 64)).isSome
          let s := ((s.homeWrite l bs).keepPoison bad l).faultqAgain t
          .done (s.setG (gNum f.dst) (BitVec.ofNat 64 (leNat (bs.take 8))))

/-- FAULTQ.CNT (R342). -/
def execFaultqCnt (f : Fields) (s : State) : Host.Outcome State Fault Refusal :=
  scalar (.faultqCnt f) f s fun s => s.faultTower f fun t =>
    let q := s.faultq t
    .done (s.setG (gNum f.dst) ((q.prod - q.cons).setWidth 64))

/-- RESUME and RESUME.FAIL: the release is an effect of the grant (R343). -/
def resumeOp (i : Instr) (f : Fields) (s : State) (fail : Bool) : Host.Outcome State Fault Refusal :=
  scalar i f s fun s =>
    let v := s.src f.src1
    if v.toNat / 2 ^ 18 ≠ 0 then .trap s (illegal 0x13 1 0)
    else .done (s.setChunk { s.chunk with
      effects := s.chunk.effects ++ [.resume (v.extractLsb' 16 2) (v.extractLsb' 0 16) fail] })

def execResume (f : Fields) (s : State) : Host.Outcome State Fault Refusal := resumeOp (.resume f) f s false
def execResumeFail (f : Fields) (s : State) : Host.Outcome State Fault Refusal := resumeOp (.resumeFail f) f s true

/-- PREACK (R347). -/
def execPreack (f : Fields) (s : State) : Host.Outcome State Fault Refusal :=
  scalar (.preack f) f s fun s =>
    match s.cur with
    | .slot c k =>
      if s.regs.trapcause ≠ 0x12 ∨ s.regs.trapinfo.getLsbD 0 = true then .trap s (illegal 0x14 0 0)
      else if !(s.slot c k).dZero then .stay s
      else s.beginsChunk 0x0E fun s =>
        .left ((s.setSlot c k { s.slot c k with park := .preacked, chunk := {}, sscr0 := s.regs.sscr[0] }).preCheck s.curCtx)
    | _ => .stay s

/-- Records that wait are written while there is room and the token's holder allows it (R341, R225). [log 32, DEDUCED] -/
def State.writeWaiting (s : State) (t : TowerId) : List (BitVec 512) → State
  | [] => s.setFaultq t { s.faultq t with wait := [] }
  | r :: rs =>
    let q := s.faultq t
    if !q.en || q.isFull then s.setFaultq t { q with wait := r :: rs }
    else if s.tokenBars (linesOf (q.slotAt q.prod) 64) then
      (s.setFaultq t { q with wait := r :: rs }).postOnce (.tower t) .faultRecordDeferredWrite
    else (s.writeRecord t r).writeWaiting t rs

def execFaultRecordDeferredWrite (s : State) : Host.Outcome State Fault Refusal :=
  match s.cur with
  | .tower t => .next (s.writeWaiting t (s.faultq t).wait)
  | _ => .fault .wrongAgent

/-- The trap of a slot whose prefix has been granted is taken (R334). -/
def execTrapEntry (s : State) : Host.Outcome State Fault Refusal :=
  match s.cur with
  | .slot c k => match (s.slot c k).park with
    | .trap t => .next (s.takeTrap c k t)
    | _ => .next s
  | _ => .fault .wrongAgent

/-- A slot gives up the token, or its place among those that wait for it (R225). -/
def State.dropToken (s : State) (r : Request) : State :=
  let s := { s with tokenQ := s.tokenQ.filter (· != r) }
  if s.token = some r then
    let s := { s with token := none }
    if s.tokenQ.isEmpty then s else s.postOnce .none .priorityTokenGrant
  else s

/-- 64 squashes: the slot traps at the start of its chunk, and no longer asks for the token (R226). -/
def execLivelockWatchdog (s : State) : Host.Outcome State Fault Refusal :=
  match s.cur with
  | .slot c k =>
    let y := s.slot c k
    if !y.isRun || y.sqc.toNat < 64 || !y.alone then .next s
    else
      let t : Trap := { cause := 0x10, info := y.sqc.setWidth 64 }
      let s := s.dropToken (.slot c k)
      .next (s.trapDue c k t)
  | _ => .fault .wrongAgent

/-- The token goes to the request that has waited longest (R225). -/
def execPriorityTokenGrant (s : State) : Host.Outcome State Fault Refusal :=
  match s.token, s.tokenQ with
  | none, r :: rest => .next { s with token := some r, tokenQ := rest }
  | _, _ => .next s

end Sys2Proof.Machine
end

