-- ==== Sys2Proof/Machine/Decant.lean ====
section
/-! DEFINITION. Stacks: DECANT and its drain, STKQ, CKPTQ, dead dies, sleeping links and cores (16_package_stacks_decant.md R366 to R385). -/

namespace Sys2Proof.Machine

/-- The result word of DECANT (R376). -/
def decantWord (code : Nat) (epoch : Byte) (lines : Nat) : Word :=
  BitVec.ofNat 64 (code + 256 * epoch.toNat + 2 ^ 32 * min lines (2 ^ 32 - 1))

/-- The code of a DECANT that performs nothing (R376). [log 65, DEDUCED] -/
def State.decantCode (s : State) (m : StackId) (d : DieId) : Option Nat :=
  let o := (s.stack m).owner m
  let p := (s.ctx s.curCtx).part
  if d = o then some 1
  else if d ≠ stackDie0 m ∧ d ≠ stackDie1 m then some 2
  else if (s.die d).part ≠ p ∨ (s.die o).part ≠ p then some 3
  else none

/-- DECANT (R376). [log 65, DEDUCED] -/
def execDecant (f : Fields) (s : State) : Host.Outcome State Fault Refusal :=
  scalar (.decant f) f s fun s =>
    let a := s.src f.src1
    let b := s.src f.src2
    if a.toNat / 16 ≠ 0 then .trap s (illegal 0x13 1 0)
    else if b.toNat / 8 ≠ 0 then .trap s (illegal 0x13 2 0)
    else if !(s.ctx s.curCtx).dcnt then .trap s { cause := 0x07 }
    else s.beginsChunk 0x0E fun s =>
      let m : StackId := a.setWidth 4
      let d : DieId := b.setWidth 3
      match s.decantCode m d with
      | some code => .done ((s.setG (gNum f.dst) (decantWord code (s.stack m).epoch 0)).setDue 0x0E none)
      | none => match s.cur with
        | .slot c k =>
          let s := s.setSlot c k { s.slot c k with park := .decant m (gNum f.dst) }
          .left (({ s with requests := s.requests ++ [Request.decant c k m d] }).postEvent .none .commitGrant)
        | _ => .stay s

/-- The DECANT of a slot ends with its result, alone in its chunk (R376). -/
def State.decantEnd (s : State) (c : CoreId) (k : SlotId) (m : StackId) (code lines : Nat) : State :=
  match (s.slot c k).park with
  | .decant m' dst =>
    if m' ≠ m then s
    else
      let cur := s.cur
      let s := { s with cur := .slot c k }
      let s := s.setG dst (decantWord code (s.stack m).epoch lines)
      let s := (s.setRegs s.regs.advance).setDue 0x0E none
      let s := s.setSlot c k { s.slot c k with park := .ready }
      { (s.counted c k false).postTurn c k with cur := cur }
  | _ => s

/-- The Decant of a stack is over. -/
def State.drainEnd (s : State) (m : StackId) (code : Nat) : State :=
  let x := s.stack m
  let s := s.setStack m { x with by_ := none, lines := 0, step := 0 }
  match x.by_ with
  | some (c, k) => s.decantEnd c k m code x.lines
  | none => s

/-- Waiters on lines of a stack are woken, their watches dropped (R372). -/
def State.wakeStack (s : State) (m : StackId) : State :=
  s.allSlots.foldl (fun s (c, k) => match (s.slot c k).park with
    | .waitv _ false a _ _ => if stackOf a = m then s.postOnce (.slot c k) .waitvWake else s
    | .await _ false a _ => if stackOf a = m then s.postOnce (.slot c k) .awaitWake else s
    | _ => s) s

/-- What waited for a stack is looked at again: capsules whose place is not resolved (R372). -/
def State.unpark (s : State) : State :=
  s.capsules.foldl (fun s e => match e.2.at_ with
    | .unresolved => s.postOnce (.item e.1) .capsuleArrival
    | _ => s) s

/-- Every chunk whose stack record includes the stack is squashed (R222, R371). -/
def State.squashStack (s : State) (m : StackId) : State :=
  let test (y : Chunk) : Bool := y.stks.getLsbD m.toNat
  s.squashWhere (fun _ y => test y) test []

/-- A stack becomes FENCED (R370): chunks that have used it can no longer commit, what waits for it meets the rejection, and a Decant under way reports it. [log 112, DEDUCED] -/
def State.fence (s : State) (m : StackId) : State :=
  ((((s.setStack m { s.stack m with st := .fenced }).squashStack m).wakeStack m).drainEnd m 6).unpark

/-- The grant of a DECANT to die d: a stack that is not OWNED gives code 0x04; else steps 1 and 2 (R371, R373). -/
def State.decantGrant (s : State) (c : CoreId) (k : SlotId) (m : StackId) (d : DieId) : State :=
  let x := s.stack m
  if x.st ≠ .owned then s.decantEnd c k m 4 0
  else
    let n := s.nextId
    let s := { s with nextId := n + 1 }
    let s := s.setStack m { x with
      st := .pouring, by_ := some (c, k), aim := d == stackDie1 m, step := 3, lines := 0, order := n }
    ((s.squashStack m).wakeStack m).postEvent (.stack m) .decantDrain

/-- The number of lines of a stack newer than its bytes. -/
def State.dirtyCount (s : State) (m : StackId) : Nat := (s.dirty.filter fun e => stackOf (64 * e.1) == m).length

/-- Lines of a stack among lines. -/
def stackLines (m : StackId) (lines : List Nat) : List Nat := lines.filter fun n => stackOf (64 * n) == m

/-- The cores that the old home's directory records for lines of the stack, by number or by their cluster (R281, R371). -/
def State.recallCores (s : State) (m : StackId) : List CoreId :=
  (s.cores.keys.map (BitVec.ofNat 10)).filter fun c => (stackLines m s.dir.keys).any fun n => s.recorded c n

/-- Step 3: every L1 copy of the stack's lines is recalled, Dirty lines are written back to the old LLC, poison travels with them (R371). -/
def State.recallStack (s : State) (m : StackId) : State :=
  let l1 := s.l1.flatMap fun e => stackLines m e.2
  s.withCaches ((stackLines m s.dirty.keys ++ stackLines m s.dir.keys ++ l1).foldl State.dropEntry s)

/-- Step 4: every modified line of the stack is written back through the old port, and its LLC lines are gone; the lines written (R371). -/
def State.drainLlc (s : State) (m : StackId) : Nat × State :=
  let lines := stackLines m s.dirty.keys
  let t := lines.foldl State.cleanLine s
  (lines.length, s.withCaches { t with llc := t.llc.map fun (e : Nat × List Nat) => (e.1, e.2.filter fun n => stackOf (64 * n) != m) })

/-- An earlier Decant whose old owner's die lies in the same tower is still in steps 3 and 4 (R373). -/
def State.pourWaits (s : State) (m : StackId) : Bool :=
  let x := s.stack m
  s.stks.any fun e =>
    let m' : StackId := BitVec.ofNat 4 e.1
    m' != m && e.2.st == .pouring && decide (e.2.step ≤ 4) && decide (e.2.order < x.order)
      && towerOfDie (e.2.owner m') == towerOfDie (x.owner m)

/-- The old home's tower fails: the stack is FENCED, with a machine check there (R370, R371). -/
def State.pourFails (s : State) (m : StackId) : State :=
  let t := towerOfDie ((s.stack m).owner m)
  (s.fence m).machineCheck t

/-- Step 3 of a drain: it waits for earlier Decants of the tower and for sleeping links (R373, R378); a core on a dead die fails it. -/
def State.drainRecall (s : State) (m : StackId) : State :=
  let x := s.stack m
  let cores := s.recallCores m
  let way := cores.flatMap fun c => bondOf (dieOf c) :: linksOf (towerOfDie (x.owner m)) (towerOf c)
  if s.pourWaits m then s
  else if cores.any fun c => !(s.die (dieOf c)).alive then s.pourFails m
  else if !s.linksUp way then s.wakeLinks way
  else (s.recallStack m).setStack m { x with step := 4 }

/-- One step of the drain of a stack (R371): 3 recall, 4 write-back, 5 the port's queue is empty, 6 the route tables are rewritten, 7 and 8 the new port claims the stack. -/
def State.drainStep (s : State) (m : StackId) : State :=
  let x := s.stack m
  match x.step with
  | 3 => s.drainRecall m
  | 4 => (s.drainLlc m).2.setStack m { x with step := 5, lines := (s.drainLlc m).1 }
  | 5 => s.setStack m { x with step := 6 }
  | 6 => s.setStack m { x with step := 7, st := .claiming }
  | _ => ((s.setStack m { x with port := x.aim, epoch := x.epoch + 1, st := .owned }).drainEnd m 0).unpark

/-- A Decant of the stack is under way. -/
def Stack.inTransit (x : Stack) : Bool := x.st == .pouring || x.st == .claiming

/-- The drain of a stack goes on by one step (R371). -/
def execDecantDrain (s : State) : Host.Outcome State Fault Refusal :=
  match s.cur with
  | .stack m =>
    if !(s.stack m).inTransit then .next s
    else
      let s := s.drainStep m
      .next (if (s.stack m).inTransit then s.postOnce (.stack m) .decantDrain else s)
  | _ => .fault .wrongAgent

/-- A write that the stack does not acknowledge (R371 step 5): machine check, FENCED. -/
def execDecantWriteTimeout (s : State) : Host.Outcome State Fault Refusal :=
  match s.cur with
  | .stack m =>
    let x := s.stack m
    .next (if x.st = .pouring ∧ x.step = 5 then s.pourFails m else s)
  | _ => .fault .wrongAgent

/-- A claim that the stack does not confirm (R371 step 7): the old port keeps the stack. -/
def execDecantClaimTimeout (s : State) : Host.Outcome State Fault Refusal :=
  match s.cur with
  | .stack m =>
    if (s.stack m).st ≠ .claiming then .next s
    else .next ((s.setStack m { s.stack m with st := .owned }).drainEnd m 5).unpark
  | _ => .fault .wrongAgent

/-- What a dead die does to a stack (R371, R379): its own stacks are FENCED, a recall that waits for one of its cores fails, and a route table that is not rewritten is a machine check of the old home's tower. -/
def State.stackOfDead (s : State) (d : DieId) (m : StackId) : State :=
  let x := s.stack m
  if x.owner m = d then s.fence m
  else if x.st = .pouring ∧ x.step = 3 ∧ (s.recallCores m).any (fun c => dieOf c == d) then s.pourFails m
  else if x.st = .pouring ∧ x.step = 6 then s.machineCheck (towerOfDie (x.owner m))
  else s

/-- A die is dead (R379): the record, the aborts, and what becomes of the stacks. -/
def execDeadDieTimeout (sender : TowerId) (s : State) : Host.Outcome State Fault Refusal :=
  match s.cur with
  | .die d =>
    let s := s.setDie d { s.die d with alive := false }
    let s := s.report sender { cause := 0, kind := 7 }
    let s := s.abortWhere fun c => dieOf c == d
    .next ((List.range 16).foldl (fun s n => s.stackOfDead d (BitVec.ofNat 4 n)) s)
  | _ => .fault .wrongAgent

/-- The result word of STKQ (R377). -/
def State.stkWord (s : State) (m : StackId) : Word :=
  let x := s.stack m
  let o : DieId := if x.st = .claiming then (if x.aim then stackDie1 m else stackDie0 m) else x.owner m
  let reach := (s.die s.curDie).part == (s.die o).part
  let near := towerOfDie o == towerOf s.curCore
  (BitVec.ofNat 32 (min (s.dirtyCount m) (2 ^ 32 - 1)) ++ 0#6 ++ BitVec.ofBool near ++ BitVec.ofBool reach ++ x.epoch
    ++ stackDie1 m ++ stackDie0 m ++ BitVec.ofNat 2 x.st.code ++ BitVec.ofBool x.port ++ o ++ m : BitVec 64)

/-- STKQ (R377). -/
def execStkq (f : Fields) (s : State) : Host.Outcome State Fault Refusal :=
  scalar (.stkq f) f s fun s =>
    let a := s.src f.src1
    if a.toNat / 16 ≠ 0 then .trap s (illegal 0x13 1 0) else .done (s.setG (gNum f.dst) (s.stkWord (a.setWidth 4)))

/-- The context of a launch. -/
def State.ctxOfSeq (s : State) (n : SeqNo) : Option CtxId := (s.launch n).map fun l => descCtx l.desc

/-- Condition 1 of R382 for one slot. An idle reserved slot does nothing until a visit or message comes, which condition 2 excludes. [log 59, DEDUCED] -/
def Slot.quiet (y : Slot) : Bool :=
  let st := entryState y.entry
  st == stFree || st == stDone || (st == stBound && (entryCapr y.entry || entryMsgr y.entry))
    || (st == stRun && y.waiting.isNone && (match y.park with
      | .barwait _ _ => true
      | .waitv _ _ _ _ _ => true
      | .await _ _ _ _ => true
      | _ => false))

/-- The conditions of R382 for a context, each false where it fails. [log 59, DEDUCED] -/
def State.quiescence (s : State) (n : CtxId) (c : CoreId) (k : SlotId) : List Bool :=
  let slots := s.allSlots.filter fun (c', k') =>
    let e := (s.slot c' k').entry
    entryState e != stFree && entryCtx e == n
  let mine (q : SeqNo) : Bool := s.ctxOfSeq q == some n
  let launches := s.launches.filter fun e => descCtx e.2.desc == n && !e.2.completed
  let noMsg := s.flying.all fun e => !mine e.2.seq
  let cores := launches.flatMap fun e => e.2.cores
  let noRing := cores.all fun c' => let x := s.core c'
    x.ring.isEmpty && x.outbox.isEmpty && x.msgs.all fun m => !mine m.seq
  [slots.all fun (c', k') => (c' == c && k' == k) || (s.slot c' k').quiet,
   launches.all (fun e => e.2.population == 0) && noMsg && noRing,
   s.engines.all fun e =>
     (match e.2.cmd with
       | some m => cmdCtx m != n
       | none => true) && e.2.queue.all fun q => cmdCtx q.rec_ != n,
   s.holds.all fun h => h.ctx != n,
   slots.all fun (c', k') => (s.slot c' k').posted.open_ == 0]

/-- WHY of R383: bit n - 1 set when condition n fails. -/
def whyBits (conds : List Bool) : Nat := conds.foldr (fun ok n => bit (!ok) + 2 * n) 0

/-- A stack in the mask that is not OWNED (R383). -/
def State.maskBusy (s : State) (mask : BitVec 16) : Bool :=
  (List.range 16).any fun n => mask.getLsbD n && (s.stack (BitVec.ofNat 4 n)).st != .owned

/-- The result word of CKPTQ (R383). -/
def ckptWord (why : Nat) (stk : Bool) (lines : Nat) : Word :=
  BitVec.ofNat 64 (bit (why == 0 && !stk) + 2 * why + 64 * bit stk + 2 ^ 32 * min lines (2 ^ 32 - 1))

/-- The checkpoint record (R384). -/
def State.ckptRecord (s : State) (mask : BitVec 16) (lines : Nat) : BitVec 512 :=
  let ks := (List.range 16).map fun n => (n, (BitVec.ofNat 4 n : StackId))
  let owners := ks.foldl (fun a (n, m) => a + 16 ^ n * (((s.stack m).owner m).toNat + 8 * bit (mask.getLsbD n))) 0
  let epochs := ks.foldl (fun a (n, m) => a + 256 ^ n * (s.stack m).epoch.toNat) 0
  let r := setField (setField (0 : BitVec 512) 0 12 s.curCtx.toNat) 16 16 mask.toNat
  let r := setField (setField r 32 32 s.curSeq.toNat) 64 64 owners
  setField (setField (setField r 128 128 epochs) 256 64 lines) 320 64 s.cycle

/-- Lines of the stacks of a mask written back; the copies stay valid and clean (R383). -/
def State.cleanStacks (s : State) (mask : BitVec 16) : State :=
  s.withCaches ((s.dirty.keys.filter fun n => mask.getLsbD (stackOf (64 * n)).toNat).foldl State.cleanLine s)

/-- The stack mask of CKPTQ; a register value beyond 16 bits is an Illegal Encoding (R375). -/
def State.ckptMask (s : State) (f : Fields) (k : BitVec 16 → Eff) : Eff :=
  let v := s.src f.src2
  if v.toNat / 65536 ≠ 0 then .trap s (illegal 0x13 2 0) else k (v.setWidth 16)

/-- CKPTQ.TEST (R383). -/
def execCkptqTest (f : Fields) (s : State) : Host.Outcome State Fault Refusal :=
  scalar (.ckptqTest f) f s fun s => s.ckptMask f fun mask => s.ownChunk fun s =>
    let why := whyBits (s.quiescence s.curCtx s.curCore s.curSlot)
    .done (s.setG (gNum f.dst) (ckptWord why (s.maskBusy mask) 0))

/-- CKPTQ.TAKE (R383, R384). -/
def execCkptqTake (f : Fields) (s : State) : Host.Outcome State Fault Refusal :=
  scalar (.ckptqTake f) f s fun s => s.ckptMask f fun mask =>
    let va := s.addrOf f.src1 64
    if va.toNat % 64 ≠ 0 then .trap s (misaligned va 64)
    else (s.locate va 64 .write).fin fun l s =>
    match l with
    | .mem pa => (s.reachMem va pa).fin fun _ s => s.ownChunk fun s =>
      let why := whyBits (s.quiescence s.curCtx s.curCore s.curSlot)
      let stk := s.maskBusy mask
      if why ≠ 0 ∨ stk then .done (s.setG (gNum f.dst) (ckptWord why stk 0))
      else if s.tokenBars [pa / 64] then .stay s
      else
        let lines := ((List.range 16).filter fun n => mask.getLsbD n).foldl (fun a n => a + s.dirtyCount (BitVec.ofNat 4 n)) 0
        let r := s.ckptRecord mask lines
        let s := (s.cleanStacks mask).commitWrite pa (leBytes 64 r.toNat) none
        let s := s.withCaches (s.cleanLine (pa / 64))
        .done (s.setG (gNum f.dst) (ckptWord why stk lines))
    | _ => .trap s (protTrap .write s.isUser true va 0)

/-- The cores of a die. -/
def dieCores (d : DieId) : List CoreId := ((List.range 1024).map (BitVec.ofNat 10)).filter fun c => dieOf c == d

/-- The link may sleep: a base-die link, or the bond interface of a die whose cores all sleep (R378). [log 66, DEDUCED] -/
def State.linkMaySleep (s : State) (l : BitVec 4) : Bool :=
  decide (l.toNat < 4) || (decide (8 ≤ l.toNat) && (dieCores (l.extractLsb' 0 3)).all fun c => (s.core c).asleep)

def execLinkSleep (s : State) : Host.Outcome State Fault Refusal :=
  match s.cur with
  | .link l => .next (if s.linkMaySleep l then { s with linksAsleep := s.linksAsleep ||| (1#16 <<< l.toNat) } else s)
  | _ => .fault .wrongAgent

/-- A flit for a sleeping link (R378): the link wakes, and the sender tries again. [log 66, DEDUCED] -/
def execLinkWake (s : State) : Host.Outcome State Fault Refusal :=
  match s.cur with
  | .link l =>
    if s.linksAsleep.getLsbD l.toNat then
      let m : BitVec 16 := 1#16 <<< l.toNat
      .next (({ s with linksWaking := s.linksWaking ||| m }).postEvent (.link l) .linkWakeRetry)
    else .next s
  | _ => .fault .wrongAgent

/-- The sender's retry finds the link awake (R378). -/
def execLinkWakeRetry (s : State) : Host.Outcome State Fault Refusal :=
  match s.cur with
  | .link l =>
    let m : BitVec 16 := ~~~(1#16 <<< l.toNat)
    if s.linksWaking.getLsbD l.toNat then .next { s with linksAsleep := s.linksAsleep &&& m, linksWaking := s.linksWaking &&& m }
    else .next s
  | _ => .fault .wrongAgent

/-- A slot that lets its core sleep (R380). [log 67, DEDUCED] -/
def Slot.restful (y : Slot) : Bool :=
  let st := entryState y.entry
  st == stFree || st == stDone || (st == stRun && y.waiting.isNone && y.chunk.isEmpty && y.dZero && (match y.park with
    | .barwait _ _ => true
    | .waitv _ _ _ _ _ => true
    | .await _ _ _ _ => true
    | _ => false))

/-- The conditions of retention sleep (R380). [log 67, DEDUCED] -/
def State.mayRest (s : State) (c : CoreId) : Bool :=
  let x := s.core c
  (x.slots.all fun e => e.2.restful) && (x.bays.toList.all fun b => b.st == .free)
    && x.msgs.isEmpty && x.ring.isEmpty && x.outbox.isEmpty && s.capsules.all fun e => e.2.core != c || e.2.at_ == .flying

/-- The L1 data cache and the L1 TLB of a core are emptied: Dirty lines go to the last-level cache, and the directory records the core no more (R380). -/
def State.emptyL1 (s : State) (c : CoreId) : State :=
  let mine := (s.dirty.filter fun e => e.2.holder == some c).map (·.1)
  let t := (mine ++ s.l1.look [] c.toNat).foldl (fun (s : State) n => s.l1Evict c n) s
  let t := { s.withCaches t with l1 := t.l1.del c.toNat, tlb := s.tlb.filter fun e => e.place != TlbPlace.core c }
  t.withCaches (t.releaseLines c t.dir.keys)

/-- A core enters retention sleep (R380). [log 67, DEDUCED] -/
def execRetentionSleepEntry (s : State) : Host.Outcome State Fault Refusal :=
  match s.cur with
  | .core c =>
    if s.mayRest c then
      let s := s.emptyL1 c
      .next (s.setCore c { s.core c with asleep := true })
    else .next s
  | _ => .fault .wrongAgent

def execRetentionWake (s : State) : Host.Outcome State Fault Refusal :=
  match s.cur with
  | .core c => .next (s.rouse c)
  | _ => .fault .wrongAgent

end Sys2Proof.Machine
end

