-- ==== Sys2Proof/Machine/HostPort.lean ====
section
/-! DEFINITION. HOSTINT, posted writes, host accesses to device memory, Ouvken ports and peers (17_host_and_links.md R391 to R402). -/

namespace Sys2Proof.Machine

/-- HOSTINT: it runs alone after every earlier grant (R399). -/
def execHostint (f : Fields) (s : State) : Host.Outcome State Fault Refusal :=
  scalar (.hostint f) f s fun s =>
    let v := (s.src f.src1).toNat
    if 2048 ≤ v then .trap s (illegal 0x13 1 0)
    else if !s.isAlone then .edge s
    else .done ((s.setChunk { s.chunk with solo := true }).interrupt v)

/-- The posted writes up to the first of an agent reach the host; the agent's own does not when it is in error (R391, R393). -/
def State.landUntil (s : State) (w : Agent) (ok : Bool) : List PostedTlp → State
  | [] => { s with host := { s.host with posted := [] } }
  | .write w' a bs :: rest =>
    if w' = w then (if ok then s.landTlp (.write w' a bs) else s).landMsix rest
    else (s.landTlp (.write w' a bs)).landUntil w ok rest
  | p :: rest => (s.landTlp p).landUntil w ok rest

/-- The agent has a posted write on its way. -/
def HostPort.hasWrite (h : HostPort) (w : Agent) : Bool :=
  h.posted.any fun p => match p with
    | .write w' _ _ => w' == w
    | .msix _ _ => false

/-- One posted write of the slot has completed; an error is kept if it is the slot's first (R393). -/
def Posted.complete (p : Posted) (status : BitVec 3) : Posted :=
  { p with open_ := p.open_ - 1, err := if p.err = 0 then status else p.err }

/-- A posted write of an agent completes (R391, R393): an error that the port detects is attributed to the slot whose write it loses; one that has reached the host already is past the port. -/
def execPostedWriteCompletion (status : BitVec 3) (s : State) : Host.Outcome State Fault Refusal :=
  let flying := s.host.hasWrite s.cur
  let t := if flying then s.landUntil s.cur (status == 0) s.host.posted else s
  match s.cur with
  | .slot c k =>
    let y := s.slot c k
    .next ((t.setSlot c k { y with posted := y.posted.complete (if flying then status else 0) }).preCheck (entryCtx y.entry))
  | _ => .next t

/-- The host link goes down (R393): every slot with posted writes not covered by FENCE.SYS has the error; how many of the writes still reached the host is open. The host's copies of device memory are gone, and no grant waits for it (R395). [log 61, DESIGN CHOICE] -/
def State.hostLinkDown (s : State) : State :=
  let (n, s) := s.choose (s.host.posted.length + 1)
  let s := (s.host.posted.take n).foldl State.landTlp s
  let s := { s with host := { s.host with up := false, posted := [], shared := [], snooped := [] }, arbHeld := [] }
  let s := if s.requests.isEmpty then s else s.postOnce .none .commitGrant
  s.allSlots.foldl (fun s (c, k) =>
    let y := s.slot c k
    if y.posted.count = 0 then s
    else s.setSlot c k { y with posted := { y.posted with open_ := 0, err := if y.posted.err = 0 then 6 else y.posted.err } }) s

def execHostPortLinkDown (s : State) : Host.Outcome State Fault Refusal :=
  match s.cur with
  | .none => .next s.hostLinkDown
  | _ => .fault .wrongAgent

/-- An entry that comes from the host in order (R396). -/
def Pick.fromHost : Pick → Bool
  | .event _ (.hostMemoryAccess _ _ _ _) => true
  | .event _ (.registerWrite true _ _) => true
  | .input (.hostAtomic _ _ _ _ _) => true
  | .input (.barRead _ _) => true
  | _ => false

/-- A host request that waits, or goes on with its next line: what is not from the host moves first, and the host's requests keep their order (R395, R396). -/
def State.againHost (s : State) (i : Instr) : State := s.again Pick.fromHost (.event .none i)

/-- Whether the host or a peer reaches a stack: its requests belong to no partition (R369). -/
def State.portReach (s : State) (m : StackId) : Reach :=
  match (s.stack m).st with
  | .owned => .yes
  | .fenced => .reject
  | _ => .park

/-- One piece of a host access, inside one line (R395). [log 60, DEDUCED] -/
def State.hostPiece (s : State) (write : Bool) (pa n : Nat) (bs : List Byte) : State :=
  let lines := linesOf pa n
  if write then (s.commitWrite pa bs none).send (.hostWrite 0)
  else match s.poisoned lines with
    | some _ => s.send (.hostRead none 4)
    | none =>
      let s := { s with host := { s.host with shared := lines.foldl insertOnce s.host.shared } }
      s.send (.hostRead (some (s.mem.bytes pa n)) 0)

/-- A host request that meets a package whose memory is not ready: step 3 of bring-up is not complete (19 R414). [log 86, DESIGN CHOICE] -/
def State.unsupported (s : State) (write : Bool) : State := if write then s else s.send (.hostRead none 1)

/-- A host read or write of device memory, one line at a time in ascending order (R395). [log 91, DEDUCED] -/
def execHostMemoryAccess (write : Bool) (pa : BitVec 40) (len : Nat) (data : List Byte) (s : State) :
    Host.Outcome State Fault Refusal :=
  match s.cur with
  | .none =>
    let a := pa.toNat
    let n := min len (64 - a % 64)
    if s.svc.boot < 3 then .next (s.unsupported write)
    else if len = 0 ∨ ¬ s.host.up then .next s
    else match s.portReach (stackOf a) with
      | .park => .next (s.againHost (.hostMemoryAccess write pa len data))
      | .reject =>
        let s := s.countRejection (stackOf a)
        .next (s.send (if write then .hostWrite 5 else .hostRead none 5))
      | .yes =>
        if write && s.tokenBars (linesOf a n) then .next (s.againHost (.hostMemoryAccess write pa len data))
        else
          let s := s.hostPiece write a n ((List.range n).map fun i => data.getD i 0)
          if len ≤ n ∨ 2 ^ 40 ≤ a + n then .next s
          else .next (s.againHost (.hostMemoryAccess write (pa + BitVec.ofNat 40 n) (len - n) (data.drop n)))
  | _ => .fault .wrongAgent

/-- A snoop of a line that the host takes: the port holds no line outside an access, so the host goes on, and its own write is in its memory (R391). [log 97, DESIGN CHOICE] -/
def execHostSnoop (hpa : BitVec 49) (data : List Byte) (s : State) : Host.Outcome State Fault Refusal :=
  match s.cur with
  | .none => .next { s with hostMem := s.hostMem.setBytes hpa.toNat data }
  | _ => .fault .wrongAgent

/-- The host writes MSI-X Enable and Function Mask in its configuration space, which lies outside device control space; what was pending and is masked no longer is sent (R388, R399). [log 9, DESIGN CHOICE] -/
def State.msixControl (s : State) (enabled fmask : Bool) : State :=
  ({ s with host := { s.host with enabled := enabled, fmask := fmask } }).flushPending

/-- The port looks at a pending interrupt: it is sent once nothing masks it (R399). -/
def execMsixPendingSend (v : BitVec 11) (s : State) : Host.Outcome State Fault Refusal :=
  match s.cur with
  | .none =>
    let h := s.host
    if !h.pending.getLsbD v.toNat || (h.entry v.toNat).getLsbD 96 || h.fmask || !h.enabled || !h.up then .next s
    else .next (({ s with host := { h with pending := h.pending &&& ~~~(1#2048 <<< v.toNat) } }).interrupt v.toNat)
  | _ => .fault .wrongAgent

/-- BIRsp for a line: a grant that waited for no other line gives its arbiters back (R364, R395). -/
def State.birsp (s : State) (line : Nat) : State :=
  let held := (s.arbHeld.map fun (e : List Arbiter × List Nat) => (e.1, e.2.erase line)).filter fun e => !e.2.isEmpty
  let s := { s with host := { s.host with snooped := s.host.snooped.erase line }, arbHeld := held }
  if s.requests.isEmpty then s else s.postOnce .none .commitGrant

/-- The host does not answer a back-invalidation for 2 ms (R395). -/
def execHdmBackInvalidateTimeout (s : State) : Host.Outcome State Fault Refusal :=
  match s.cur with
  | .tower t => .next (if s.host.snooped.isEmpty then s else (s.report t { cause := 0, kind := 7 }).hostLinkDown)
  | _ => .fault .wrongAgent

def State.port (s : State) (p : BitVec 4) : OPort := s.ports.look {} p.toNat
def State.setPort (s : State) (p : BitVec 4) (x : OPort) : State := { s with ports := s.ports.put p.toNat x }

/-- A port counts as down (R400). -/
def State.portDown (s : State) (p : BitVec 4) : State := s.setPort p { s.port p with up := false }

/-- A flit in error is asked for again; the sixteenth replay that fails takes the port down (R400). -/
def State.flitError (s : State) (p : BitVec 4) : State :=
  let x := s.port p
  let x := { x with asked := true, fails := if x.asked then x.fails + 1 else x.fails }
  let s := s.setPort p x
  if 16 ≤ x.fails then s.portDown p else s.send (.replay p)

/-- A flit leaves on a port, whose replay buffer keeps it (R400). [log 68, DEDUCED] -/
def State.sendFlit (s : State) (p : BitVec 4) (f : Flit) : State :=
  (s.setPort p { s.port p with sent := (s.port p).sent ++ [f] }).send (.flit p f)

/-- A flit for another package is forwarded by this package's route table (R401). -/
def State.forward (s : State) (f : Flit) : State :=
  let (out, v) := s.routes.look (0, false) f.dest.toNat
  if v && (s.port out).up then s.sendFlit out f else s.send (.peer f.src [] 6)

/-- A flit arrives on a port (R400, R401); the contents of a flit for this package act as events of their own. [log 68, DEDUCED] -/
def execOuvkenFlitReceive (flit : Flit) (s : State) : Host.Outcome State Fault Refusal :=
  match s.cur with
  | .port p =>
    let x := s.port p
    if !x.up then .next s
    else if !flit.crcOk then .next (s.flitError p)
    else
      let s := s.setPort p { x with asked := false, fails := 0 }
      .next (if flit.dest = s.pkg then s else s.forward flit)
  | _ => .fault .wrongAgent

/-- The peer asks for the flits of a port again, from a sequence number on (R400). [log 68, DEDUCED] -/
def State.replayFlits (s : State) (p : BitVec 4) (seq : BitVec 12) : State :=
  if (s.port p).up then ((s.port p).sent.dropWhile fun f => f.seq != seq).foldl (fun s f => s.send (.flit p f)) s else s

/-- The peer has taken the flits of a port up to a sequence number, and the replay buffer lets them go (R400). [log 68, DEDUCED] -/
def State.ackFlits (s : State) (p : BitVec 4) (seq : BitVec 12) : State :=
  let x := s.port p
  if x.sent.any fun f => f.seq == seq then s.setPort p { x with sent := (x.sent.dropWhile fun f => f.seq != seq).drop 1 } else s

def execOuvkenPortDown (s : State) : Host.Outcome State Fault Refusal :=
  match s.cur with
  | .port p => .next (s.portDown p)
  | _ => .fault .wrongAgent

/-- Bytes of the operand of an atomic from outside the package. -/
def atomicSize (opc : Byte) (ty : BitVec 2) : Nat := if opc = 0x70 then 16 else atomicBits ty / 8

/-- An atomic from outside at the home of its operand: the bytes before, and the state after (R234, R388, R402). -/
def State.atomicAt (s : State) (opc : Byte) (ty : BitVec 2) (pa : Nat) (v c : BitVec 128) : List Byte × State :=
  let n := atomicSize opc ty
  let m := s.mem.nat pa n
  let new := if opc = 0x70 then (if m = c.toNat then v.toNat else m) else atomicNew opc.toNat ty (atomicBits ty) m v.toNat c.toNat
  (leBytes n m, s.commitWrite pa (leBytes n new) none)

/-- An AtomicOp that the host performs on device memory, as one event at its home (R388, R395): FetchAdd, Swap or CAS, of an aligned operand. -/
def State.hostAtomic (s : State) (opc : Byte) (ty : BitVec 2) (pa : BitVec 40) (v c : BitVec 128) : State :=
  let a := pa.toNat
  let n := atomicSize opc ty
  let wait (s : State) : State := s.again Pick.fromHost (.input (.hostAtomic opc ty pa v c))
  if s.svc.boot < 3 then s.send (.hostRead none 1)
  else if !s.host.up then s
  else if !pcieAtomic opc.toNat || a % n != 0 then s.send (.hostRead none 1)
  else match s.portReach (stackOf a) with
    | .park => wait s
    | .reject => (s.countRejection (stackOf a)).send (.hostRead none 5)
    | .yes =>
      if (s.poisoned (linesOf a n)).isSome then s.send (.hostRead none 4)
      else if s.tokenBars (linesOf a n) then wait s
      else
        let (old, s) := s.atomicAt opc ty a v c
        s.send (.hostRead (some old) 0)

/-- The host reads registers through BAR0, which is there once its port has trained (R390, 19 R414). -/
def State.barRead (s : State) (off n : Nat) : State :=
  if s.svc.boot < 6 || !s.host.up then s else (s.regTouched off n).send (.hostRead (some (s.regBytes off n)) 0)

/-- Bytes that a peer's request covers. -/
def peerSize : PeerOp → Nat
  | .load n => n
  | .store d => d.length
  | .atomic opc ty _ _ => atomicSize opc ty

def peerLoads : PeerOp → Bool
  | .load _ => true
  | _ => false

/-- A peer's request performed at the home (R402). -/
def State.peerPerform (s : State) (src : Byte) (pa : Nat) (op : PeerOp) : State :=
  match s.poisoned (linesOf pa (peerSize op)), op with
  | some _, .load _ => s.send (.peer src [] 4)
  | some _, .atomic _ _ _ _ => s.send (.peer src [] 4)
  | _, .load n => s.send (.peer src (s.mem.bytes pa n) 0)
  | _, .store d => (s.commitWrite pa d none).send (.peer src [] 0)
  | _, .atomic opc ty v c => (s.atomicAt opc ty pa v c).2.send (.peer src (s.atomicAt opc ty pa v c).1 0)

/-- A peer's request at the local home, as one event (R402, R367). [log 97, DESIGN CHOICE] -/
def execPeerAccessRequest (src : BitVec 8) (pa : BitVec 40) (op : PeerOp) (s : State) : Host.Outcome State Fault Refusal :=
  match s.cur with
  | .port p =>
    let a := pa.toNat
    let again := s.postEvent (.port p) (.peerAccessRequest src pa op)
    match s.portReach (stackOf a) with
    | .park => .next again
    | .reject => .next ((s.countRejection (stackOf a)).send (.peer src [] 5))
    | .yes => if !peerLoads op && s.tokenBars (linesOf a (peerSize op)) then .next again else .next (s.peerPerform src a op)
  | _ => .fault .wrongAgent

/-- A commit in a peer package, which changes what loads of its memory return from then on (R402). [log 115, DESIGN CHOICE] -/
def State.peerWrite (s : State) (pkg : Byte) (pa : Nat) (data : List Byte) : State :=
  { s with peerMem := s.peerMem.setBytes (peerKey pkg pa) data }

end Sys2Proof.Machine
end

