-- ==== Sys2Proof/Machine/Fabric.lean ====
section
/-! DEFINITION. What moves between cores: capsules after their grants, landings, spills, visits, strands; messages and their handlers; barrier tokens (08 R204, 10_capsules.md R250 to R261, 12 R294 to R297, 14 R349, 17 R404). -/

namespace Sys2Proof.Machine

/-- Events that fall due at a time, and those that look again for what they wait for. -/
def Pick.timed : Pick → Bool
  | .event _ .waitvTimeout => true
  | .event _ .yieldExpiry => true
  | .event _ (.capsuleSpillTimeout _) => true
  | .event _ .preemptionTimeout => true
  | .event _ .preemption => true
  | .event _ .contextResume => true
  | .event _ .commitGrant => true
  | .caches => true
  | _ => false

/-- An event due at a rotation: it happens then; sooner it waits, and where nothing else can move a rotation passes. [log 96, DESIGN CHOICE] -/
def State.timed (s : State) (expiry : Nat) (a : Agent) (i : Instr) (fire : State → State) : State :=
  if expiry ≤ s.rot then fire s
  else
    let s := if s.agenda.all Pick.timed then s.nextRotation else s
    { s with agenda := s.agenda ++ [.event a i] }

/-- How a network interface reaches a range through a launch's page tables (R257, R261): frames and lengths, a page marked for service, a failure with the entry met, an access that a stack rejects (16 R366), or a stack being handed over (16 R372). -/
inductive NiPages where
  | ok (ps : List (Nat × Nat))
  | held (va : Word) (lvl : Nat) (entry : Word)
  | fail (va : Word) (lvl : Nat) (entry : Word)
  | reject (va : Word) (m : StackId)
  | wait
  deriving DecidableEq, Repr

/-- The pieces of a range, the first that stops it deciding. -/
def State.niPages (s : State) (c : CoreId) (l : Launch) (va : Word) (n : Nat) (k : Kind) : NiPages :=
  (pagePieces va n).foldr (fun p acc => match s.niAt c l p.1 k with
    | .held lvl e => .held p.1 lvl e
    | .fail t => .fail p.1 (if t.cause = 0x06 then fieldNat t.info 0 3 else 0) t.entry
    | .wait => .wait
    | .reject m => .reject p.1 m
    | .ok pa => match acc with
      | .ok ps => .ok ((pa, p.2) :: ps)
      | x => x) (.ok [])

/-- Bytes of located pieces. -/
def State.niRead (s : State) (ps : List (Nat × Nat)) : List Byte := ps.flatMap fun p => s.mem.bytes p.1 p.2

/-- Bytes written to located pieces, as committed writes. -/
def State.niWrite (s : State) (ps : List (Nat × Nat)) (bs : List Byte) : State :=
  (ps.foldl (fun (x : State × List Byte) p => (x.1.commitWrite p.1 (x.2.take p.2) none, x.2.drop p.2)) (s, bs)).1

/-- The lines of located pieces. -/
def niLines (ps : List (Nat × Nat)) : List Nat := ps.flatMap fun p => linesOf p.1 p.2

/-- The record of a capsule written to located pieces, 64 bytes and its image, which keeps its poison (R345). -/
def State.niImage (s : State) (ps : List (Nat × Nat)) (head : List Byte) (img : Mem) (poison : List Nat) : State :=
  (s.niWrite ps (head ++ img.bytes 0 capBytes)).spoilLines (poison.filterMap fun n => (niLines ps)[n + 1]?)

/-- The record of a network interface's hold (R257). -/
def niHoldRec (c : CoreId) (q : SeqNo) (l : Launch) (lvl : Nat) (entry : Word) : FaultRec :=
  { cause := 0x05, kind := 0, ni := true, core := c.toNat, ctx := descCtx l.desc, lseq := q, lvl := lvl, entry := entry }

def imgHeader (img : Mem) : BitVec 512 := BitVec.ofNat 512 (img.nat 0 64)
def imgEntry (img : Mem) (i : Nat) : BitVec 128 := BitVec.ofNat 128 (img.nat (entAt i) 16)
def imgSetHeader (img : Mem) (h : BitVec 512) : Mem := img.setNat 0 64 h.toNat

def State.setCapsule (s : State) (id : Nat) (x : Capsule) : State := { s with capsules := s.capsules.put id x }

/-- A capsule is gone: it leaves the population, and its launch may be complete (R196, R256). -/
def State.retire (s : State) (id : Nat) (q : SeqNo) : State :=
  ({ s with capsules := s.capsules.del id }.modLaunch q fun l => { l with population := l.population - 1 }).checkDone q

/-- The fault record of a strand or discard (R261). [log 52, DEDUCED] -/
def strandRec (x : Capsule) (l : Launch) (code : Byte) (disc : Bool) (addr : Word) : FaultRec :=
  { cause := 0x0A, sub := code, kind := 2, disc := disc, ni := true, core := x.core.toNat, ctx := descCtx l.desc, lseq := x.seq
    va := addr }

/-- A capsule that cannot be listed is discarded (R261). -/
def State.discardStrand (s : State) (id : Nat) (x : Capsule) (l : Launch) (code : Byte) (addr : Word) : State :=
  let s := s.countDrop x.seq x.core
  (s.retire id x.seq).report (towerOf x.core) (strandRec x l code true addr)

/-- The strand record (R261). -/
def strandInfo (code : Byte) (c : CoreId) (detail : Byte) (num : Nat) (pc addr : Word) : BitVec 512 :=
  (0#320 ++ addr ++ pc ++ BitVec.ofNat 32 num ++ 0#4 ++ detail ++ 0#2 ++ c ++ code : BitVec 512)

/-- A capsule is stranded at its core (R261). -/
def State.strand (s : State) (id : Nat) (code detail : Byte) (pc addr : Word) : State :=
  match s.capsules.find id with
  | none => s
  | some x => match s.launch x.seq with
    | none => s
    | some l =>
      let list := descStrand l.desc
      let keep (s : State) (on : Option (TowerId × BitVec 16)) : State :=
        s.setCapsule id { x with at_ := .strandHeld on code detail pc addr }
      let wait (s : State) : State := (keep s none).postEvent (.item id) .capsuleVisitStrand
      let hold (s : State) (va : Word) (lvl : Nat) (e : Word) : State :=
        let (hid, s) := s.openHold (towerOf x.core) (descCtx l.desc) va (niHoldRec x.core x.seq l lvl e)
        keep s (some (towerOf x.core, hid))
      if list = 0 then s.discardStrand id x l code addr
      else match s.niPages x.core l list 64 .write with
        | .held va lvl e => hold s va lvl e
        | .wait => wait s
        | .fail _ _ _ => s.discardStrand id x l code addr
        | .reject _ m => (s.countRejection m).discardStrand id x l code addr
        | .ok ps =>
          let b := leNat (s.niRead ps)
          let prod := b % 2 ^ 32
          let cons := b / 2 ^ 32 % 2 ^ 32
          let nrec := b / 2 ^ 64 % 2 ^ 32
          if nrec = 0 ∨ (prod + 2 ^ 32 - cons) % 2 ^ 32 = nrec then s.discardStrand id x l code addr
          else match s.niPages x.core l (list + BitVec.ofNat 64 (64 + 0x2180 * (prod % nrec))) 8576 .write with
            | .held va lvl e => hold s va lvl e
            | .wait => wait s
            | .fail _ _ _ => s.discardStrand id x l code addr
            | .reject _ m => (s.countRejection m).discardStrand id x l code addr
            | .ok rs =>
              if s.tokenBars (niLines ps ++ niLines rs) then wait s
              else
                let img := imgSetHeader x.img (setField (imgHeader x.img) 104 8 code.toNat)
                let info := strandInfo code x.core detail prod pc addr
                let s := s.niImage rs (leBytes 64 info.toNat) img x.poison
                let s := s.niWrite ps (leBytes 4 ((prod + 1) % 2 ^ 32) ++ (s.niRead ps).drop 4)
                (s.retire id x.seq).report (towerOf x.core) (strandRec x l code false addr)

/-- A capsule goes on from its departing core: limits, place, sillage (R254). -/
def State.goOn (s : State) (id : Nat) : State :=
  match s.capsules.find id with
  | none => s
  | some x => match s.launch x.seq with
    | none => s
    | some l =>
      let h := imgHeader x.img
      let lim := if capHlim h = 0 then 255 else capHlim h
      if lim ≤ capHops h then s.strand id 0x44 0 0 0
      else if capIlen h ≤ capHead h then s.strand id 0x45 0 0 0
      else
        let e := imgEntry x.img (capHead h)
        match s.resolve l x.core (entPlace e) (entParam e) (capOrig h) with
        | .wait => s.setCapsule id { x with at_ := .unresolved }
        | .fail code => s.strand id code 0 0 0
        | .core c =>
          let sill : BitVec 64 := h.extractLsb' 256 64
          let sill : BitVec 64 := (sill <<< 16) ||| BitVec.ofNat 64 (0x8000 + x.core.toNat)
          let h := setField (setField h 96 8 (capHops h + 1)) 256 64 sill.toNat
          let x := { x with img := imgSetHeader x.img h, core := c, at_ := .flying }
          (s.setCapsule id x).postEvent (.item id) .capsuleArrival

/-- A departure at a grant (R254): by CAPSEND, by CAPINJ, or by CAPNEXT with the next head. -/
def State.depart (s : State) (c : CoreId) (q : SeqNo) (img : Mem) (poison : List Nat) (head : Option Nat) (inj : Bool) : State :=
  match s.launch q with
  | none => s
  | some l =>
    let h := setField (setField (imgHeader img) 192 32 q.toNat) 224 12 (descCtx l.desc).toNat
    let bad := capMalformed h
    let h := if bad then h else match head with
      | some n => setField h 88 5 n
      | none => h
    let h := if inj && !bad then setField (setField h 104 8 0) 96 8 0 else h
    let id := s.nextId
    let s := { s with nextId := id + 1 }.setCapsule id
      { img := imgSetHeader img h, seq := q, core := c, at_ := .unresolved, order := id, poison := poison }
    if bad then s.strand id 0x46 0 0 0 else s.goOn id

/-- The free landing bays of a core. -/
def Core.freeBays (x : Core) : List Nat := (List.range 4).filter fun b => if h : b < 4 then x.bays[b].st == .free else false

def Core.setBay (x : Core) (b : Nat) (y : Bay) : Core := if h : b < 4 then { x with bays := x.bays.set b y h } else x
def Core.bay (x : Core) (b : Nat) : Bay := if h : b < 4 then x.bays[b] else {}

/-- Capsules of a core that wait in its input buffer, and those in the overflow area (R255). -/
def State.waiting (s : State) (c : CoreId) (spilled : Bool) : List (Nat × Capsule) :=
  s.capsules.filter fun e => e.2.core == c && (match e.2.at_ with
    | .buffered _ => !spilled
    | .spilled _ => spilled
    | _ => false)

/-- Of these, the ones that may land now: while its launch is pre-empted nothing lands (R349), and while it waits on a held page its capsules go on waiting (R257). -/
def State.mayLand (s : State) (c : CoreId) (spilled : Bool) : List (Nat × Capsule) :=
  (s.waiting c spilled).filter fun e => !s.spillWaits e.2.seq && (match s.launch e.2.seq with
    | some l => !l.preempted
    | none => false)

/-- The first of capsules: of spilled ones the oldest spill (R255). -/
def oldest : List (Nat × Capsule) → Option (Nat × Capsule)
  | [] => none
  | x :: xs => some (xs.foldl (fun a b => if b.2.order < a.2.order then b else a) x)

/-- A capsule is written into a bay (R246, R250); false: the token's holder bars it (R225). -/
def State.land (s : State) (id : Nat) (x : Capsule) (l : Launch) (b : Nat) : Bool × State :=
  let off := l.bayOffset b
  let h := imgHeader x.img
  if s.tokenBarsLs x.core (linesOf off (0x140 + capPayload h)) then (false, s)
  else
    let head := x.img.bytes 0 (0x40 + 16 * capIlen h) ++ List.replicate (16 * (16 - capIlen h)) 0
    let s := s.lsOutside x.core off head
    let s := if capPayload h = 0 then s else s.lsOutside x.core (off + 0x140) (x.img.bytes 0x140 (capPayload h))
    let moved := 5 + capPayload h / 64
    let s := s.spoilGranules x.core ((x.poison.filter fun n => decide (n < moved)).map (off / 64 + ·))
    let n := s.nextId
    let s := { s with nextId := n + 1, capsules := s.capsules.del id }
    let s := s.setCore x.core ((s.core x.core).setBay b { st := .landed, seq := x.seq, order := n })
    (true, s.postOnce (.core x.core) .capsuleVisitStart)

/-- Free flits of a core's input buffer (R255). -/
def State.bufferRoom (s : State) (c : CoreId) : Nat :=
  512 - ((s.waiting c false).map fun e => capFlits (imgHeader e.2.img)).sum

/-- A free slot of a launch's overflow area (R256). -/
def State.freeOverflow (s : State) (q : SeqNo) (l : Launch) : Nat :=
  let used := s.capsules.filterMap fun e => if e.2.seq != q then none else match e.2.at_ with
    | .spilled n => some n
    | .spillHeld _ _ (some n) => some n
    | _ => none
  ((List.range l.nslot).find? fun n => !used.contains n).getD 0

/-- Where slot n of an overflow area lies; the spec leaves the layout to the hardware, which owns the area (R256). [log 62, DESIGN CHOICE] -/
def overflowAt (l : Launch) (n : Nat) : Word := descCapovf l.desc + BitVec.ofNat 64 (64 + 8576 * n)

/-- An access of the network interface to the overflow area that meets a page which is not present or marked for service: the capsule waits, and with it the launch's spills (R257). [log 62, DESIGN CHOICE] -/
def State.spillHold (s : State) (id : Nat) (x : Capsule) (l : Launch) (va : Word) (lvl : Nat) (e : Word) (slot : Option Nat) : State :=
  let (hid, s) := s.openHold (towerOf x.core) (descCtx l.desc) va (niHoldRec x.core x.seq l lvl e)
  s.setCapsule id { x with at_ := .spillHeld (towerOf x.core) hid slot }

/-- A capsule spills to the overflow area (R255, R256). [log 62, DESIGN CHOICE] [log 64, DEDUCED] -/
def State.spillCapsule (s : State) (id : Nat) (x : Capsule) (l : Launch) : State :=
  if s.spillWaits x.seq then
    (s.setCapsule id { x with at_ := .buffered s.rot }).postEvent (.core x.core) (.capsuleSpillTimeout id)
  else
    let n := s.freeOverflow x.seq l
    match s.niPages x.core l (overflowAt l n) 8576 .write with
    | .held va lvl e => s.spillHold id x l va lvl e none
    | .fail va lvl e => s.spillHold id x l va lvl e none
    | .reject va m => (s.countRejection m).spillHold id x l va 0 0 none
    | .wait => (s.setCapsule id { x with at_ := .buffered s.rot }).postEvent (.core x.core) (.capsuleSpillTimeout id)
    | .ok ps =>
      if s.tokenBars (niLines ps) then
        (s.setCapsule id { x with at_ := .buffered s.rot }).postEvent (.core x.core) (.capsuleSpillTimeout id)
      else
        let s := s.niImage ps (leBytes 64 0) x.img x.poison
        let y := s.core x.core
        let m := y.spill.look 0 x.seq.toNat
        let s := s.setCore x.core { y with spill := y.spill.put x.seq.toNat (if m = BitVec.allOnes 32 then m else m + 1) }
        let s := { s with nextId := s.nextId + 1 }.setCapsule id { x with at_ := .spilled n, order := s.nextId }
        s.postOnce (.core x.core) .bayRefill

/-- Rotations that a capsule waits before it spills: 2,048 cycles (R255). -/
def spillAfter : Nat := 128

/-- A capsule that waits in the input buffer (R255). -/
def State.bufferCapsule (s : State) (id : Nat) (x : Capsule) (l : Launch) : State :=
  if s.bufferRoom x.core < capFlits (imgHeader x.img) then s.spillCapsule id x l
  else
    ((s.setCapsule id { x with at_ := .buffered s.rot }).postEvent (.core x.core) (.capsuleSpillTimeout id)).postOnce
      (.core x.core) .bayRefill

/-- Entries of a spill ring (R259). -/
def ringSize : Nat := 64

/-- A capsule reaches its target (R255, R259, R335), or one whose place is not resolved goes on (R372). -/
def State.arriveCapsule (s : State) (id : Nat) (x : Capsule) (l : Launch) : State :=
  match x.at_ with
  | .unresolved => if l.aborted then s.discardCapsule id else s.goOn id
  | .flying =>
    let s := s.rouse x.core
    let y := s.core x.core
    if l.aborted then s.discardCapsule id
    else if l.preempted then
      if y.ring.length < ringSize then
        (s.setCore x.core { y with ring := y.ring ++ [.capsule x.seq id] }).setCapsule id { x with at_ := .ring }
      else s.spillCapsule id x l
    else
      let free := y.freeBays
      if free.isEmpty || !(s.mayLand x.core true).isEmpty || !(s.mayLand x.core false).isEmpty then s.bufferCapsule id x l
      else
        let (n, s) := s.choose free.length
        let (ok, s) := s.land id x l (free.getD n 0)
        if ok then s else s.postEvent (.item id) .capsuleArrival
  | _ => s

/-- The core that a travelling capsule has left last (R245): the newest entry of its sillage. -/
def Capsule.from_ (x : Capsule) : CoreId := (imgHeader x.img).extractLsb' 256 10

/-- A capsule whose way sleeps waits for the links (R378). No order holds between two capsules (R255). -/
def execCapsuleArrival (s : State) : Host.Outcome State Fault Refusal :=
  match s.cur with
  | .item id => match s.capsules.find id with
    | none => .next s
    | some x =>
      let way := if x.at_ = .flying then pathOf x.from_ x.core else []
      if !s.linksUp way then .next ((s.postEvent (.item id) .capsuleArrival).wakeLinks way)
      else match s.launch x.seq with
        | none => .next s
        | some l => .next (s.arriveCapsule id x l)
  | _ => .fault .wrongAgent

/-- A capsule that has waited 2,048 cycles spills (R255). -/
def execCapsuleSpillTimeout (id : Nat) (s : State) : Host.Outcome State Fault Refusal :=
  match s.cur with
  | .core c => match s.capsules.find id with
    | none => .next s
    | some x => match x.at_, s.launch x.seq with
      | .buffered since, some l =>
        .next (s.timed (since + spillAfter) (.core c) (.capsuleSpillTimeout id) fun s => s.spillCapsule id x l)
      | _, _ => .next s
  | _ => .fault .wrongAgent

/-- The capsule that the next free bay takes: the oldest spilled one of the core, else the oldest that waits (R255). -/
def State.nextLanding (s : State) (c : CoreId) : Option (Nat × Capsule) :=
  match oldest (s.mayLand c true) with
  | some x => some x
  | none => oldest (s.mayLand c false)

/-- The slot of the overflow area that holds a capsule. -/
def spillSlot (w : CapWhere) : Option Nat :=
  match w with
  | .spilled k => some k
  | _ => none

/-- The chosen capsule lands in bay b, and the next one is looked at; while the token's holder bars the bay it is tried again (R225, R255). -/
def State.landNext (s : State) (c : CoreId) (id : Nat) (x : Capsule) (l : Launch) (b : Nat) : State :=
  let (ok, s) := s.land id x l b
  if ok then (if (s.nextLanding c).isSome then s.postOnce (.core c) .bayRefill else s) else s.postEvent (.core c) .bayRefill

/-- A bay that has become free is refilled (R255). -/
def State.refill (s : State) (c : CoreId) : State :=
  match (s.core c).freeBays, s.nextLanding c with
  | b :: bs, some (id, x) => match s.launch x.seq with
    | none => s
    | some l =>
      let (n, s) := s.choose (b :: bs).length
      (spillSlot x.at_).elim (s.landNext c id x l ((b :: bs).getD n 0)) fun k =>
        match s.niPages c l (overflowAt l k) 8576 .read with
        | .held va lvl e => s.spillHold id x l va lvl e (some k)
        | .fail va lvl e => s.spillHold id x l va lvl e (some k)
        | .reject va m => (s.countRejection m).spillHold id x l va 0 0 (some k)
        | .wait => s.postEvent (.core c) .bayRefill
        | .ok _ => s.landNext c id x l ((b :: bs).getD n 0)
  | _, _ => s

def execBayRefill (s : State) : Host.Outcome State Fault Refusal :=
  match s.cur with
  | .core c => .next (s.refill c)
  | _ => .fault .wrongAgent

/-- The header of the capsule in a bay. -/
def State.bayHeader (s : State) (c : CoreId) (l : Launch) (b : Nat) : BitVec 512 :=
  BitVec.ofNat 512 (leNat (s.committedLs c (l.bayOffset b) 64))

/-- The landed bay that the next visit takes: the highest priority, then the first that landed (R251). -/
def State.nextVisit (s : State) (c : CoreId) (l : Launch) : Option Nat :=
  ((List.range 4).filter fun b => ((s.core c).bay b).st == .landed).foldl (fun (a : Option Nat) b => match a with
    | none => some b
    | some a =>
      let pa := capPrio (s.bayHeader c l a)
      let pb := capPrio (s.bayHeader c l b)
      if pa < pb ∨ (pa = pb ∧ ((s.core c).bay b).order < ((s.core c).bay a).order) then some b else some a) none

/-- A visit starts on an idle capsule slot, at the next rotation boundary (R251, R194). -/
def State.startVisit (s : State) (c : CoreId) : State :=
  let k : SlotId := 14
  let y := s.slot c k
  match s.launchOf c k with
  | none => s
  | some l =>
    if !entryCapr y.entry || entryState y.entry != stBound || y.starting.isSome || l.preempted || l.aborted then s
    else match s.nextVisit c l with
      | none => s
      | some b =>
        let s := s.rouse c
        let off := l.bayOffset b
        let h := s.bayHeader c l b
        let e : BitVec 128 := BitVec.ofNat 128 (leNat (s.committedLs c (off + entAt (capHead h)) 16))
        let r := (startRegs l (handlerPc l e)).withG
          [entParam e, BitVec.ofNat 64 (off + 0x140), BitVec.ofNat 64 off, BitVec.ofNat 64 (capHead h)]
        let r := { r with bay := BitVec.ofNat 2 b, vis := true, bayOff := BitVec.ofNat 13 (off / 64), hops := BitVec.ofNat 8 (capHops h) }
        let s := s.setCore c ((s.core c).setBay b { (s.core c).bay b with st := .visit })
        (s.setSlot c k { s.slot c k with starting := some { regs := r } }).atBoundary c k

def execCapsuleVisitStart (s : State) : Host.Outcome State Fault Refusal :=
  match s.cur with
  | .core c => .next (s.startVisit c)
  | _ => .fault .wrongAgent

/-- The bay of a visit becomes free once its image has been copied (R250). [log 28, DEDUCED] -/
def State.freeBay (s : State) (c : CoreId) (b : BitVec 2) : State :=
  (s.setCore c ((s.core c).setBay b.toNat {})).postOnce (.core c) .bayRefill

/-- The poisoned pieces of an image in a local store (R345). -/
def Core.imagePoison (x : Core) (off : Nat) : List Nat :=
  (x.lsPoison.filter fun g => decide (off / 64 ≤ g) && decide (g < (off + capBytes) / 64)).map (· - off / 64)

/-- The image in a bay, as committed. [log 28, DEDUCED] -/
def State.bayImage (s : State) (c : CoreId) (l : Launch) (b : BitVec 2) : Mem :=
  Mem.setBytes [] 0 (s.committedLs c (l.bayOffset b.toNat) capBytes)

/-- A visit that faulted strands its capsule, and the slot becomes idle (R253). -/
def State.strandVisit (s : State) (c : CoreId) (k : SlotId) (t : Trap) : State :=
  match s.launchOf c k with
  | none => s
  | some l =>
    let y := s.slot c k
    let q := entrySeq y.entry
    let b := y.regs.bay
    let id := s.nextId
    let detail : Byte := if t.cause = 0x0A then t.info.setWidth 8 else 0
    let s := { s with nextId := id + 1 }.setCapsule id
      { img := s.bayImage c l b, seq := q, core := c, at_ := .unresolved, order := id
        poison := (s.core c).imagePoison (l.bayOffset b.toNat) }
    (((s.freeBay c b).dropToken (.slot c k)).reservedIdle c k).strand id t.cause detail y.regs.pc t.addr

/-- A strand, or one that waited (R253, R261). -/
def execCapsuleVisitStrand (s : State) : Host.Outcome State Fault Refusal :=
  match s.cur with
  | .slot c k => match (s.slot c k).park with
    | .strand t => .next (s.strandVisit c k t)
    | _ => .next s
  | .item id => match s.capsules.find id with
    | none => .next s
    | some x => match x.at_ with
      | .strandHeld _ code detail pc addr => .next (s.strand id code detail pc addr)
      | _ => .next s
  | _ => .fault .wrongAgent

/-- Messages that a message slot's queue holds (R297). -/
def messageRoom : Nat := 32

/-- An arrival caught by the spill ring of a core, or returned to its sender's outbox when the ring is full (R349). -/
def State.catchItem (s : State) (c src : CoreId) (i : RingItem) : State :=
  let y := s.core c
  if y.ring.length < ringSize then s.setCore c { y with ring := y.ring ++ [i] }
  else s.setCore src { s.core src with outbox := (s.core src).outbox ++ [(c, i)] }

/-- Messages of one sender slot to one target. -/
def Msg.sameWay (a b : Msg) : Bool := a.src == b.src && a.srcSlot == b.srcSlot && a.dst == b.dst

/-- An earlier message of the same sender slot to the same target is still on its way: it arrives first (R297). -/
def State.overtakes (s : State) (id : Nat) (m : Msg) : Bool := s.flying.any fun e => decide (e.1 < id) && e.2.sameWay m

/-- A message is off the fabric; the next one of its sender slot to its target may arrive. -/
def State.landed (s : State) (id : Nat) (m : Msg) : State :=
  let s := { s with flying := s.flying.del id }
  match s.flying.find? fun e => e.2.sameWay m with
  | some e => s.postOnce (.item e.1) .activeMessageArrival
  | none => s

/-- A message reaches its target, in the order of its sender slot (R297, R349). -/
def State.arriveMessage (s : State) (id : Nat) (m : Msg) (l : Launch) : State :=
  let out (s : State) : State := s.landed id m
  if s.overtakes id m then s
  else if l.aborted || l.completed then out s
  else if l.preempted then (out s).catchItem m.dst m.src (.msg m)
  else
    let s := s.rouse m.dst
    let y := s.core m.dst
    if messageRoom ≤ y.msgs.length then s
    else ((out s).setCore m.dst { s.core m.dst with msgs := y.msgs ++ [m] }).postOnce (.core m.dst) .messageHandlerStart

/-- A message whose way sleeps waits for the links (R378). -/
def execActiveMessageArrival (s : State) : Host.Outcome State Fault Refusal :=
  match s.cur with
  | .item id => match s.flying.find id with
    | none => .next s
    | some m =>
      let way := pathOf m.src m.dst
      if !s.linksUp way then .next ((s.again (s.sameChannel m) (.event (.item id) .activeMessageArrival)).wakeLinks way)
      else match s.launch m.seq with
        | none => .next { s with flying := s.flying.del id }
        | some l => .next (s.arriveMessage id m l)
  | _ => .fault .wrongAgent

/-- The queue of a message slot has room again: messages that wait in the fabric arrive, in order (R297). -/
def State.recallMessages (s : State) (c : CoreId) : State :=
  s.flying.foldl (fun s e => if e.2.dst = c then s.postOnce (.item e.1) .activeMessageArrival else s) s

/-- A message is taken from the queue of a core. -/
def State.takeMessage (s : State) (c : CoreId) (m : Msg) : State :=
  (s.setCore c { s.core c with msgs := (s.core c).msgs.erase m }).recallMessages c

/-- The message slot of a core is idle and may take the next message of its launch. -/
def State.messageIdle (s : State) (c : CoreId) : Option (Msg × Launch) :=
  let y := s.slot c 15
  match (s.core c).msgs, s.launchOf c 15 with
  | m :: _, some l =>
    if entryMsgr y.entry && entryState y.entry == stBound && y.starting.isNone && y.waiting.isNone && y.park == .idle
        && !l.preempted && !l.aborted then some (m, l) else none
  | _, _ => none

/-- A handler starts on the idle message slot for the next message, at the next rotation boundary (R296). -/
def State.startMessage (s : State) (c : CoreId) : State :=
  match s.messageIdle c with
  | none => s
  | some (m, l) =>
    if m.lsr then s.postOnce (.core c) .lsrRequestService
    else
      let s := (s.takeMessage c m).rouse c
      let r := (startRegs l m.pc).withG [m.arg, m.src.setWidth 64, m.srcSlot.setWidth 64, BitVec.ofNat 64 (bit m.ret.isSome)]
      (s.setSlot c 15 { s.slot c 15 with starting := some { regs := r, msg := some m } }).atBoundary c 15

def execMessageHandlerStart (s : State) : Host.Outcome State Fault Refusal :=
  match s.cur with
  | .core c => .next (s.startMessage c)
  | _ => .fault .wrongAgent

/-- The launch slot index of a slot, or its reserved role: 16 capsule slot, 17 message slot (R347). -/
def entryRole (e : BitVec 128) : Nat := if entryCapr e then 16 else if entryMsgr e then 17 else entryLslot e

/-- Registers with a G register written, whose dead bit is cleared (R72). -/
def Regs.putG (r : Regs) (d : BitVec 5) (x : Word) : Regs :=
  { r with g := r.g.set d.toNat x d.isLt, dead := r.dead &&& ~~~(1#64 <<< deadG d) }

/-- The awaited result written where a squash keeps it: to the registers, and to every checkpoint taken after the ERET; kept for the ERET while its own chunk is not yet granted (R338). -/
def Slot.putAwaited (y : Slot) (d : BitVec 5) (x : Word) : Slot :=
  let open_ := if y.chunk.eret then y.chunk else { y.chunk with chk := y.chunk.chk.putG d x }
  let eretWaits := (y.waiting.map (·.eret)).getD false
  let waiting := if y.chunk.eret || eretWaits then y.waiting else y.waiting.map fun w => { w with chk := w.chk.putG d x }
  { y with
    regs := y.regs.putG d x, chunk := open_, waiting := waiting, awaiting := none
    arrived := if y.chunk.eret || eretWaits then some x else none }

/-- A remote result reaches its slot (R294, R296); a slot truncated meanwhile gets it at ERET (R338, R349). -/
def State.giveResult (s : State) (c : CoreId) (k : SlotId) (x : Word) : State :=
  let y := s.slot c k
  let cur := s.cur
  match y.park with
  | .remote d =>
    let s := { s with cur := .slot c k }
    let s := s.setG d x
    let s := s.setRegs s.regs.advance
    { ((s.freshChunk c k).wake c k) with cur := cur }
  | _ => match y.awaiting with
    | some d => s.setSlot c k (y.putAwaited d x)
    | none => s.setSlot c k { y with arrived := some x }

/-- The result of a message goes back to its sender (R294, R296); while the launch is pre-empted it is caught like any arrival (R349). -/
def State.returnResult (s : State) (m : Msg) (x : Word) : State :=
  let y := s.slot m.src m.srcSlot
  match s.launch m.seq with
  | none => s
  | some l =>
    if entrySeq y.entry ≠ m.seq ∨ l.aborted then s
    else if l.preempted && y.park != .remote (m.ret.getD 0) then s.catchItem m.src m.dst (.result m.seq (entryRole y.entry) x)
    else (s.rouse m.src).giveResult m.src m.srcSlot x

/-- The value of an LSR from the bytes read (R294). [log 63, DEDUCED] -/
def lsrValue (arg : Word) (x : Nat) : Word :=
  let e := 8 * 2 ^ fieldNat arg 0 2
  if arg.getLsbD 2 && x.testBit (e - 1) then BitVec.ofInt 64 ((x : Int) - 2 ^ e) else BitVec.ofNat 64 x

/-- The message slot performs a remote read as a chunk of one access, which waits until no other chunk of the core holds the granule and then for its grant (R294, R277). [log 63, DEDUCED] -/
def State.beginRead (s : State) (c : CoreId) (m : Msg) : State :=
  let n := 2 ^ fieldNat m.arg 0 2
  let off := m.pc.toNat
  let gs := linesOf off n
  let busy := (s.core c).slots.any fun e =>
    ((e.2.struck fun x => gs.any fun g => x.lsW.contains g || x.lsA.contains g)).isSome
  if busy then s.postEvent (.core c) .lsrRequestService
  else match (s.core c).lsPoison.find? fun g => gs.contains g with
    | some g =>
      let s := (s.takeMessage c m).postOnce (.core c) .messageHandlerStart
      if entrySeq (s.slot m.src m.srcSlot).entry = m.seq then
        s.trapDue m.src m.srcSlot (poisonTrap (BitVec.ofNat 64 (windowBase + 64 * g)) 3 false)
      else s
    | none =>
      let y := s.slot c 15
      let w : Chunk := { chk := y.regs, start := s.rot * 16 + 15, len := 1, lsR := gs, opened := true }
      let x := lsrValue m.arg (leNat ((s.core c).ls.bytes off n))
      let s := s.setSlot c 15 { y with waiting := some w, park := .grant (.read m x) }
      { s with requests := s.requests ++ [Request.slot c 15] }.postOnce .none .commitGrant

/-- LSR_REQUEST_SERVICE: the chunk of a remote read begins, or its answer leaves once the chunk is granted (R294). [log 63, DEDUCED] -/
def State.serveLsr (s : State) (c : CoreId) : State :=
  match (s.slot c 15).park with
  | .read m x =>
    let s := s.setSlot c 15 { s.slot c 15 with park := .idle }
    let s := ((s.takeMessage c m).returnResult m x).postOnce (.core c) .messageHandlerStart
    s.preCheck (entryCtx (s.slot c 15).entry)
  | _ => match s.messageIdle c with
    | none => s
    | some (m, _) => if m.lsr then s.beginRead c m else s.postOnce (.core c) .messageHandlerStart

def execLsrRequestService (s : State) : Host.Outcome State Fault Refusal :=
  match s.cur with
  | .core c => .next (s.serveLsr c)
  | _ => .fault .wrongAgent

/-- A token of a barrier reaches a core (R204); one whose way sleeps waits for the links (R378). A pre-emption that waits for tokens is looked at again (R346). -/
def State.tokenArrives (s : State) (c : CoreId) (t : Token) (i : Instr) : State :=
  let way := pathOf (s.tokenFrom c t.kind t.b) c
  let p : Pick := .event (.core c) i
  if !s.linksUp way then (s.again (fun q => (s.tokenWay p).isSome && s.tokenWay q == s.tokenWay p) p).wakeLinks way
  else
    let s := s.takeToken c t
    match s.gangOn c with
    | some (_, l) => s.preCheck (descCtx l.desc)
    | none => s

def execBarrierRowToken (b : BitVec 3) (shape : BitVec 6) (s : State) : Host.Outcome State Fault Refusal :=
  match s.cur with
  | .core c => .next (s.tokenArrives c { kind := 0, b := b, shape := shape } (.barrierRowToken b shape))
  | _ => .fault .wrongAgent

def execBarrierColumnToken (b : BitVec 3) (shape : BitVec 6) (s : State) : Host.Outcome State Fault Refusal :=
  match s.cur with
  | .core c => .next (s.tokenArrives c { kind := 1, b := b, shape := shape } (.barrierColumnToken b shape))
  | _ => .fault .wrongAgent

def execBarrierReleaseToken (b : BitVec 3) (shape : BitVec 6) (s : State) : Host.Outcome State Fault Refusal :=
  match s.cur with
  | .core c => .next (s.tokenArrives c { kind := 2, b := b, shape := shape } (.barrierReleaseToken b shape))
  | _ => .fault .wrongAgent

/-- The record of a group in which a barrier spans packages. [log 69, DEDUCED] -/
def State.groupRec (s : State) (group : BitVec 16) (b : BitVec 3) : Option (Nat × PkgBar) :=
  s.pkgBars.find? fun e => e.2.group == group && e.2.npkg != 0 && e.2.bmask.getLsbD b.toNat

/-- The master counts an arrival and releases at NPKG arrivals (R404). -/
def execPkgBarrierArrivalMsg (group : BitVec 16) (b : BitVec 3) (gen : Byte) (s : State) : Host.Outcome State Fault Refusal :=
  match s.cur with
  | .none => match s.groupRec group b with
    | none => .next s
    | some (_, r) =>
      if r.master ≠ s.pkg then .next s
      else
        let same (x : BitVec 16 × BitVec 3 × Byte × Nat) : Bool := x.1 == group && x.2.1 == b && x.2.2.1 == gen
        let n := (match s.pkgCount.find? same with
          | some x => x.2.2.2
          | none => 0) + 1
        let rest := s.pkgCount.filter fun x => !same x
        if n < r.npkg.toNat then .next { s with pkgCount := (group, b, gen, n) :: rest }
        else .next (({ s with pkgCount := rest }.send (.pkgRelease group b gen)).postEvent .none (.pkgBarrierReleaseMsg group b gen))
  | _ => .fault .wrongAgent

/-- A release message for the corner of a gang (R404): it releases; while the launch is saved the message is kept for its resume, and until its slots stand in the table again it waits (R349). [log 69, DEDUCED] -/
def State.cornerRelease (s : State) (n : CtxId) (q : SeqNo) (l : Launch) (group : BitVec 16) (b : BitVec 3) (gen : Byte) : State :=
  let c := l.at 0 0
  if (s.gangOn c).map (·.1) = some q then
    (if (s.bar c b).valid && (s.bar c b).niGen == gen then s.release c b else s)
  else if l.preempted then { s with pkgHeld := insertOnce s.pkgHeld (n, b, gen) }
  else if l.allBound then s.postOnce .none (.pkgBarrierReleaseMsg group b gen)
  else s

/-- The corner of every launch that the group's record covers releases (R404). [log 69, DEDUCED] -/
def execPkgBarrierReleaseMsg (group : BitVec 16) (b : BitVec 3) (gen : Byte) (s : State) : Host.Outcome State Fault Refusal :=
  match s.cur with
  | .none => match s.groupRec group b with
    | none => .next s
    | some (n, _) =>
      .next (s.launches.foldl (fun s e =>
        let l := e.2
        if (descCtx l.desc).toNat = n ∧ descGang l.desc ∧ ¬ l.completed then
          s.cornerRelease (BitVec.ofNat 12 n) (BitVec.ofNat 32 e.1) l group b gen
        else s) s)
  | _ => .fault .wrongAgent

end Sys2Proof.Machine
end

