-- ==== Sys2Proof/Machine/Arbiter.lean ====
section
/-! DEFINITION. Commit requests: what a grant would change, when it is held back, the footprint and the arbiters of a request, and which request is granted next (09_chunks_and_consistency.md R219, R220, R225, R243, 10 R256, 16_package_stacks_decant.md R362 to R364, R371, R378). -/

namespace Sys2Proof.Machine

/-- The chunk that a request would commit; none: the request has lapsed. -/
def State.requestChunk (s : State) (r : Request) : Option Chunk :=
  match r with
  | .slot c k => (s.slot c k).waiting
  | .engine e => if (s.engine e).waiting then some (s.engine e).chunk else none
  | .decant c k m _ => match (s.slot c k).park with
    | .decant m' _ => if m' = m then some (s.slot c k).chunk else none
    | _ => none

/-- The order of grants among pending requests: start, core number, slot (R220); engine n ranks as core 1,024 + n (R311). -/
def requestRank (r : Request) (w : Chunk) : Nat × Nat × Nat :=
  match r with
  | .slot c k => (w.start, c.toNat, k.toNat)
  | .engine e => (w.start, 1024 + e.toNat, 0)
  | .decant c k _ _ => (w.start, c.toNat, k.toNat)

/-- One rank comes before another. -/
def rankBefore (a b : Nat × Nat × Nat) : Bool :=
  decide (a.1 < b.1) || (a.1 == b.1 && (decide (a.2.1 < b.2.1) || (a.2.1 == b.2.1 && decide (a.2.2 < b.2.2))))

/-- Buffered bytes of physical addresses, and those of a local store by offset. -/
def memCells (wr : List Host.Cell) : List Host.Cell := wr.filter fun e => decide (e.1 < lsKey 0)
def lsCells (wr : List Host.Cell) : List Host.Cell :=
  wr.filterMap fun e => if lsKey 0 ≤ e.1 then some (e.1 - lsKey 0, e.2) else none

/-- The granules of cells, each once. -/
def cellGranules (cells : List Host.Cell) : List Nat := cells.foldl (fun l e => insertOnce l (e.1 / 64)) []

/-- Where the records that a chunk's LAUNCHes append will lie (R209): after i earlier ones of the chunk. -/
def State.launchLines (s : State) : List Deferred → List (TowerId × QueueId) → List Nat
  | [], _ => []
  | .launch t q _ :: ds, seen =>
    let y := s.queue t q
    let i := (seen.filter (· == (t, q))).length
    (match s.noseAt t y.ctx (y.slotAt (y.tail + BitVec.ofNat 32 i)) true with
      | .at_ l => l.lines 32
      | _ => []) ++ s.launchLines ds ((t, q) :: seen)
  | _ :: ds, seen => s.launchLines ds seen

/-- Lines that the effects of a grant change (R221). [log 71, DEDUCED] -/
def effectLines (ds : List Deferred) : List Nat :=
  ds.flatMap fun d => match d with
    | .atomic _ ty pa _ => linesOf pa (atomicBits ty / 8)
    | .arrival pa _ _ => linesOf pa 16
    | _ => []

/-- Granules that the effects of a grant change from outside a core (R278). -/
def effectGranules (ds : List Deferred) : List (CoreId × List Nat) :=
  ds.filterMap fun d => match d with
    | .lsw c off size _ => some (c, linesOf off (2 ^ size.toNat))
    | .lsadd c off ty _ => some (c, linesOf off (atomicBits ty / 8))
    | .lsArrival c off _ _ => some (c, linesOf off 16)
    | _ => none

/-- The lines of the next record of a recording of the context, and of its header when the buffer fills (R242). [log 90, DEDUCED] -/
def State.journalLines (s : State) (n : CtxId) : List Nat :=
  let j := s.journal n
  if !j.rec_ then []
  else (if journalRoom j.frames.length ≤ j.count.toNat + 1 then linesOf (j.at 0) 64 else [])
    ++ (if j.count.toNat < journalRoom j.frames.length then linesOf (j.at (64 + 16 * j.count.toNat)) 16 else [])

/-- The lines of the headers that the JRNL operations of a chunk write (R242). -/
def State.jrnlLines (s : State) (n : CtxId) (ds : List Deferred) : List Nat :=
  let j := s.journal n
  let old := if j.rec_ then linesOf (j.at 0) 64 else []
  ds.flatMap fun d => match d with
    | .jrnlOff => old
    | .jrnlOn rpl frames _ => old ++ (if rpl then [] else linesOf (frames.headD 0) 64)
    | _ => []

/-- The stack of a queue record that a LAUNCH of the chunk will append is being handed over (16 R372). -/
def State.launchWaits (s : State) (ds : List Deferred) : Bool :=
  ds.any fun d => match d with
    | .launch t q _ => (match s.noseAt t (s.queue t q).ctx ((s.queue t q).slotAt (s.queue t q).tail) true with
      | .wait => true
      | _ => false)
    | _ => false

/-- Lines that a request's grant commits. -/
def State.grantLines (s : State) (n : CtxId) (w : Chunk) : List Nat :=
  specLines (memCells w.wr) ++ effectLines w.effects ++ s.launchLines w.effects [] ++ s.journalLines n ++ s.jrnlLines n w.effects

/-- The grant is held back: its list would squash the chunk of the token's holder (R225), or a line's stack is being handed over (R371). [log 71, DEDUCED] [log 90, DEDUCED] -/
def State.grantBarred (s : State) (r : Request) (n : CtxId) (c : CoreId) (w : Chunk) : Bool :=
  let lines := s.grantLines n w
  let inner := match r with
    | .engine _ => [(c, cellGranules (lsCells w.wr))]
    | _ => []
  let own := w.lsW ++ w.lsA
  (s.token != some r && (s.tokenBars lines || (effectGranules w.effects ++ inner).any (fun g => s.tokenBarsLs g.1 g.2)
      || s.tokenReadsLs c own))
    || s.launchWaits w.effects || lines.any fun l => match (s.stack (stackOf (64 * l))).st with
      | .pouring => true
      | .claiming => true
      | _ => false

/-- What a deferred effect adds to, and takes from, the population of its launch (R256). -/
def Deferred.population (d : Deferred) : Nat × Nat :=
  match d with
  | .capsend _ _ => (1, 0)
  | .capend _ => (0, 1)
  | _ => (0, 0)

/-- The grant would not raise the launch's population above NSLOT (R256). -/
def State.populationOk (s : State) (q : SeqNo) (w : Chunk) : Bool :=
  let up := (w.effects.map fun d => d.population.1).sum
  let down := (w.effects.map fun d => d.population.2).sum
  match s.launch q with
  | some l => decide (up ≤ down) || decide (l.population + up ≤ l.nslot + down)
  | none => true

/-- The waiting chunk was cut by a capacity limit (R243). [log 37, DEDUCED] -/
def Slot.cutByCapacity (y : Slot) : Bool := y.cut == 2 || y.cut == 3 || y.cut == 4

/-- Replay diverges at this chunk of a slot (R243). -/
def State.chunkDiverges (s : State) (c : CoreId) (k : SlotId) (w : Chunk) : Bool :=
  let y := s.slot c k
  s.replayDiverges (entryCtx y.entry) c.toNat k.toNat 0 w.len y.cutByCapacity

/-- A request can be granted now (R219, R225, R243, R256, R298, R302, R371). -/
def State.admits (s : State) (r : Request) (w : Chunk) : Bool :=
  match r with
  | .slot c k =>
    let y := s.slot c k
    let n := entryCtx y.entry
    y.holdBack == 0 && s.populationOk (entrySeq y.entry) w && !s.grantBarred r n c w
      && (s.replayAdmits n c.toNat k.toNat 0 || s.chunkDiverges c k w)
  | .engine e =>
    let m := (s.engine e).cmd.getD 0
    !s.grantBarred r (cmdCtx m) (cmdOrig m) w && s.replayAdmits (cmdCtx m) e.toNat 0 2
  | .decant c k m _ =>
    let test (x : Chunk) : Bool := x.stks.getLsbD m.toNat
    (s.slot c k).holdBack == 0 && !s.tokenHit (fun _ => test) test

/-- The places that a commit request must reach (R363): homes of lines; cores recorded as sharers of written lines; cores whose local store the chunk has used or its grant writes, or that capsules leave from; engines kicked, or its own; command queues. -/
structure Footprint where
  homes : List TowerId := []
  sharers : List CoreId := []
  stores : List CoreId := []
  engines : List EngineId := []
  queues : List (TowerId × QueueId) := []
  deriving DecidableEq, Repr

/-- The cores that a directory entry names (R281). -/
def DirEntry.cores (e : DirEntry) : List CoreId :=
  e.sharers ++ (if e.mask = 0 then [] else ((List.range 1024).map (BitVec.ofNat 10)).filter fun c => e.mask.getLsbD (clusterOf c))

/-- Lines by whose homes the chunk's watches lie: the ends of each range (R217). -/
def Watch.lines (w : Watch) : List Nat := w.spans.flatMap fun p => [p.1 / 64, (p.2 - 1) / 64]

/-- Cores whose local store an effect uses, or from which a capsule leaves (R363). -/
def Deferred.stores (d : Deferred) (own : CoreId) : List CoreId :=
  match d with
  | .lsw c _ _ _ => [c]
  | .lsadd c _ _ _ => [c]
  | .lsArrival c _ _ _ => [c]
  | .amsg m => [m.dst]
  | .lsAtomic _ _ _ _ => [own]
  | .capsend _ _ => [own]
  | .capnext _ _ => [own]
  | _ => []

/-- The footprint of a chunk of a context, of a core, or of an engine with that core as ORIG (R363). -/
def State.footprint (s : State) (n : CtxId) (own : CoreId) (e : Option EngineId) (w : Chunk) : Footprint :=
  let written := s.grantLines n w
  let local_ := !(w.lsR.isEmpty && w.lsW.isEmpty && w.lsA.isEmpty && (lsCells w.wr).isEmpty)
  { homes := ((w.rlines ++ w.watches.flatMap Watch.lines ++ written).map s.homeOf).foldl insertOnce []
    sharers := written.flatMap fun l => (s.dir.look {} l).cores
    stores := (if local_ then [own] else []) ++ w.effects.flatMap fun d => d.stores own
    engines := e.toList ++ w.effects.filterMap fun d => match d with
      | .kick x _ => some x
      | _ => none
    queues := w.effects.filterMap fun d => match d with
      | .launch t q _ => some (t, q)
      | _ => none }

/-- What a DECANT of a stack must reach (R371): the homes on both its ports, and the cores and engines whose chunks have used it. -/
def State.decantFootprint (s : State) (m : StackId) : Footprint :=
  let used (x : Chunk) : Bool := x.stks.getLsbD m.toNat
  { homes := [towerOfDie (stackDie0 m), towerOfDie (stackDie1 m)]
    sharers := (s.allSlots.filter fun (c, k) => used (s.slot c k).chunk || used ((s.slot c k).waiting.getD {})).map (·.1)
    engines := s.allEngines.filter fun e => used (s.engine e).chunk }

def State.reachOf (s : State) (r : Request) (w : Chunk) : Footprint :=
  match r with
  | .slot c k => s.footprint (entryCtx (s.slot c k).entry) c none w
  | .engine e =>
    let m := (s.engine e).cmd.getD 0
    s.footprint (cmdCtx m) (cmdOrig m) (some e) w
  | .decant _ _ m _ => s.decantFootprint m

def Footprint.cores (f : Footprint) : List CoreId := f.sharers ++ f.stores

/-- The towers that a footprint meets. -/
def Footprint.towers (f : Footprint) : List TowerId :=
  (f.homes ++ f.cores.map towerOf ++ f.engines.map engineTower ++ f.queues.map (·.1)).foldl insertOnce []

/-- Footprints share a home, a sharer, a core, an engine or a queue (R364). -/
def Footprint.meets (a b : Footprint) : Bool :=
  (a.homes.any fun x => b.homes.contains x) || (a.cores.any fun x => b.cores.contains x)
    || (a.engines.any fun x => b.engines.contains x) || (a.queues.any fun x => b.queues.contains x)

/-- The context of a request, and the core it comes from. -/
def State.requestCtx (s : State) (r : Request) : CtxId :=
  match r with
  | .engine e => cmdCtx ((s.engine e).cmd.getD 0)
  | .slot c k => entryCtx (s.slot c k).entry
  | .decant c k _ _ => entryCtx (s.slot c k).entry

/-- The tower from which a request is sent, and the bond interface it crosses. -/
def requestTower (r : Request) : TowerId :=
  match r with
  | .engine e => engineTower e
  | .slot c _ => towerOf c
  | .decant c _ _ _ => towerOf c

def requestBond (r : Request) : List (BitVec 4) :=
  match r with
  | .engine _ => []
  | .slot c _ => [bondOf (dieOf c)]
  | .decant c _ _ _ => [bondOf (dieOf c)]

/-- The lowest arbiter whose scope covers a footprint (R363); a chunk that uses local store alone, of one cluster, goes to that cluster's. -/
def Footprint.arbiter (f : Footprint) (cl : Nat) (t : TowerId) : Arbiter :=
  let cl := (f.stores.head?.map clusterOf).getD cl
  let t := f.towers.headD t
  if f.homes.isEmpty && f.sharers.isEmpty && f.engines.isEmpty && f.queues.isEmpty && f.stores.all fun c => clusterOf c == cl then .top cl
  else if f.towers.all fun x => x == t then .heart t
  else .base

/-- The arbiter that a request goes to (R363): the base-note arbiter for a DECANT, and for every commit of a context that is recorded or replayed. -/
def State.arbiterOf (s : State) (r : Request) (f : Footprint) : Arbiter :=
  let j := s.journal (s.requestCtx r)
  match r with
  | .decant _ _ _ _ => .base
  | .slot c _ => if j.rec_ || j.rpl then .base else f.arbiter (clusterOf c) (towerOf c)
  | .engine e => if j.rec_ || j.rpl then .base else f.arbiter 0 (engineTower e)

/-- The arbiters that take part in a grant (R364): the request's own, and those that it takes hold of. -/
def Arbiter.holds (a : Arbiter) (f : Footprint) : List Arbiter :=
  let tops := f.stores.map fun c => Arbiter.top (clusterOf c)
  match a with
  | .top cl => [.top cl]
  | .heart t => .heart t :: tops
  | .base => .base :: f.towers.map Arbiter.heart ++ tops

/-- A request that can be granted, as the arbiters see it. -/
structure Bid where
  req : Request
  chunk : Chunk
  reach : Footprint
  holds : List Arbiter

def State.bid (s : State) (r : Request) (w : Chunk) : Bid :=
  let f := s.reachOf r w
  { req := r, chunk := w, reach := f, holds := (s.arbiterOf r f).holds f }

/-- A bid put among others in the order of R220. -/
def insertBid (b : Bid) : List Bid → List Bid
  | [] => [b]
  | x :: xs => if rankBefore (requestRank b.req b.chunk) (requestRank x.req x.chunk) then b :: x :: xs else x :: insertBid b xs

/-- The pending requests that can be granted, in the order of R220. -/
def State.bids (s : State) : List Bid :=
  s.requests.foldl (fun bs r => match s.requestChunk r with
    | none => bs
    | some w => if s.admits r w then insertBid (s.bid r w) bs else bs) []

/-- Two bids need one arbiter, or their footprints meet (R364). -/
def Bid.clashes (a b : Bid) : Bool := (a.holds.any fun x => b.holds.contains x) || a.reach.meets b.reach

/-- The bids that may be granted now: those that clash with none before them, and whose arbiters no grant holds (R364). [log 117, DEDUCED] -/
def State.freeBids (s : State) : List Bid :=
  let all := s.bids
  ((List.range all.length).filterMap fun i => match all[i]? with
    | none => none
    | some b =>
      if (all.take i).any b.clashes || s.arbHeld.any fun h => h.1.any fun a => b.holds.contains a then none else some b)

/-- Links and bonds that a grant crosses (R378): to its arbiter, to the homes, and to the cores of its footprint. -/
def Bid.way (b : Bid) : List (BitVec 4) :=
  let t := requestTower b.req
  let far (x : TowerId) : List (BitVec 4) := linksOf t x
  requestBond b.req ++ (if b.holds.contains .base then far 0 else []) ++ b.reach.towers.flatMap far
    ++ b.reach.cores.map fun c => bondOf (dieOf c)

/-- The bid that is granted next: the earliest chunk of those pending (R220), or, as the tape says, another that no observer can tell from it (R364). [log 117, DEDUCED] -/
def State.nextBid (s : State) : Option Bid × State :=
  match s.freeBids with
  | [] => (none, s)
  | b :: bs =>
    let (i, s) := s.choose (bs.length + 1)
    (some ((b :: bs).getD i b), s)

end Sys2Proof.Machine
end

