-- ==== Sys2Proof/Machine/Grant.lean ====
section
/-! DEFINITION. The grant of a commit request and the effects attached to it, range flushes and TLB invalidations (09_chunks_and_consistency.md R219 to R225, R243, 06 R175, 08 R209, 10 R256, R266, R267, 12 R278, R295 to R302, 13 R310 to R316, 14 R343). -/

namespace Sys2Proof.Machine

/-- Speculative bytes become committed data (R221 step 1, R280, R345). -/
def State.commitCells (s : State) (cells : List Host.Cell) (holder : Option CoreId) : State :=
  let lines := specLines cells
  let whole := lines.filter fun n => (cells.filter fun e => e.1 / 64 == n).length == 64
  let t := { s with mem := cells.foldl (fun (m : Mem) (e : Host.Cell) => m.setByte e.1 e.2) s.mem, poison := whole.foldl (fun p n => p.del n) s.poison }
  t.withCaches (t.dirtied s.mem lines holder)

/-- One deferred atomic at its home (R221 step 2, R235). -/
def State.applyAtomic (s : State) (d : Deferred) : State :=
  match d with
  | .atomic opc ty pa x =>
    let n := atomicBits ty / 8
    s.commitWrite pa (leBytes n (atomicNew opc.toNat ty (atomicBits ty) (s.mem.nat pa n) x.toNat 0)) none
  | _ => s

/-- Deferred atomics in a local store (R235). -/
def applyLsAtomics (ls : Mem) (ds : List Deferred) : Mem :=
  ds.foldl (fun ls d => match d with
    | .lsAtomic opc ty off x =>
      let n := atomicBits ty / 8
      ls.setNat off n (atomicNew opc.toNat ty (atomicBits ty) (ls.nat off n) x.toNat 0)
    | _ => ls) ls

/-- A slot's local-store updates at its grant: deferred atomics, then Absolute deltas (R221); poison goes from granules wholly written (R345). -/
def State.commitLs (s : State) (c : CoreId) (w : Chunk) : State :=
  let x := s.core c
  let healed := x.lsPoison.filter fun g => (w.lsHealed.filter fun i => i / 64 == g).length == 64
  let s := s.setCore c { x with
    ls := mergeDeltas (applyLsAtomics x.ls w.effects) w.deltas, lsPoison := x.lsPoison.filter fun g => !healed.contains g }
  let gs := w.lsW ++ w.lsA
  if gs.isEmpty then s else (s.wakeGranules c gs).squashReaders c gs

/-- A chunk of the message slot has been granted together with another slot's: CHUNKSTAT.SEQ rises (R211, R295). [log 119, DEDUCED] -/
def State.messageChunk (s : State) (c : CoreId) : State :=
  let y := s.slot c 15
  if entryMsgr y.entry then s.setSlot c 15 { y with seq := y.seq + 1 } else s

/-- LSW and LSADD at their target (R295), LSW by a chunk of its message slot; a sleeping target wakes. [log 119, DEDUCED] -/
def State.remoteStore (s : State) (c : CoreId) (off : Nat) (size : BitVec 2) (x : Word) : State :=
  ((s.rouse c).messageChunk c).lsOutside c off (leBytes (2 ^ size.toNat) x.toNat)

def State.remoteAdd (s : State) (c : CoreId) (off : Nat) (ty : BitVec 2) (x : Word) : State :=
  let n := atomicBits ty / 8
  (s.rouse c).lsOutside c off (leBytes n ((leNat (s.committedLs c off n) + x.toNat) % 2 ^ (8 * n)))

/-- The launch is pre-empted: what arrives for it goes to the spill rings (R349). -/
def State.isPreempted (s : State) (q : SeqNo) : Bool :=
  match s.launch q with
  | some l => l.preempted
  | none => false

/-- The record of a LAUNCH appended to its queue (R209); a record that cannot be written stops the queue (R190). [log 72, DEDUCED] -/
def State.appendLaunch (s : State) (t : TowerId) (q : QueueId) (desc : Word) : State :=
  let y := s.queue t q
  let y := { y with reserved := y.reserved - 1 }
  match s.noseAt t y.ctx (y.slotAt y.tail) true with
  | .at_ l =>
    let s := s.noseWrite l (leBytes 32 (1 + desc.toNat * 2 ^ 64))
    (s.setQueue t q { y with tail := y.tail + 1 }).queueNext t q
  | _ => (s.setQueue t q y).stopQueue t q

/-- An arrival word after an engine chunk's bytes, and the abort of its command (R314). [log 26, DEDUCED] -/
def arrivalUpdate (x : Nat) (bytes : Nat) (abort : Option (BitVec 7)) : Nat :=
  let v : BitVec 128 := BitVec.ofNat 128 x
  let target := fieldNat v 64 48
  let c := fieldNat v 0 48 + bytes
  let g := if target ≠ 0 then c / target else 0
  let c := if target ≠ 0 then c % target else c % 2 ^ 48
  let v := match abort with
    | some code => setField (setField v 127 1 1) 112 7 code.toNat
    | none => v
  let g := g + bit abort.isSome
  (setField (setField v 0 48 c) 48 16 (fieldNat v 48 16 + g)).toNat

/-- An engine's command has ended (R306, R307, R310): the engine takes its next one. [log 26, DEDUCED] -/
def State.endEngine (s : State) (e : EngineId) : State :=
  let x := s.engine e
  let m := x.cmd.getD 0
  let s := s.setEngine e { x with cmd := none, regions := 0, std := false, park := .idle, waiting := false, owed := false }
  let s := (s.modLaunch (cmdLseq m) fun l => { l with commands := l.commands - 1 }).checkDone (cmdLseq m)
  ((s.startAgain (engineTower e)).loadAgain (engineTower e)).preCheck (cmdCtx m)

/-- The abort that RESUME.FAIL makes of a held engine step (R315, R343): in the grant of its prefix when that is still to come. -/
def State.failEngine (s : State) (e : EngineId) (t : Trap) : State :=
  let x := s.engine e
  if x.waiting then
    let effects := x.chunk.effects.map (Deferred.arrive x.bytes (some 6))
    s.setEngine e { x with chunk := { x.chunk with effects := effects ++ [.engineFault e 6 t.addr, .cmdEnd e] }, park := .grant }
  else (s.setEngine e { x with park := .ready }).engineAbort e 6 t

/-- A capsule that waited on a hold (R257, R343); the refills of the launch go on, on each of its cores. -/
def State.releaseCapsule (s : State) (id : Nat) (t : TowerId) (hid : BitVec 16) (va : Word) (fail : Bool) : State :=
  match s.capsules.find id with
  | none => s
  | some x => match x.at_, s.launch x.seq with
    | .strandHeld (some w) code detail pc addr, some l =>
      if w ≠ (t, hid) then s
      else if fail then s.discardStrand id x l code addr
      else (s.setCapsule id { x with at_ := .strandHeld none code detail pc addr }).postEvent (.item id) .capsuleVisitStrand
    | .spillHeld t' h' slot, some l =>
      if (t', h') ≠ (t, hid) then s
      else
        let s := if fail then s.strand id 6 0 0 va
          else match slot with
            | some n => s.setCapsule id { x with at_ := .spilled n }
            | none =>
              (s.setCapsule id { x with at_ := .buffered (s.rot - spillAfter) }).postEvent (.core x.core) (.capsuleSpillTimeout id)
        l.cores.foldl (fun s c => s.postOnce (.core c) .bayRefill) s
    | _, _ => s

/-- The release of a hold, for every agent that waits on it (R343); a hold that is not outstanding is ignored. -/
def State.releaseHold (s : State) (t : TowerId) (hid : BitVec 16) (fail : Bool) : State :=
  match s.holds.find? fun h => h.t == t && h.hid == hid with
  | none => s
  | some h =>
    let va : Word := BitVec.ofNat 64 (4096 * h.page)
    let s := { s with holds := s.holds.filter fun h => !(h.t == t && h.hid == hid) }
    let s := s.allSlots.foldl (fun s (c, k) => match (s.slot c k).park with
      | .held t' h' f => if t' = t ∧ h' = hid then (if fail then s.trapDue c k f else s.wake c k) else s
      | _ => s) s
    let s := s.allEngines.foldl (fun s e =>
      let x := s.engine e
      match x.park with
      | .held t' h' f =>
        if t' = t ∧ h' = hid then
          if fail then s.failEngine e f
          else if x.waiting then s.setEngine e { x with park := .grant }
          else (s.setEngine e { x with park := .ready }).postEturn e
        else s
      | _ => s) s
    s.capsules.keys.foldl (fun s id => s.releaseCapsule id t hid va fail) s

/-- The range flush or TLB invalidation of a slot begins: the next chunk of the slot is not granted before its end (R298, R302). -/
def State.holdChunk (s : State) (c : CoreId) (k : SlotId) : State :=
  s.setSlot c k { s.slot c k with holdBack := (s.slot c k).holdBack + 1 }

def State.freeChunk (s : State) (c : CoreId) (k : SlotId) : State :=
  let s := s.setSlot c k { s.slot c k with holdBack := (s.slot c k).holdBack - 1 }
  if s.requests.isEmpty then s else s.postOnce .none .commitGrant

/-- A message handler ends (R296). [log 75, DEDUCED] -/
def State.endHandler (s : State) (c : CoreId) (k : SlotId) : State :=
  let y := s.slot c k
  let s := match y.msg with
    | some m => if m.ret.isSome then s.returnResult m y.regs.g[0] else s
    | none => s
  s.reservedIdle c k

/-- An effect of a slot's grant, in program order (R221 step 4). -/
def State.applyEffect (s : State) (c : CoreId) (k : SlotId) (d : Deferred) : State :=
  let q := entrySeq (s.slot c k).entry
  match d with
  | .atomic _ _ _ _ => s
  | .lsAtomic _ _ _ _ => s
  | .lsw t off size x =>
    if s.isPreempted q then s.catchItem t c (.lsw q off size x) else s.remoteStore t off size x
  | .lsadd t off ty x =>
    if s.isPreempted q then s.catchItem t c (.lsadd q off ty x) else s.remoteAdd t off ty x
  | .amsg m => s.sendMsg m
  | .kick e m =>
    let x := s.engine e
    (s.setEngine e { x with reserved := x.reserved - 1 }).enqueueCmd e m
  | .launch t q' desc => s.appendLaunch t q' desc
  | .capsend h inj =>
    let img := Mem.setBytes [] 0 (s.committedLs c h capBytes)
    (s.modLaunch q fun l => { l with population := l.population + 1 }).depart c q img ((s.core c).imagePoison h) none inj
  | .capnext b n => match s.launch q with
    | none => s
    | some l =>
      let img := s.bayImage c l b
      (((s.freeBay c b).reservedIdle c k).depart c q img ((s.core c).imagePoison (l.bayOffset b.toNat)) (some n) false)
  | .capend b =>
    let s := s.modLaunch q fun l => { l with population := l.population - 1 }
    ((s.freeBay c b).reservedIdle c k).checkDone q
  | .resume t hid fail => s.releaseHold t hid fail
  | .flush kind lines =>
    (({ s with flushes := s.flushes ++ [Flush.mk c k kind lines] }).holdChunk c k).postEvent (.slot c k) .rangeFlushWalk
  | .tlbinv scope va ctx =>
    let id := s.nextId
    (({ s with nextId := id + 1, pendings := s.pendings.put id (.tlb c k scope va ctx) }).holdChunk c k).postEvent
      (.item id) .tlbInvalidationComplete
  | .halt => s.slotDone c k
  | .msgEnd => s.endHandler c k
  | .arrival _ _ _ => s
  | .lsArrival _ _ _ _ => s
  | .cmdEnd _ => s
  | .engineFault _ _ _ => s
  | .jrnlOff => s.journalOff (entryCtx (s.slot c k).entry)
  | .jrnlOn rpl frames total => s.journalOn (entryCtx (s.slot c k).entry) q rpl frames total

/-- The chunk of a JRNL.RPL is not an event of the replay that it begins. [log 48, DEDUCED] -/
def Chunk.beginsReplay (w : Chunk) : Bool :=
  w.effects.any fun d => match d with
    | .jrnlOn rpl _ _ => rpl
    | _ => false

/-- The slot of the next replay record can offer nothing more: it has halted (R243). -/
def State.replayHalted (s : State) (n : CtxId) : State :=
  let j := s.journal n
  if !j.rpl then s
  else
    let r := s.journalRec j j.count.toNat
    let c : CoreId := BitVec.ofNat 10 (jrCore r)
    let k : SlotId := BitVec.ofNat 4 (jrSlot r)
    let st := entryState (s.slot c k).entry
    let more := s.launches.any fun e => descCtx e.2.desc == n && !e.2.allBound && e.2.unbound.any fun u => u.1 == c
    if jrKind r ≠ 2 ∧ (st = stDone ∨ (st = stFree ∧ ¬ more)) then s.diverge n c k else s

/-- What the parked slot does after its grant. -/
def State.afterCommit (s : State) (c : CoreId) (k : SlotId) : State :=
  let y := s.slot c k
  match y.park with
  | .grant a => s.resumeAfter c k a
  | .ready => if y.isRun then s.postTurn c k else s
  | _ => s

/-- The counters of a slot at its grant, and the dead bits that the chunk's hints set (R72, R211, R224). [log 51, DEDUCED] -/
def Slot.committed (y : Slot) (w : Chunk) : Slot :=
  { y with
    waiting := none, seq := y.seq + 1, sqc := 0, arrived := if w.eret then none else y.arrived
    eff := BitVec.ofNat 13 (min (if y.chunk.opened then y.chunk.chk.target else y.regs.target).toNat (2 * y.eff.toNat)), effWas := none
    regs := { y.regs with dead := y.regs.dead ||| (w.deadSet &&& ~~~y.chunk.written) }
    chunk := { y.chunk with chk := { y.chunk.chk with dead := y.chunk.chk.dead ||| w.deadSet } } }

/-- The open chunk of the slot has touched a granule that its earlier chunk's deferred updates change at their grant. [log 70, DEDUCED] -/
def Chunk.behind (x w : Chunk) : Bool := w.lsA.any fun g => x.lsR.contains g || x.lsW.contains g

/-- The grant of a slot's chunk: all its effects at one point of the commit order (R221). [log 51, DEDUCED] [log 70, DEDUCED] -/
def State.grantSlot (s : State) (c : CoreId) (k : SlotId) (w : Chunk) : State :=
  let y := s.slot c k
  let n := entryCtx y.entry
  let s := if s.chunkDiverges c k w then s.diverge n c k else s
  let s := ({ s with requests := s.requests.filter (· != Request.slot c k) }).setSlot c k ((s.slot c k).committed w)
  let s := if (s.slot c k).chunk.behind w then s.squashSlot c k false else s
  let s := (s.commitCells w.wr (some c)).deliver (specLines w.wr) (some c) [.slot c k]
  let s := w.effects.foldl State.applyAtomic (s.withCaches (s.releaseLines c w.lines))
  let s := s.commitLs c w
  let s := w.effects.foldl (fun s d => s.applyEffect c k d) s
  let s := s.dropToken (.slot c k)
  let s := if w.beginsReplay then s else (s.journalGrant n c.toNat k.toNat 0 y.seq w.len).replayHalted n
  s.afterCommit c k

/-- Bytes of an engine's write buffer go to the local store of ORIG (R278, R311). -/
def State.commitLsCells (s : State) (c : CoreId) (cells : List Host.Cell) : State :=
  let gs := cellGranules cells
  let s := s.squashWhere (fun c' x => c' == c && gs.any x.marks) (fun _ => false) []
  let s := s.squashReaders c gs
  let x := s.core c
  let whole := gs.filter fun g => (cells.filter fun e => e.1 / 64 == g).length == 64
  let s := s.setCore c { x with
    ls := cells.foldl (fun (m : Mem) (e : Host.Cell) => m.setByte e.1 e.2) x.ls, lsPoison := x.lsPoison.filter fun g => !whole.contains g }
  s.wakeGranules c gs

/-- An effect of an engine's grant (R307, R314, R315). -/
def State.applyEngineEffect (s : State) (d : Deferred) : State :=
  match d with
  | .arrival pa n abort => s.commitWrite pa (leBytes 16 (arrivalUpdate (s.mem.nat pa 16) n abort)) none
  | .lsArrival c off n abort => s.lsOutside c off (leBytes 16 (arrivalUpdate (leNat (s.committedLs c off 16)) n abort))
  | .cmdEnd e => s.endEngine e
  | .engineFault e code va =>
    let m := (s.engine e).cmd.getD 0
    s.report (engineTower e)
      { cause := 0x0B, sub := code, kind := 3, eng := true, core := e.toNat, ctx := cmdCtx m, lseq := cmdLseq m, va := va }
  | _ => s

/-- The counters of an engine at a grant (R311). [log 93, DEDUCED] -/
def Engine.committed (x : Engine) : Engine :=
  { x with
    chunk := {}, waiting := false, bytes := 0, num := x.num + 1, sqc := 0
    limBytes := min 65536 (2 * x.limBytes), limCount := min 4096 (2 * x.limCount) }

/-- A running command is suspended: its registers and chunk number are kept, and the engine is free (R316). [log 57, DEDUCED] -/
def State.suspendEngine (s : State) (e : EngineId) : State :=
  let x := s.engine e
  match x.cmd with
  | none => s
  | some m =>
    let y := s.ctx (cmdCtx m)
    let s := s.setCtx (cmdCtx m) { y with owed := y.owed ++ [{ rec_ := m, saved := some (x.regs, x.num) }] }
    let s := s.setEngine e { x with
      cmd := none, regions := 0, std := false, chunk := {}, bytes := 0, park := .idle, waiting := false, cutAfter := false, owed := false }
    ((s.startAgain (engineTower e)).loadAgain (engineTower e)).preCheck (cmdCtx m)

/-- The engine goes on after a grant; an owed command is suspended there (R316). -/
def State.engineGoes (s : State) (e : EngineId) : State :=
  let x := s.engine e
  if x.cmd.isNone then s
  else if x.owed then s.suspendEngine e
  else match x.park with
    | .grant => (s.setEngine e { x with park := .ready }).postEturn e
    | .ready => s.postEturn e
    | _ => s

/-- The grant of an engine chunk (R311). -/
def State.grantEngine (s : State) (e : EngineId) (w : Chunk) : State :=
  let x := s.engine e
  let m := x.cmd.getD 0
  let s := ({ s with requests := s.requests.filter (· != Request.engine e) }).setEngine e x.committed
  let cells := memCells w.wr
  let s := (s.commitCells cells none).deliver (specLines cells) none []
  let s := if (lsCells w.wr).isEmpty then s else s.commitLsCells (cmdOrig m) (lsCells w.wr)
  let s := w.effects.foldl State.applyEngineEffect s
  let s := s.dropToken (.engine e)
  let s := (s.journalGrant (cmdCtx m) e.toNat 0 2 x.num w.len).replayHalted (cmdCtx m)
  s.engineGoes e

/-- The grant of a request. -/
def State.grant (s : State) (r : Request) (w : Chunk) : State :=
  match r with
  | .slot c k => s.grantSlot c k w
  | .engine e => s.grantEngine e w
  | .decant c k m d => ({ s with requests := s.requests.filter (· != Request.decant c k m d) }).decantGrant c k m d

/-- The arbiters of a grant stay held while the host has not answered for lines of its list (R364, R395). -/
def State.holdArbiters (t s : State) (holds : List Arbiter) : State :=
  match t.host.snooped.filter fun n => !s.host.snooped.contains n with
  | [] => t
  | lines => { t with arbHeld := (holds, lines) :: t.arbHeld }

/-- One grant, if any request can be granted and every link on its way is awake (R378). -/
def State.grantNext (s : State) : State :=
  let s := { s with requests := s.requests.filter fun r => (s.requestChunk r).isSome }
  match s.nextBid with
  | (none, s) => s
  | (some b, s) => if s.linksUp b.way then (s.grant b.req b.chunk).holdArbiters s b.holds else s.wakeLinks b.way

/-- One request is granted (R220, R221); while requests remain it looks again. -/
def execCommitGrant (s : State) : Host.Outcome State Fault Refusal :=
  match s.cur with
  | .none =>
    let s := s.grantNext
    .next (if s.requests.isEmpty then s else s.postOnce .none .commitGrant)
  | _ => .fault .wrongAgent

/-- The walker at a line for CINV (R298): every copy is invalidated without write-back, and the line goes back to the bytes that the stack holds. None: the token's holder bars the step (R225). [log 34, DEDUCED] -/
def State.dropLine (s : State) (l : Nat) : Option State :=
  let healed (s : State) : State := { s with poison := match s.poison.find l with
    | some p => if p = 2 then s.poison else s.poison.del l
    | none => s.poison }
  match s.dirty.find l with
  | none => some ((healed s).withCaches ((healed s).forgetCopies l))
  | some d =>
    let same := s.mem.nat (64 * l) 64 == d.old.toNat
    if !same && s.tokenBars [l] then none
    else
      let s := healed { s with dirty := s.dirty.del l }
      let s := if same then s else ({ s with mem := s.mem.setBytes (64 * l) (leBytes 64 d.old.toNat) }).deliver [l] none []
      some (s.withCaches (s.forgetCopies l))

/-- One line of a range flush (R298). [log 34, DEDUCED] -/
def State.walkLine (s : State) (kind : BitVec 2) (l : Nat) : Option State :=
  match (s.stack (stackOf (64 * l))).st with
  | .pouring => none
  | .claiming => none
  | .fenced => some s
  | .owned =>
    if kind = 1 then s.dropLine l
    else if kind = 0 then some (s.withCaches ((s.cleanLine l).forgetCopies l))
    else some (s.withCaches (s.cleanLine l))

/-- The walker of a slot's oldest range flush visits its next line, or has finished (R298). -/
def execRangeFlushWalk (s : State) : Host.Outcome State Fault Refusal :=
  match s.cur with
  | .slot c k =>
    let mine (f : Flush) : Bool := f.c == c && f.k == k
    match s.flushes.find? mine with
    | none => .next s
    | some f =>
      let others := s.flushes.filter fun g => !mine g
      let later := (s.flushes.filter mine).drop 1
      match f.lines with
      | [] => .next (({ s with flushes := later ++ others }).freeChunk c k)
      | l :: ls => match s.walkLine f.kind l with
        | none => .next (s.postEvent (.slot c k) .rangeFlushWalk)
        | some s => .next (({ s with flushes := { f with lines := ls } :: later ++ others }).postEvent (.slot c k) .rangeFlushWalk)
  | _ => .fault .wrongAgent

/-- A cached translation that an invalidation covers (R302). -/
def TlbEntry.covered (e : TlbEntry) (scope : BitVec 2) (va : Word) (ctx : CtxId) : Bool :=
  match scope.toNat with
  | 0 => e.ctx == ctx && e.base == va.toNat / 2 ^ e.size
  | 1 => e.ctx == ctx
  | _ => true

/-- A translation that a chunk used and an invalidation covers (R302). -/
def keyCovered (key : TlbKey) (scope : BitVec 2) (va : Word) (ctx : CtxId) : Bool :=
  match scope.toNat with
  | 0 => key.1 == ctx && key.2.1 == va.toNat / 2 ^ key.2.2
  | 1 => key.1 == ctx
  | _ => true

/-- A waiting slot whose place was translated by what an invalidation covers issues its instruction again (R302). [log 111, DEDUCED] -/
def State.reissue (s : State) (c : CoreId) (k : SlotId) : State :=
  let y := s.slot c k
  let t := (s.setSlot c k { y with chunk := {} }).wake c k
  match y.park with
  | .waitv .. => t
  | .await .. => t
  | .eload n .. => t.endLoad n c k
  | _ => s

/-- A TLB invalidation is complete: chunks that used what it covers are squashed, waits that did begin again, and the issuer's next chunk may be granted (R302, R225). -/
def execTlbInvalidationComplete (s : State) : Host.Outcome State Fault Refusal :=
  match s.cur with
  | .item id => match s.pendings.find id with
    | none => .next s
    | some (.tlb c k scope va ctx) =>
      let used (x : Chunk) : Bool := x.tlb.any fun key => keyCovered key scope va ctx
      let test (x : Chunk) : Bool := x.opened && used x
      if s.tokenHit (fun _ => test) test then .next (s.postEvent (.item id) .tlbInvalidationComplete)
      else
        let t := s.squashWhere (fun _ => test) test []
        let t := t.allSlots.foldl (fun t (c, k) => if used (t.slot c k).chunk then t.reissue c k else t) t
        .next (({ t with tlb := t.tlb.filter fun e => !e.covered scope va ctx, pendings := t.pendings.del id }).freeChunk c k)
  | _ => .fault .wrongAgent

end Sys2Proof.Machine
end

