-- ==== Sys2Proof/Machine/Nose.lean ====
section
/-! DEFINITION. The Nose: command queues, the checks and placement of launches, gangs, re-binding by weight, the slot table, dispatch and completion (08_cores_launches_scheduling.md R187 to R200, R422, 01 R19, R20, R32, 14 R423). -/

namespace Sys2Proof.Machine

/-- What the entry will be after the next rotation boundary (R194). -/
def Slot.coming (y : Slot) : BitVec 128 := y.entryNext.getD y.entry

/-- The slot may take a bind record or a reservation: FREE, or SAVED by a context that has left the core (R194, R195). [log 73, DEDUCED] -/
def Slot.isFree (y : Slot) : Bool := y.entryNext.isNone && (entryState y.entry == stFree || entryState y.entry == stSaved)

/-- The entry holds the slot for a launch: reserved, bound, running or done. -/
def Slot.isHeld (y : Slot) : Bool := entryState y.coming != stFree && entryState y.coming != stSaved

/-- A Nose write to an entry takes effect at the next rotation boundary; a RUN entry is never written (R194). -/
def State.writeTable (s : State) (c : CoreId) (k : SlotId) (e : BitVec 128) : State :=
  let y := s.slot c k
  if y.isRun then s else (s.setSlot c k { y with entryNext := some (e &&& entryMask) }).atBoundary c k

/-- The record at HEAD is looked at again: what it waits for may have come about (R192). -/
def State.pokeQueue (s : State) (t : TowerId) (q : QueueId) : State :=
  let y := s.queue t q
  if !y.busy then s.queueNext t q
  else match s.noseAt t y.ctx (y.slotAt y.head) false with
    | .fail => s.stopQueue t q
    | .wait => s.postOnce (.queue t q) .cmdNop
    | .at_ l => s.postOnce (.queue t q) (cmdEvent (leNat (s.bytesAt l 1)))

def State.pokeQueues (s : State) : State :=
  s.queues.keys.foldl (fun s n => s.pokeQueue (BitVec.ofNat 2 (n / 64)) (BitVec.ofNat 6 (n % 64))) s

/-- QUEUE_TAIL_DOORBELL: TAIL is written (R190). -/
def execQueueTailDoorbell (tail : BitVec 32) (s : State) : Host.Outcome State Fault Refusal :=
  match s.cur with
  | .queue t q => .next (s.doorbell t q tail)
  | _ => .fault .wrongAgent

/-- The record at HEAD is done, and the next one may be taken (R192). -/
def State.nextRecord (s : State) (t : TowerId) (q : QueueId) : State :=
  let y := s.queue t q
  (s.setQueue t q { y with head := y.head + 1, busy := false, taking := none }).queueNext t q

/-- A command event of a queue, for the record at HEAD with its place and its bits: a queue that is disabled, or whose context is pre-empted, leaves it (R190, R423); one that cannot be read and written stops the queue (R190); while its stack is handed over, or the token's holder bars a write to it (R225), or the event is another operation's, it is looked at again. -/
def cmdOp (me : Instr) (s : State) (body : TowerId → QueueId → Loc → BitVec 256 → State) : Host.Outcome State Fault Refusal :=
  match s.cur with
  | .queue t q =>
    let y := s.queue t q
    if !y.en || !y.busy || y.head == y.tail || s.svc.halted || s.ctxStopped y.ctx then .next (s.setQueue t q { y with busy := false })
    else match s.noseAt t y.ctx (y.slotAt y.head) true with
      | .fail => .next (s.stopQueue t q)
      | .wait => .next (s.postEvent (.queue t q) me)
      | .at_ l =>
        let r : BitVec 256 := BitVec.ofNat 256 (leNat (s.bytesAt l 32))
        let real := cmdEvent (fieldNat r 0 8)
        if real ≠ me then .next (s.postEvent (.queue t q) real)
        else if s.tokenBars (l.lines 32) then .next (s.postEvent (.queue t q) me)
        else .next (body t q l r)
  | _ => .fault .wrongAgent

/-- The record ends with a STATUS (R191). -/
def State.endRecord (s : State) (t : TowerId) (q : QueueId) (l : Loc) (status : Byte) : State :=
  (s.noseWrite (l.plus 1) [status]).nextRecord t q

/-- NOP (R191). -/
def execCmdNop (s : State) : Host.Outcome State Fault Refusal := cmdOp .cmdNop s fun t q l _ => s.endRecord t q l 1

/-- An operation that does not exist (R191). -/
def execCmdBadOperation (s : State) : Host.Outcome State Fault Refusal :=
  cmdOp .cmdBadOperation s fun t q l _ => s.endRecord t q l 4

def recArg (r : BitVec 256) : Word := r.extractLsb' 64 64

/-- The named launch has been issued and is no longer incomplete (R192). -/
def State.launchOver (s : State) (n : SeqNo) : Bool :=
  seqAtOrBefore n s.lastSeq && (match s.launch n with
    | some l => l.completed
    | none => true)

/-- WAIT (R192). -/
def execCmdWait (s : State) : Host.Outcome State Fault Refusal :=
  cmdOp .cmdWait s fun t q l r => if s.launchOver ((recArg r).extractLsb' 0 32) then s.endRecord t q l 1 else s

/-- Every launch that the queue submitted has completed. -/
def State.queueDrained (s : State) (t : TowerId) (q : QueueId) : Bool :=
  s.launches.all fun e => e.2.completed || e.2.t != t || e.2.q != q

/-- SIGNAL (R192). -/
def execCmdSignal (s : State) : Host.Outcome State Fault Refusal :=
  cmdOp .cmdSignal s fun t q l r =>
    let a := recArg r
    if a.toNat % 8 ≠ 0 then s.endRecord t q l 4
    else if !s.queueDrained t q then s
    else match s.noseAt t (s.queue t q).ctx a true with
      | .fail => s.endRecord t q l 4
      | .wait => s.postEvent (.queue t q) .cmdSignal
      | .at_ p =>
        if s.tokenBars (p.lines 8) then s.postEvent (.queue t q) .cmdSignal
        else (s.noseWrite p (leBytes 8 (r.extractLsb' 128 64).toNat)).endRecord t q l 1

/-- The cores of a rectangle. -/
def rectCores (x y w h : Nat) : List CoreId :=
  (List.range h).flatMap fun j => (List.range w).map fun i => coreAt (x + i) (y + j)

/-- The aligned origins at which a descriptor may be placed (R187, R189 check 5, R368); a die that has failed takes no launch (16 R379). [log 109, DEDUCED] -/
def State.origins (s : State) (d : BitVec 1024) : List (Nat × Nat) :=
  let w := descW d
  let h := descH d
  let part := (s.ctx (descCtx d)).part
  let all := (List.range (32 / h)).flatMap fun j => (List.range (32 / w)).map fun i => (i * w, j * h)
  let wanted := if descPin d then all.filter fun o => o == (descOx d, descOy d) else all
  wanted.filter fun o => (rectCores o.1 o.2 w h).all fun c =>
    let die := dieOf c
    (descDiemask d == 0 || (descDiemask d).getLsbD die.toNat) && (s.die die).part == part && (s.die die).alive

/-- PTROOT bits that must be 0 (R188). -/
def ptrootRz : Word := 0xFFF0000000000FFF

/-- The checks of a descriptor (R189): the STATUS of the first failure, or 0x01. -/
def State.checkDescriptor (s : State) (d : BitVec 1024) (ctx : CtxId) : Byte :=
  let n := descSlots d
  if d &&& ~~~descMask ≠ 0 ∨ fieldNat d 0 2 ≠ 0 ∨ descPtroot d &&& ptrootRz ≠ 0 ∨ fieldNat d 640 3 ≠ 0 then 2
  else if 5 < descLw d ∨ 5 < descLh d ∨ n = 0 ∨ 16 < n + bit (descCaps d) + bit (descMsg d) ∨ descLskib d = 0
      ∨ 512 < descLskib d ∨ 512 < descLslo d + descLskib d then 2
  else if descPin d ∧ (descOx d % descW d ≠ 0 ∨ descOy d % descH d ≠ 0) then 2
  else if descCtx d ≠ ctx then 3
  else if (s.origins d).isEmpty then 5
  else 1

/-- A launch is accepted: it takes the next sequence number, SEQ and STATUS are written, and its placement begins (R192). [log 4, DESIGN CHOICE] -/
def State.acceptLaunch (s : State) (t : TowerId) (q : QueueId) (d : BitVec 1024) (l : Loc) (r : BitVec 256) : State :=
  let n := s.lastSeq + 1
  let s := { s with lastSeq := n, launches := s.launches.put n.toNat { desc := d, t := t, q := q } }
  let s := s.setQueue t q { s.queue t q with lastseq := n, taking := some n }
  let s := s.noseWrite (l.plus 1) (leBytes 7 ((setField (setField r 8 8 1) 32 32 n.toNat).toNat / 256))
  (s.postEvent (.launch n) .launchPlacement).pokeQueues

/-- LAUNCH (R189, R192). -/
def execCmdLaunch (s : State) : Host.Outcome State Fault Refusal :=
  cmdOp .cmdLaunch s fun t q l r =>
    let y := s.queue t q
    let a := recArg r
    match y.taking with
    | some n => match s.launch n with
      | some x => if x.allBound || x.completed then s.nextRecord t q else s
      | none => s.nextRecord t q
    | none =>
      if a.toNat % 128 ≠ 0 then s.endRecord t q l 2
      else match s.noseAt t y.ctx a false with
        | .fail => s.endRecord t q l 2
        | .wait => s.postEvent (.queue t q) .cmdLaunch
        | .at_ p =>
          let d : BitVec 1024 := BitVec.ofNat 1024 (leNat (s.bytesAt p 128))
          let st := s.checkDescriptor d y.ctx
          if st ≠ 1 then s.endRecord t q l st else s.acceptLaunch t q d l r

/-- The launch slots and reserved roles of a placed launch (R185): 16 capsule slot, 17 message slot. -/
def Launch.parts (l : Launch) : List Nat :=
  (if descCaps l.desc then [16] else []) ++ (if descMsg l.desc then [17] else []) ++ List.range (descSlots l.desc)

/-- A launch with its rectangle, every part of it still unbound. -/
def Launch.placedAt (l : Launch) (o : Nat × Nat) : Launch :=
  let l := { l with origin := some o }
  { l with unbound := l.cores.flatMap fun c => l.parts.map fun p => (c, p) }

/-- Binding of a placed launch begins: of a gang as a whole, else on each core. -/
def State.postPlaced (s : State) (n : SeqNo) (l : Launch) : State :=
  if descGang l.desc then s.postOnce (.launch n) .gangPlacement
  else l.cores.foldl (fun s c => s.postOnce (.core c) .rebindByWeight) s

/-- LAUNCH_PLACEMENT: a rectangle is chosen once AFTER, the partition and pre-emption allow it (R192, R422, R423). -/
def State.placeLaunch (s : State) (n : SeqNo) (l : Launch) : State :=
  if l.origin.isSome || l.completed || l.aborted || s.ctxStopped (descCtx l.desc) then s
  else if descAftv l.desc && !s.launchOver (descAfter l.desc) then s
  else
    let os := s.origins l.desc
    if os.isEmpty then s
    else
      let (i, s) := s.choose os.length
      (s.setLaunch n (l.placedAt (os.getD i (0, 0)))).postPlaced n (l.placedAt (os.getD i (0, 0)))

def execLaunchPlacement (s : State) : Host.Outcome State Fault Refusal :=
  match s.cur with
  | .launch n => match s.launch n with
    | some l => .next (s.placeLaunch n l)
    | none => .next s
  | _ => .fault .wrongAgent

def slotIds : List SlotId := (List.range 16).map (BitVec.ofNat 4)

/-- The context that holds slots of a core, if any (R195). [log 73, DEDUCED] -/
def State.coreCtx (s : State) (c : CoreId) : Option CtxId :=
  (s.core c).slots.findSome? fun e => if e.2.isHeld then some (entryCtx e.2.coming) else none

/-- Slots of a context may be bound on the core (R195). [log 73, DEDUCED] -/
def State.ctxFits (s : State) (c : CoreId) (n : CtxId) : Bool :=
  match s.coreCtx c with
  | some m => m == n
  | none => true

/-- Some launch waits to reserve slot 14 (16) or 15 (17) of the core (R185). [log 74, DEDUCED] -/
def State.roleWanted (s : State) (c : CoreId) (role : Nat) : Bool :=
  s.launches.any fun e => !e.2.completed && e.2.unbound.contains (c, role)

/-- The free slots of a core that may serve as launch slots (R187, R422). -/
def State.freeSlots (s : State) (c : CoreId) : List SlotId :=
  slotIds.filter fun k => (s.slot c k).isFree && !(k == 14 && s.roleWanted c 16) && !(k == 15 && s.roleWanted c 17)

/-- The bind record of a part of a launch (R193). -/
def Launch.record (l : Launch) (n : SeqNo) (part st : Nat) : BitVec 128 :=
  mkEntry st (part == 16) (part == 17) l.q l.t (descCtx l.desc) (if part < 16 then part else 0) n (descEntry l.desc)

/-- Slots picked from a list in any assignment (R422). -/
def State.pickSlots (s : State) : Nat → List SlotId → List SlotId × State
  | 0, _ => ([], s)
  | n + 1, l =>
    let (i, s) := s.choose l.length
    let k := l.getD i 0
    let (r, s) := s.pickSlots n (l.erase k)
    (k :: r, s)

/-- Another gang holds slots of the core (R195, R199). -/
def State.otherGang (s : State) (c : CoreId) (n : SeqNo) : Option SeqNo :=
  (s.core c).slots.findSome? fun e =>
    let m := entrySeq e.2.coming
    if !e.2.isHeld || m == n then none
    else match s.launch m with
      | some l => if descGang l.desc then some m else none
      | none => none

/-- A gang gives up every reservation (R200). -/
def State.releaseGang (s : State) (m : SeqNo) (behind : Option SeqNo) : State :=
  let s := s.allSlots.foldl (fun s (c, k) =>
    let e := (s.slot c k).coming
    if entryState e = stResv ∧ entrySeq e = m then s.writeTable c k 0 else s) s
  s.modLaunch m fun l => { l with resv := [], behind := behind }

/-- What a gang holds on a core (R199). -/
def Launch.reserved (l : Launch) (c : CoreId) : List (SlotId × Nat) := ((l.resv.find? fun r => r.1 == c).map (·.2)).getD []

/-- Parts of a gang not yet held on a core. -/
def Launch.missing (l : Launch) (c : CoreId) : List Nat := l.parts.filter fun p => !(l.reserved c).any fun r => r.2 == p

/-- Every part on every core of the gang is held (R198). -/
def Launch.allHeld (l : Launch) : Bool := l.cores.all fun c => (l.missing c).isEmpty

/-- Free slots of a core that a gang may reserve as launch slots: 14 and 15 not where it needs them as reserved ones (R185). -/
def State.gangFree (s : State) (l : Launch) (c : CoreId) : List SlotId :=
  (s.freeSlots c).filter fun k => !(k == 14 && descCaps l.desc) && !(k == 15 && descMsg l.desc)

/-- The parts that the gang can reserve on a core now: reserved roles whose slot is free, and as many launch slots as slots are free (R199). -/
def State.gangParts (s : State) (l : Launch) (c : CoreId) : List Nat :=
  if !s.ctxFits c (descCtx l.desc) then []
  else
    let m := l.missing c
    (m.filter fun p => (p == 16 && (s.slot c 14).isFree) || (p == 17 && (s.slot c 15).isFree))
      ++ (m.filter fun p => decide (p < 16)).take (s.gangFree l c).length

/-- What a gang can do on a core now: make a younger gang release, or reserve slots (R199, R200). -/
def State.gangCan (s : State) (n : SeqNo) (l : Launch) (c : CoreId) : Bool :=
  match s.otherGang c n with
  | some m => (match s.launch m with
    | some lm => !(l.missing c).isEmpty && !lm.allBound && seqOlder n m
    | none => false)
  | none => !(s.gangParts l c).isEmpty

/-- A gang's attempt on one core: a younger gang that is not bound releases (R200), else slots are reserved, any free slot for any part (R199, R422). -/
def State.reserveCore (s : State) (n : SeqNo) (l : Launch) (c : CoreId) : State :=
  match s.otherGang c n with
  | some m => s.releaseGang m (some n)
  | none =>
    let ps := s.gangParts l c
    let launchParts := ps.filter fun p => decide (p < 16)
    let (ks, s) := s.pickSlots launchParts.length (s.gangFree l c)
    let got := ks.zip launchParts ++ (if ps.contains 16 then [((14 : SlotId), 16)] else []) ++ (if ps.contains 17 then [(15, 17)] else [])
    let s := got.foldl (fun s p => s.writeTable c p.1 (l.record n p.2 stResv)) s
    s.modLaunch n fun l => { l with resv := (c, l.reserved c ++ got) :: l.resv.filter fun r => r.1 != c }

/-- A gang whose every slot is held writes all its bind records in one rotation (R198); its barriers begin cleared (R202). -/
def State.bindGang (s : State) (n : SeqNo) (l : Launch) : State :=
  let s := l.resv.foldl (fun s r =>
    let s := s.setCore r.1 { s.core r.1 with bars := Vector.replicate 8 {}, tokens := [] }
    r.2.foldl (fun s p => s.writeTable r.1 p.1 (l.record n p.2 stBound)) s) s
  ((s.setLaunch n { l with unbound := [], resv := [], allBound := true, behind := none }).pokeQueue l.t l.q).pokeLaunches

/-- The launch that a released gang waits behind is fully bound, or over (R200). -/
def State.behindOver (s : State) (l : Launch) : Bool :=
  match l.behind with
  | none => true
  | some m => match s.launch m with
    | some lm => lm.allBound || lm.completed
    | none => true

/-- A placed gang that still needs slots and may ask for them (R199, R200, R423). -/
def State.gangWaits (s : State) (l : Launch) : Bool :=
  descGang l.desc && l.origin.isSome && !l.allBound && !l.completed && !l.aborted && !s.ctxStopped (descCtx l.desc) && s.behindOver l

/-- One step of a gang's placement, on one of the cores where something can be done; gangs that place at the same time go on in any order (R198 to R200). -/
def State.gangStep (s : State) (n : SeqNo) (l : Launch) : State :=
  match l.cores.filter (s.gangCan n l) with
  | [] => s
  | c :: cs =>
    let (i, s) := s.choose (c :: cs).length
    let s := s.reserveCore n l ((c :: cs).getD i c)
    match s.launch n with
    | some l => if l.allHeld then s.bindGang n l else s.postOnce (.launch n) .gangPlacement
    | none => s

/-- GANG_PLACEMENT (R198 to R200). -/
def execGangPlacement (s : State) : Host.Outcome State Fault Refusal :=
  match s.cur with
  | .launch n => match s.launch n with
    | none => .next s
    | some l => .next (if s.gangWaits l then s.gangStep n l else s)
  | _ => .fault .wrongAgent

/-- A waiting gang could reserve slots of the core, so that no launch that is still to run takes them (R200). [log 107, DEDUCED] -/
def State.gangClaims (s : State) (c : CoreId) : Bool :=
  s.launches.any fun e => s.gangWaits e.2 && e.2.cores.contains c && s.gangCan (BitVec.ofNat 32 e.1) e.2 c

/-- Launches without GANG that have an unbound part on a core and may be bound there now (R195, R197, R423). -/
def State.bindable (s : State) (c : CoreId) (part : Nat → Bool) : List (SeqNo × Launch) :=
  s.launches.filterMap fun e =>
    let l := e.2
    if !descGang l.desc && !l.completed && !l.aborted && !s.ctxStopped (descCtx l.desc) && s.ctxFits c (descCtx l.desc)
        && l.unbound.any (fun u => u.1 == c && part u.2) then some (BitVec.ofNat 32 e.1, l) else none

/-- A part of a launch is bound to a slot; the queue's next record may now be taken (R192). -/
def State.bindPart (s : State) (c : CoreId) (k : SlotId) (n : SeqNo) (l : Launch) (part : Nat) : State :=
  let unbound := l.unbound.filter (· != (c, part))
  let all := unbound.all fun u => decide (16 ≤ u.2)
  let s := (s.setLaunch n { l with unbound := unbound, allBound := all }).writeTable c k (l.record n part stBound)
  if all then s.pokeQueue l.t l.q else s

/-- The reserved slot of a role is bound when it is free (R185). [log 74, DEDUCED] -/
def State.bindRole (s : State) (c : CoreId) (k : SlotId) (role : Nat) : State :=
  match s.bindable c (· == role) with
  | [] => s
  | x :: xs =>
    let (n, l) := xs.foldl (fun a b => if seqOlder b.1 a.1 then b else a) x
    if (s.slot c k).isFree then s.bindPart c k n l role else s

/-- The credit of a queue on a core (R197). -/
def creditNo (c : CoreId) (t : TowerId) (q : QueueId) : Nat := c.toNat * 256 + queueNo t q

/-- Queues with an unbound launch slot on a core, of the highest class present, in ascending order (R197). -/
def State.contenders (s : State) (c : CoreId) : List (TowerId × QueueId) :=
  let ls := s.bindable c fun p => decide (p < 16)
  let qs := ((List.range 256).map fun i => ((BitVec.ofNat 2 (i / 64) : TowerId), (BitVec.ofNat 6 (i % 64) : QueueId))).filter
    fun (t, q) => ls.any fun e => e.2.t == t && e.2.q == q
  let cls (x : TowerId × QueueId) : Nat := min 2 (s.queue x.1 x.2).cls.toNat
  let best := qs.foldl (fun m x => min m (cls x)) 3
  qs.filter fun x => cls x == best

/-- The queue that takes a free slot of a core, and the credits afterwards; a queue that is not among those that contend has left, and its credit for the core is 0 (R197). A WEIGHT of 0 acts as 1 (R190). [log 108, DEDUCED] -/
def State.weigh (s : State) (c : CoreId) (e : List (TowerId × QueueId)) : Option (TowerId × QueueId) × State :=
  let inE (key : Nat) : Bool := e.any fun x => creditNo c x.1 x.2 == key
  let kept := s.credits.filter fun x => x.1 / 256 != c.toNat || inE x.1
  let weight (x : TowerId × QueueId) : Int := max 1 (s.queue x.1 x.2).weight.toNat
  let credits := e.foldl (fun m x => Tab.put m (creditNo c x.1 x.2) (Tab.look m 0 (creditNo c x.1 x.2) + weight x)) kept
  match e with
  | [] => (none, { s with credits := kept })
  | x :: xs =>
    let cr (x : TowerId × QueueId) : Int := Tab.look credits 0 (creditNo c x.1 x.2)
    let w := xs.foldl (fun a b => if cr a < cr b then b else a) x
    let total : Int := (e.map weight).sum
    (some w, { s with credits := Tab.put credits (creditNo c w.1 w.2) (cr w - total) })

/-- One free slot is given to the queue that the credits choose (R197): to its oldest launch, as any launch slot of it that is unbound on the core (R422). -/
def State.bindFree (s : State) (c : CoreId) (k : SlotId) : State :=
  if !(s.freeSlots c).contains k || s.gangClaims c then s
  else match s.weigh c (s.contenders c) with
    | (none, s) => s
    | (some (t, q), s) =>
      let mine := (s.bindable c fun p => decide (p < 16)).filter fun e => e.2.t == t && e.2.q == q
      match mine with
      | [] => s
      | x :: xs =>
        let (n, l) := xs.foldl (fun a b => if seqOlder b.1 a.1 then b else a) x
        let parts := (l.unbound.filter fun u => u.1 == c && decide (u.2 < 16)).map (·.2)
        let (i, s) := s.choose parts.length
        s.bindPart c k n l (parts.getD i 0)

/-- REBIND_BY_WEIGHT: the free slots of a core, in ascending order (R197); reserved slots of a placed launch are bound first (R185). -/
def execRebindByWeight (s : State) : Host.Outcome State Fault Refusal :=
  match s.cur with
  | .core c =>
    let s := (s.bindRole c 14 16).bindRole c 15 17
    .next (slotIds.foldl (fun s k => s.bindFree c k) s)
  | _ => .fault .wrongAgent

/-- SLOT_TABLE_WRITE: a Nose write to an entry (R194). -/
def execSlotTableWrite (entry : BitVec 128) (s : State) : Host.Outcome State Fault Refusal :=
  match s.cur with
  | .slot c k => .next (s.writeTable c k entry)
  | _ => .fault .wrongAgent

/-- SLOT_DISPATCH: a rotation boundary passes where the slot still waits for one (R194). -/
def execSlotDispatch (s : State) : Host.Outcome State Fault Refusal :=
  match s.cur with
  | .slot c k => .next (if (s.slot c k).dispatches then s.nextRotation else s)
  | _ => .fault .wrongAgent

/-- Entries of a launch. -/
def State.entriesOf (s : State) (n : SeqNo) : List (CoreId × SlotId) :=
  s.allSlots.filter fun (c, k) => entrySeq (s.slot c k).coming == n && entryState (s.slot c k).coming != stFree

/-- The conditions of completion (R196); of an aborted launch, that nothing of it runs (R335). -/
def State.mayComplete (s : State) (n : SeqNo) (l : Launch) : Bool :=
  let slots := if l.aborted then (s.entriesOf n).all fun (c, k) => entryState (s.slot c k).coming == stDone
        || entryCapr (s.slot c k).coming || entryMsgr (s.slot c k).coming
        || entryState (s.slot c k).coming == stSaved
    else l.origin.isSome && l.done.length == descSlots l.desc * l.cores.length
  slots && l.population == 0 && l.commands == 0

/-- Where the completion word of a launch lies (R190, R196). -/
def State.completionAt (s : State) (l : Launch) : NoseAt :=
  if descCompl l.desc = 0 then .fail else s.noseAt l.t (descCtx l.desc) (descCompl l.desc) true

/-- The completion word rises by 1 (R196); one that cannot be written is not (R190). -/
def State.countCompletion (s : State) (l : Launch) : State :=
  match s.completionAt l with
  | .at_ p => s.noseWrite p (leBytes 8 ((leNat (s.bytesAt p 8) + 1) % 2 ^ 64))
  | _ => s

/-- The completion word cannot be written yet: the token's holder bars it, or its stack is handed over. -/
def State.completionBarred (s : State) (l : Launch) : Bool :=
  match s.completionAt l with
  | .at_ p => s.tokenBars (p.lines 8)
  | .wait => true
  | .fail => false

/-- Barrier tokens on their way to a core. -/
def Pick.isToken (p : Pick) (cores : List CoreId) : Bool :=
  match p with
  | .event (.core c) (.barrierRowToken _ _) => cores.contains c
  | .event (.core c) (.barrierColumnToken _ _) => cores.contains c
  | .event (.core c) (.barrierReleaseToken _ _) => cores.contains c
  | _ => false

/-- The launch completes (R196): its entries are freed, its barriers cleared with their tokens on the way, a recording that it began ends (R241). [log 64, DEDUCED] [log 75, DEDUCED] [log 99, DEDUCED] -/
def State.completeLaunch (s : State) (n : SeqNo) (l : Launch) : State :=
  let s := (s.entriesOf n).foldl (fun s (c, k) =>
    let s := if entryState (s.slot c k).entry = stBound then s.dropRead c k else s
    s.writeTable c k 0) s
  let s := if descGang l.desc then { s with agenda := s.agenda.filter fun p => !p.isToken l.cores } else s
  let s := l.cores.foldl (fun s c =>
    let x := s.core c
    let x := { x with msgs := x.msgs.filter fun m => m.seq != n, spill := x.spill.del n.toNat }
    s.setCore c (if descGang l.desc then { x with bars := Vector.replicate 8 {}, tokens := [] } else x)) s
  let s := s.countCompletion l
  let ctx := descCtx l.desc
  let s := if (s.journal ctx).rec_ && (s.journal ctx).seq == n then s.journalOff ctx else s
  let s := s.setLaunch n { l with completed := true, drops := 0, resv := [], unbound := [] }
  (s.pokeQueues.pokeLaunches).preCheck ctx

/-- LAUNCH_COMPLETION (R196): discards not yet counted are counted first. -/
def execLaunchCompletion (s : State) : Host.Outcome State Fault Refusal :=
  match s.cur with
  | .launch n => match s.launch n with
    | none => .next s
    | some l =>
      if l.completed then .next s
      else
        let s := if l.drops = 0 then s
          else (s.setLaunch n { l with drops := 0 }).countDrops n (l.cores.headD 0) l.drops
        match s.launch n with
        | none => .next s
        | some l =>
          if l.drops ≠ 0 then .next (s.postEvent (.launch n) .launchCompletion)
          else if !s.mayComplete n l then .next s
          else if s.completionBarred l then .next (s.postEvent (.launch n) .launchCompletion)
          else .next (s.completeLaunch n l)
  | _ => .fault .wrongAgent

end Sys2Proof.Machine
end

