-- ==== Sys2Proof/Machine/Held.lean ====
section
/-! DEFINITION. Instructions performed once everything before them has been granted: solo steps and edge accesses, their time-outs, and the ends of WAITV, AWAIT and YIELD (08 R208, 09 R211, R228, R236, R240, 13 R323, 17 R392, R402). -/

namespace Sys2Proof.Machine

/-- The slot issues at the very next step. -/
def State.issueSoon (s : State) (c : CoreId) (k : SlotId) : State :=
  let s := s.setSlot c k { s.slot c k with park := .ready }
  { s with agenda := .turn c k :: s.agenda.filter (· != Pick.turn c k) }

/-- The meaning of an instruction that acts in an event of its own; none for a step of a form-mode or tile instruction, which issues at the slot's next turn. -/
def performer (i : Instr) : Option (State → Host.Outcome State Fault Refusal) :=
  match i with
  | .ld f => some (execLd f)
  | .st f => some (execSt f)
  | .ld2 f => some (execLd2 f)
  | .st2 f => some (execSt2 f)
  | .lda f => some (execLda f)
  | .vld f => some (execVld f)
  | .vst f => some (execVst f)
  | .vgath f => some (execVgath f)
  | .vscat f => some (execVscat f)
  | .aadd f => some (execAadd f)
  | .aand f => some (execAand f)
  | .aor f => some (execAor f)
  | .axor f => some (execAxor f)
  | .amin f => some (execAmin f)
  | .amax f => some (execAmax f)
  | .axchg f => some (execAxchg f)
  | .acas f => some (execAcas f)
  | .acas2 f => some (execAcas2 f)
  | .fenceSys f => some (execFenceSys f)
  | .hostint f => some (execHostint f)
  | .waitv f => some (execWaitv f)
  | .await f => some (execAwait f)
  | .lsr f => some (execLsr f)
  | .amsg f => some (execAmsg f)
  | .capget f => some (execCapget f)
  | .eload f => some (execEload f)
  | .faultqPop f => some (execFaultqPop f)
  | .arrset f => some (execArrset f)
  | _ => none

/-- The instruction whose event has come is performed. -/
def rerun (i : Instr) (c : CoreId) (k : SlotId) (s : State) : Host.Outcome State Fault Refusal :=
  match performer i with
  | some p => p (s.setSlot c k { s.slot c k with park := .ready })
  | none => .next (s.issueSoon c k)

/-- The same, when the outside gives no answer: status 3 (R392). -/
def rerunFailed (i : Instr) (c : CoreId) (k : SlotId) (s : State) : Host.Outcome State Fault Refusal :=
  match performer i with
  | some p => match p { s.setSlot c k { s.slot c k with park := .ready } with answer := some 3 } with
    | .next t => .next { t with answer := none }
    | o => o
  | none => .next { s.issueSoon c k with answer := some 3 }

/-- The instruction that the slot holds for an event of its own, if any. -/
def Slot.held (y : Slot) (edge : Bool) : Option Instr :=
  match y.park with
  | .solo i => if edge then none else some i
  | .edge i => if edge then some i else none
  | _ => none

/-- A solo step is performed (R211, R236). -/
def execSoloStep (s : State) : Host.Outcome State Fault Refusal :=
  match s.cur with
  | .slot c k => match (s.slot c k).held false with
    | some i => rerun i c k s
    | none => .next s
  | _ => .fault .wrongAgent

/-- An edge access is performed (R228). -/
def execEdgeAccess (s : State) : Host.Outcome State Fault Refusal :=
  match s.cur with
  | .slot c k => match (s.slot c k).held true with
    | some i => rerun i c k s
    | none => .next s
  | _ => .fault .wrongAgent

/-- The edge access of a slot ends with status 3: no answer came (R392, R402). -/
def unanswered (s : State) : Host.Outcome State Fault Refusal :=
  match s.cur with
  | .slot c k => match (s.slot c k).held true with
    | some i => rerunFailed i c k s
    | none => .next s
  | _ => .fault .wrongAgent

/-- EDGE_COMPLETION_TIMEOUT: 50 ms without a completion (R392). -/
def execEdgeCompletionTimeout (s : State) : Host.Outcome State Fault Refusal := unanswered s

/-- PEER_RESPONSE_TIMEOUT: a peer has not answered after 50 ms (R402). -/
def execPeerResponseTimeout (s : State) : Host.Outcome State Fault Refusal := unanswered s

/-- The reach of the place of a wait (16 R367, R372). -/
def State.waitReach (s : State) (c : CoreId) (ls : Bool) (a : Nat) : Reach := if ls then .yes else s.reach (dieOf c) (stackOf a)

/-- A wait ends with the value now at its place (R240, R323), and a new chunk begins; poison there, or a stack that rejects the read, is met by the instruction itself, which issues again (R345, 16 R367); a stack being handed over is waited for (16 R372). [log 88, DEDUCED] -/
def State.endWait (s : State) (c : CoreId) (k : SlotId) (dst : BitVec 5) (ls : Bool) (a n : Nat) (ev : Instr) : State :=
  let l : Loc := if ls then .ls c a else .mem a
  let s := { (s.rouse c) with cur := .slot c k }
  match s.waitReach c ls a, s.homeRead 0 l n with
  | .park, _ => s.postOnce (.slot c k) ev
  | .yes, .ok (bs, s) =>
    let s := s.setG dst (BitVec.ofNat 64 (leNat (bs.take 8)))
    ((s.setRegs s.regs.advance).freshChunk c k).wake c k
  | _, _ => (s.freshChunk c k).wake c k

/-- The wait of a slot, if it waits, ends. -/
def State.wakeWaiter (s : State) (c : CoreId) (k : SlotId) : State :=
  match (s.slot c k).park with
  | .waitv dst ls a n _ => s.endWait c k dst ls a n .waitvWake
  | .await dst ls a _ => s.endWait c k dst ls a 16 .awaitWake
  | _ => s

/-- WAITV_WAKE (R240). -/
def execWaitvWake (s : State) : Host.Outcome State Fault Refusal :=
  match s.cur with
  | .slot c k => .next (match (s.slot c k).park with
    | .waitv _ _ _ _ _ => s.wakeWaiter c k
    | _ => s)
  | _ => .fault .wrongAgent

/-- AWAIT_WAKE (R323). -/
def execAwaitWake (s : State) : Host.Outcome State Fault Refusal :=
  match s.cur with
  | .slot c k => .next (match (s.slot c k).park with
    | .await _ _ _ _ => s.wakeWaiter c k
    | _ => s)
  | _ => .fault .wrongAgent

/-- WAITV_TIMEOUT: WAITTMO has passed, for WAITV or AWAIT (R240, R323). -/
def execWaitvTimeout (s : State) : Host.Outcome State Fault Refusal :=
  match s.cur with
  | .slot c k => .next (match (s.slot c k).park with
    | .waitv _ _ _ _ (some e) => s.timed e (.slot c k) .waitvTimeout fun s => s.wakeWaiter c k
    | .await _ _ _ (some e) => s.timed e (.slot c k) .waitvTimeout fun s => s.wakeWaiter c k
    | _ => s)
  | _ => .fault .wrongAgent

/-- YIELD_EXPIRY: the k turns have passed (R208). -/
def execYieldExpiry (s : State) : Host.Outcome State Fault Refusal :=
  match s.cur with
  | .slot c k => .next (match (s.slot c k).park with
    | .yield e => s.timed e (.slot c k) .yieldExpiry fun s => s.wake c k
    | _ => s)
  | _ => .fault .wrongAgent

end Sys2Proof.Machine
end

