-- ==== Sys2Proof/Machine/Preempt.lean ====
section
/-! DEFINITION. Pre-emption of a context, its time-out, and resume (14_faults_preemption.md R346 to R352, R423, 13 R316). -/

namespace Sys2Proof.Machine

/-- Rotations after which an unacknowledged pre-emption aborts the launch: 2^22 cycles (R346). -/
def preemptLimit : Nat := 2 ^ 18

/-- The launches of a context that hold or may hold slots. -/
def State.ctxLaunches (s : State) (n : CtxId) : List (SeqNo × Launch) :=
  s.launches.filterMap fun e =>
    if descCtx e.2.desc == n && !e.2.completed && !e.2.aborted && e.2.origin.isSome then some (BitVec.ofNat 32 e.1, e.2) else none

/-- The launch has slots of its own: every gang that is bound, and every other placed launch. -/
def Launch.hasSlots (l : Launch) : Bool := l.allBound || !descGang l.desc

/-- Slots of a context in a state. -/
def State.ctxSlots (s : State) (n : CtxId) (st : Nat) : List (CoreId × SlotId) :=
  s.allSlots.filter fun (c, k) => entryState (s.slot c k).entry == st && entryCtx (s.slot c k).entry == n

/-- What the Nose has bound already begins to run, so that it can be truncated (R194, R346). [log 78, DEDUCED] -/
def State.startBound (s : State) : State := s.nextRotation.nextRotation

/-- The slot's last chunk waits for its grant; it takes no pre-emption trap (R346). -/
def Slot.ending (y : Slot) : Bool := y.park == .grant .stop

/-- The slot's DECANT has been granted, and completes first (R346). -/
def State.decanting (s : State) (c : CoreId) (k : SlotId) : Bool :=
  match (s.slot c k).park with
  | .decant m _ => (s.stack m).by_ == some (c, k)
  | _ => false

/-- What the slot waits for is abandoned and re-issued after resume (R346); one that awaits a remote result goes on after the instruction, with the result awaited (R349). -/
def State.abandon (s : State) (c : CoreId) (k : SlotId) : State :=
  let y := s.slot c k
  let ready := s.setSlot c k { y with park := .ready }
  match y.park with
  | .solo _ => ready
  | .edge _ => ready
  | .waitv _ _ _ _ _ => ready
  | .await _ _ _ _ => ready
  | .barwait _ _ => ready
  | .yield _ => ready
  | .held _ _ _ => ready
  | .stop _ => ready
  | .remote d => s.setSlot c k { y with park := .ready, regs := { y.regs.advance with awr := true, awreg := d } }
  | .eload t _ _ _ _ => ready.endLoad t c k
  | .decant m _ =>
    if s.decanting c k then s
    else { ready with requests := s.requests.filter fun r => match r with
      | .decant c' k' m' _ => !(c' == c && k' == k && m' == m)
      | _ => true }
  | _ => s

/-- A running slot of a pre-empted context is told to truncate: with INH = 1 it sets PPEND and goes on; one whose last chunk waits takes its trap only if that chunk is squashed (R346). -/
def State.truncateSlot (s : State) (c : CoreId) (k : SlotId) : State :=
  let y := s.slot c k
  let s := if y.regs.inh then s.setSlot c k { y with regs := { y.regs with ppend := true } }
    else if y.ending then s else s.abandon c k
  (s.setSlot c k { s.slot c k with preempt := true }).postTurn c k

/-- Running slots of a context that have not been told to truncate yet. -/
def State.untold (s : State) (n : CtxId) : List (CoreId × SlotId) :=
  (s.ctxSlots n stRun).filter fun (c, k) => !(s.slot c k).preempt && (s.slot c k).tiles.isNone

/-- Step 1 of R346 for every running slot of the context. -/
def State.truncateAll (s : State) (n : CtxId) : State :=
  (s.untold n).foldl (fun s (c, k) => (s.rouse c).truncateSlot c k) s

/-- The engine's command names the local store of the context (R316). -/
def owesWrites (n : CtxId) (m : BitVec 512) : Bool := cmdCtx m == n && cmdNamesLs m

/-- Engine commands that name the context's local store: queued ones are suspended, running ones when their open chunk has ended (R316). [log 78, DEDUCED] -/
def State.suspendCommands (s : State) (n : CtxId) : State :=
  s.allEngines.foldl (fun s e =>
    let x := s.engine e
    let mine := x.queue.filter fun q => owesWrites n q.rec_
    let s := s.setEngine e { x with queue := x.queue.filter fun q => !owesWrites n q.rec_ }
    let y := s.ctx n
    let s := s.setCtx n { y with owed := y.owed ++ mine }
    match x.cmd with
    | none => s
    | some m =>
      if !owesWrites n m then s
      else if x.chunk.isEmpty && !x.waiting then s.suspendEngine e
      else s.setEngine e { s.engine e with owed := true }) s

/-- The Nose begins to pre-empt a context: placement stops, arrivals go to the spill rings, every running slot is told to truncate (R346, R349, R423). -/
def State.beginPreempt (s : State) (n : CtxId) : State :=
  let s := s.startBound
  let ls := s.ctxLaunches n
  let s := ls.foldl (fun s e => if e.2.hasSlots then s.modLaunch e.1 fun l => { l with preempted := true } else s.releaseGang e.1 none) s
  let s := s.setCtx n { s.ctx n with preempting := some s.rot, owed := [] }
  let s := (s.truncateAll n).suspendCommands n
  (s.postEvent (.ctx n) .preemptionTimeout).postEvent (.ctx n) .preemption

/-- Step 3 of R346: every slot has acknowledged, idle reserved ones at once. -/
def State.acknowledged (s : State) (n : CtxId) : Bool :=
  (s.ctxSlots n stRun).all fun (c, k) => (s.slot c k).park == .preacked

/-- Steps 3 to 5 of R346 are done: every slot has acknowledged, nothing bound is still to begin, sent accesses have completed, owed engine commands are suspended, tokens and arrivals have landed, and an LSR request being served has been answered. [log 77, DEDUCED] -/
def State.preemptReady (s : State) (n : CtxId) : Bool :=
  let ls := (s.ctxLaunches n).filter fun e => e.2.hasSlots
  let cores := ls.flatMap fun e => e.2.cores
  let mine (q : SeqNo) : Bool := ls.any fun e => e.1 == q
  s.acknowledged n
    && s.allSlots.all (fun (c, k) =>
      let y := s.slot c k
      entryCtx y.coming != n || !(y.dispatches || y.waiting.isSome || y.posted.open_ != 0 || (y.park matches .read _ _)))
    && s.engines.all (fun e => !e.2.owed || (match e.2.cmd with
      | some m => cmdCtx m != n
      | none => true))
    && !(s.agenda.any fun p => p.isToken cores)
    && s.flying.all (fun e => !mine e.2.seq)
    && s.capsules.all fun e => !mine e.2.seq || (e.2.at_ != .flying && e.2.at_ != .unresolved)

/-- A slot as the core record keeps it (R350). -/
def saveSlot (c : CoreId) (k : SlotId) (y : Slot) : SavedSlot :=
  { was := (c, k), seq := entrySeq y.entry, role := entryRole y.entry, run := y.isRun, chunkSeq := y.seq, sscr0 := y.sscr0
    vis := y.regs.vis, bay := y.regs.bay, bayOff := y.regs.bayOff, hops := y.regs.hops, fcode := y.regs.fcode
    msg := y.msg, posted := y.posted, cls := y.cls }

/-- The slots of a launch on a core that are saved: running ones, and idle reserved ones (R346). -/
def State.savedSlots (s : State) (c : CoreId) (q : SeqNo) : List (SlotId × Slot) :=
  slotIds.filterMap fun k =>
    let y := s.slot c k
    let st := entryState y.entry
    if entrySeq y.entry == q && (st == stRun || st == stBound) then some (k, y) else none

/-- The slot of a context that took its trap with TILES on the core (R347). -/
def State.tilesTaker (s : State) (c : CoreId) (n : CtxId) : Option Slot :=
  (slotIds.map (s.slot c)).find? fun y => y.isRun && entryCtx y.entry == n && y.tiles == some true

/-- The core's part of the save block (R350): what is the launch's own, and for the first launch on a core the tiles that no slot saves. [log 79, DEDUCED] -/
def State.saveCore (s : State) (q : SeqNo) (l : Launch) (c : CoreId) (first : Bool) : SavedCore :=
  let x := s.core c
  let (lx, ly) := l.logical c
  let ys := s.savedSlots c q
  let lo := descLslo l.desc * 1024
  let n := descLskib l.desc * 1024
  let taker := s.tilesTaker c (descCtx l.desc)
  { lx := lx, ly := ly, ls := x.ls.slice lo n
    lsPoison := x.lsPoison.filter fun g => decide (lo ≤ 64 * g) && decide (64 * g < lo + n)
    bars := if descGang l.desc then x.bars else Vector.replicate 8 {}
    bays := x.bays.map fun b => if b.seq == q then b else {}
    tokens := if descGang l.desc then x.tokens else []
    msgs := x.msgs.filter fun m => m.seq == q, spill := x.spill.look 0 q.toNat
    tiles := if taker.isNone && first then some { tiles := x.tiles, mprog := x.mprog } else none
    tilesRole := match taker with
      | some y => if entrySeq y.entry == q then some (entryRole y.entry) else none
      | none => none
    slots := ys.map fun (k, y) => saveSlot c k y }

/-- Results that have arrived for truncated slots of a core (R349), as ring entries. -/
def State.savedResults (s : State) (c : CoreId) (n : CtxId) : List RingItem :=
  slotIds.filterMap fun k =>
    let y := s.slot c k
    if y.isRun && entryCtx y.entry == n then y.arrived.map fun w => RingItem.result (entrySeq y.entry) (entryRole y.entry) w else none

/-- The core after its state has been saved: entries SAVED, those that were DONE free, and nothing of the context left to act (R346). What the core shares is given up if it is the context's. [log 73, DEDUCED] -/
def Core.vacate (x : Core) (n : CtxId) (mine : SeqNo → Bool) : Core :=
  let x := { x with
    slots := x.slots.map fun (e : Nat × Slot) =>
      let y := e.2
      let st := entryState y.entry
      if entryCtx y.entry != n || st == stFree then e
      else if st == stDone then (e.1, { entryNext := y.entryNext, lastRot := y.lastRot })
      else (e.1, { entry := setEntryState y.entry stSaved, lastRot := y.lastRot })
    ring := x.ring.filter fun i => !mine i.seq, outbox := x.outbox.filter fun i => !mine i.2.seq
    msgs := x.msgs.filter fun m => !mine m.seq, spill := x.spill.filter fun e => !mine (BitVec.ofNat 32 e.1) }
  if x.owner = some n then
    { x with bars := Vector.replicate 8 {}, tokens := [], bays := Vector.replicate 4 {}, owner := none, imaged := [] }
  else x

/-- Bytes that a save block takes (R350): the engine progress records, and each core's part. -/
def saveHead : Nat := 655360
def saveShare (l : Launch) : Nat := descLskib l.desc * 1024 + 655360

/-- The launches of a context that a pre-emption saves. -/
def State.toSave (s : State) (n : CtxId) : List (SeqNo × Launch) := (s.ctxLaunches n).filter fun e => e.2.hasSlots

/-- The save block is present in local memory and has room (R350). [log 76, DEDUCED] -/
def State.saveBlockOk (s : State) (n : CtxId) : Bool :=
  let a := (s.ctx n).save.toNat
  let size := (s.toSave n).foldl (fun a e => a + e.2.cores.length * saveShare e.2) saveHead
  a != 0 && a % 4096 == 0 && isLocal a && decide (a + size ≤ 2 ^ 40)

/-- The progress record of a suspended engine command (13 R316). -/
def Cmd.progress (q : Cmd) : List Byte :=
  let (r, n) := q.saved.getD ({}, 0)
  leBytes 64 q.rec_.toNat ++ ((r.g.toList.take 16).flatMap fun x => leBytes 8 x.toNat) ++ (r.a.toList.flatMap fun x => leBytes 8 x.toNat)
    ++ (r.p.toList.flatMap fun x => leBytes 8 x.toNat) ++ leBytes 4 (r.pc.toNat % 2 ^ 16) ++ leBytes 4 n.toNat

/-- The image of the tile area of a core (R17, R350). -/
def SavedTiles.image (t : SavedTiles) : List Byte :=
  (t.tiles.toList.flatMap fun x => (List.range 4096).flatMap fun i => leBytes 4 (x.getD i 0).toNat) ++ (t.mprog.toList.flatMap fun x => leBytes 4 x.toNat)

/-- A piece of memory that a capture writes: address, bytes, and the 64-byte pieces of it that are poisoned (R345). -/
structure SavePiece where
  at_ : Nat
  bytes : List Byte
  poison : List Nat := []

def State.writePiece (s : State) (p : SavePiece) : State := (s.commitWrite p.at_ p.bytes none).spoilLines (p.poison.map (p.at_ / 64 + ·))

/-- The pieces of memory that a capture writes (R346 step 6, R350, 13 R316): progress records from the start, then each core's part: the local-store image, the ring's capsules, the tile area. [log 27, DESIGN CHOICE] -/
def State.savePieces (s : State) (n : CtxId) (cores : List (SeqNo × CoreId × SavedCore)) (cmds : List Cmd) : List SavePiece :=
  let a := (s.ctx n).save.toNat
  let parts := cores.foldl (fun (acc : Nat × List SavePiece) e =>
    match s.launch e.1 with
    | none => acc
    | some l =>
      let lo := descLslo l.desc * 1024
      let len := descLskib l.desc * 1024
      let caught := (s.core e.2.1).ring.filterMap fun i => match i with
        | .capsule q id => if q == e.1 then s.capsules.find id else none
        | _ => none
      let ring := (caught.take 64).zipIdx.map fun (x, i) =>
        { at_ := acc.1 + len + 8576 * i + 64, bytes := x.img.bytes 0 8512, poison := x.poison : SavePiece }
      let tiles := match e.2.2.tiles with
        | some t => [{ at_ := acc.1 + len + 64 * 8576 + 32768 + 4096, bytes := t.image : SavePiece }]
        | none => []
      let image : SavePiece :=
        { at_ := acc.1, bytes := (s.core e.2.1).ls.bytes lo len, poison := e.2.2.lsPoison.map (· - lo / 64) }
      (acc.1 + saveShare l, acc.2 ++ image :: ring ++ tiles)) (a + saveHead, [])
  cmds.zipIdx.map (fun (q, i) => { at_ := a + 320 * i, bytes := q.progress : SavePiece }) ++ parts.2

/-- Suspended commands go back to engines of a die, at the heads of their queues and in their order (R352). [log 57, DEDUCED] -/
def State.requeue (s : State) (d : DieId) (qs : List Cmd) : State :=
  let first := d.toNat / 2 * 32 + d.toNat % 2 * 16
  qs.reverse.foldl (fun s q =>
    let (i, s) := s.choose 16
    let e : EngineId := BitVec.ofNat 7 (first + i)
    let x := s.engine e
    (s.setEngine e { x with queue := q :: x.queue }).postOnce (.engine e) .engineCommandStart) s

/-- The pre-emption is given up and the launches of the context are aborted (R346, R350); suspended commands go on. -/
def State.abortPreempt (s : State) (n : CtxId) : State :=
  let ls := (s.ctxLaunches n).filter fun e => e.2.preempted
  let y := s.ctx n
  let s := s.setCtx n { y with preempting := none, owed := [] }
  let s := { s with agenda := s.agenda.filter (· != Pick.event (.ctx n) .preemption) }
  let s := y.owed.foldl (fun s q => s.requeue (dieOf (cmdOrig q.rec_)) [q]) s
  (ls.foldl (fun s e => (s.modLaunch e.1 fun l => { l with preempted := false }).abortLaunch e.1) s).pokeQueues.pokeLaunches

/-- A pre-emption for which there is no save block aborts the launches at once (R350). [log 76, DEDUCED] -/
def State.abortUnsaved (s : State) (n : CtxId) : State := (s.toSave n).foldl (fun s e => s.abortLaunch e.1) s

/-- The cores where a launch has state to save: where slots of it have been bound since the context came there (R20, R195). -/
def State.touched (s : State) (q : SeqNo) (l : Launch) : List CoreId := l.cores.filter fun c => (s.core c).imaged.contains q

/-- Steps 5 and 6 of R346: capture and transfer. The layout of the save block belongs to the device; the model also keeps its contents in Save, from which it resumes. While the token's holder bars the writes, they wait (R225). [log 27, DESIGN CHOICE] -/
def State.capture (s : State) (n : CtxId) : State :=
  let ls := s.toSave n
  let parts := ls.foldl (fun (acc : List (SeqNo × CoreId × SavedCore) × List CoreId) e =>
    (s.touched e.1 e.2).foldl (fun acc c => (acc.1 ++ [(e.1, c, s.saveCore e.1 e.2 c (!acc.2.contains c))], c :: acc.2)) acc) ([], [])
  let owed := (s.ctx n).owed
  let pieces := s.savePieces n parts.1 owed
  if s.tokenBars (pieces.flatMap fun p => linesOf p.at_ p.bytes.length) then s.postEvent (.ctx n) .preemption
  else
    let mine (q : SeqNo) : Bool := ls.any fun e => e.1 == q
    let cmds := owed.map fun q => match s.launch (cmdLseq q.rec_) with
      | some l => ((l.logical (cmdOrig q.rec_)).1, (l.logical (cmdOrig q.rec_)).2, q)
      | none => (0, 0, q)
    let all := s.cores.keys.map (BitVec.ofNat 10)
    let rings := all.map fun c => (c, s.savedResults c n ++ (s.core c).ring.filter fun i => mine i.seq)
    let outboxes := all.map fun c => (c, (s.core c).outbox.filter fun i => mine i.2.seq)
    let sv : Save :=
      { launches := ls.map (·.1), cores := parts.1.map fun e => (e.1, e.2.2), cmds := cmds
        rings := rings.filter fun e => !e.2.isEmpty, outboxes := outboxes.filter fun e => !e.2.isEmpty }
    let s := pieces.foldl State.writePiece s
    let s := all.foldl (fun s c => s.setCore c ((s.core c).vacate n mine)) s
    let s := s.setCtx n { s.ctx n with preempting := none, owed := [] }
    ({ s with saves := s.saves.put n.toNat sv }).pokeLaunches

/-- PREEMPTION: the Nose begins to pre-empt a context, or looks whether the next steps can be taken (R346). [log 76, DEDUCED] [log 77, DEDUCED] -/
def execPreemption (s : State) : Host.Outcome State Fault Refusal :=
  match s.cur with
  | .ctx n =>
    if (s.saves.find n.toNat).isSome then .next s
    else if (s.ctx n).preempting.isNone then .next (if s.saveBlockOk n then s.beginPreempt n else s.abortUnsaved n)
    else
      let s := s.truncateAll n
      if !s.preemptReady n then .next (s.postOnce (.ctx n) .preemption)
      else .next (if s.saveBlockOk n then s.capture n else s.abortPreempt n)
  | _ => .fault .wrongAgent

/-- The record of kind 6 (R346). [log 25, DESIGN CHOICE] -/
def State.reportTimeout (s : State) (n : CtxId) : State :=
  match (s.ctxLaunches n).filter fun e => e.2.preempted with
  | [] => s
  | e :: _ => s.report (towerOf (e.2.cores.headD 0)) { cause := 0x12, kind := 6, ctx := n, lseq := e.1 }

/-- PREEMPTION_TIMEOUT: step 3 has not finished within 2^22 cycles (R346). -/
def execPreemptionTimeout (s : State) : Host.Outcome State Fault Refusal :=
  match s.cur with
  | .ctx n => match (s.ctx n).preempting with
    | none => .next s
    | some r => .next (s.timed (r + preemptLimit) (.ctx n) .preemptionTimeout fun s =>
      if s.acknowledged n && (s.untold n).isEmpty then s else (s.reportTimeout n).abortPreempt n)
  | _ => .fault .wrongAgent

/-- The cores of a save block that belong to a launch. -/
def Save.coresOf (v : Save) (q : SeqNo) : List SavedCore := (v.cores.filter fun e => e.1 == q).map (·.2)

/-- The saved slots of a core can be bound there now: the context fits, no other gang holds the core when the launch is one, the reserved slots and enough others are free (R195). -/
def State.coreTakes (s : State) (c : CoreId) (n : CtxId) (q : SeqNo) (gang : Bool) (x : SavedCore) : Bool :=
  let launchSlots := (x.slots.filter fun y => decide (y.role < 16)).length
  let cap := x.slots.any fun y => y.role == 16
  let msg := x.slots.any fun y => y.role == 17
  let free := slotIds.filter fun k => (s.slot c k).isFree && !(k == 14 && cap) && !(k == 15 && msg)
  s.ctxFits c n && !(gang && (s.otherGang c q).isSome) && decide (launchSlots ≤ free.length)
    && (!cap || (s.slot c 14).isFree) && (!msg || (s.slot c 15).isFree)

/-- Origins at which a saved launch may resume now (R351). [log 80, DEDUCED] -/
def State.resumeOrigins (s : State) (v : Save) (q : SeqNo) (l : Launch) : List (Nat × Nat) :=
  let old := l.origin.getD (0, 0)
  let all := if descCaps l.desc then (s.origins l.desc).filter (· == old) else s.origins l.desc
  let ok (o : Nat × Nat) : Bool := (v.coresOf q).all fun x =>
    s.coreTakes (coreAt (o.1 + x.lx) (o.2 + x.ly)) (descCtx l.desc) q (descGang l.desc) x
  let fit := all.filter ok
  if fit.contains old then old :: fit.filter (· != old) else fit

/-- A core of a launch's old rectangle at its new place. -/
def Launch.moved (l : Launch) (o : Nat × Nat) (c : CoreId) : CoreId :=
  coreAt (o.1 + (l.logical c).1) (o.2 + (l.logical c).2)

/-- Where the saved slots have gone: old core and slot, new core and slot. -/
abbrev Moves := List ((CoreId × SlotId) × (CoreId × SlotId))

/-- A message of a launch that has moved: its target's core, and its sender's slot (R351, R352). -/
def Msg.moved (m : Msg) (f : CoreId → CoreId) (ms : Moves) : Msg :=
  let src := (Option.map (·.2) (ms.find? fun x => x.1 == (m.src, m.srcSlot))).getD (f m.src, m.srcSlot)
  { m with src := src.1, srcSlot := src.2, dst := f m.dst }

/-- The registers with which a slot that was running resumes (R352). [log 80, DEDUCED] -/
def resumeRegs (l : Launch) (c : CoreId) (y : SavedSlot) (tiles : Bool) : Regs :=
  let r := bindRegs l c (if y.role < 16 then y.role else 0) (addrCsr (descTrapv l.desc))
  { r with
    priv := true, trapcause := 0x12, trapinfo := BitVec.ofNat 64 (1 + 2 * bit tiles), sscr := r.sscr.set 0 y.sscr0
    vis := y.vis, bay := y.bay, bayOff := y.bayOff, hops := y.hops, fcode := y.fcode }

/-- A saved slot is bound to a physical slot, and begins to run after that if it ran (R194, R352). -/
def State.resumeSlot (s : State) (q : SeqNo) (l : Launch) (c : CoreId) (k : SlotId) (y : SavedSlot) (tiles : Bool) : State :=
  let start : Option Start :=
    if y.run then some { regs := resumeRegs l c y tiles, seq := y.chunkSeq, msg := y.msg, resumes := true } else none
  let x := s.slot c k
  let x : Slot := { entry := x.entry, lastRot := x.lastRot, starting := start, cls := y.cls, posted := y.posted }
  (s.setSlot c k x).writeTable c k (l.record q y.role stBound)

/-- The physical slot that a saved slot takes: reserved roles their own, a launch slot its old one if that is free, else any free one (R422). -/
def State.resumePlace (s : State) (c : CoreId) (y : SavedSlot) : SlotId × State :=
  if y.role = 16 then (14, s)
  else if y.role = 17 then (15, s)
  else
    let free := s.freeSlots c
    if y.was.1 = c ∧ free.contains y.was.2 then (y.was.2, s)
    else
      let (i, s) := s.choose free.length
      (free.getD i 0, s)

/-- ARRV with each bit at the number that its slot has now (R202, R351). [log 110, DEDUCED] -/
def movedArrv (arrv : BitVec 16) (ms : Moves) : BitVec 16 :=
  ms.foldl (fun a m => if arrv.getLsbD m.1.2.toNat then a ||| (1#16 <<< m.2.2.toNat) else a) 0

/-- Step 1 of R352 for a core of a launch; the places of its slots are added to those known. [log 110, DEDUCED] -/
def State.resumeCore (s : State) (n : CtxId) (q : SeqNo) (l : Launch) (x : SavedCore) : State × Moves :=
  let c := l.at x.lx x.ly
  let s := (s.rouse c).enterCtx c n
  let y := s.core c
  let lo := descLslo l.desc * 1024
  let y := { y with
    ls := y.ls.splice lo (descLskib l.desc * 1024) x.ls, lsPoison := y.lsPoison ++ x.lsPoison
    bays := y.bays.zipWith (fun a b => if b.st == .free then a else b) x.bays
    spill := y.spill.put q.toNat x.spill, imaged := q :: y.imaged }
  let y := match x.tiles with
    | some t => { y with tiles := t.tiles, mprog := t.mprog }
    | none => y
  let s := s.setCore c y
  let r := x.slots.foldl (fun (r : State × Moves) y =>
    let (k, s) := r.1.resumePlace c y
    let tiles := x.tilesRole == some y.role
    let s := s.resumeSlot q l c k y tiles
    let s := if tiles then s.setCtx n { s.ctx n with tilesWait := (s.ctx n).tilesWait ++ [(c, k)] } else s
    (s, r.2 ++ [(y.was, (c, k))])) (s, [])
  let s := r.1
  let s := if descGang l.desc then
      let bars := x.bars.map fun (b : Barrier) => { b with arrv := movedArrv b.arrv r.2 }
      s.setCore c { s.core c with bars := bars, tokens := x.tokens }
    else s
  (s, r.2)

/-- The messages that the restored cores and handlers of a launch hold, with their places as they are now. -/
def State.resumeMsgs (s : State) (v : Save) (q : SeqNo) (l : Launch) (f : CoreId → CoreId) (ms : Moves) : State :=
  (v.coresOf q).foldl (fun s x =>
    let c := l.at x.lx x.ly
    let s := s.setCore c { s.core c with msgs := (s.core c).msgs ++ x.msgs.map fun m => m.moved f ms }
    let y := s.slot c 15
    match y.starting with
    | some b => if entrySeq y.coming = q ∧ entryMsgr y.coming then
        s.setSlot c 15 { y with starting := some { b with msg := b.msg.map fun m => m.moved f ms } } else s
    | none => s) s

/-- A ring entry takes effect at its core (R349, R352). -/
def State.replayItem (s : State) (c : CoreId) (f : CoreId → CoreId) (ms : Moves) (i : RingItem) : State :=
  match i with
  | .capsule _ id => match s.capsules.find id with
    | some x => match s.launch x.seq with
      | some l =>
        let x := { x with at_ := .flying }
        (s.setCapsule id x).arriveCapsule id x l
      | none => s
    | none => s
  | .msg m =>
    let m := m.moved f ms
    let s := { s with flying := s.flying.put m.id m }
    match s.launch m.seq with
    | some l => s.arriveMessage m.id m l
    | none => s
  | .lsw _ off size x => s.remoteStore c off size x
  | .lsadd _ off ty x => s.remoteAdd c off ty x
  | .result q role x =>
    match (s.core c).slots.find? fun e => entrySeq e.2.coming == q && entryRole e.2.coming == role && e.2.isHeld with
    | some e => s.giveResult c (BitVec.ofNat 4 e.1) x
    | none => s

/-- A launch of a save block is restored at an origin (R351, R352 step 1). -/
def State.resumeLaunch (s : State) (n : CtxId) (v : Save) (q : SeqNo) (l : Launch) (o : Nat × Nat) : State × Moves :=
  let f := l.moved o
  let l' := { l with
    origin := some o, preempted := false, done := l.done.map fun d => (f d.1, d.2), unbound := l.unbound.map fun d => (f d.1, d.2) }
  (v.coresOf q).foldl (fun (r : State × Moves) x =>
    let r' := r.1.resumeCore n q l' x
    (r'.1, r.2 ++ r'.2)) (s.setLaunch q l', [])

/-- Step 2 of R352: the suspended engine commands of a launch go to engines of the dies of their cores. -/
def State.resumeCommands (s : State) (v : Save) (q : SeqNo) : State :=
  match s.launch q with
  | none => s
  | some l => v.cmds.reverse.foldl (fun s (x, y, m) =>
      if cmdLseq m.rec_ ≠ q then s
      else
        let c := l.at x y
        s.requeue (dieOf c) [{ m with rec_ := setField m.rec_ 448 10 c.toNat }]) s

/-- The saved launches of a context that are still to be run. -/
def State.savedLaunches (s : State) (v : Save) : List (SeqNo × Launch) :=
  v.launches.filterMap fun q => match s.launch q with
    | some l => if l.completed || l.aborted then none else some (q, l)
    | none => none

/-- The launches are restored one after another; none: one of them finds no place now. -/
def State.resumeAll (s : State) (n : CtxId) (v : Save) : List (SeqNo × Launch) → Moves → Option (State × Moves)
  | [], ms => some (s, ms)
  | (q, l) :: rest, ms =>
    match s.resumeOrigins v q l with
    | [] => none
    | o :: os =>
      let (i, s) := s.choose (o :: os).length
      let r := s.resumeLaunch n v q l ((o :: os).getD i o)
      r.1.resumeAll n v rest (ms ++ r.2)

/-- Entries that are SAVED still, their slots not taken again, become free (R194, R351). -/
def State.clearSaved (s : State) (n : CtxId) : State :=
  (s.ctxSlots n stSaved).foldl (fun s (c, k) =>
    if (s.slot c k).entryNext.isSome then s else s.setSlot c k { s.slot c k with entry := 0 }) s

/-- Where a core of a saved launch lies now. -/
def State.movedCore (s : State) (ls : List (SeqNo × Launch)) (q : SeqNo) (c : CoreId) : CoreId :=
  match ls.find? (fun e => e.1 == q), s.launch q with
  | some (_, old), some now => old.moved (now.origin.getD (0, 0)) c
  | _, _ => c

/-- Steps 2 and 3 of R352: engine commands, then the rings of all cores in arrival order, then the outboxes in the order of return; what belongs to a launch goes where that launch lies now (R349). -/
def State.resumeTraffic (s : State) (v : Save) (ls : List (SeqNo × Launch)) (ms : Moves) : State :=
  let s := ls.foldl (fun s e => match s.launch e.1 with
    | some l => s.resumeMsgs v e.1 l (s.movedCore ls e.1) ms
    | none => s) s
  let s := ls.foldl (fun s e => s.resumeCommands v e.1) s
  let s := v.rings.foldl (fun s e => e.2.foldl (fun s i =>
    let f := s.movedCore ls i.seq
    s.replayItem (f e.1) f ms i) s) s
  v.outboxes.foldl (fun s e => e.2.foldl (fun s i =>
    let f := s.movedCore ls i.2.seq
    s.replayItem (f i.1) f ms i.2) s) s

/-- Releases of other packages that came while the context was saved are looked at again (R349, 17 R404). [log 69, DEDUCED] -/
def State.releaseHeld (s : State) (n : CtxId) : State :=
  let mine := s.pkgHeld.filter fun x => x.1 == n
  mine.foldl (fun s x => s.postOnce .none (.pkgBarrierReleaseMsg (s.pkgBar n).group x.2.1 x.2.2))
    { s with pkgHeld := s.pkgHeld.filter fun x => x.1 != n }

/-- CONTEXT_RESUME (R351, R352): it stays on the agenda while a launch finds no place, and where nothing else can move a rotation passes. [log 77, DEDUCED] -/
def State.resumeCtx (s : State) (n : CtxId) (v : Save) : State :=
  let ls := s.savedLaunches v
  match (s.setCtx n { s.ctx n with tilesWait := [] }).resumeAll n v ls [] with
  | none => (if s.agenda.all Pick.timed then s.nextRotation else s).postOnce (.ctx n) .contextResume
  | some (t, ms) =>
    let t := (({ t with saves := t.saves.del n.toNat }).clearSaved n).resumeTraffic v ls ms
    let t := ls.foldl (fun t (q, _) => match t.launch q with
      | some l => l.cores.foldl (fun t c => t.postOnce (.core c) .bayRefill) t
      | none => t) t
    (t.releaseHeld n).pokeQueues.pokeLaunches

def execContextResume (s : State) : Host.Outcome State Fault Refusal :=
  match s.cur with
  | .ctx n => match s.saves.find n.toNat with
    | some v => .next (s.resumeCtx n v)
    | none => .next s
  | _ => .fault .wrongAgent

end Sys2Proof.Machine
end

