-- ==== Sys2Proof/Machine/Service.lean ====
section
/-! DEFINITION. Soft errors, service registers, bring-up and reset, power, monitors, the security alarm, attestation, and unassigned opcodes (00_scope.md R5, 03 R76, 14 R344, 16 R368, 19_service_and_limits.md R414 to R421). -/

namespace Sys2Proof.Machine

/-- A corrected soft error is counted, saturating (R344, R416). -/
def execSoftErrorCorrected (s : State) : Host.Outcome State Fault Refusal :=
  match s.cur with
  | .die d =>
    let x := s.die d
    .next (s.setDie d { x with cecnt := if x.cecnt = BitVec.allOnes 16 then x.cecnt else x.cecnt + 1 })
  | _ => .fault .wrongAgent

/-- An error in the state of a slot's open or waiting chunk squashes it (R222, R344); which of the two it hits is open. [log 81, DESIGN CHOICE] -/
def State.chunkError (s : State) (c : CoreId) (k : SlotId) : State :=
  let y := s.slot c k
  if y.waiting.isSome then
    let (n, s) := s.choose 2
    if n = 1 ∧ y.chunk.isEmpty = false then s.squashSlot c k false else s.squashSlot c k true
  else if y.chunk.isEmpty then s else s.squashSlot c k false

/-- A register whose checkpoint an error has destroyed: which one is open, and its value is free (R344). [log 81, DESIGN CHOICE] -/
def State.spoilCheckpoint (s : State) (c : CoreId) (k : SlotId) : State :=
  let (kind, s) := s.choose 4
  let (i, s) := s.choose 32
  let (n, s) := s.takeFresh
  let w := Config.freeWord n
  let y := s.slot c k
  let r := y.regs
  let r := match kind with
    | 0 => { r with g := r.g.setIfInBounds i w }
    | 1 => { r with v := r.v.setIfInBounds (i % 16) (w ++ w ++ w ++ w ++ w ++ w ++ w ++ w : BitVec 512) }
    | 2 => { r with p := r.p.setIfInBounds (i % 7) w }
    | _ => { r with a := r.a.setIfInBounds (i % 8) w }
  s.setSlot c k { y with regs := r }

/-- An element of a tile whose shadow an error has destroyed (R344). [log 81, DESIGN CHOICE] -/
def State.spoilTile (s : State) (c : CoreId) (t : BitVec 2) : State :=
  let (i, s) := s.choose 4096
  let (n, s) := s.takeFresh
  let x := s.core c
  let old := x.tiles.get t.toFin
  let old := if old.isEmpty then List.replicate 4096 0 else old
  s.setCore c { x with tiles := x.tiles.set t.toNat (old.set i ((Config.freeWord n).setWidth 32)) t.isLt }

/-- A register that the squash cannot restore, or an element of the chunk's tile shadow; none: the chunk has no shadow. -/
def State.spoil (s : State) (c : CoreId) (k : SlotId) (x : Chunk) (tile : Bool) : State :=
  if !tile then s.spoilCheckpoint c k
  else match x.shadows with
    | [] => s
    | sh :: _ => s.spoilTile c sh.tile

/-- The slot traps with Poisoned Data at the start of the chunk whose checkpoint or tile shadow is lost (R332, R344): its open chunk, or the one that waits for its grant, which is open. [log 81, DESIGN CHOICE] -/
def State.checkpointError (s : State) (c : CoreId) (k : SlotId) (tile : Bool) : State :=
  let y := s.slot c k
  let (n, s) := if y.waiting.isSome && y.chunk.opened then s.choose 2 else (0, s)
  let whole := y.waiting.isSome && n == 0
  let x := if whole then y.waiting.getD {} else y.chunk
  if !y.isRun || !x.opened || (tile && x.shadows.isEmpty) then s
  else ((s.squashSlot c k whole).spoil c k x tile).trapDue c k (poisonTrap 0 (if tile then 4 else 5) false)

/-- An uncorrectable soft error, by where it lies (R344). -/
def execSoftErrorUncorrectable (place : ErrorPlace) (s : State) : Host.Outcome State Fault Refusal :=
  match s.cur with
  | .none => .next (match place with
    | .chunkState c k => s.chunkError c k
    | .engineState e => if (s.engine e).chunk.isEmpty then s else s.squashEngine e
    | .checkpoint c k => s.checkpointError c k false
    | .tileShadow c k => s.checkpointError c k true
    | .line n at3 => { s with poison := s.poison.put n.toNat at3 }
    | .granule c n => s.setCore c { s.core c with lsPoison := insertOnce (s.core c).lsPoison n.toNat }
    | .control t => s.machineCheck t)
  | _ => .fault .wrongAgent

/-- A write of DIEPART, by the host or a Nose (R368). -/
def execDiepartWrite (x : Word) (s : State) : Host.Outcome State Fault Refusal :=
  match s.cur with
  | .die d => .next (s.regWrite (.diepart d) .nose x (BitVec.allOnes 64))
  | _ => .fault .wrongAgent

/-- Who makes a write event. -/
def writerOf (byHost : Bool) : Writer := if byHost then .host else .nose

/-- A write of ALARM; the host only reads it (R419). -/
def execAlarmWrite (byHost : Bool) (x : Word) (s : State) : Host.Outcome State Fault Refusal :=
  match s.cur with
  | .none => .next (s.regWrite .alarm (writerOf byHost) x (BitVec.allOnes 64))
  | _ => .fault .wrongAgent

/-- A write of MONSTAT; host writes are ignored (R416). -/
def execMonstatWrite (byHost hi : Bool) (x : Word) (s : State) : Host.Outcome State Fault Refusal :=
  match s.cur with
  | .die d => .next (s.regWrite (.monstat d hi) (writerOf byHost) x (BitVec.allOnes 64))
  | _ => .fault .wrongAgent

/-- A write of a register in device control space by the host, whose link is up, or by a Nose (R5, R390). [log 91, DEDUCED] -/
def execRegisterWrite (byHost : Bool) (off : BitVec 28) (x : Word) (s : State) : Host.Outcome State Fault Refusal :=
  match s.cur with
  | .none =>
    if byHost && !s.host.up then .next s
    else .next (s.regWrite (regAt (off.toNat / 8 * 8)) (writerOf byHost) x (BitVec.allOnes 64))
  | _ => .fault .wrongAgent

/-- A read of MONSTAT: the answer, and VMIN begins again (R416). [log 82, DEDUCED] -/
def execMonstatVminRead (s : State) : Host.Outcome State Fault Refusal :=
  match s.cur with
  | .die d => .next ((s.regTouch (.monstat d true)).send (.regRead (s.die d).monHi))
  | _ => .fault .wrongAgent

/-- The record of a security event (R340, R418). [log 25, DESIGN CHOICE] -/
def State.securityRecord (s : State) (t : TowerId) : State := s.report t { cause := 0, sub := s.svc.cause, kind := 8 }

/-- A Nose access that the memory firewall blocks (R418). -/
def execMemoryFirewallBlock (s : State) : Host.Outcome State Fault Refusal :=
  match s.cur with
  | .tower t => .next (s.securityRecord t)
  | _ => .fault .wrongAgent

/-- The halt of an alarm: every launch aborted, links and host port down, stacks in transit FENCED (R420). [log 85, DEDUCED] -/
def State.alarmHalt (s : State) : State :=
  let s := s.launches.keys.foldl (fun s n => s.abortLaunch (BitVec.ofNat 32 n)) s
  let s := ((List.range 16).foldl (fun s n => s.portDown (BitVec.ofNat 4 n)) s).hostLinkDown
  let s := (List.range 16).foldl (fun s n =>
    let m : StackId := BitVec.ofNat 4 n
    if (s.stack m).st = .owned then s else s.fence m) s
  { s with svc := { s.svc with halted := true } }

/-- A security alarm acts as POL says (R420). -/
def execSecurityAlarm (cause : BitVec 2) (s : State) : Host.Outcome State Fault Refusal :=
  match s.cur with
  | .none =>
    let v := s.svc
    let s := { s with svc := { v with cause := v.cause ||| (1#8 <<< cause), num := v.num + 1 } }
    let s := (List.range 4).foldl (fun s n => s.securityRecord (BitVec.ofNat 2 n)) s
    let s := if polActs v.pol = 2 then { s with svc := { s.svc with erased := true } } else s
    .next (if polActs v.pol = 0 then s else s.alarmHalt)
  | _ => .fault .wrongAgent

/-- What comes from outside the package, and stands on the agenda across a reset. [log 86, DESIGN CHOICE] -/
def Pick.outside : Pick → Bool
  | .event _ i => match i with
    | .hostMemoryAccess _ _ _ _ => true
    | .hostSnoop _ _ => true
    | .registerWrite _ _ _ => true
    | .ouvkenFlitReceive _ => true
    | .peerAccessRequest _ _ _ => true
    | .powerGood => true
    | .packageReset => true
    | .thermalTrip => true
    | .securityAlarm _ => true
    | .getVersion => true
    | .getCapabilities => true
    | .negotiateAlgorithms => true
    | .getDigests => true
    | .getCertificate _ _ => true
    | .challenge _ => true
    | .getMeasurements _ => true
    | _ => false
  | .input _ => true
  | _ => false

/-- Power good, or package reset (R414): step 1. Every part is held in reset, at the values of State.reset but for what lies outside the package and the erased keys; nothing of it is reachable, and the next steps follow one by one. [log 7, DESIGN CHOICE] [log 10, DESIGN CHOICE] [log 86, DESIGN CHOICE] -/
def State.bringUp (s : State) : State :=
  { State.reset with
    agenda := .boot :: s.agenda.filter Pick.outside, tape := s.tape, fresh := s.fresh, hostMem := s.hostMem, peerMem := s.peerMem
    lsImages := s.lsImages, pkg := s.pkg, outputs := s.outputs, svc := { erased := s.svc.erased, boot := 1 }
    host := { up := false }, ports := (List.range 16).map fun n => (n, { up := false }) }

/-- A step of bring-up is complete, and the next one can follow. -/
def State.booted (s : State) (n : Nat) : State := ({ s with svc := { s.svc with boot := n } }).post .boot

/-- A step that ends with a check of signatures, which the tape says fails: the Nose stays where it is and reports (R414). [log 86, DESIGN CHOICE] -/
def State.signed (s : State) (n : Nat) (f : State → State) : State :=
  let (bad, s) := s.choose 2
  if bad = 1 then s.send (.mgmt 1) else (f s).booted n

/-- Stacks of a mask that do not train are FENCED; the others are OWNED, at port 0 and epoch 0 (R414 step 3). -/
def State.trainStacks (s : State) (bad : Nat) : State :=
  { s with mem := [], dirty := [], poison := [], llc := [], dir := []
           stks := (List.range 16).map fun n => (n, { st := if bad.testBit n then .fenced else .owned }) }

/-- Ports of a mask that do not train count as down (R414 step 7). -/
def State.trainPorts (s : State) (bad : Nat) : State :=
  { s with routes := [], ports := (List.range 16).map fun n => (n, { up := !bad.testBit n }) }

/-- The next step of bring-up (R414): 2 firmware, 3 base dies and stacks, 4 slots, local stores and partitions, 5 standard programs, 6 the host port, 7 the Ouvken ports. [log 86, DESIGN CHOICE] -/
def State.bootStep (s : State) : State :=
  match s.svc.boot with
  | 1 => s.signed 2 id
  | 2 =>
    let (bad, s) := s.choose 65536
    (s.trainStacks bad).booted 3
  | 3 => ({ s with cores := [], dies := s.dies.map fun (e : Nat × Die) => (e.1, { e.2 with part := 0 }) }).booted 4
  | 4 => s.signed 5 fun s => { s with estores := [] }
  | 5 =>
    ({ s with
      queues := s.queues.map fun (e : Nat × Queue) => (e.1, { e.2 with en := false }), faultqs := s.faultqs.map fun (e : Nat × FaultQ) => (e.1, { e.2 with en := false })
      host := { s.host with up := true } }).booted 6
  | 6 =>
    let (bad, s) := s.choose 65536
    let s := s.trainPorts bad
    { s with svc := { s.svc with boot := 7 } }
  | _ => s

def execPowerGood (s : State) : Host.Outcome State Fault Refusal :=
  match s.cur with
  | .none => .next s.bringUp
  | _ => .fault .wrongAgent

def execPackageReset (s : State) : Host.Outcome State Fault Refusal :=
  match s.cur with
  | .none => .next s.bringUp
  | _ => .fault .wrongAgent

/-- The current limit of a rail: that of its fuses, or a lower one that the Nose has set (R415). [log 83, DESIGN CHOICE] -/
def State.railLimit (s : State) (r : Nat) : Nat := s.rails.look (Config.railFuse r) r

/-- The Nose asks for a current limit: it may lower the limit and cannot raise it (R415). [log 83, DESIGN CHOICE] -/
def State.lowerRail (s : State) (r limit : Nat) : State :=
  if limit < s.railLimit r then { s with rails := s.rails.put r limit } else s

/-- The dies on a rail (R415). -/
def railDies (r : Nat) : List DieId := ((List.range 8).map (BitVec.ofNat 3)).filter fun d => Config.railOf d == r

/-- The current of a die's rail meets its limit, or falls below it: the clock of every die on the rail is stretched meanwhile, and no result changes (R415). The current comes from outside the model. [log 83, DESIGN CHOICE] -/
def execRailCurrentClamp (s : State) : Host.Outcome State Fault Refusal :=
  match s.cur with
  | .die d =>
    let r := Config.railOf d
    let (amps, s) := s.choose 4294967296
    .next ((railDies r).foldl (fun s d => s.setDie d { s.die d with slow := decide (s.railLimit r ≤ amps) }) s)
  | _ => .fault .wrongAgent

/-- The throttle temperature as it acts (R416). [log 82, DEDUCED] -/
def Die.throttleAt (d : Die) : Nat := min 880 d.throt.toNat

/-- The sensors and monitors of a die show new values, which come from outside the model: TMAX, TIDX and ROSC (R416). [log 82, DEDUCED] -/
def State.sample (s : State) (d : DieId) : State :=
  let (a, s) := s.choose 4096
  let (b, s) := s.choose 64
  let (c, s) := s.choose 65536
  s.setDie d { s.die d with tmax := BitVec.ofNat 12 a, tidx := BitVec.ofNat 6 b, rosc := BitVec.ofNat 16 c }

/-- The sensors are read again: while TMAX exceeds THROT the die's clock is stretched (R417). -/
def execThermalThrottle (s : State) : Host.Outcome State Fault Refusal :=
  match s.cur with
  | .die d =>
    let s := s.sample d
    let x := s.die d
    .next (s.setDie d { x with hot := decide (x.throttleAt < x.tmax.toNat) })
  | _ => .fault .wrongAgent

/-- A thermal trip: the clocks stop, the Noses halt, open chunks are lost as at a squash (R417). -/
def execThermalTrip (s : State) : Host.Outcome State Fault Refusal :=
  match s.cur with
  | .none =>
    let s := s.squashWhere (fun _ x => x.opened || !x.isEmpty) (fun x => !x.isEmpty) []
    .next ({ s with svc := { s.svc with tripped := true } }.send (.mgmt 0))
  | _ => .fault .wrongAgent

/-- What still acts in a package whose clocks have stopped (R417, R420): reset, power and the alarm. [log 85, DEDUCED] -/
def Pick.actsTripped : Pick → Bool
  | .event _ .packageReset => true
  | .event _ .powerGood => true
  | .event _ (.securityAlarm _) => true
  | _ => false

/-- Something from outside reaches the package (19 R414, R415, 17 R388 to R402). [log 115, DESIGN CHOICE] -/
def State.takeInput (s : State) (x : Input) : State :=
  match x with
  | .barRead off n => s.barRead off.toNat n
  | .birsp line => s.birsp line
  | .msixControl enabled fmask => s.msixControl enabled fmask
  | .hostAtomic opc ty pa v c => s.hostAtomic opc ty pa v c
  | .peerWrite pkg pa data => s.peerWrite pkg pa.toNat data
  | .replayRequest p seq => s.replayFlits p seq
  | .flitAck p seq => s.ackFlits p seq
  | .railLimit r limit => s.lowerRail r limit

/-- An SPDM answer: error when the keys are erased (R420), or when the exchange has not come so far. Codes are those of DMTF SPDM 1.2. [log 87, PRESUMED] -/
def State.spdmAnswer (s : State) (ready : Bool) (code : Byte) (data : List Byte) : State :=
  if s.svc.erased then s.send (.spdm 0x7F [0x05])
  else if !ready then s.send (.spdm 0x7F [0x04])
  else s.send (.spdm code data)

/-- An SPDM request. -/
def spdmOp (s : State) (body : State) : Host.Outcome State Fault Refusal :=
  match s.cur with
  | .none => .next body
  | _ => .fault .wrongAgent

/-- n bytes of an attestation item, whose values the spec does not give. [log 87, PRESUMED] -/
def attest (item n off : Nat) : List Byte := (List.range n).map fun i => Config.freeAttest item (off + i)

/-- Version, capabilities and algorithms are agreed. [log 11, DESIGN CHOICE] -/
def Spdm.ready (v : Spdm) : Bool := v.version && v.caps && v.algs

/-- GET_VERSION: SPDM 1.2; the exchange begins again (R421). [log 87, PRESUMED] -/
def execGetVersion (s : State) : Host.Outcome State Fault Refusal :=
  spdmOp s ({ s with svc := { s.svc with spdm := { version := !s.svc.erased } } }.spdmAnswer true 0x04 [0x00, 0x01, 0x00, 0x12])

/-- GET_CAPABILITIES: certificates, challenge and signed measurements, no sessions (R421). [log 87, PRESUMED] -/
def execGetCapabilities (s : State) : Host.Outcome State Fault Refusal :=
  let v := s.svc.spdm
  spdmOp s ({ s with svc := { s.svc with spdm := { v with caps := v.version } } }.spdmAnswer v.version 0x61 [0x16, 0x00, 0x00, 0x00])

/-- NEGOTIATE_ALGORITHMS: ECDSA P-384 with SHA-384 only (R421). [log 87, PRESUMED] -/
def execNegotiateAlgorithms (s : State) : Host.Outcome State Fault Refusal :=
  let v := s.svc.spdm
  let ok := v.version && v.caps
  spdmOp s ({ s with svc := { s.svc with spdm := { v with algs := ok } } }.spdmAnswer ok 0x63 [0x80, 0x00, 0x00, 0x00, 0x02, 0x00, 0x00, 0x00])

/-- GET_DIGESTS: the SHA-384 digest of the certificate chain (R421). -/
def execGetDigests (s : State) : Host.Outcome State Fault Refusal :=
  spdmOp s (s.spdmAnswer s.svc.spdm.ready 0x01 (attest 0 48 0))

/-- GET_CERTIFICATE: a part of the certificate chain (R421). -/
def execGetCertificate (off len : Nat) (s : State) : Host.Outcome State Fault Refusal :=
  spdmOp s (s.spdmAnswer s.svc.spdm.ready 0x02 (attest 1 len off))

/-- CHALLENGE: a signature over the nonce (R421). -/
def execChallenge (nonce : BitVec 256) (s : State) : Host.Outcome State Fault Refusal :=
  let (n, s) := s.takeFresh
  spdmOp s (s.spdmAnswer s.svc.spdm.ready 0x03 (leBytes 32 nonce.toNat ++ attest (n + 8) 96 0))

/-- The bytes of a measurement block: blocks 1 to 3 do not change, block 4 holds ALARM.POL with LOCK (R421). -/
def State.measurement (s : State) (index : Nat) : List Byte :=
  if index = 4 then attest 5 48 (64 * (s.svc.pol.toNat + 4 * bit s.svc.lock)) else attest (1 + index) 48 0

/-- GET_MEASUREMENTS: the number of blocks, one block, or all four (R421). -/
def execGetMeasurements (index : BitVec 8) (s : State) : Host.Outcome State Fault Refusal :=
  let n := index.toNat
  let ready := s.svc.spdm.ready
  if ready && !s.svc.erased && decide (4 < n) && decide (n < 255) then spdmOp s (s.send (.spdm 0x7F [0x01]))
  else
    let data := if n = 0 then [4] else if n = 255 then ([1, 2, 3, 4].flatMap fun i => BitVec.ofNat 8 i :: s.measurement i)
      else index :: s.measurement n
    spdmOp s (s.spdmAnswer ready 0x60 data)

/-- An unassigned opcode: Illegal Instruction on a slot at every level, and on an engine hart (R76, R315). -/
def execUnassignedOpcode (_w : BitVec 96) (s : State) : Host.Outcome State Fault Refusal :=
  match s.cur with
  | .slot c k => .next (s.raise c k { cause := 0x02 })
  | .engine e => .next (s.engineAbort e 2 { cause := 0x02 })
  | _ => .fault .wrongAgent

end Sys2Proof.Machine
end

