-- ==== Sys2Proof/Machine/Dispatch.lean ====
section
/-! DEFINITION. One arm for each constructor of Instr: the meaning of each row of spec/opcode_table.json. -/

namespace Sys2Proof.Machine

def exec (i : Instr) (s : State) : Host.Outcome State Fault Refusal :=
  match i with
  | .nop f => Sys2Proof.Machine.execNop f s
  | .bra f => Sys2Proof.Machine.execBra f s
  | .call f => Sys2Proof.Machine.execCall f s
  | .jmp f => Sys2Proof.Machine.execJmp f s
  | .callr f => Sys2Proof.Machine.execCallr f s
  | .ret f => Sys2Proof.Machine.execRet f s
  | .loopI f => Sys2Proof.Machine.execLoopI f s
  | .loopx f => Sys2Proof.Machine.execLoopx f s
  | .halt f => Sys2Proof.Machine.execHalt f s
  | .yield f => Sys2Proof.Machine.execYield f s
  | .cut f => Sys2Proof.Machine.execCut f s
  | .waitv f => Sys2Proof.Machine.execWaitv f s
  | .waitd f => Sys2Proof.Machine.execWaitd f s
  | .trapI f => Sys2Proof.Machine.execTrapI f s
  | .syscall f => Sys2Proof.Machine.execSyscall f s
  | .eret f => Sys2Proof.Machine.execEret f s
  | .csrr f => Sys2Proof.Machine.execCsrr f s
  | .csrw f => Sys2Proof.Machine.execCsrw f s
  | .csrxSwp f => Sys2Proof.Machine.execCsrxSwp f s
  | .csrxSet f => Sys2Proof.Machine.execCsrxSet f s
  | .csrxClr f => Sys2Proof.Machine.execCsrxClr f s
  | .iflush f => Sys2Proof.Machine.execIflush f s
  | .barset f => Sys2Proof.Machine.execBarset f s
  | .bararr f => Sys2Proof.Machine.execBararr f s
  | .barwait f => Sys2Proof.Machine.execBarwait f s
  | .launch f => Sys2Proof.Machine.execLaunch f s
  | .preack f => Sys2Proof.Machine.execPreack f s
  | .probe f => Sys2Proof.Machine.execProbe f s
  | .add f => Sys2Proof.Machine.execAdd f s
  | .sub f => Sys2Proof.Machine.execSub f s
  | .mul f => Sys2Proof.Machine.execMul f s
  | .mulh f => Sys2Proof.Machine.execMulh f s
  | .div f => Sys2Proof.Machine.execDiv f s
  | .rem f => Sys2Proof.Machine.execRem f s
  | .andI f => Sys2Proof.Machine.execAndI f s
  | .orI f => Sys2Proof.Machine.execOrI f s
  | .xorI f => Sys2Proof.Machine.execXorI f s
  | .andn f => Sys2Proof.Machine.execAndn f s
  | .orn f => Sys2Proof.Machine.execOrn f s
  | .shl f => Sys2Proof.Machine.execShl f s
  | .shr f => Sys2Proof.Machine.execShr f s
  | .sar f => Sys2Proof.Machine.execSar f s
  | .rol f => Sys2Proof.Machine.execRol f s
  | .minI f => Sys2Proof.Machine.execMinI f s
  | .maxI f => Sys2Proof.Machine.execMaxI f s
  | .absI f => Sys2Proof.Machine.execAbsI f s
  | .negI f => Sys2Proof.Machine.execNegI f s
  | .clz f => Sys2Proof.Machine.execClz f s
  | .ctz f => Sys2Proof.Machine.execCtz f s
  | .popc f => Sys2Proof.Machine.execPopc f s
  | .brev f => Sys2Proof.Machine.execBrev f s
  | .bfx f => Sys2Proof.Machine.execBfx f s
  | .bfi f => Sys2Proof.Machine.execBfi f s
  | .ext f => Sys2Proof.Machine.execExt f s
  | .cmp f => Sys2Proof.Machine.execCmp f s
  | .sel f => Sys2Proof.Machine.execSel f s
  | .mov f => Sys2Proof.Machine.execMov f s
  | .movi f => Sys2Proof.Machine.execMovi f s
  | .movh f => Sys2Proof.Machine.execMovh f s
  | .lea f => Sys2Proof.Machine.execLea f s
  | .plog f => Sys2Proof.Machine.execPlog f s
  | .pset f => Sys2Proof.Machine.execPset f s
  | .pget f => Sys2Proof.Machine.execPget f s
  | .pcnt f => Sys2Proof.Machine.execPcnt f s
  | .amov f => Sys2Proof.Machine.execAmov f s
  | .mulw f => Sys2Proof.Machine.execMulw f s
  | .madd f => Sys2Proof.Machine.execMadd f s
  | .shlf f => Sys2Proof.Machine.execShlf f s
  | .bswap f => Sys2Proof.Machine.execBswap f s
  | .fadd f => Sys2Proof.Machine.execFadd f s
  | .fsub f => Sys2Proof.Machine.execFsub f s
  | .fmul f => Sys2Proof.Machine.execFmul f s
  | .ffma f => Sys2Proof.Machine.execFfma f s
  | .fdiv f => Sys2Proof.Machine.execFdiv f s
  | .fsqrt f => Sys2Proof.Machine.execFsqrt f s
  | .fmin f => Sys2Proof.Machine.execFmin f s
  | .fmax f => Sys2Proof.Machine.execFmax f s
  | .fcmp f => Sys2Proof.Machine.execFcmp f s
  | .fcvt f => Sys2Proof.Machine.execFcvt f s
  | .fcvi f => Sys2Proof.Machine.execFcvi f s
  | .icvf f => Sys2Proof.Machine.execIcvf f s
  | .fclass f => Sys2Proof.Machine.execFclass f s
  | .fsgn f => Sys2Proof.Machine.execFsgn f s
  | .frnd f => Sys2Proof.Machine.execFrnd f s
  | .fscale f => Sys2Proof.Machine.execFscale f s
  | .ld f => Sys2Proof.Machine.execLd f s
  | .st f => Sys2Proof.Machine.execSt f s
  | .lda f => Sys2Proof.Machine.execLda f s
  | .pref f => Sys2Proof.Machine.execPref f s
  | .lsr f => Sys2Proof.Machine.execLsr f s
  | .lsw f => Sys2Proof.Machine.execLsw f s
  | .lsadd f => Sys2Proof.Machine.execLsadd f s
  | .amsg f => Sys2Proof.Machine.execAmsg f s
  | .aadd f => Sys2Proof.Machine.execAadd f s
  | .aand f => Sys2Proof.Machine.execAand f s
  | .aor f => Sys2Proof.Machine.execAor f s
  | .axor f => Sys2Proof.Machine.execAxor f s
  | .amin f => Sys2Proof.Machine.execAmin f s
  | .amax f => Sys2Proof.Machine.execAmax f s
  | .axchg f => Sys2Proof.Machine.execAxchg f s
  | .acas f => Sys2Proof.Machine.execAcas f s
  | .acas2 f => Sys2Proof.Machine.execAcas2 f s
  | .fence f => Sys2Proof.Machine.execFence f s
  | .fenceSys f => Sys2Proof.Machine.execFenceSys f s
  | .cflush f => Sys2Proof.Machine.execCflush f s
  | .cinv f => Sys2Proof.Machine.execCinv f s
  | .cwb f => Sys2Proof.Machine.execCwb f s
  | .ld2 f => Sys2Proof.Machine.execLd2 f s
  | .st2 f => Sys2Proof.Machine.execSt2 f s
  | .vmov f => Sys2Proof.Machine.execVmov f s
  | .vbcast f => Sys2Proof.Machine.execVbcast f s
  | .vadd f => Sys2Proof.Machine.execVadd f s
  | .vsub f => Sys2Proof.Machine.execVsub f s
  | .vmul f => Sys2Proof.Machine.execVmul f s
  | .vfma f => Sys2Proof.Machine.execVfma f s
  | .vmin f => Sys2Proof.Machine.execVmin f s
  | .vmax f => Sys2Proof.Machine.execVmax f s
  | .vabs f => Sys2Proof.Machine.execVabs f s
  | .vneg f => Sys2Proof.Machine.execVneg f s
  | .vand f => Sys2Proof.Machine.execVand f s
  | .vor f => Sys2Proof.Machine.execVor f s
  | .vxor f => Sys2Proof.Machine.execVxor f s
  | .vshl f => Sys2Proof.Machine.execVshl f s
  | .vshr f => Sys2Proof.Machine.execVshr f s
  | .vsar f => Sys2Proof.Machine.execVsar f s
  | .vcmp f => Sys2Proof.Machine.execVcmp f s
  | .vsel f => Sys2Proof.Machine.execVsel f s
  | .vcvt f => Sys2Proof.Machine.execVcvt f s
  | .vshuf f => Sys2Proof.Machine.execVshuf f s
  | .vslide f => Sys2Proof.Machine.execVslide f s
  | .vred f => Sys2Proof.Machine.execVred f s
  | .vld f => Sys2Proof.Machine.execVld f s
  | .vst f => Sys2Proof.Machine.execVst f s
  | .vgath f => Sys2Proof.Machine.execVgath f s
  | .vscat f => Sys2Proof.Machine.execVscat f s
  | .vdiv f => Sys2Proof.Machine.execVdiv f s
  | .vsqrt f => Sys2Proof.Machine.execVsqrt f s
  | .vext f => Sys2Proof.Machine.execVext f s
  | .vins f => Sys2Proof.Machine.execVins f s
  | .viota f => Sys2Proof.Machine.execViota f s
  | .fset f => Sys2Proof.Machine.execFset f s
  | .fget f => Sys2Proof.Machine.execFget f s
  | .fadj f => Sys2Proof.Machine.execFadj f s
  | .vplane f => Sys2Proof.Machine.execVplane f s
  | .vunpl f => Sys2Proof.Machine.execVunpl f s
  | .sfx f => Sys2Proof.Machine.execSfx f s
  | .rngx f => Sys2Proof.Machine.execRngx f s
  | .rngf f => Sys2Proof.Machine.execRngf f s
  | .vmulh f => Sys2Proof.Machine.execVmulh f s
  | .vpopc f => Sys2Proof.Machine.execVpopc f s
  | .vdot f => Sys2Proof.Machine.execVdot f s
  | .vcomp f => Sys2Proof.Machine.execVcomp f s
  | .mzero f => Sys2Proof.Machine.execMzero f s
  | .mma f => Sys2Proof.Machine.execMma f s
  | .mld f => Sys2Proof.Machine.execMld f s
  | .mst f => Sys2Proof.Machine.execMst f s
  | .mmov f => Sys2Proof.Machine.execMmov f s
  | .xclr f => Sys2Proof.Machine.execXclr f s
  | .xacc f => Sys2Proof.Machine.execXacc f s
  | .xadd f => Sys2Proof.Machine.execXadd f s
  | .xrnd f => Sys2Proof.Machine.execXrnd f s
  | .xget f => Sys2Proof.Machine.execXget f s
  | .mscl f => Sys2Proof.Machine.execMscl f s
  | .capnew f => Sys2Proof.Machine.execCapnew f s
  | .capsend f => Sys2Proof.Machine.execCapsend f s
  | .caphead f => Sys2Proof.Machine.execCaphead f s
  | .cappush f => Sys2Proof.Machine.execCappush f s
  | .cappop f => Sys2Proof.Machine.execCappop f s
  | .capset f => Sys2Proof.Machine.execCapset f s
  | .capsplit f => Sys2Proof.Machine.execCapsplit f s
  | .capend f => Sys2Proof.Machine.execCapend f s
  | .capnext f => Sys2Proof.Machine.execCapnext f s
  | .capplace f => Sys2Proof.Machine.execCapplace f s
  | .capinj f => Sys2Proof.Machine.execCapinj f s
  | .capget f => Sys2Proof.Machine.execCapget f s
  | .capkey f => Sys2Proof.Machine.execCapkey f s
  | .xcopy f => Sys2Proof.Machine.execXcopy f s
  | .xfill f => Sys2Proof.Machine.execXfill f s
  | .xgath f => Sys2Proof.Machine.execXgath f s
  | .xscat f => Sys2Proof.Machine.execXscat f s
  | .xcmpr f => Sys2Proof.Machine.execXcmpr f s
  | .xdcmp f => Sys2Proof.Machine.execXdcmp f s
  | .hartXcopy f => Sys2Proof.Machine.execHartXcopy f s
  | .hartXfill f => Sys2Proof.Machine.execHartXfill f s
  | .hartXcmpr f => Sys2Proof.Machine.execHartXcmpr f s
  | .hartXdcmp f => Sys2Proof.Machine.execHartXdcmp f s
  | .hartHalt f => Sys2Proof.Machine.execHartHalt f s
  | .arrset f => Sys2Proof.Machine.execArrset f s
  | .await f => Sys2Proof.Machine.execAwait f s
  | .equery f => Sys2Proof.Machine.execEquery f s
  | .eload f => Sys2Proof.Machine.execEload f s
  | .tlbinvVa f => Sys2Proof.Machine.execTlbinvVa f s
  | .tlbinvCtx f => Sys2Proof.Machine.execTlbinvCtx f s
  | .tlbinvAll f => Sys2Proof.Machine.execTlbinvAll f s
  | .decant f => Sys2Proof.Machine.execDecant f s
  | .stkq f => Sys2Proof.Machine.execStkq f s
  | .slotctlRd f => Sys2Proof.Machine.execSlotctlRd f s
  | .slotctlStop f => Sys2Proof.Machine.execSlotctlStop f s
  | .hostint f => Sys2Proof.Machine.execHostint f s
  | .ckptqTest f => Sys2Proof.Machine.execCkptqTest f s
  | .ckptqTake f => Sys2Proof.Machine.execCkptqTake f s
  | .jrnlOff f => Sys2Proof.Machine.execJrnlOff f s
  | .jrnlRec f => Sys2Proof.Machine.execJrnlRec f s
  | .jrnlRpl f => Sys2Proof.Machine.execJrnlRpl f s
  | .jrnlStat f => Sys2Proof.Machine.execJrnlStat f s
  | .faultqPop f => Sys2Proof.Machine.execFaultqPop f s
  | .faultqCnt f => Sys2Proof.Machine.execFaultqCnt f s
  | .resume f => Sys2Proof.Machine.execResume f s
  | .resumeFail f => Sys2Proof.Machine.execResumeFail f s
  | .queueTailDoorbell tail => Sys2Proof.Machine.execQueueTailDoorbell tail s
  | .slotTableWrite entry => Sys2Proof.Machine.execSlotTableWrite entry s
  | .barrierRowToken b shape => Sys2Proof.Machine.execBarrierRowToken b shape s
  | .barrierColumnToken b shape => Sys2Proof.Machine.execBarrierColumnToken b shape s
  | .barrierReleaseToken b shape => Sys2Proof.Machine.execBarrierReleaseToken b shape s
  | .pkgBarrierArrivalMsg group b gen => Sys2Proof.Machine.execPkgBarrierArrivalMsg group b gen s
  | .pkgBarrierReleaseMsg group b gen => Sys2Proof.Machine.execPkgBarrierReleaseMsg group b gen s
  | .postedWriteCompletion status => Sys2Proof.Machine.execPostedWriteCompletion status s
  | .ldaDataReturn g => Sys2Proof.Machine.execLdaDataReturn g s
  | .capsuleSpillTimeout id => Sys2Proof.Machine.execCapsuleSpillTimeout id s
  | .softErrorUncorrectable place => Sys2Proof.Machine.execSoftErrorUncorrectable place s
  | .deadDieTimeout sender => Sys2Proof.Machine.execDeadDieTimeout sender s
  | .hostMemoryAccess write pa len data => Sys2Proof.Machine.execHostMemoryAccess write pa len data s
  | .hostSnoop hpa data => Sys2Proof.Machine.execHostSnoop hpa data s
  | .msixPendingSend v => Sys2Proof.Machine.execMsixPendingSend v s
  | .ouvkenFlitReceive flit => Sys2Proof.Machine.execOuvkenFlitReceive flit s
  | .peerAccessRequest src pa op => Sys2Proof.Machine.execPeerAccessRequest src pa op s
  | .diepartWrite x => Sys2Proof.Machine.execDiepartWrite x s
  | .alarmWrite byHost x => Sys2Proof.Machine.execAlarmWrite byHost x s
  | .monstatWrite byHost hi x => Sys2Proof.Machine.execMonstatWrite byHost hi x s
  | .registerWrite byHost off x => Sys2Proof.Machine.execRegisterWrite byHost off x s
  | .securityAlarm cause => Sys2Proof.Machine.execSecurityAlarm cause s
  | .getCertificate off len => Sys2Proof.Machine.execGetCertificate off len s
  | .challenge nonce => Sys2Proof.Machine.execChallenge nonce s
  | .getMeasurements index => Sys2Proof.Machine.execGetMeasurements index s
  | .unassignedOpcode w => Sys2Proof.Machine.execUnassignedOpcode w s
  | .cmdNop => Sys2Proof.Machine.execCmdNop s
  | .cmdLaunch => Sys2Proof.Machine.execCmdLaunch s
  | .cmdWait => Sys2Proof.Machine.execCmdWait s
  | .cmdSignal => Sys2Proof.Machine.execCmdSignal s
  | .cmdBadOperation => Sys2Proof.Machine.execCmdBadOperation s
  | .launchPlacement => Sys2Proof.Machine.execLaunchPlacement s
  | .gangPlacement => Sys2Proof.Machine.execGangPlacement s
  | .rebindByWeight => Sys2Proof.Machine.execRebindByWeight s
  | .slotDispatch => Sys2Proof.Machine.execSlotDispatch s
  | .launchCompletion => Sys2Proof.Machine.execLaunchCompletion s
  | .commitGrant => Sys2Proof.Machine.execCommitGrant s
  | .priorityTokenGrant => Sys2Proof.Machine.execPriorityTokenGrant s
  | .livelockWatchdog => Sys2Proof.Machine.execLivelockWatchdog s
  | .trapEntry => Sys2Proof.Machine.execTrapEntry s
  | .edgeAccess => Sys2Proof.Machine.execEdgeAccess s
  | .soloStep => Sys2Proof.Machine.execSoloStep s
  | .edgeCompletionTimeout => Sys2Proof.Machine.execEdgeCompletionTimeout s
  | .waitvWake => Sys2Proof.Machine.execWaitvWake s
  | .waitvTimeout => Sys2Proof.Machine.execWaitvTimeout s
  | .awaitWake => Sys2Proof.Machine.execAwaitWake s
  | .yieldExpiry => Sys2Proof.Machine.execYieldExpiry s
  | .capsuleArrival => Sys2Proof.Machine.execCapsuleArrival s
  | .bayRefill => Sys2Proof.Machine.execBayRefill s
  | .capsuleVisitStart => Sys2Proof.Machine.execCapsuleVisitStart s
  | .capsuleVisitStrand => Sys2Proof.Machine.execCapsuleVisitStrand s
  | .activeMessageArrival => Sys2Proof.Machine.execActiveMessageArrival s
  | .messageHandlerStart => Sys2Proof.Machine.execMessageHandlerStart s
  | .lsrRequestService => Sys2Proof.Machine.execLsrRequestService s
  | .faultRecordDeferredWrite => Sys2Proof.Machine.execFaultRecordDeferredWrite s
  | .rangeFlushWalk => Sys2Proof.Machine.execRangeFlushWalk s
  | .tlbInvalidationComplete => Sys2Proof.Machine.execTlbInvalidationComplete s
  | .engineCommandStart => Sys2Proof.Machine.execEngineCommandStart s
  | .engineWatchdog => Sys2Proof.Machine.execEngineWatchdog s
  | .eloadRegionLoad => Sys2Proof.Machine.execEloadRegionLoad s
  | .preemption => Sys2Proof.Machine.execPreemption s
  | .preemptionTimeout => Sys2Proof.Machine.execPreemptionTimeout s
  | .contextResume => Sys2Proof.Machine.execContextResume s
  | .softErrorCorrected => Sys2Proof.Machine.execSoftErrorCorrected s
  | .decantDrain => Sys2Proof.Machine.execDecantDrain s
  | .decantWriteTimeout => Sys2Proof.Machine.execDecantWriteTimeout s
  | .decantClaimTimeout => Sys2Proof.Machine.execDecantClaimTimeout s
  | .linkSleep => Sys2Proof.Machine.execLinkSleep s
  | .linkWake => Sys2Proof.Machine.execLinkWake s
  | .linkWakeRetry => Sys2Proof.Machine.execLinkWakeRetry s
  | .retentionSleepEntry => Sys2Proof.Machine.execRetentionSleepEntry s
  | .retentionWake => Sys2Proof.Machine.execRetentionWake s
  | .hdmBackInvalidateTimeout => Sys2Proof.Machine.execHdmBackInvalidateTimeout s
  | .ouvkenPortDown => Sys2Proof.Machine.execOuvkenPortDown s
  | .peerResponseTimeout => Sys2Proof.Machine.execPeerResponseTimeout s
  | .powerGood => Sys2Proof.Machine.execPowerGood s
  | .packageReset => Sys2Proof.Machine.execPackageReset s
  | .railCurrentClamp => Sys2Proof.Machine.execRailCurrentClamp s
  | .thermalThrottle => Sys2Proof.Machine.execThermalThrottle s
  | .thermalTrip => Sys2Proof.Machine.execThermalTrip s
  | .getVersion => Sys2Proof.Machine.execGetVersion s
  | .getCapabilities => Sys2Proof.Machine.execGetCapabilities s
  | .negotiateAlgorithms => Sys2Proof.Machine.execNegotiateAlgorithms s
  | .getDigests => Sys2Proof.Machine.execGetDigests s
  | .hostPortLinkDown => Sys2Proof.Machine.execHostPortLinkDown s
  | .monstatVminRead => Sys2Proof.Machine.execMonstatVminRead s
  | .memoryFirewallBlock => Sys2Proof.Machine.execMemoryFirewallBlock s

end Sys2Proof.Machine
end

