-- ==== Sys2Proof/Decode.lean ====
section
/-! DEFINITION. Reading an instruction from its word, and writing one (03_encoding_and_opcode_map.md R66 to R71, R75, R76, R307). -/

namespace Sys2Proof

/-- Why a word is refused: the checks of R75 in order, and the refusals of an engine hart (R307). -/
inductive DecodeError where
  /-- Check 2: bits [79:76] are not 0. -/
  | reservedBits
  /-- Check 3: MOD is not valid for the opcode. -/
  | badMod
  /-- Check 4: field 0 DST, 1 SRC1 or 2 SRC2 is not accepted. -/
  | badField (k : Nat)
  /-- The opcode, register or CSR is not one that a hart accepts. -/
  | hartRefused
  deriving DecidableEq, Repr

/-- The mode bits of a class 3 field (R13). -/
def modeOf (b : BitVec 2) : AddrMode :=
  match b.toNat with
  | 0 => .offset
  | 1 => .postAdd
  | 2 => .preSub
  | _ => .postInc

def modeBits : AddrMode → BitVec 2
  | .offset => 0
  | .postAdd => 1
  | .preSub => 2
  | .postInc => 3

/-- The 24 bits of an operand field (R67 to R70). -/
def Operand.bits : Operand → BitVec 24
  | .none => 0
  | .g n => (0#19 ++ n : BitVec 24)
  | .v n => (1#3 ++ 0#17 ++ n : BitVec 24)
  | .p n => (2#3 ++ 0#18 ++ n : BitVec 24)
  | .pp t c cond => (2#3 ++ 0#11 ++ cond ++ c ++ t : BitVec 24)
  | .mem an m d => (3#3 ++ an ++ modeBits m ++ d : BitVec 24)
  | .imm i => (4#3 ++ i : BitVec 24)
  | .f n => (6#3 ++ 0#16 ++ n : BitVec 24)
  | .csr n => (7#3 ++ 0#3 ++ 0#6 ++ n : BitVec 24)
  | .tile n => (7#3 ++ 1#3 ++ 0#16 ++ n : BitVec 24)
  | .abs n => (7#3 ++ 2#3 ++ 0#14 ++ n : BitVec 24)
  | .bar n => (7#3 ++ 3#3 ++ 0#15 ++ n : BitVec 24)
  | .dep n => (7#3 ++ 4#3 ++ 0#16 ++ n : BitVec 24)
  | .a n => (7#3 ++ 5#3 ++ 0#15 ++ n : BitVec 24)
  | .half b => b

/-- The operand that a field's bits name when the field is read as this kind, if the class and the zero bits agree. -/
def Alt.read (alt : Alt) (b : BitVec 24) : Option Operand :=
  let o : Operand := match alt with
    | .none => .none
    | .g | .gEven => .g (b.extractLsb' 0 5)
    | .v => .v (b.extractLsb' 0 4)
    | .p => .p (b.extractLsb' 0 3)
    | .pair _ => .pp (b.extractLsb' 0 3) (b.extractLsb' 3 3) (b.extractLsb' 6 4)
    | .mem _ => .mem (b.extractLsb' 18 3) (modeOf (b.extractLsb' 16 2)) (b.extractLsb' 0 16)
    | .imm _ => .imm (b.extractLsb' 0 21)
    | .f => .f (b.extractLsb' 0 5)
    | .csr => .csr (b.extractLsb' 0 12)
    | .tile => .tile (b.extractLsb' 0 2)
    | .abs => .abs (b.extractLsb' 0 4)
    | .bar => .bar (b.extractLsb' 0 3)
    | .dep => .dep (b.extractLsb' 0 2)
    | .a => .a (b.extractLsb' 0 3)
    | .half => .half b
  if o.bits == b && alt.has o then some o else Option.none

/-- The first alternative that reads the field. -/
def readField (alts : List Alt) (b : BitVec 24) : Option Operand :=
  alts.findSome? fun alt => alt.read b

/-- Check 4 of R75: the fields in the order DST, SRC1, SRC2; the first at which no accepted combination remains is named. [log 16, DEDUCED] -/
def readFields (forms : List Form) (d a b : BitVec 24) : Except DecodeError (Operand × Operand × Operand) :=
  let fd := forms.filter fun fm => (readField fm.dst d).isSome
  let fa := fd.filter fun fm => (readField fm.src1 a).isSome
  let fb := fa.filter fun fm => (readField fm.src2 b).isSome
  match fd, fa, fb with
  | [], _, _ => .error (.badField 0)
  | _, [], _ => .error (.badField 1)
  | _, _, [] => .error (.badField 2)
  | _, _, fm :: _ =>
    match readField fm.dst d, readField fm.src1 a, readField fm.src2 b with
    | some x, some y, some z => .ok (x, y, z)
    | _, _, _ => .error (.badField 2)

/-- The instruction of an assigned opcode on a slot (R84); MOD tells apart the rows that share one. -/
def ofOpcode (opc : Nat) (f : Fields) : Option Instr :=
  match opc with
  | 0x00 => some (.nop f)
  | 0x01 => some (.bra f)
  | 0x02 => some (.call f)
  | 0x03 => some (.jmp f)
  | 0x04 => some (.callr f)
  | 0x05 => some (.ret f)
  | 0x06 => some (.loopI f)
  | 0x07 => some (.loopx f)
  | 0x08 => some (.halt f)
  | 0x09 => some (.yield f)
  | 0x0A => some (.cut f)
  | 0x0B => some (.waitv f)
  | 0x0C => some (.waitd f)
  | 0x0D => some (.trapI f)
  | 0x0E => some (.syscall f)
  | 0x0F => some (.eret f)
  | 0x10 => some (.csrr f)
  | 0x11 => some (.csrw f)
  | 0x12 => if f.mod = 0 then some (.csrxSwp f) else if f.mod = 1 then some (.csrxSet f) else if f.mod = 2 then some (.csrxClr f) else none
  | 0x13 => some (.iflush f)
  | 0x14 => some (.barset f)
  | 0x15 => some (.bararr f)
  | 0x16 => some (.barwait f)
  | 0x17 => some (.launch f)
  | 0x18 => some (.preack f)
  | 0x19 => some (.probe f)
  | 0x20 => some (.add f)
  | 0x21 => some (.sub f)
  | 0x22 => some (.mul f)
  | 0x23 => some (.mulh f)
  | 0x24 => some (.div f)
  | 0x25 => some (.rem f)
  | 0x26 => some (.andI f)
  | 0x27 => some (.orI f)
  | 0x28 => some (.xorI f)
  | 0x29 => some (.andn f)
  | 0x2A => some (.orn f)
  | 0x2B => some (.shl f)
  | 0x2C => some (.shr f)
  | 0x2D => some (.sar f)
  | 0x2E => some (.rol f)
  | 0x2F => some (.minI f)
  | 0x30 => some (.maxI f)
  | 0x31 => some (.absI f)
  | 0x32 => some (.negI f)
  | 0x33 => some (.clz f)
  | 0x34 => some (.ctz f)
  | 0x35 => some (.popc f)
  | 0x36 => some (.brev f)
  | 0x37 => some (.bfx f)
  | 0x38 => some (.bfi f)
  | 0x39 => some (.ext f)
  | 0x3A => some (.cmp f)
  | 0x3B => some (.sel f)
  | 0x3C => some (.mov f)
  | 0x3D => some (.movi f)
  | 0x3E => some (.movh f)
  | 0x3F => some (.lea f)
  | 0x40 => some (.plog f)
  | 0x41 => some (.pset f)
  | 0x42 => some (.pget f)
  | 0x43 => some (.pcnt f)
  | 0x44 => some (.amov f)
  | 0x45 => some (.mulw f)
  | 0x46 => some (.madd f)
  | 0x47 => some (.shlf f)
  | 0x48 => some (.bswap f)
  | 0x50 => some (.fadd f)
  | 0x51 => some (.fsub f)
  | 0x52 => some (.fmul f)
  | 0x53 => some (.ffma f)
  | 0x54 => some (.fdiv f)
  | 0x55 => some (.fsqrt f)
  | 0x56 => some (.fmin f)
  | 0x57 => some (.fmax f)
  | 0x58 => some (.fcmp f)
  | 0x59 => some (.fcvt f)
  | 0x5A => some (.fcvi f)
  | 0x5B => some (.icvf f)
  | 0x5C => some (.fclass f)
  | 0x5D => some (.fsgn f)
  | 0x5E => some (.frnd f)
  | 0x5F => some (.fscale f)
  | 0x60 => some (.ld f)
  | 0x61 => some (.st f)
  | 0x62 => some (.lda f)
  | 0x63 => some (.pref f)
  | 0x64 => some (.lsr f)
  | 0x65 => some (.lsw f)
  | 0x66 => some (.lsadd f)
  | 0x67 => some (.amsg f)
  | 0x68 => some (.aadd f)
  | 0x69 => some (.aand f)
  | 0x6A => some (.aor f)
  | 0x6B => some (.axor f)
  | 0x6C => some (.amin f)
  | 0x6D => some (.amax f)
  | 0x6E => some (.axchg f)
  | 0x6F => some (.acas f)
  | 0x70 => some (.acas2 f)
  | 0x71 => if f.mod.getLsbD 3 then some (.fenceSys f) else some (.fence f)
  | 0x72 => some (.cflush f)
  | 0x73 => some (.cinv f)
  | 0x74 => some (.cwb f)
  | 0x75 => some (.ld2 f)
  | 0x76 => some (.st2 f)
  | 0x80 => some (.vmov f)
  | 0x81 => some (.vbcast f)
  | 0x82 => some (.vadd f)
  | 0x83 => some (.vsub f)
  | 0x84 => some (.vmul f)
  | 0x85 => some (.vfma f)
  | 0x86 => some (.vmin f)
  | 0x87 => some (.vmax f)
  | 0x88 => some (.vabs f)
  | 0x89 => some (.vneg f)
  | 0x8A => some (.vand f)
  | 0x8B => some (.vor f)
  | 0x8C => some (.vxor f)
  | 0x8D => some (.vshl f)
  | 0x8E => some (.vshr f)
  | 0x8F => some (.vsar f)
  | 0x90 => some (.vcmp f)
  | 0x91 => some (.vsel f)
  | 0x92 => some (.vcvt f)
  | 0x93 => some (.vshuf f)
  | 0x94 => some (.vslide f)
  | 0x95 => some (.vred f)
  | 0x96 => some (.vld f)
  | 0x97 => some (.vst f)
  | 0x98 => some (.vgath f)
  | 0x99 => some (.vscat f)
  | 0x9A => some (.vdiv f)
  | 0x9B => some (.vsqrt f)
  | 0x9C => some (.vext f)
  | 0x9D => some (.vins f)
  | 0x9E => some (.viota f)
  | 0x9F => some (.fset f)
  | 0xA0 => some (.fget f)
  | 0xA1 => some (.fadj f)
  | 0xA2 => some (.vplane f)
  | 0xA3 => some (.vunpl f)
  | 0xA4 => some (.sfx f)
  | 0xA5 => some (.rngx f)
  | 0xA6 => some (.rngf f)
  | 0xA7 => some (.vmulh f)
  | 0xA8 => some (.vpopc f)
  | 0xA9 => some (.vdot f)
  | 0xAA => some (.vcomp f)
  | 0xB0 => some (.mzero f)
  | 0xB1 => some (.mma f)
  | 0xB2 => some (.mld f)
  | 0xB3 => some (.mst f)
  | 0xB4 => some (.mmov f)
  | 0xB5 => some (.xclr f)
  | 0xB6 => some (.xacc f)
  | 0xB7 => some (.xadd f)
  | 0xB8 => some (.xrnd f)
  | 0xB9 => some (.xget f)
  | 0xBA => some (.mscl f)
  | 0xC0 => some (.capnew f)
  | 0xC1 => some (.capsend f)
  | 0xC2 => some (.caphead f)
  | 0xC3 => some (.cappush f)
  | 0xC4 => some (.cappop f)
  | 0xC5 => some (.capset f)
  | 0xC6 => some (.capsplit f)
  | 0xC7 => some (.capend f)
  | 0xC8 => some (.capnext f)
  | 0xC9 => some (.capplace f)
  | 0xCA => some (.capinj f)
  | 0xCB => some (.capget f)
  | 0xCC => some (.capkey f)
  | 0xD0 => some (.xcopy f)
  | 0xD1 => some (.xfill f)
  | 0xD2 => some (.xgath f)
  | 0xD3 => some (.xscat f)
  | 0xD4 => some (.arrset f)
  | 0xD5 => some (.await f)
  | 0xD6 => some (.equery f)
  | 0xD7 => some (.eload f)
  | 0xD8 => some (.xcmpr f)
  | 0xD9 => some (.xdcmp f)
  | 0xE0 => if f.mod = 0 then some (.tlbinvVa f) else if f.mod = 1 then some (.tlbinvCtx f) else if f.mod = 2 then some (.tlbinvAll f) else none
  | 0xE1 => some (.decant f)
  | 0xE2 => some (.stkq f)
  | 0xE3 => if f.mod = 0 then some (.slotctlRd f) else if f.mod = 1 then some (.slotctlStop f) else none
  | 0xE4 => some (.hostint f)
  | 0xE5 => if f.mod = 0 then some (.ckptqTest f) else if f.mod = 1 then some (.ckptqTake f) else none
  | 0xE6 => if f.mod = 0 then some (.jrnlOff f) else if f.mod = 1 then some (.jrnlRec f) else if f.mod = 2 then some (.jrnlRpl f) else if f.mod = 3 then some (.jrnlStat f) else none
  | 0xE7 => if f.mod = 0 then some (.faultqPop f) else if f.mod = 1 then some (.faultqCnt f) else none
  | 0xE8 => if f.mod = 0 then some (.resume f) else if f.mod = 1 then some (.resumeFail f) else none
  | _ => none

/-- The instruction of an opcode on an engine hart (R307). -/
def ofOpcodeHart (opc : Nat) (f : Fields) : Option Instr :=
  match opc with
  | 0x08 => some (.hartHalt f)
  | 0xD0 => some (.hartXcopy f)
  | 0xD1 => some (.hartXfill f)
  | 0xD8 => some (.hartXcmpr f)
  | 0xD9 => some (.hartXdcmp f)
  | n => ofOpcode n f

/-- What a hart refuses beyond the checks of R75 (R307): registers G16 to G31 (also as the second of a pair) and converting sizes of LD and ST. -/
def hartFieldsOk (opc : Nat) (f : Fields) : Except DecodeError Unit :=
  if !(hartHas f.dst && hartHas f.src1 && hartHas f.src2) then .error .hartRefused
  else if (opc == 0x60 || opc == 0x61) && decide (4 ≤ f.mod.toNat % 8) then .error .badMod
  else .ok ()

/-- The fields of a word under its row, by checks 2 to 4 of R75. -/
def readWord (r : Row) (w : BitVec 96) : Except DecodeError Fields :=
  if w.extractLsb' 76 4 ≠ 0 then .error .reservedBits
  else
    let m := w.extractLsb' 72 4
    if !r.modOk m then .error .badMod
    else match readFields (r.forms m) (w.extractLsb' 48 24) (w.extractLsb' 24 24) (w.extractLsb' 0 24) with
      | .error e => .error e
      | .ok (x, y, z) => .ok
        { neg := w.getLsbD 87, grd := w.extractLsb' 84 3, lr1 := w.getLsbD 83, lr2 := w.getLsbD 82,
          cb := w.getLsbD 81, nt := w.getLsbD 80, mod := m, dst := x, src1 := y, src2 := z }

/-- A MOD value that the immediate of VCVT makes invalid: MOD [2] between two integer types (check 3 of R75, R144). -/
def modMisfit (opc : Nat) (w : BitVec 96) : Bool :=
  opc == 0x92 && w.getLsbD 74 && w.extractLsb' 21 3 == 4#3 && !w.getLsbD 3 && !w.getLsbD 7

/-- Decoding on a slot: checks 1 to 4 of R75. An unassigned opcode is the instruction unassignedOpcode, whose meaning is the trap of R76. -/
def decodeSlot (w : BitVec 96) : Except DecodeError Instr :=
  let opc := (w.extractLsb' 88 8).toNat
  match Enc.slotRow opc with
  | none => .ok (.unassignedOpcode w)
  | some r =>
    if w.extractLsb' 76 4 = 0 ∧ modMisfit opc w then .error .badMod
    else match readWord r w with
      | .error e => .error e
      | .ok f => match ofOpcode opc f with
        | some i => .ok i
        | none => .error .badMod

/-- The word is the slot form of an X instruction (R320). -/
def isSlotForm (opc : Nat) (w : BitVec 96) : Bool :=
  [0xD0, 0xD1, 0xD8, 0xD9].contains opc && (match Enc.slotRow opc with
    | some r => (readWord r w).toBool
    | none => false)

/-- Decoding on an engine hart (R307). The slot form of an X instruction is an Illegal Instruction there by R307, an Illegal Encoding by R320. [log 14, DESIGN CHOICE] -/
def decodeHart (w : BitVec 96) : Except DecodeError Instr :=
  let opc := (w.extractLsb' 88 8).toNat
  match Enc.slotRow opc with
  | none => .ok (.unassignedOpcode w)
  | some _ =>
    if !Enc.hartAccepts opc then .error .hartRefused
    else match Enc.hartRow opc with
      | none => .error .hartRefused
      | some r =>
        match readWord r w with
        | .error e => .error (if isSlotForm opc w then .hartRefused else e)
        | .ok f =>
          match hartFieldsOk opc f with
          | .error e => .error e
          | .ok () => match ofOpcodeHart opc f with
            | some i => .ok i
            | none => .error .badMod

/-- The word of an opcode and its fields (R66). -/
def wordOf (opc : Nat) (f : Fields) : BitVec 96 :=
  (BitVec.ofNat 8 opc ++ BitVec.ofBool f.neg ++ f.grd ++ BitVec.ofBool f.lr1 ++ BitVec.ofBool f.lr2
    ++ BitVec.ofBool f.cb ++ BitVec.ofBool f.nt ++ 0#4 ++ f.mod ++ f.dst.bits ++ f.src1.bits ++ f.src2.bits : BitVec 96)

/-- The word of an instruction; none for a machine event. -/
def encode (i : Instr) : Option (BitVec 96) :=
  match i with
  | .unassignedOpcode w => some w
  | _ => match i.head with
    | some (opc, f) => some (wordOf opc f)
    | none => none

/-- The three stored words of an instruction, the first at the lowest address (R66), as twelve bytes. -/
def wordBytes (w : BitVec 96) : List Byte :=
  (List.range 12).map fun n => w.extractLsb' (8 * n) 8

/-- The instruction word of twelve bytes in memory order (R66). -/
def wordOfBytes (bs : List Byte) : BitVec 96 :=
  bs.foldr (fun b acc => (acc <<< 8) ||| b.setWidth 96) 0

/-- The instruction of a word that an engine hart takes and a slot refuses (R307). -/
def decodeHartOnly (w : BitVec 96) : Option Instr :=
  match decodeSlot w with
  | .ok _ => none
  | .error _ => match decodeHart w with
    | .ok i => some i
    | .error _ => none

/-- The decoder under the numbering of spec/opcode_table.json: bit 0 is the least significant bit of the first stored word, which is bit 0 of the instruction (R66). A word that a slot refuses is read as an engine hart reads it. -/
def decodeTableWord (nbits w : Nat) : Option Instr :=
  let word := wordOfBytes (wordBytes (BitVec.ofNat 96 (w % 2 ^ nbits)))
  match decodeSlot word with
  | .ok i => some i
  | .error _ => decodeHartOnly word

end Sys2Proof
end

