-- ==== Sys2Proof/Machine/Fetch.lean ====
section
/-! DEFINITION. Fetching an instruction of a slot (01_thread_state.md R23, R27, 12 R283, 14 R345, 03 R75). -/

namespace Sys2Proof.Machine

/-- The contents of a line that the executing slot's fetch buffer and its cluster's instruction cache hold, from when it was fetched (R283). -/
def State.codeCopies (s : State) (line : Nat) : List (BitVec 512) :=
  let own := match s.cur with
    | .slot c k => (s.slot c k).fetched.filterMap fun e => if e.1 == line then some e.2 else none
    | _ => []
  let cl := clusterOf s.curCore
  (own ++ s.icache.filterMap fun e => if e.1 == cl && e.2.1 == line then some e.2.2 else none).foldl insertOnce []

/-- A line of code enters the cluster's instruction cache, of 2,048 lines, and the slot's fetch buffer (R275, R283). [log 30, DEDUCED] -/
def State.fetchLine (s : State) (line : Nat) (x : BitVec 512) : State :=
  let cl := clusterOf s.curCore
  let s := if (cl, line, x) ∈ s.icache then s
    else
      let full := decide (icacheLines ≤ (s.icache.filter fun e => e.1 == cl).length)
      let old := if full then (s.icache.filter fun e => e.1 == cl).getLast? else none
      { s with icache := (cl, line, x) :: (match old with
        | some e => s.icache.erase e
        | none => s.icache) }
  match s.cur with
  | .slot c k => s.setSlot c k { s.slot c k with fetched := insertOnce (s.slot c k).fetched (line, x) }
  | _ => s

/-- A word of code, from committed memory or, as the tape says, from a copy fetched earlier (R283). [log 30, DEDUCED] -/
def State.codeWord (s : State) (pa : Nat) : List Byte × State :=
  let now : BitVec 512 := BitVec.ofNat 512 (s.mem.nat (pa / 64 * 64) 64)
  let copies := s.codeCopies (pa / 64)
  let (n, s) := if copies.isEmpty then (0, s) else s.choose (copies.length + 1)
  let x := if n = 0 then now else copies.getD (n - 1) now
  (leBytes 4 (fieldNat x (8 * (pa % 64)) 32), s.fetchLine (pa / 64) x)

/-- One word of an instruction: the window is not fetched from, the page must allow it, and poison is consumed (R27, R287, R345). [log 30, DEDUCED] -/
def State.fetchWord (s : State) (va : Word) : Res (List Byte) :=
  if inWindow va then .error (.trap s (protTrap .fetch s.isUser true va 0))
  else (s.locate va 4 .fetch).andThen fun l s =>
    match l with
    | .mem pa => (s.reachMem va pa).andThen fun _ s =>
      match s.poisoned [pa / 64] with
      | some (_, p) => .error (.trap s (poisonTrap va p false))
      | none => .ok (s.codeWord pa)
    | l => .ok (s.edgeRead l 4)

/-- The twelve bytes at the program counter (R23, R75). -/
def State.fetch (s : State) : Res (BitVec 96) :=
  let pc := s.regs.pc
  if pc.extractLsb' 0 2 ≠ 0 then .error (.trap s { cause := 0x04, addr := pc, info := 8 })
  else (s.fetchWord pc).andThen fun a s => (s.fetchWord (pc + 4)).andThen fun b s =>
    (s.fetchWord (pc + 8)).andThen fun c s => .ok (wordOfBytes (a ++ b ++ c), s)

/-- The trap of a word that the decoder refuses (R75, R332). -/
def decodeTrap (e : DecodeError) : Trap :=
  match e with
  | .reservedBits => illegal 2 0 0
  | .badMod => illegal 3 0 0
  | .badField k => illegal 4 k 0
  | .hartRefused => { cause := 0x02 }

end Sys2Proof.Machine
end

