-- ==== Sys2Proof/Machine/Turn.lean ====
section
/-! DEFINITION. A slot's turn (01_thread_state.md R21, R22, 09 R211, R226, R227, 08 R210, 14 R346) and an engine's step (13 R311); Step.lean calls these. -/

namespace Sys2Proof.Machine

/-- TRAPINFO of the Pre-emption trap (R332): TILES. -/
def preemptTrap (tiles : Bool) : Trap := { cause := 0x12, info := BitVec.ofNat 64 (2 * bit tiles) }

/-- A slot that is to stop or to be pre-empted, before its next instruction or step: its prefix is cut with code 0x0B and granted first (R210, R346). -/
def State.leave (s : State) (c : CoreId) (k : SlotId) (fin : State → State) : State :=
  let y := s.slot c k
  if y.alone then fin s
  else if !y.chunk.isEmpty && y.canCut then (s.cutChunk c k 0x0B none).postTurn c k
  else s.postTurn c k

/-- The pre-emption trap is taken (R334, R346); a register that still awaits a remote result is named again in TRAPSTATE (R338, R349). -/
def State.preemptNow (s : State) (c : CoreId) (k : SlotId) (tiles : Bool) : State :=
  let y := s.slot c k
  let y := match y.awaiting with
    | some d => { y with regs := { y.regs with awr := true, awreg := d }, awaiting := none }
    | none => y
  (s.setSlot c k { y with preempt := false, tiles := some tiles }).takeTrap c k (preemptTrap tiles)

/-- A lower-numbered slot of the core and context may still take its pre-emption trap. -/
def State.lowerPending (s : State) (c : CoreId) (k : SlotId) : Bool :=
  (s.core c).slots.any fun e => decide (e.1 < k.toNat) && e.2.isRun && e.2.preempt && entryCtx e.2.entry == entryCtx (s.slot c k).entry

/-- A slot of the core and context has taken TILES. -/
def State.tilesTaken (s : State) (c : CoreId) (n : CtxId) : Bool :=
  (s.core c).slots.any fun e => e.2.isRun && entryCtx e.2.entry == n && e.2.tiles == some true

/-- The pre-emption trap, with TILES for the lowest-numbered slot of the core that traps (R347): the others wait until it is known. [log 79, DEDUCED] -/
def State.preemptTurn (s : State) (c : CoreId) (k : SlotId) : State :=
  if s.tilesTaken c (entryCtx (s.slot c k).entry) then s.preemptNow c k false
  else if s.lowerPending c k then s.postTurn c k
  else s.preemptNow c k true

/-- The next instruction of a ready slot is fetched, decoded and executed. -/
def State.issueNext (s : State) (c : CoreId) (k : SlotId) : Host.Outcome State Fault Refusal :=
  let s := s.openChunk c k
  match s.fetch with
  | .error e => .next (concludeSlot c k 0 .commitGrant ⟨false, 7, false, false, false, false, 0, .none, .none, .none⟩ e)
  | .ok (w, s) => match decodeSlot w with
    | .error e => .next (s.raise c k (decodeTrap e))
    | .ok i => exec i s

/-- What a RUN slot does at its turn, besides issuing: a pending cut, a stop, a pre-emption, the livelock watchdog; none: it issues. -/
def State.beforeIssue (s : State) (c : CoreId) (k : SlotId) : Option State :=
  let y := s.slot c k
  if y.cutDue.isSome then some (s.tryCut c k)
  else if y.stopping then some (s.leave c k fun s => s.finishStop c k)
  else if y.preempt && !y.regs.inh then some (s.leave c k fun s => s.preemptTurn c k)
  else if 64 ≤ y.sqc.toNat && y.alone then some (s.postOnce (.slot c k) .livelockWatchdog)
  else none

/-- A pre-emption that finds INH = 1 sets PPEND (R346). -/
def State.notePending (s : State) (c : CoreId) (k : SlotId) : State :=
  let y := s.slot c k
  if y.preempt && y.regs.inh then s.setSlot c k { y with regs := { y.regs with ppend := true } } else s

/-- The turn of a slot. -/
def State.slotTurn (s : State) (c : CoreId) (k : SlotId) : Host.Outcome State Fault Refusal :=
  let s := { s.atSlot k ((s.slot c k).lastRot == s.rot) with cur := .slot c k }
  let s := s.setSlot c k { s.slot c k with lastRot := s.rot }
  let y := s.slot c k
  if !y.isRun || y.park != .ready then .next s
  else
    let s := s.notePending c k
    match s.beforeIssue c k with
    | some s => .next s
    | none => s.issueNext c k

/-- The arrival word of the running command, which each of its chunks reports to (R313, R314): checked as a deferred atomic before the chunk's first step (R235). [log 26, DEDUCED] -/
def State.arrivalPlace (s : State) (m : BitVec 512) : Res (List Deferred) :=
  let va := cmdAword m
  if va = 0 then .ok ([], s)
  else if va.toNat % 16 ≠ 0 then .error (.trap s (misaligned va 16))
  else (s.locateInside va 16 .write).andThen fun l s =>
    match l with
    | .ls c off => .ok ([.lsArrival c off 0 none], s)
    | .mem pa => .ok ([.arrival pa 0 none], s.setChunk { s.chunk with stks := s.chunk.stks ||| (1#16 <<< (stackOf pa).toNat) })
    | _ => .ok ([], s)

/-- An engine's chunk opens: its checkpoint, its age and its arrival word (R311, R212, R314). -/
def State.openEngine (s : State) (e : EngineId) (m : BitVec 512) : Res Unit :=
  if (s.engine e).chunk.opened then .ok ((), s)
  else (s.arrivalPlace m).andThen fun ds s =>
    let x := s.engine e
    .ok ((), s.setEngine e { x with chunk := { x.chunk with chk := x.regs, start := s.cycle, effects := ds, opened := true } })

/-- A hart's next instruction is fetched from the engine store (R305, R307); what cannot be fetched or decoded is an engine fault (R315). -/
def State.hartNext (s : State) (e : EngineId) : Host.Outcome State Fault Refusal :=
  let pc := s.regs.pc &&& 0xFFFF
  if pc.extractLsb' 0 2 ≠ 0 then .next (s.engineAbort e 4 { cause := 0x04, addr := pc, info := 8 })
  else match s.storeRead pc.toNat 12 with
    | .error eff => .next (concludeEngine e eff)
    | .ok (bs, s) => match decodeHart (wordOfBytes bs) with
      | .error d => .next (s.engineAbort e (decodeTrap d).cause.toNat (decodeTrap d))
      | .ok i => exec i s

/-- The turn of an engine: one step of its running command (R311); a command whose program slot is empty, or whose header lies outside its regions, ends (R308). [log 93, DEDUCED] -/
def State.engineTurn (s : State) (e : EngineId) : Host.Outcome State Fault Refusal :=
  let x := s.engine e
  let s := { s with cur := .engine e }
  match x.cmd with
  | none => .next s
  | some m =>
    if x.park != .ready || x.waiting then .next s
    else
      match s.openEngine e m with
      | .error eff => .next (concludeEngine e eff)
      | .ok (_, s) =>
        if x.std then .next (concludeEngine e (s.stdStep e m))
        else if x.regions = 0 then .next (s.engineAbort e 0x41 { cause := 0x41 })
        else s.hartNext e

/-- The agenda is empty: no agent can move, and only time goes on (R184), unless a thermal trip has stopped the clocks (R417). [log 1, DESIGN CHOICE] -/
def State.idleStep (s : State) : State := if s.svc.tripped then s else s.nextRotation

/-- The answer that an event gave to an edge access ends with the turn it was given for (R392). -/
def clearAnswer (o : Host.Outcome State Fault Refusal) : Host.Outcome State Fault Refusal :=
  match o with
  | .next s => .next { s with answer := none }
  | o => o

/-- What an entry of the agenda does. -/
def State.act (s : State) (p : Pick) : Host.Outcome State Fault Refusal :=
  match p with
  | .turn c k => clearAnswer (s.slotTurn c k)
  | .eturn e => s.engineTurn e
  | .event a i => exec i { s with cur := a }
  | .caches => .next s.cachesStep
  | .input x => .next (s.takeInput x)
  | .boot => .next s.bootStep

/-- One step: the pick at the head of the agenda moves; after a thermal trip only reset, power and the alarm still act (R417). [log 1, DESIGN CHOICE] -/
def State.next (s : State) : Host.Outcome State Fault Refusal :=
  match s.agenda with
  | [] => .next s.idleStep
  | p :: rest =>
    let s := { s with agenda := rest, cur := .none }
    if s.svc.tripped && !p.actsTripped then .next s else s.act p

/-- A page table with one entry in each of three levels: a leaf of 1 GiB that maps the lowest addresses to themselves, with W, X and U (R286, R287). -/
def identityTable (m : Mem) (root : Nat) : Mem :=
  let m := m.setNat root 8 (root + 0x1000 + 0x1D)
  let m := m.setNat (root + 0x1000) 8 (root + 0x2000 + 0x1D)
  m.setNat (root + 0x2000) 8 (2 ^ 52 + 0x1D)

/-- Where placeWord puts its page table and its instruction. -/
def placeRoot : Nat := 0x40000
def placePc : Nat := 0x10000

/-- The launch that placeWord's slot is bound to: one core, one launch slot, context 0 (R188). -/
def wordLaunch : Launch :=
  { desc := setField (setField (setField (0 : BitVec 1024) 256 64 placeRoot) 136 5 1) 336 10 512
    t := 0, q := 0, origin := some (0, 0), allBound := true }

/-- Slot 0 of core 0 as a running launch slot whose next instruction lies at placePc. -/
def placeSlot (y : Slot) : Slot :=
  { y with
    entry := mkEntry stRun false false 0 0 0 0 1 (BitVec.ofNat 64 placePc), entryNext := none
    regs := { y.regs with pc := BitVec.ofNat 64 placePc }
    chunk := {}, waiting := none, cutDue := none, stopping := false, preempt := false, park := .ready, ldas := [], sqc := 0
    fetched := [], starting := none }

/-- The command of context 0 and launch 1 that placeHart's engine runs. -/
def placeCmd : BitVec 512 := setField 0 480 32 1

/-- Where placeHart puts its instruction in the engine store: region 1. -/
def placeStore : Nat := 0x1000

/-- Slot 0 of core 0 set up to run the bytes of one instruction: its code, the translation of it, the slot's entry and launch, and the slot's turn at the head of the agenda. [log 13, DESIGN CHOICE] -/
def State.placeSlotCode (s : State) (code : List Byte) : State :=
  let s := { s with
    mem := (identityTable s.mem placeRoot).setBytes placePc code
    tlb := [], icache := [], dir := [], linksAsleep := 0, poison := s.poison.del (placePc / 64), stks := s.stks.put 0 {}
    lastSeq := if s.lastSeq = 0 then 1 else s.lastSeq, launches := s.launches.put 1 wordLaunch
    svc := { s.svc with tripped := false }
    agenda := .turn 0 0 :: s.agenda }
  s.setSlot 0 0 (placeSlot (s.slot 0 0))

/-- Engine 0 set up to run the bytes of one hart instruction: its code in region 1 of the engine store, the running command and its launch, and the engine's turn at the head of the agenda. [log 13, DESIGN CHOICE] -/
def State.placeHart (s : State) (code : List Byte) : State :=
  let s := { s with
    lastSeq := if s.lastSeq = 0 then 1 else s.lastSeq
    launches := s.launches.put 1 { wordLaunch with commands := 1 }
    svc := { s.svc with tripped := false }
    agenda := .eturn 0 :: s.agenda }
  let st := s.estore 0
  let s := s.setEstore 0 { st with bytes := st.bytes.setBytes placeStore code, loaded := st.loaded ||| 2 }
  let x := s.engine 0
  s.setEngine 0 { x with
    cmd := some placeCmd, regions := 2, std := false, regs := { x.regs with pc := BitVec.ofNat 64 placeStore }
    chunk := {}, park := .ready, waiting := false, cutAfter := false, owed := false }

/-- The state with one instruction placed where the very next step fetches it: at slot 0 of core 0, or, for a word that only an engine hart takes, at engine 0. [log 13, DESIGN CHOICE] -/
def State.placeWord (s : State) (nbits w : Nat) : State :=
  let word : BitVec 96 := BitVec.ofNat 96 (w % 2 ^ nbits)
  if (decodeHartOnly word).isSome then s.placeHart (wordBytes word) else s.placeSlotCode (wordBytes word)

end Sys2Proof.Machine
end

