-- ==== Sys2Proof/Safety.lean ====
section
/-! DEFINITION. What counts as a sound state of the package and as a safe step, and the terms in which claims speak of an instruction: when it issues, and what it leaves unchanged. -/

namespace Sys2Proof.Machine

/-- The step ends in a next state that meets a condition. -/
def Next (o : Host.Outcome State Fault Refusal) (p : State → Prop) : Prop :=
  ∃ t, o = .next t ∧ p t

/-- A step is safe when it gives a next state. -/
def Safe (s : State) : Prop := ∃ t, step s = .next t

/-- Committed memory, the memory behind the windows, every local store, every saved or flying image and every engine store are in canonical form. -/
structure State.MemWf (s : State) : Prop where
  mem : s.mem.wf = true
  host : s.hostMem.wf = true
  peer : s.peerMem.wf = true
  ls : ∀ e ∈ s.cores, e.2.ls.wf = true
  saves : ∀ e ∈ s.saves, ∀ x ∈ e.2.cores, x.2.ls.wf = true
  capsules : ∀ e ∈ s.capsules, e.2.img.wf = true
  stores : ∀ e ∈ s.estores, e.2.bytes.wf = true

/-- Register writes as the architecture sees them: the value, and the register live again (R72). -/
def Regs.putV (r : Regs) (n : BitVec 4) (x : VWord) : Regs :=
  { r with v := r.v.set n.toNat x n.isLt, dead := r.dead &&& ~~~(1#64 <<< deadV n) }
def Regs.putA (r : Regs) (n : BitVec 3) (x : Word) : Regs :=
  { r with a := r.a.set n.toNat x n.isLt, dead := r.dead &&& ~~~(1#64 <<< deadA n) }
/-- P7 discards what is written (R12). -/
def Regs.putP (r : Regs) (n : BitVec 3) (x : Word) : Regs :=
  if h : n.toNat < 7 then { r with p := r.p.set n.toNat x h, dead := r.dead &&& ~~~(1#64 <<< deadP n) } else r

/-- The same registers but for the dead bits, which the last-read hints of an instruction that ran alone set at its end (R72). -/
def Regs.butDead (r q : Regs) : Prop := r = { q with dead := r.dead }

/-- A scalar result in the register that a destination field names. -/
def Regs.putDst (r : Regs) (o : Operand) (x : Word) : Regs :=
  match o with
  | .g n => r.putG n x
  | .a n => r.putA n x
  | .p n => r.putP n x
  | _ => r

/-- The instruction issues at slot k of core c, which is the agent: it is allowed at the slot's level (R75, R329), its guard is true in some of its lanes (R25), and no register that it names is pending (R122). -/
structure Issues (i : Instr) (f : Fields) (lanes : Nat) (s : State) (c : CoreId) (k : SlotId) : Prop where
  cur : s.cur = .slot c k
  level : privileged (opcOf i) = true → s.priv = true
  guard : s.anyLane f lanes = true
  free : (s.slot c k).pending (gUsed (opcOf i) f) = false

/-- The states differ at most in one slot, the agenda, the tape of choices and the list of commit requests. -/
structure OnlySlot (s t : State) (c : CoreId) (k : SlotId) : Prop where
  rest : t = { s with cores := t.cores, tape := t.tape, agenda := t.agenda, requests := t.requests }
  cores : ∀ c', { t.core c' with slots := [] } = { s.core c' with slots := [] }
  slots : ∀ c' k', (c', k') ≠ (c, k) → t.slot c' k' = s.slot c' k'

/-- The instruction has ended at slot k of core c with the registers r, and changed nothing else but what its chunk notes: no byte of memory or local store, no other slot, no other register of the package. A chunk that is not a solo chunk shows the slot the same memory bytes as before; after a solo chunk the dead bits that it noted are in force (R72). -/
structure Ended (s t : State) (c : CoreId) (k : SlotId) (r : Regs) : Prop where
  only : OnlySlot s t c k
  slot : t.slot c k = { s.slot c k with
    regs := { r with dead := (t.slot c k).regs.dead }, cut := (t.slot c k).cut, chunk := (t.slot c k).chunk
    waiting := (t.slot c k).waiting, cutDue := (t.slot c k).cutDue, park := (t.slot c k).park }
  dead : (s.slot c k).chunk.solo = false → (t.slot c k).regs.dead = r.dead
  seen : (s.slot c k).chunk.solo = false → ∀ pa, t.seenByte pa = s.seenByte pa

/-- The instruction gives a next state, in which it has ended at slot k of core c with the registers r. -/
def Gives (i : Instr) (s : State) (c : CoreId) (k : SlotId) (r : Regs) : Prop := ∃ t, exec i s = .next t ∧ Ended s t c k r

/-- The same after steps of the instruction that have led to t: it has ended there with the registers r. -/
def GivesFrom (i : Instr) (s t : State) (c : CoreId) (k : SlotId) (r : Regs) : Prop := ∃ u, exec i s = .next u ∧ Ended t u c k r

/-- The instruction, which has led to t, waits there and will be issued again: nothing else changes; the dead bits that a solo chunk noted are in force (R72). -/
def Waits (i : Instr) (s t : State) (c : CoreId) (k : SlotId) : Prop :=
  ∃ u, exec i s = .next u ∧ OnlySlot t u c k ∧ (u.slot c k).regs.butDead t.regs ∧ (t.chunk.solo = false → (u.slot c k).regs = t.regs)

/-- The agent's own state stands as before but for notes in its open chunk: the slot's registers, committed memory and the bytes, length and deferred effects of its chunk. -/
structure OwnKept (s t : State) (c : CoreId) (k : SlotId) : Prop where
  cur : t.cur = s.cur
  mem : t.mem = s.mem
  slot : t.slot c k = { s.slot c k with chunk := (t.slot c k).chunk }
  bytes : (t.slot c k).chunk.wr = (s.slot c k).chunk.wr ∧ (t.slot c k).chunk.solo = (s.slot c k).chunk.solo
    ∧ (t.slot c k).chunk.len = (s.slot c k).chunk.len ∧ (t.slot c k).chunk.effects = (s.slot c k).chunk.effects

/-- No other slot of the core has a chunk open or waiting. -/
def State.soleChunk (s : State) (c : CoreId) (k : SlotId) : Prop :=
  ∀ e ∈ (s.core c).slots, e.1 ≠ k.toNat → e.2.chunk = {} ∧ e.2.waiting = none

/-- Nothing hinders the executing slot's accesses to its local store: no chunk of another slot on the core, no update pending, no poison, and room for new undo entries (R176, R277, R279, R344). -/
structure State.calm (s : State) (c : CoreId) (k : SlotId) (room : Nat) : Prop where
  cur : s.cur = .slot c k
  plain : s.chunk.solo = false
  sole : s.soleChunk c k
  free : ∀ gs, (s.slot c k).chunk.updateOn c gs = false
  clean : (s.core c).lsPoison = []
  room : (s.core c).undoCount + room ≤ 204
  wf : (s.core c).ls.wf = true

/-- The n bytes at va lie in one page outside the window, for which no translation is cached and which the agent's page table maps to local memory, to pa, with the permissions that the access needs (R27, R284 to R287, R367). -/
structure State.maps (s : State) (va : Word) (n : Nat) (kd : Kind) (pa : Nat) : Prop where
  size : 0 < n ∧ va.toNat % 4096 + n ≤ 4096
  outside : inWindow va = false ∧ badVa va = false
  cold : s.tlbHits s.curCtx va = []
  way : s.walkStop s.curDie s.curPtroot va = none
  leaf : ∃ l, s.walkTop (towerOfDie s.curDie) s.curPtroot va = .leaf l ∧ l.rp = false ∧ checkLeaf l va kd s.isUser true = .ok pa l
  region : isLocal pa = true

/-- The entry of a table that a walk for va reads at a level (R287). -/
def State.entryAt (s : State) (va : Word) (lvl table : Nat) : Word := BitVec.ofNat 64 (s.mem.nat (table + 8 * fieldNat va (12 + 9 * lvl) 9) 8)

/-- The walk for va from a root comes to a table at a level with these permissions: every entry above is present, well formed and no leaf (R287). -/
inductive State.WalksTo (s : State) (va : Word) (root : Nat) : Nat → Nat → Bool → Bool → Bool → Prop where
  | top : WalksTo s va root 4 root true true true
  | down (lvl table : Nat) (w x u : Bool) (e : Word) : WalksTo s va root (lvl + 1) table w x u → isLocal table = true → e = s.entryAt va (lvl + 1) table →
    e.getLsbD 0 = true → e.extractLsb' 52 12 = 0 → e.getLsbD 5 = false → fieldNat e 6 46 * 64 % 4096 = 0 →
    WalksTo s va root lvl (fieldNat e 6 46 * 64) (w && e.getLsbD 2) (x && e.getLsbD 3) (u && e.getLsbD 4)

/-- No chunk of the core has written one of the granules, and none of them is poisoned (R277, R344). -/
def Core.soleFree (x : Core) (gs : List Nat) : Prop :=
  (∀ e ∈ x.slots, ∀ g ∈ gs, e.2.chunk.lsW.contains g = false ∧ e.2.chunk.lsA.contains g = false
    ∧ ∀ w, e.2.waiting = some w → w.lsW.contains g = false ∧ w.lsA.contains g = false)
  ∧ ∀ g ∈ x.lsPoison, g ∉ gs

/-- Flags set in FPSR (R43). -/
def Regs.flagged (r : Regs) (fl : Flags) : Regs := { r with fpsr := r.fpsr ||| fl.setWidth 13 }

/-- The update of the A register of a memory operand, for an access of size bytes (R13). -/
def Regs.updated (r : Regs) (o : Operand) (size : Nat) : Regs :=
  match o with
  | .mem n .postAdd d => r.putA n (r.a.get n.toFin + d.signExtend 64)
  | .mem n .preSub d => r.putA n (r.a.get n.toFin - d.signExtend 64)
  | .mem n .postInc _ => r.putA n (r.a.get n.toFin + BitVec.ofNat 64 size)
  | _ => r

/-- A source read in the instruction's integer type (R35, R85). -/
def State.operand (s : State) (f : Fields) (o : Operand) : Int := intOf (modTy f.mod) (s.src o).toNat

/-- The eight atomics with their opcode and the new memory value they give from the old value, the operand and the compare value, all of e bits (R234). -/
def atomicTable (f : Fields) (e : Nat) (num : Nat → Int) : List (Instr × Byte × (Nat → Nat → Nat → Nat)) :=
  [(.aadd f, 0x68, fun m v _ => (m + v) % 2 ^ e), (.aand f, 0x69, fun m v _ => m &&& v), (.aor f, 0x6A, fun m v _ => m ||| v),
    (.axor f, 0x6B, fun m v _ => m ^^^ v), (.amin f, 0x6C, fun m v _ => if num v < num m then v else m),
    (.amax f, 0x6D, fun m v _ => if num m < num v then v else m), (.axchg f, 0x6E, fun _ v _ => v),
    (.acas f, 0x6F, fun m v w => if m = w then v else m)]

/-- The lanes of V register d that an instruction writes, each by a function of the lane that gives its value and flags, or nothing to leave it; inactive lanes keep theirs (R25, R140). An enabled flag among those raised is an FP Trap with no lane written (R44). -/
def LanesGiven (i : Instr) (f : Fields) (s : State) (c : CoreId) (k : SlotId) (d : BitVec 4) (e : Nat) (fn : Nat → Option (Nat × Flags)) :
    Prop :=
  let act (j : Nat) : Option (Nat × Flags) := if (s.guardMask f).getLsbD j then fn j else none
  let fl := ((List.range (512 / e)).filterMap act).foldl (fun (a : Flags) x => a ||| x.2) 0
  (s.regs.fpsr.extractLsb' 8 5 &&& fl = 0 → ∃ v, Gives i s c k ((s.regs.flagged fl).putV d v).advance
    ∧ ∀ j, j < 512 / e → laneOf v e j = (match act j with
      | some x => x.1 % 2 ^ e
      | none => laneOf (s.getV d) e j))
  ∧ (s.regs.fpsr.extractLsb' 8 5 &&& fl ≠ 0 →
    exec i s = .next ((s.sticky fl).raise c k { cause := 0x0D, info := fl.setWidth 64 }))

/-- An element-wise instruction: its lanes, whether its operands are within the limit of its lane kind (R128), whether it reads the old destination, whether forms must have its very type, and what it makes of the patterns x and y of its sources and d of the old destination. -/
structure LaneRow where
  instr : Instr
  lane : Lane
  limit : Bool := true
  old : Bool := false
  exact : Bool := true
  op : Nat → Nat → Nat → Nat × Flags

/-- The element-wise instructions (R128, R140, R143, R151). -/
def State.laneTable (s : State) (f : Fields) : List LaneRow :=
  let ty := modTy f.mod
  let flt := s.regs.vkind = 1
  let kd := s.kindLane f.mod
  let fmt := modFmt f.mod
  let rm := modRm f.mod
  let int (v : Int) : Nat × Flags := ((narrow ty (modSat f.mod) v % 2 ^ tyWidth ty).toNat, 0)
  let a (x : Nat) : Int := intOf ty x
  let p (x : Nat) : Nat := x % 2 ^ tyWidth ty
  let w (x : Nat) : Nat := x % 2 ^ widthOf f.mod
  let small : Bool := if flt then rm == 0 else !modSat f.mod
  let sign (op : Bool → Bool) (x : Nat) : Nat × Flags := signLane op (.fp f.mod) x 0 0
  [{ instr := .vadd f, lane := kd, op := fun x y _ => if flt then fpAdd fmt rm x y else int (a x + a y) },
    { instr := .vsub f, lane := kd, op := fun x y _ => if flt then fpSub fmt rm x y else int (a x - a y) },
    { instr := .vmul f, lane := kd, op := fun x y _ => if flt then fpMul fmt rm x y else int (a x * a y) },
    { instr := .vmin f, lane := kd, limit := small, op := fun x y _ => if flt then fpMinMax fmt false x y else int (min (a x) (a y)) },
    { instr := .vmax f, lane := kd, limit := small, op := fun x y _ => if flt then fpMinMax fmt true x y else int (max (a x) (a y)) },
    { instr := .vabs f, lane := kd, op := fun x _ _ => if flt then sign (fun _ => false) x else int (a x).natAbs },
    { instr := .vneg f, lane := kd, op := fun x _ _ => if flt then sign (fun n => !n) x else int (-a x) },
    { instr := .vfma f, lane := .fp f.mod, old := true, op := fun x y d => fpFma fmt rm x y d },
    { instr := .vdiv f, lane := .fp f.mod, op := fun x y _ => fpDiv fmt rm x y },
    { instr := .vsqrt f, lane := .fp f.mod, op := fun x _ _ => fpSqrt fmt rm x },
    { instr := .vand f, lane := .width f.mod, exact := false, op := fun x y _ => ((w x &&& w y) % 2 ^ widthOf f.mod, 0) },
    { instr := .vor f, lane := .width f.mod, exact := false, op := fun x y _ => ((w x ||| w y) % 2 ^ widthOf f.mod, 0) },
    { instr := .vxor f, lane := .width f.mod, exact := false, op := fun x y _ => ((w x ^^^ w y) % 2 ^ widthOf f.mod, 0) },
    { instr := .vmov f, lane := .width f.mod, exact := false, op := fun x _ _ => (w x, 0) },
    { instr := .vshl f, lane := .int f.mod, op := fun x y _ => int (shlExact (a x) y) },
    { instr := .vshr f, lane := .int f.mod, op := fun x y _ => (shrPat (tyWidth ty) (p x) y % 2 ^ tyWidth ty, 0) },
    { instr := .vsar f, lane := .int f.mod, op := fun x y _ => (sarPat (tyWidth ty) (p x) y % 2 ^ tyWidth ty, 0) },
    { instr := .vmulh f, lane := .int f.mod, op := fun x y _ => int ((a x * a y).fdiv (2 ^ tyWidth ty)) },
    { instr := .vpopc f, lane := .int f.mod, op := fun x _ _ => (popPat (tyWidth ty) x, 0) }]

end Sys2Proof.Machine
end

