-- ==== Sys2Proof/Certificates/Slice0/Obligations.lean ====
section
/-! DEFINITION. The statements about the model. An instruction's result is stated with what it leaves unchanged: Gives (Safety.lean) says that exec answers a next state, names every register of the slot after it, and says that nothing else of the package has changed. -/

open Sys2Proof Sys2Proof.Machine

/-- R96: ADD, SUB, MUL, MIN, MAX, ABS and NEG compute on the operands read in the type and write the exact value wrapped or clamped to it; R99: MULH gives the high half of the product. -/
def Obligations.ArithmeticResults : Prop :=
  ∀ (f : Fields) (s : State) (c : CoreId) (k : SlotId),
    let x := s.operand f f.src1
    let y := s.operand f f.src2
    let writes (i : Instr) (v : Int) : Prop :=
      Issues i f 1 s c k → Gives i s c k (s.regs.putDst f.dst (extend (modTy f.mod) (modSat f.mod) v)).advance
    writes (.add f) (x + y) ∧ writes (.sub f) (x - y) ∧ writes (.mul f) (x * y)
      ∧ writes (.mulh f) ((x * y).fdiv (2 ^ tyWidth (modTy f.mod)))
      ∧ writes (.minI f) (min x y) ∧ writes (.maxI f) (max x y) ∧ writes (.absI f) x.natAbs ∧ writes (.negI f) (-x)
      ∧ writes (.madd f) (s.operand f f.dst + x * y)

/-- R37: DIV and REM truncate; a zero divisor sets FPSR.IDZ, gives the quotient all ones (signed -1) and leaves the dividend as the remainder. -/
def Obligations.DivisionResults : Prop :=
  ∀ (f : Fields) (s : State) (c : CoreId) (k : SlotId),
    let ty := modTy f.mod
    let x := s.operand f f.src1
    let y := s.operand f f.src2
    let r := if y = 0 then { s.regs with fpsr := s.regs.fpsr ||| 0x20 } else s.regs
    (Issues (.div f) f 1 s c k → Gives (.div f) s c k
      (r.putDst f.dst (extend ty (modSat f.mod) (if y = 0 then (if tySigned ty then -1 else tyMax ty) else x.tdiv y))).advance)
    ∧ (Issues (.rem f) f 1 s c k → Gives (.rem f) s c k
      (r.putDst f.dst (extend ty (modSat f.mod) (if y = 0 then x else x.tmod y))).advance)

/-- R96, R97: bitwise operations, shifts and rotates of the pattern; the amount of a shift is the whole unsigned source. -/
def Obligations.BitwiseAndShiftResults : Prop :=
  ∀ (f : Fields) (s : State) (c : CoreId) (k : SlotId),
    let ty := modTy f.mod
    let e := tyWidth ty
    let x := s.src f.src1
    let y := s.src f.src2
    let p := x.toNat % 2 ^ e
    let n := y.toNat
    let ones := 2 ^ e - 1
    let writes (i : Instr) (v : Word) : Prop := Issues i f 1 s c k → Gives i s c k (s.regs.putDst f.dst v).advance
    writes (.andI f) (extendPat ty (x &&& y).toNat) ∧ writes (.orI f) (extendPat ty (x ||| y).toNat)
      ∧ writes (.xorI f) (extendPat ty (x ^^^ y).toNat) ∧ writes (.andn f) (extendPat ty (x &&& ~~~y).toNat)
      ∧ writes (.orn f) (extendPat ty (x ||| ~~~y).toNat)
      ∧ (n ≤ 64 → writes (.shl f) (extend ty (modSat f.mod) (s.operand f f.src1 * 2 ^ n)))
      ∧ (64 ≤ n → writes (.shl f) (extend ty (modSat f.mod) (s.operand f f.src1 * 2 ^ 64)))
      ∧ writes (.shr f) (extendPat ty (if e ≤ n then 0 else p >>> n))
      ∧ (e ≤ n → writes (.sar f) (extendPat ty (if p.testBit (e - 1) then ones else 0)))
      ∧ (n < e → writes (.sar f) (extendPat ty ((p >>> n) ||| (if p.testBit (e - 1) then ones - (ones >>> n) else 0))))
      ∧ writes (.rol f) (extendPat ty (((p <<< (n % e)) ||| (p >>> (e - n % e))) % 2 ^ e))
      ∧ writes (.shlf f) (let m := n % 64; if m = 0 then s.src f.dst else (s.src f.dst <<< m) ||| (x >>> (64 - m)))

/-- R98, R100, R101: counts, bit and byte reversal of the pattern, bit fields, and extension between types. -/
def Obligations.BitFieldResults : Prop :=
  ∀ (f : Fields) (s : State) (c : CoreId) (k : SlotId),
    let ty := modTy f.mod
    let e := tyWidth ty
    let x := s.src f.src1
    let p := x.toNat % 2 ^ e
    let pos := (s.src f.src2).toNat % 64
    let w := (s.src f.src2).toNat / 64 % 64 + 1
    let m : Word := BitVec.ofNat 64 (2 ^ w - 1)
    let field := x.toNat / 2 ^ pos % 2 ^ w
    let writes (i : Instr) (v : Word) : Prop := Issues i f 1 s c k → Gives i s c k (s.regs.putDst f.dst v).advance
    (p = 0 → writes (.clz f) (BitVec.ofNat 64 e))
      ∧ (∀ n, n < e → p.testBit (e - 1 - n) = true → (∀ j, e - 1 - n < j → p.testBit j = false) → writes (.clz f) (BitVec.ofNat 64 n))
      ∧ (p = 0 → writes (.ctz f) (BitVec.ofNat 64 e))
      ∧ (∀ n, n < e → p.testBit n = true → (∀ j, j < n → p.testBit j = false) → writes (.ctz f) (BitVec.ofNat 64 n))
      ∧ writes (.popc f) (BitVec.ofNat 64 ((List.range e).filter fun i => p.testBit i).length)
      ∧ (∃ v, v < 2 ^ e ∧ (∀ j, j < e → v.testBit (e - 1 - j) = p.testBit j) ∧ writes (.brev f) (extendPat ty v))
      ∧ (∃ v, v < 2 ^ e ∧ (∀ j, j < e / 8 → v / 2 ^ (8 * (e / 8 - 1 - j)) % 256 = p / 2 ^ (8 * j) % 256) ∧ writes (.bswap f) (extendPat ty v))
      ∧ writes (.bfx f) (if tySigned ty && field.testBit (w - 1) then BitVec.ofInt 64 ((field : Int) - 2 ^ w) else BitVec.ofNat 64 field)
      ∧ writes (.bfi f) ((s.src f.dst &&& ~~~(m <<< pos)) ||| ((x &&& m) <<< pos))
      ∧ writes (.ext f) (extend ty (modSat f.mod) (intOf (immNat f.src2 % 8) x.toNat))

/-- R99: MULH writes the upper half of the exact product, extended; MULW writes the whole product, in one register up to 32 bits and in a pair, the even one low, at 64. -/
def Obligations.WideProduct : Prop :=
  ∀ (f : Fields) (s : State) (c : CoreId) (k : SlotId),
    let x := s.operand f f.src1
    let y := s.operand f f.src2
    let wide := BitVec.ofInt 128 (x * y)
    (Issues (.mulh f) f 1 s c k → Gives (.mulh f) s c k (s.regs.putDst f.dst
        (extend (modTy f.mod) (modSat f.mod) ((x * y).fdiv (2 ^ tyWidth (modTy f.mod))))).advance)
    ∧ (Issues (.mulw f) f 1 s c k →
      (tyWidth (modTy f.mod) ≠ 64 → Gives (.mulw f) s c k (s.regs.putDst f.dst (BitVec.ofInt 64 (x * y))).advance)
      ∧ (tyWidth (modTy f.mod) = 64 → ∀ n, f.dst = .g n →
        Gives (.mulw f) s c k ((s.regs.putG n (wide.extractLsb' 0 64)).putG (n + 1) (wide.extractLsb' 64 64)).advance))

/-- R102, R103: CMP writes the condition's mask to the true destination and its complement to the other; R104: SEL; R12: P7 discards. -/
def Obligations.CompareResults : Prop :=
  ∀ (f : Fields) (s : State) (c : CoreId) (k : SlotId) (pt pc : BitVec 3) (cond : BitVec 4),
    let ty := modTy f.mod
    let x := s.operand f f.src1
    let y := s.operand f f.src2
    let px := (s.src f.src1).toNat % 2 ^ tyWidth ty
    let py := (s.src f.src2).toNat % 2 ^ tyWidth ty
    let sets (b : Bool) : Prop := Gives (.cmp f) s c k ((s.regs.putP pt (boolMask b)).putP pc (boolMask !b)).advance
    (Issues (.cmp f) f 1 s c k → f.dst = .pp pt pc cond →
      (cond = 0 → sets (decide (x = y))) ∧ (cond = 1 → sets (decide (x ≠ y))) ∧ (cond = 2 → sets (decide (x < y)))
      ∧ (cond = 3 → sets (decide (x ≤ y))) ∧ (cond = 4 → sets (decide (y < x))) ∧ (cond = 5 → sets (decide (y ≤ x)))
      ∧ (cond = 6 → sets (decide (px &&& py ≠ 0))) ∧ (cond = 7 → sets (decide (px &&& py = 0))))
    ∧ (Issues (.sel f) f 1 s c k → Gives (.sel f) s c k (s.regs.putDst f.dst
        (if (s.getP (f.mod.extractLsb' 0 3)).getLsbD 0 != f.mod.getLsbD 3 then s.src f.src1 else s.src f.src2)).advance)

/-- R105 to R108: predicate logic and moves, constants, moves between register files and the address computation of LEA in its three modes, whose A register is updated before the destination is written. -/
def Obligations.MoveAndPredicateResults : Prop :=
  ∀ (f : Fields) (s : State) (c : CoreId) (k : SlotId),
    let writes (i : Instr) (v : Word) : Prop := Issues i f 1 s c k → Gives i s c k (s.regs.putDst f.dst v).advance
    writes (.mov f) (s.src f.src1) ∧ writes (.amov f) (s.src f.src1)
      ∧ (∀ hi lo, f.src1 = .half hi → f.src2 = .half lo → writes (.movi f) ((hi ++ lo : BitVec 48).signExtend 64))
      ∧ writes (.movh f) ((s.src f.src1).extractLsb' 0 16 ++ (s.src f.dst).extractLsb' 0 48 : BitVec 64)
      ∧ writes (.pset f) (s.src f.src1) ∧ (∀ n, f.src1 = .p n → writes (.pget f) (s.getP n))
      ∧ (∀ n, f.src1 = .p n → writes (.pcnt f) (BitVec.ofNat 64 ((List.range 64).filter fun i => (s.getP n).getLsbD i).length))
      ∧ (∀ a d t, f.src1 = .mem a .offset d → t = s.getA a + d.signExtend 64 + (s.src f.src2 <<< (f.mod.extractLsb' 0 2).toNat) →
        writes (.lea f) t)
      ∧ (∀ a d t, f.src1 = .mem a .postAdd d → t = s.getA a + (s.src f.src2 <<< (f.mod.extractLsb' 0 2).toNat) →
        Issues (.lea f) f 1 s c k →
          Gives (.lea f) s c k ((s.regs.putA a (s.getA a + d.signExtend 64)).putDst f.dst t).advance)
      ∧ (∀ a d t, f.src1 = .mem a .preSub d → t = s.getA a - d.signExtend 64 + (s.src f.src2 <<< (f.mod.extractLsb' 0 2).toNat) →
        Issues (.lea f) f 1 s c k →
          Gives (.lea f) s c k ((s.regs.putA a (s.getA a - d.signExtend 64)).putDst f.dst t).advance)
      ∧ (∀ (d a : BitVec 3) (i : BitVec 21), f.dst = .p d → f.src1 = .p a → f.src2 = .imm i → Issues (.plog f) f 1 s c k →
        ∃ v : Word, (∀ j, j < 64 → v.getLsbD j = i.getLsbD
            (4 * bit ((s.getP a).getLsbD j) + 2 * bit ((s.getP (BitVec.ofNat 3 (i.toNat / 256))).getLsbD j) + bit ((s.getP d).getLsbD j)))
          ∧ Gives (.plog f) s c k (s.regs.putP d v).advance)

/-- R88 to R90: NOP, branches, calls and returns; a register target that is not aligned is a Misaligned fault at the transfer. Rests on the model's readings of log entry 40. -/
def Obligations.ControlTransfers : Prop :=
  ∀ (f : Fields) (s : State) (c : CoreId) (k : SlotId),
    let goes (i : Instr) (r : Regs) (pc : Word) : Prop := Issues i f 1 s c k → Gives i s c k { r with pc := pc }
    let linked := s.regs.putG 31 (s.regs.pc + 12)
    let rel := s.regs.pc + (s.src f.src1 <<< 2)
    let target := s.src f.src1
    let faults (i : Instr) : Prop :=
      Issues i f 1 s c k → exec i s = .next (s.raise c k { cause := 0x04, addr := target, info := 8 })
    (Issues (.nop f) f 1 s c k → Gives (.nop f) s c k s.regs.advance)
      ∧ goes (.bra f) s.regs rel ∧ goes (.call f) linked rel
      ∧ (target.extractLsb' 0 2 = 0 → goes (.jmp f) s.regs target ∧ goes (.callr f) linked target ∧ goes (.ret f) s.regs target)
      ∧ (target.extractLsb' 0 2 ≠ 0 → faults (.jmp f) ∧ faults (.callr f) ∧ faults (.ret f))

/-- R92 to R94: LOOP and LOOPX, and the loop end that every instruction passes. LOOP sets level n to its body, or skips it when the count is 0; LOOPX leaves level n and the levels inside it; at a loop end of the innermost active level the count goes down and the pc to the body, and the level ends at its last turn. -/
def Obligations.LoopInstructions : Prop :=
  (∀ (f : Fields) (s : State) (c : CoreId) (k : SlotId),
      let n : BitVec 2 := f.mod.extractLsb' 0 2
      let r := s.regs
      let count : BitVec 32 := (s.src f.src1).setWidth 32
      let le := r.pc + (s.src f.src2 <<< 2)
      (Issues (.loopI f) f 1 s c k →
        (count = 0 → Gives (.loopI f) s c k { r with lact := r.lact &&& ~~~(1#4 <<< n), pc := le + 12 })
        ∧ (count ≠ 0 → Gives (.loopI f) s c k
          { r with
            lb := r.lb.set n.toNat (r.pc + 12) n.isLt, le := r.le.set n.toNat le n.isLt, lc := r.lc.set n.toNat count n.isLt
            lact := r.lact ||| (1#4 <<< n) : Regs }.advance))
      ∧ (Issues (.loopx f) f 1 s c k →
        (r.lact.getLsbD n.toNat = true → Gives (.loopx f) s c k
          { r with lact := r.lact &&& ~~~(BitVec.ofNat 4 (2 ^ (n.toNat + 1) - 1)), pc := r.le.get n.toFin + 12 })
        ∧ (r.lact.getLsbD n.toNat = false → Gives (.loopx f) s c k r.advance)))
  ∧ (∀ (r : Regs),
      let ends (n : Fin 4) : Prop := r.lact.getLsbD n.val = true ∧ r.le[n] = r.pc
      ((∀ n, ¬ ends n) → r.advance = { r with pc := r.pc + 12 })
      ∧ (∀ n : Fin 4, ends n → (∀ m : Fin 4, m < n → ¬ ends m) → r.lc[n] ≠ 1 →
        r.advance = { r with lc := r.lc.set n.val (r.lc[n] - 1) n.isLt, pc := r.lb[n] })
      ∧ (∀ n : Fin 4, ends n → (∀ m : Fin 4, m ≠ n → ¬ ends m) → r.lc[n] = 1 →
        r.advance = { r with lc := r.lc.set n.val 0 n.isLt, lact := r.lact &&& ~~~(1#4 <<< n.val), pc := r.pc + 12 }))

/-- R25: an instruction whose guard is false in all its lanes changes nothing but the program counter. -/
def Obligations.FalseGuardHasNoEffect : Prop :=
  ∀ (f : Fields) (s : State) (c : CoreId) (k : SlotId) (i : Instr),
    i ∈ [Instr.add f, .sub f, .mul f, .div f, .shl f, .cmp f, .sel f, .mov f, .lea f, .plog f, .bra f, .call f, .callr f, .loopI f, .halt f,
      .yield f, .cut f, .trapI f, .syscall f, .csrr f, .csrw f, .fadd f, .fdiv f, .fcmp f, .ld f, .st f, .lda f, .st2 f, .aadd f, .acas f,
      .fence f, .fenceSys f, .bararr f, .barwait f, .launch f, .lsw f, .amsg f, .mma f, .mst f, .capsend f, .cappush f, .xcopy f,
      .await f, .stkq f] →
    s.cur = .slot c k → (s.guardMask f).getLsbD 0 = false → Gives i s c k s.regs.advance

/-- R329: at user level a privileged instruction is a Privilege trap, whatever its guard and operands. -/
def Obligations.UserLevelTraps : Prop :=
  ∀ (f : Fields) (s : State) (c : CoreId) (k : SlotId) (i : Instr),
    i ∈ [Instr.eret f, .preack f, .cinv f, .eload f, .tlbinvVa f, .tlbinvCtx f, .tlbinvAll f, .decant f, .slotctlRd f, .slotctlStop f,
      .hostint f, .ckptqTest f, .ckptqTake f, .jrnlOff f, .jrnlRec f, .jrnlRpl f, .jrnlStat f, .faultqPop f, .faultqCnt f, .resume f,
      .resumeFail f] →
    s.cur = .slot c k → s.regs.priv = false → exec i s = .next (s.raise c k { cause := 0x03 })

/-- R227, R334: a fault of a slot whose open chunk is empty, with nothing waiting, is taken at once: the cause, address and details are saved, TRAPPC is the faulting instruction, the level and dead bits are saved, supervisor level and INH are set, and the handler is next; nothing else changes. With instructions before it the prefix is cut with code 0x0A and the trap waits for its grant. A fault of a step of a form-mode or tile instruction first leaves its progress in VPROG or MPROG (R135, R162). -/
def Obligations.FaultIsTaken : Prop :=
  ∀ (s u : State) (c : CoreId) (k : SlotId) (t : Trap),
    let y := u.slot c k
    let r := y.regs
    s.showProgress c k t.prog = (u, true) →
      (t.prog = none → u = s)
      ∧ (∀ v, t.prog = some ⟨none, v⟩ → u = s.setSlot c k { s.slot c k with regs := { (s.slot c k).regs with vprog := v } })
      ∧ (∀ n v, t.prog = some ⟨some n, v⟩ → (u.core c).mprogOf n = v)
      ∧ (y.chunk.len = 0 → y.waiting = none → y.strands t = false → r.trapvec ≠ 0 → r.inh = false →
        OnlySlot u (s.raise c k t) c k
        ∧ ∃ z, (s.raise c k t).slot c k = z
          ∧ z.regs = { r with
              trapcause := t.cause, trapaddr := t.addr, trapinfo := t.info, trappc := r.pc &&& ~~~(3#64)
              deadg := r.dead.extractLsb' 0 32, deadv := snapDeadv r.dead, fvalid := snapFvalid r
              ppriv := r.priv, inh := true, priv := true, pc := r.trapvec }
          ∧ z.park = .ready ∧ z.chunk = {} ∧ z.waiting = none ∧ z.entry = y.entry
          ∧ .turn c k ∈ (s.raise c k t).agenda)
      ∧ (y.chunk.len ≠ 0 → y.waiting = none → y.dZero = true → y.strands t = false →
        OnlySlot u (s.raise c k t) c k
        ∧ (s.raise c k t).slot c k = { y with
            cut := 0x0A, waiting := some y.chunk, chunk := {}, cutDue := none, park := .grant (.trap t) })

/-- R338: ERET returns to TRAPPC with the level that was saved, and clears INH, AWR and PPEND; a TRAPPC that is not aligned is a Misaligned fault. Rests on the model's readings of log entry 40. -/
def Obligations.ReturnFromTrap : Prop :=
  ∀ (f : Fields) (s : State) (c : CoreId) (k : SlotId),
    let r := s.regs
    let back (r : Regs) : Regs := { r with pc := r.trappc, priv := r.ppriv, inh := false, awr := false, ppend := false }
    Issues (.eret f) f 1 s c k → (s.ctx s.curCtx).tilesWait = [] →
      (r.trappc.extractLsb' 0 2 = 0 → r.awr = false → Gives (.eret f) s c k (back r))
      ∧ (r.trappc.extractLsb' 0 2 = 0 → r.awr = true → ∀ x, (s.slot c k).arrived = some x →
        Gives (.eret f) s c k (back (r.putG r.awreg x)))
      ∧ (r.trappc.extractLsb' 0 2 = 0 → r.awr = true → (s.slot c k).arrived = none → s.chunk.solo = false →
        ∃ t, exec (.eret f) s = .next t ∧ OnlySlot s t c k ∧ (t.slot c k).regs = back r ∧ (t.slot c k).awaiting = some r.awreg)
      ∧ (r.trappc.extractLsb' 0 2 ≠ 0 → exec (.eret f) s = .next (s.raise c k { cause := 0x04, addr := r.trappc, info := 8 }))

/-- R334: the trap of a slot whose prefix has been granted is taken: with a handler and INH = 0 as in FaultIsTaken; else the launch is aborted, with a record. -/
def Obligations.TrapEntryEvent : Prop :=
  ∀ (s : State) (c : CoreId) (k : SlotId) (t : Trap),
    let y := s.slot c k
    let r := y.regs
    s.cur = .slot c k → y.park = .trap t →
      (r.trapvec ≠ 0 → r.inh = false → ∃ u, exec .trapEntry s = .next u ∧ OnlySlot s u c k
        ∧ (u.slot c k).regs = { r with
            trapcause := t.cause, trapaddr := t.addr, trapinfo := t.info, trappc := r.pc &&& ~~~(3#64)
            deadg := r.dead.extractLsb' 0 32, deadv := snapDeadv r.dead, fvalid := snapFvalid r
            ppriv := r.priv, inh := true, priv := true, pc := r.trapvec }
        ∧ (u.slot c k).park = .ready)
      ∧ (r.trapvec = 0 ∨ r.inh = true → ∃ u, exec .trapEntry s = .next u ∧ ∃ (v : State) (rec : FaultRec),
        u = (v.report (towerOf c) rec).abortLaunch (entrySeq y.entry) ∧ rec.cause = t.cause ∧ rec.kind = 1 ∧ rec.dbl = r.inh
        ∧ rec.va = t.addr ∧ rec.pc = r.pc ∧ rec.core = c.toNat ∧ rec.slot = k.toNat)

/-- R41, R42: a magnitude m × 2^e rounded to a multiple of 2^q is the nearer multiple under RNE, the even one on a tie, and the neighbour that RTZ, RDN and RUP name; it is exact when nothing is discarded. -/
def Obligations.RoundingIsCorrect : Prop :=
  ∀ (neg : Bool) (m : Nat) (e q : Int),
    (q ≤ e → ∀ mode, roundAt mode neg m false e q = (m * 2 ^ (e - q).toNat, true))
    ∧ (e < q →
      let u := 2 ^ (q - e).toNat
      let r (mode : Nat) := (roundAt mode neg m false e q).1
      let below (v : Nat) : Prop := v * u ≤ m ∧ m < v * u + u
      let above (v : Nat) : Prop := m ≤ v * u ∧ v * u < m + u
      (2 * m ≤ 2 * (r 0) * u + u ∧ 2 * (r 0) * u ≤ 2 * m + u
        ∧ (2 * m = 2 * (r 0) * u + u ∨ 2 * (r 0) * u = 2 * m + u → r 0 % 2 = 0))
      ∧ below (r 1) ∧ (if neg then above (r 2) else below (r 2)) ∧ (if neg then below (r 3) else above (r 3))
      ∧ ∀ mode, (roundAt mode neg m false e q).2 = decide (m % u = 0))

/-- R43, R44, R109, R110: a floating-point result is written with its flags set; an enabled flag among those raised is an FP Trap at the instruction, with the flags set and no destination written. -/
def Obligations.FloatResults : Prop :=
  ∀ (f : Fields) (s : State) (c : CoreId) (k : SlotId) (n : BitVec 5),
    let t := modFmt f.mod
    let rm := modRm f.mod
    let x := (s.src f.src1).toNat
    let y := (s.src f.src2).toNat
    let yields (i : Instr) (r : FpRes) : Prop := f.dst = .g n → Issues i f 1 s c k →
      (s.regs.fpsr.extractLsb' 8 5 &&& r.2 = 0 →
        Gives i s c k ({ s.regs with fpsr := s.regs.fpsr ||| r.2.setWidth 13 }.putG n (BitVec.ofNat 64 r.1)).advance)
      ∧ (s.regs.fpsr.extractLsb' 8 5 &&& r.2 ≠ 0 →
        exec i s = .next ((s.setRegs { s.regs with fpsr := s.regs.fpsr ||| r.2.setWidth 13 }).raise c k
          { cause := 0x0D, info := r.2.setWidth 64 }))
    yields (.fadd f) (fpAdd t rm x y) ∧ yields (.fsub f) (fpSub t rm x y) ∧ yields (.fmul f) (fpMul t rm x y)
      ∧ yields (.fdiv f) (fpDiv t rm x y) ∧ yields (.ffma f) (fpFma t rm x y (s.src f.dst).toNat) ∧ yields (.fsqrt f) (fpSqrt t rm x)
      ∧ yields (.fmin f) (fpMinMax t false x y) ∧ yields (.fmax f) (fpMinMax t true x y) ∧ yields (.frnd f) (fpRoundInt t rm x)
      ∧ yields (.fscale f) (fpScale t rm x (s.src f.src2).toInt) ∧ yields (.fcvt f) (fpConv (fmtOf (immNat f.src2)) t rm x)
      ∧ yields (.icvf f) (fpOfInt t rm (intOf (immNat f.src2 % 8) x))

/-- R47, R103, R111, R113, R114: FCVI writes the rounded integer, or the limit of its type with NV; FCMP writes the condition and its complement, both false and true for an unordered ordering; FCLASS and FSGN raise nothing. -/
def Obligations.FloatCompareAndConvert : Prop :=
  ∀ (f : Fields) (s : State) (c : CoreId) (k : SlotId),
    let t := modFmt f.mod
    let x := (s.src f.src1).toNat
    let y := (s.src f.src2).toNat
    let flagged (fl : Flags) : Regs := { s.regs with fpsr := s.regs.fpsr ||| fl.setWidth 13 }
    (∀ n v fl, f.dst = .g n → fpToInt t (modRm f.mod) (immNat f.src2 % 8) x = (v, fl) → s.regs.fpsr.extractLsb' 8 5 &&& fl = 0 →
        Issues (.fcvi f) f 1 s c k → Gives (.fcvi f) s c k ((flagged fl).putG n (BitVec.ofInt 64 v)).advance)
      ∧ (∀ pt pc cond b fl, f.dst = .pp pt pc cond → fpCond t cond.toNat x y = (b, fl) → s.regs.fpsr.extractLsb' 8 5 &&& fl = 0 →
        Issues (.fcmp f) f 1 s c k →
          Gives (.fcmp f) s c k (((flagged fl).putP pt (boolMask b)).putP pc (boolMask !b)).advance)
      ∧ (Issues (.fclass f) f 1 s c k →
        Gives (.fclass f) s c k (s.regs.putDst f.dst (BitVec.ofNat 64 (fpClass t x))).advance)
      ∧ (Issues (.fsgn f) f 1 s c k →
        Gives (.fsgn f) s c k (s.regs.putDst f.dst (BitVec.ofNat 64 (fpSign t (modRm f.mod) x y))).advance)

/-- R30, R95: CSRR of a readable CSR; numbers from 0x100 need supervisor level (Privilege with detail 1), and a number that no chapter assigns is an Illegal Encoding with check 0x12. -/
def Obligations.CsrReads : Prop :=
  ∀ (f : Fields) (s : State) (c : CoreId) (k : SlotId) (d : BitVec 5) (n : BitVec 12),
    f.dst = .g d → f.src1 = .csr n → Issues (.csrr f) f 1 s c k →
      (∀ x, s.csrVal n.toNat = some x → (n.toNat < 0x100 ∨ s.regs.priv = true) → Gives (.csrr f) s c k (s.regs.putG d x).advance)
      ∧ (0x100 ≤ n.toNat → s.regs.priv = false → exec (.csrr f) s = .next (s.raise c k { cause := 0x03, info := 1 }))
      ∧ (s.csrVal n.toNat = none → (n.toNat < 0x100 ∨ s.regs.priv = true) →
        exec (.csrr f) s = .next (s.raise c k { cause := 0x01, info := 0x12 }))

/-- R30: what CSRs of a slot read as: the cycle and rotation counters, FPSR, the loop registers, the counters D0 to D3, VPROG, XBASE, the trap registers and the level. Rests on the model's readings of log entry 96. -/
def Obligations.CsrValues : Prop :=
  ∀ (s : State) (c : CoreId) (k : SlotId), s.cur = .slot c k →
    let r := (s.slot c k).regs
    s.csrVal 0x002 = some (BitVec.ofNat 64 (s.rot * 16 + s.phase)) ∧ s.csrVal 0x010 = some ((r.fpsr &&& 0x1F3F).setWidth 64)
      ∧ (∀ n : Fin 4, s.csrVal (0x030 + n.val) = some r.lb[n] ∧ s.csrVal (0x034 + n.val) = some r.le[n]
        ∧ s.csrVal (0x038 + n.val) = some (r.lc[n].setWidth 64) ∧ s.csrVal (0x040 + n.val) = some (r.d[n].setWidth 64)
        ∧ s.csrVal (0x108 + n.val) = some r.sscr[n])
      ∧ s.csrVal 0x03C = some (r.lact.setWidth 64) ∧ s.csrVal 0x100 = some r.trapvec ∧ s.csrVal 0x101 = some (r.trapcause.setWidth 64)
      ∧ s.csrVal 0x102 = some r.trappc ∧ s.csrVal 0x103 = some r.trapaddr ∧ s.csrVal 0x104 = some r.trapinfo
      ∧ s.csrVal 0x110 = some (if r.priv then 1 else 0)
      ∧ (∀ n, 0x111 ≤ n → s.csrVal n = none)

/-- R30, R95: CSRW and CSRX of a writable CSR, at user level, or at supervisor level with nothing before them: the written fields take the value, read-only ones keep theirs, and CSRX returns the old value. TARGET is clamped to 16 to 4,096 and takes effect at the next chunk. Rests on the model's readings of log entries 17, 18, 98. -/
def Obligations.CsrWrites : Prop :=
  ∀ (f : Fields) (s : State) (c : CoreId) (k : SlotId) (n : BitVec 12) (old : Word),
    s.csrVal n.toNat = some old → ¬ (0x050 ≤ n.toNat ∧ n.toNat ≤ 0x053) →
    (s.regs.priv = false → n.toNat < 0x100) → (s.regs.priv = true → s.isAlone = true) →
    let after (x : Word) : Regs :=
      let r := s.regs.csrSet n.toNat x
      { r with ppend := r.inh && r.ppend }
    let x := s.src f.src1
    let y := s.src f.src2
    (f.dst = .csr n → Issues (.csrw f) f 1 s c k → Gives (.csrw f) s c k (after x).advance)
      ∧ (∀ d, f.dst = .g d → f.src1 = .csr n →
        (Issues (.csrxSwp f) f 1 s c k → Gives (.csrxSwp f) s c k ((after y).putG d old).advance)
        ∧ (Issues (.csrxSet f) f 1 s c k → Gives (.csrxSet f) s c k ((after (old ||| y)).putG d old).advance)
        ∧ (Issues (.csrxClr f) f 1 s c k → Gives (.csrxClr f) s c k ((after (old &&& ~~~y)).putG d old).advance))
      ∧ s.regs.csrSet 0x010 x = { s.regs with fpsr := x.setWidth 13 &&& 0x1F3F }
      ∧ s.regs.csrSet 0x020 x = { s.regs with
          target := (let v := x.toNat % 8192; if v < 16 then 16 else if 4096 < v then 4096 else x.setWidth 13), targetNew := true }
      ∧ s.regs.csrSet 0x030 x = { s.regs with lb := s.regs.lb.set 0 (x &&& ~~~(3#64)) }
      ∧ s.regs.csrSet 0x100 x = { s.regs with trapvec := x &&& ~~~(3#64) }
      ∧ s.regs.csrSet 0x002 x = s.regs ∧ s.regs.csrSet 0x040 x = s.regs ∧ s.regs.csrSet 0x110 x = s.regs

/-- R24, R91, R214, R238, R337: instructions that end their chunk. With D0 to D3 zero and no chunk waiting, HALT and CUT cut with code 0x05, HALT leaving its end to the grant and waiting first for a remote result that an ERET awaits (R24); TRAP and SYSCALL complete, cut with code 0x09 and wait for the grant with their trap due. -/
def Obligations.InstructionsThatCut : Prop :=
  ∀ (f : Fields) (s : State) (c : CoreId) (k : SlotId),
    let y := s.slot c k
    let cuts (i : Instr) (r : Regs) (code : Byte) (p : Park) (effects : List Deferred) : Prop :=
      ∃ t, exec i s = .next t ∧ OnlySlot s t c k ∧ (t.slot c k).regs = r ∧ (t.slot c k).cut = code ∧ (t.slot c k).park = p
        ∧ (t.slot c k).chunk = {} ∧ .slot c k ∈ t.requests
        ∧ ∃ w, (t.slot c k).waiting = some w ∧ w.effects = y.chunk.effects ++ effects ∧ w.len = y.chunk.len + 1 ∧ w.wr = y.chunk.wr
    y.dZero = true → y.waiting = none → y.cutDue = none → y.park = .ready → y.chunk.solo = false →
      (Issues (.halt f) f 1 s c k → ∀ g, y.awaiting = some g → ∃ t, exec (.halt f) s = .next t ∧ OnlySlot s t c k ∧ t.slot c k = y)
      ∧ (Issues (.cut f) f 1 s c k → cuts (.cut f) s.regs.advance 0x05 .ready [])
      ∧ (Issues (.halt f) f 1 s c k → s.regs.vis = false → y.awaiting = none →
        cuts (.halt f) s.regs 0x05 (.grant .stop) [if entryMsgr y.entry then .msgEnd else .halt])
      ∧ (Issues (.trapI f) f 1 s c k →
        cuts (.trapI f) s.regs.advance 0x09 (.grant (.trap { cause := 0x0E, info := s.src f.src1 })) [])
      ∧ (Issues (.syscall f) f 1 s c k →
        cuts (.syscall f) s.regs.advance 0x09 (.grant (.trap { cause := 0x0F, info := s.src f.src1 })) [])

/-- R115 to R117, R120: when the access of a load completes, LD writes the value read, extended or converted, LD2 an even-odd pair with the lower address in the even register; an A register is updated by the addressing mode. ST and ST2 write the bytes of their source. PREF has no effect. -/
def Obligations.LoadAndStoreResults : Prop :=
  ∀ (f : Fields) (s t : State) (c : CoreId) (k : SlotId),
    let n := accSize f.mod
    let quiet (fl : Flags) : Prop := t.regs.fpsr.extractLsb' 8 5 &&& fl = 0
    t.cur = s.cur →
      (∀ bs x fl d, f.dst = .g d → s.load (s.addrOf f.src1 n) n n = .ok (bs, t) → loadValue f.mod bs = (x, fl) → quiet fl →
        Issues (.ld f) f 1 s c k →
          GivesFrom (.ld f) s t c k ((((t.regs.flagged fl).updated f.src1 n).putG d x).advance))
      ∧ (∀ bs fl, storeBytes f.mod (s.src f.src1) = (bs, fl) → s.store (s.addrOf f.dst n) bs n = .ok ((), t) → t.regs = s.regs → quiet fl →
        Issues (.st f) f 1 s c k → GivesFrom (.st f) s t c k (((t.regs.flagged fl).updated f.dst n).advance))
      ∧ (∀ bs d, f.dst = .g d → s.load (s.addrOf f.src1 16) 16 16 = .ok (bs, t) → bs.length = 16 → Issues (.ld2 f) f 1 s c k →
        GivesFrom (.ld2 f) s t c k ((((t.regs.updated f.src1 16).putG d (BitVec.ofNat 64 (leNat (bs.take 8)))).putG (d + 1)
          (BitVec.ofNat 64 (leNat (bs.drop 8)))).advance))
      ∧ (∀ d, f.src1 = .g d →
        s.store (s.addrOf f.dst 16) (leBytes 8 (s.getG d).toNat ++ leBytes 8 (s.getG (d + 1)).toNat) 16 = .ok ((), t) →
        Issues (.st2 f) f 1 s c k → GivesFrom (.st2 f) s t c k ((t.regs.updated f.dst 16).advance))
      ∧ (Issues (.pref f) f 1 s c k → Gives (.pref f) s c k s.regs.advance)

/-- R121: LDA notes its register and the value at its place in program order, and increments its counter; the arrival of its data writes the register and decrements the counter. Rests on the model's readings of log entry 33. -/
def Obligations.AsynchronousLoads : Prop :=
  ∀ (f : Fields) (s t : State) (c : CoreId) (k : SlotId),
    let n := accSize f.mod
    let counted (r : Regs) (q : BitVec 2) (x : Byte) : Regs := { r with d := r.d.set q.toNat x q.isLt }
    (∀ bs x fl d q, f.dst = .g d → f.src2 = .dep q → t.cur = s.cur → s.regs.d.get q.toFin ≠ 255 →
        s.load (s.addrOf f.src1 n) n n = .ok (bs, t) → t.chunk.solo = false → loadValue f.mod bs = (x, fl) →
        t.regs.fpsr.extractLsb' 8 5 &&& fl = 0 → Issues (.lda f) f 1 s c k →
          ∃ u, exec (.lda f) s = .next u ∧ OnlySlot t u c k ∧ (u.slot c k).ldas = (t.slot c k).ldas ++ [{ g := d, d := q, x := x }]
            ∧ (u.slot c k).regs = (counted ((t.regs.flagged fl).updated f.src1 n) q (t.regs.d.get q.toFin + 1)).advance)
      ∧ (∀ g l, s.cur = .slot c k → (s.slot c k).ldas.find? (fun l => l.g == g) = some l →
        ∃ u, exec (.ldaDataReturn g) s = .next u ∧ OnlySlot s u c k ∧ (u.slot c k).ldas = (s.slot c k).ldas.filter (fun l => l.g != g)
          ∧ (u.slot c k).regs = (counted s.regs l.d (s.regs.d.get l.d.toFin - 1)).putG g l.x)

/-- R212, R216, R230, R277: in local memory a load returns for each byte what its own chunks hold, else the committed byte, and changes nothing that the slot sees; a store is seen by the slot's own next loads in exactly its bytes, and commits nothing. -/
def Obligations.MemoryAccessFrame : Prop :=
  ∀ (s s' t : State) (c : CoreId) (k : SlotId) (va : Word) (pa align : Nat),
    s.cur = .slot c k → s.chunk.solo = false →
      (∀ n bs, s.locate va n .read = .ok (.mem pa, s') → s.load va n align = .ok (bs, t) →
        bs = (List.range n).map (fun j => s.seenByte (pa + j)) ∧ OwnKept s t c k ∧ ∀ a, t.seenByte a = s.seenByte a)
      ∧ (∀ bs, s.locate va bs.length .write = .ok (.mem pa, s') → s.store va bs align = .ok ((), t) →
        t.mem = s.mem ∧ t.regs = s.regs ∧ (∀ a, a < pa ∨ pa + bs.length ≤ a → t.seenByte a = s.seenByte a)
          ∧ ∀ j (h : j < bs.length), t.seenByte (pa + j) = bs[j])

/-- R27, R115, R116, R277: an aligned access in the window of the local store, with no update pending on its granules, no chunk of another slot and no poison, completes: LD reads the bytes of the local store, ST replaces exactly its bytes. -/
def Obligations.LocalStoreAccess : Prop :=
  ∀ (f : Fields) (s : State) (c : CoreId) (k : SlotId) (off : Nat),
    let n := accSize f.mod
    let ls := (s.core c).ls
    ls.wf = true → off % n = 0 → off + n ≤ 0x80000 → accConv f.mod = none → s.chunk.solo = false → s.soleChunk c k → (s.slot c k).chunk.updateOn c (linesOf off n) = false →
    (s.core c).undoCount + n ≤ 204 → (∀ g ∈ (s.core c).lsPoison, g ∉ linesOf off n) →
      (∀ d, f.dst = .g d → s.addrOf f.src1 n = BitVec.ofNat 64 (windowBase + off) → Issues (.ld f) f 1 s c k →
        ∃ u, exec (.ld f) s = .next u ∧ (u.core c).ls = ls ∧ u.mem = s.mem
          ∧ (u.slot c k).regs = ((s.regs.updated f.src1 n).putG d (loadValue f.mod (ls.bytes off n)).1).advance)
      ∧ (s.addrOf f.dst n = BitVec.ofNat 64 (windowBase + off) → Issues (.st f) f 1 s c k →
        ∃ u, exec (.st f) s = .next u ∧ u.mem = s.mem ∧ (u.slot c k).regs = (s.regs.updated f.dst n).advance
          ∧ (∀ a, a < off ∨ off + n ≤ a → (u.core c).ls.byte a = ls.byte a)
          ∧ ∀ j, j < n → (u.core c).ls.byte (off + j) = BitVec.ofNat 8 ((s.src f.src1).toNat / 256 ^ j))

/-- R234, R235: an atomic that returns nothing is noted in the open chunk as a deferred update, in local memory or in the slot's own local store, and commits nothing. Its new value is given by the operation in its type. -/
def Obligations.DeferredAtomics : Prop :=
  ∀ (f : Fields) (s s' : State) (c : CoreId) (k : SlotId),
    let ty : BitVec 2 := f.mod.extractLsb' 0 2
    let e := if ty.getLsbD 0 then 64 else 32
    let num (x : Nat) : Int := if ty.getLsbD 1 && decide (2 ^ (e - 1) ≤ x) then (x : Int) - 2 ^ e else x
    let va := s.addrOf f.src1 (e / 8)
    ∀ a ∈ atomicTable f e num, Issues a.1 f 1 s c k → va.toNat % (e / 8) = 0 → f.mod.getLsbD 2 = false → f.mod.getLsbD 3 = false →
      (∀ m v w, m < 2 ^ e → v < 2 ^ e → w < 2 ^ e → atomicNew a.2.1.toNat ty e m v w = a.2.2 m v w)
      ∧ (∀ pa, s.locateInside va (e / 8) .write = .ok (.mem pa, s') → s'.chunk.deferredCount < 64 →
        ∃ t, t.mem = s.mem ∧ t.chunk.effects = s.chunk.effects ++ [.atomic a.2.1 ty pa (s.src f.src2)]
          ∧ GivesFrom a.1 s t c k s.regs.advance)
      ∧ (∀ off, s.locateInside va (e / 8) .write = .ok (.ls c off, s') → s'.chunk.deferredCount < 64 → s'.chunk.remoteOn c [off / 64] = false → s'.soleChunk c k →
        ∃ t, t.mem = s.mem ∧ t.core c = { s'.core c with slots := (t.core c).slots }
          ∧ t.chunk.effects = s.chunk.effects ++ [.lsAtomic a.2.1 ty off (s.src f.src2)]
          ∧ GivesFrom a.1 s t c k s.regs.advance)

/-- R234, R236, R237: an atomic that returns a value runs alone, as one event at the home of its place: the old value goes to the destination, extended by its type, and memory takes the new value at once. Rests on the model's readings of log entry 17. -/
def Obligations.ReturningAtomics : Prop :=
  ∀ (f : Fields) (s s' : State) (c : CoreId) (k : SlotId) (d : BitVec 5) (pa : Nat),
    let ty : BitVec 2 := f.mod.extractLsb' 0 2
    let e := if ty.getLsbD 0 then 64 else 32
    let num (x : Nat) : Int := if ty.getLsbD 1 && decide (2 ^ (e - 1) ≤ x) then (x : Int) - 2 ^ e else x
    let free (n : Nat) : Prop := s'.tokenBars (linesOf pa n) = false ∧ s'.poisoned (linesOf pa n) = none
      ∧ (s.slot c k).chunk.hit (linesOf pa n) = false ∧ s.isAlone = true
      ∧ (s'.journal s'.curCtx).rec_ = false ∧ (s'.journal s'.curCtx).rpl = false
    f.dst = .g d →
      (∀ a ∈ atomicTable f e num, Issues a.1 f 1 s c k → f.mod.getLsbD 2 = true → f.mod.getLsbD 3 = false →
        (s.addrOf f.src1 (e / 8)).toNat % (e / 8) = 0 → s.locateInside (s.addrOf f.src1 (e / 8)) (e / 8) .write = .ok (.mem pa, s') →
        free (e / 8) →
          let m := s.mem.nat pa (e / 8)
          let new := a.2.2 m ((s.src f.src2).toNat % 2 ^ e) ((s.getG d).toNat % 2 ^ e)
          ∃ t, t.mem = s.mem.setBytes pa (leBytes (e / 8) new) ∧ GivesFrom a.1 s t c k (s.regs.putG d (BitVec.ofInt 64 (num m))).advance)
      ∧ (∀ b, f.src2 = .g b → Issues (.acas2 f) f 1 s c k → f.mod.getLsbD 3 = false → (s.addrOf f.src1 16).toNat % 16 = 0 →
        s.locateInside (s.addrOf f.src1 16) 16 .write = .ok (.mem pa, s') → free 16 →
          let m := s.mem.nat pa 16
          let w := (s.getG d).toNat + 2 ^ 64 * (s.getG (d + 1)).toNat
          let v := (s.getG b).toNat + 2 ^ 64 * (s.getG (b + 1)).toNat
          ∃ t, t.mem = s.mem.setBytes pa (leBytes 16 (if m = w then v else m))
            ∧ GivesFrom (.acas2 f) s t c k
              ((s.regs.putG d (BitVec.ofNat 64 m)).putG (d + 1) (BitVec.ofNat 64 (m / 2 ^ 64))).advance)

/-- R239, R393: FENCE has no effect of its own; FENCE.SYS runs alone, and with posted writes outstanding none: it completes when no error stands, and forgets the writes; else it is an Edge Completion Error at the first posted address. Rests on the model's readings of log entry 17. -/
def Obligations.Fences : Prop :=
  ∀ (f : Fields) (s : State) (c : CoreId) (k : SlotId),
    let p := (s.slot c k).posted
    (Issues (.fence f) f 1 s c k → Gives (.fence f) s c k s.regs.advance)
      ∧ (Issues (.fenceSys f) f 1 s c k → s.isAlone = true → p.count = 0 →
        ∃ u, exec (.fenceSys f) s = .next u ∧ OnlySlot s u c k ∧ (u.slot c k).regs.butDead s.regs.advance)
      ∧ (Issues (.fenceSys f) f 1 s c k → s.isAlone = true → p.count ≠ 0 → p.open_ = 0 → p.err = 0 → s.host.up = true → s.answer = some 0 →
        ∃ u, exec (.fenceSys f) s = .next u ∧ OnlySlot s u c k ∧ (u.slot c k).regs.butDead s.regs.advance ∧ (u.slot c k).posted = {})
      ∧ (Issues (.fenceSys f) f 1 s c k → s.isAlone = true → p.count ≠ 0 → p.open_ = 0 → p.err ≠ 0 →
        ∃ t, OnlySlot s t c k ∧ (t.slot c k).posted = {} ∧ (t.slot c k).regs = s.regs ∧ exec (.fenceSys f) s = .next (t.raise c k
          { cause := 0x11, addr := p.first, info := BitVec.ofNat 64 (1 + 2 * p.err.toNat) }))

/-- R240: WAITV alone in its event: a value that differs goes to the destination; an equal one parks the slot, with an expiry when WAITTMO is not 0. The wake, and the time-out once its rotation has come, give the value then at the place, if its stack can be reached, and let the slot go on. Rests on the model's readings of log entries 17, 88. -/
def Obligations.WaitsOnMemory : Prop :=
  ∀ (f : Fields) (s s' : State) (c : CoreId) (k : SlotId) (d : BitVec 5) (pa : Nat),
    let n := if f.mod.getLsbD 0 then 8 else 4
    let v := s.mem.nat pa n
    let ex := if s.regs.waittmo = 0 then none else some (s.rot + s.regs.waittmo.toNat)
    (f.dst = .g d → Issues (.waitv f) f 1 s c k → s.isAlone = true → (s.addrOf f.src1 n).toNat % n = 0 →
      (s.setChunk { s.chunk with solo := true }).locateInside (s.addrOf f.src1 n) n .read = .ok (.mem pa, s') →
      s'.poisoned (linesOf pa n) = none →
        (v ≠ (s.src f.src2).toNat % 2 ^ (8 * n) → GivesFrom (.waitv f) s s' c k (s.regs.putG d (BitVec.ofNat 64 v)).advance)
        ∧ (v = (s.src f.src2).toNat % 2 ^ (8 * n) → ∃ u, exec (.waitv f) s = .next u ∧ OnlySlot s' u c k
          ∧ (u.slot c k).park = .waitv d false pa n ex ∧ (u.slot c k).regs = s.regs
          ∧ (u.slot c k).chunk = { tlb := (s'.slot c k).chunk.tlb, deadSet := (u.slot c k).chunk.deadSet }
          ∧ (ex.isSome → .event (.slot c k) .waitvTimeout ∈ u.agenda)))
    ∧ (∀ m e, s.cur = .slot c k → (s.core c).asleep = false → (s.slot c k).park = .waitv d false pa m e →
        s.poisoned (linesOf pa m) = none → s.reach (dieOf c) (stackOf pa) = .yes →
          let r := (s.regs.putG d (BitVec.ofNat 64 (leNat ((s.mem.bytes pa m).take 8)))).advance
          let woken (o : Host.Outcome State Fault Refusal) : Prop := ∃ u, o = .next u ∧ OnlySlot s u c k ∧ (u.slot c k).park = .ready
            ∧ (u.slot c k).regs = { r with dead := r.dead ||| (s.chunk.deadSet &&& ~~~(1#64 <<< deadG d)) } ∧ .turn c k ∈ u.agenda
          woken (exec .waitvWake s) ∧ (∀ r, e = some r → r ≤ s.rot → woken (exec .waitvTimeout s)))

/-- R241, R242: JRNL alone in its chunk, which is cut after it with code 0x0E. STAT reads the status word. OFF, REC and RPL note what they do, and their grant does it: OFF ends a replay, or a recording, whose header it writes; REC and RPL end what is in force as OFF does; REC then clears the header and begins a recording in the buffer's frames, RPL the replay of the records that the header counts. A buffer that is misaligned or empty is an Illegal Encoding with check 0x13; a header that is not valid, of another context, or that counts more records than the buffer holds is one with check 0x14. Rests on the model's readings of log entries 17, 48. -/
def Obligations.JournalInstructions : Prop :=
  ∀ (f : Fields) (s s' : State) (c : CoreId) (k : SlotId) (d : BitVec 5),
    let y := s.slot c k
    let bad (check field : Nat) : Trap := { cause := 0x01, info := BitVec.ofNat 64 (check + 65536 * field) }
    let notes (i : Instr) (e : List Deferred) (r : Regs) : Prop :=
      ∃ u w, exec i s = .next u ∧ u.mem = s.mem ∧ u.journals = s.journals ∧ (u.slot c k).regs = r ∧ (u.slot c k).cut = 0x0E
        ∧ (u.slot c k).park = .ready ∧ (u.slot c k).waiting = some w ∧ w.len = 1 ∧ w.effects = y.chunk.effects ++ e ∧ w.wr = y.chunk.wr
        ∧ .slot c k ∈ u.requests
    let va := s.addrOf f.src1 8
    let size := (s.src f.src2).toNat
    (s.isAlone = true → y.dZero = true → y.cutDue = none → y.park = .ready → y.chunk.solo = false →
      (∀ j, j = s.journal s.curCtx → f.dst = .g d → Issues (.jrnlStat f) f 1 s c k → notes (.jrnlStat f) [] (s.regs.putG d (BitVec.ofNat 64
        (bit j.rec_ + 2 * bit j.rpl + 4 * bit j.full + 8 * bit j.div + 2 ^ 32 * j.count.toNat))).advance)
      ∧ (Issues (.jrnlOff f) f 1 s c k → notes (.jrnlOff f) [.jrnlOff] s.regs.advance)
      ∧ (∀ i ∈ [Instr.jrnlRec f, .jrnlRpl f], Issues i f 1 s c k →
        (va.toNat % 4096 ≠ 0 → exec i s = .next (s.raise c k (bad 0x13 1)))
        ∧ (va.toNat % 4096 = 0 → size = 0 → exec i s = .next (s.raise c k (bad 0x13 2))))
      ∧ (∀ frames, Issues (.jrnlRec f) f 1 s c k → s.journalBuffer f .write = .ok (frames, s') →
        notes (.jrnlRec f) [.jrnlOn false frames 0] s.regs.advance)
      ∧ (∀ frames, Issues (.jrnlRpl f) f 1 s c k → s.journalBuffer f .read = .ok (frames, s') →
        s'.poisoned (linesOf (frames.headD 0) 64) = none →
          let h := s.mem.nat (frames.headD 0) 64
          let good : Prop := h.testBit 63 = true ∧ h / 2 ^ 32 % 4096 = s.curCtx.toNat ∧ h % 2 ^ 32 ≤ (4096 * frames.length - 64) / 16
          (good → notes (.jrnlRpl f) [.jrnlOn true frames (BitVec.ofNat 32 h)] s.regs.advance)
          ∧ (¬ good → exec (.jrnlRpl f) s = .next (s'.raise c k (bad 0x14 0)))))
    ∧ (let n := entryCtx y.entry
      let j := s.journal n
      let open_ (pa : Nat) : Prop := (s.stack (stackOf pa)).st ≠ .fenced
      let off := s.applyEffect c k .jrnlOff
      (off.journal n).rec_ = false ∧ (off.journal n).rpl = false
      ∧ (j.rec_ = false → off.mem = s.mem)
      ∧ (j.rec_ = true → open_ (j.at 0) →
        off.mem = s.mem.setBytes (j.at 0) (leBytes 64 (j.count.toNat + 2 ^ 32 * n.toNat + 2 ^ 62 * bit j.full + 2 ^ 63)))
      ∧ ∀ rpl frames total, let on := s.applyEffect c k (.jrnlOn rpl frames total)
        on = off.journalOn n (entrySeq y.entry) rpl frames total
        ∧ (j.rec_ = false → rpl = false → open_ (frames.headD 0) →
          on.mem = s.mem.setBytes (frames.headD 0) (leBytes 64 0)
          ∧ on.journal n = { rec_ := true, frames := frames, seq := entrySeq y.entry })
        ∧ (j.rec_ = false → rpl = true → on.mem = s.mem
          ∧ on.journal n = { rpl := decide (total ≠ 0), frames := frames, total := total, seq := entrySeq y.entry }))

/-- R203, R205, R206: BARSET gives a barrier of a gang its shape at once, and is refused by its checks; BARARR alone in its chunk sets the slot's arrival bit, once however often its chunk runs, and with a destination gives the generation; BARWAIT goes on when the generation differs and parks when it does not. Rests on the model's readings of log entry 17. -/
def Obligations.BarrierInstructions : Prop :=
  ∀ (f : Fields) (s : State) (c : CoreId) (k : SlotId) (b : BitVec 3) (l : Launch),
    let v := s.bar c b
    let shape := s.src f.src1
    let bad (check field : Nat) : Trap := { cause := 0x01, info := BitVec.ofNat 64 (check + 65536 * field) }
    let fits : Prop := shape.toNat < 64 ∧ 2 ^ (shape.toNat % 8) ≤ 2 ^ descLw l.desc ∧ 2 ^ (shape.toNat / 8 % 8) ≤ 2 ^ descLh l.desc
    (f.dst = .bar b → s.launch s.curSeq = some l → Issues (.barset f) f 1 s c k →
      (fits → s.spans (descCtx l.desc) b = false → v.arrv = 0 → descGang l.desc = true → (∀ x ∈ (s.core c).tokens, x.b ≠ b) →
        s.chunk.solo = false → ∃ u, exec (.barset f) s = .next u ∧ (u.slot c k).regs = s.regs.advance ∧ u.mem = s.mem
          ∧ (u.bar c b).valid = true ∧ (u.bar c b).lw = shape.extractLsb' 0 3 ∧ (u.bar c b).lh = shape.extractLsb' 3 3
          ∧ ∀ b', b' ≠ b → u.bar c b' = s.bar c b')
      ∧ (¬ fits → exec (.barset f) s = .next (s.raise c k (bad 0x13 1)))
      ∧ (fits → s.spans (descCtx l.desc) b = false → v.arrv ≠ 0 ∨ descGang l.desc = false → exec (.barset f) s = .next (s.raise c k (bad 0x14 0))))
    ∧ (f.src1 = .bar b → Issues (.bararr f) f 1 s c k →
      (v.valid = false → exec (.bararr f) s = .next (s.raise c k (bad 0x14 0)))
      ∧ (v.valid = true → s.isAlone = true → (s.slot c k).barred = none →
        s.chunk.solo = false → ∃ u, exec (.bararr f) s = .next u ∧ u.mem = s.mem ∧ (u.bar c b).arrv = v.arrv ||| (1#16 <<< k.toNat) ∧ (u.bar c b).gen = v.gen
          ∧ (u.slot c k).barred = some ((s.slot c k).seq, b, v.gen)
          ∧ (f.mod.getLsbD 0 = false → (u.slot c k).regs = s.regs.advance)
          ∧ ∀ d, f.dst = .g d → f.mod.getLsbD 0 = true → (u.slot c k).regs = (s.regs.putG d (v.gen.setWidth 64)).advance)
      ∧ (∀ g, v.valid = true → s.isAlone = true → (s.slot c k).barred = some ((s.slot c k).seq, b, g) → f.mod.getLsbD 0 = false →
        Gives (.bararr f) s c k s.regs.advance))
    ∧ (f.src1 = .bar b → Issues (.barwait f) f 1 s c k → s.isAlone = true →
      let g : Byte := (s.src f.src2).setWidth 8
      (v.gen ≠ g → ∃ u, exec (.barwait f) s = .next u ∧ OnlySlot s u c k ∧ (u.slot c k).regs.butDead s.regs.advance ∧ (u.slot c k).park = (s.slot c k).park)
      ∧ (v.gen = g → ∃ u, exec (.barwait f) s = .next u ∧ OnlySlot s u c k ∧ (u.slot c k).regs = s.regs ∧ (u.slot c k).park = .barwait b g))

/-- R204, R378, R404: a row, column or release token takes effect at a core whose barrier has its shape, and is held where it has not: the first two set ROWIN and COLIN, a release ends the generation; a token whose way sleeps waits for its links (R378). The master of a barrier across packages counts arrivals and releases at the last; the release reaches the corner of the gang, and is kept while the gang is saved. Rests on the model's readings of log entries 69, 99. -/
def Obligations.BarrierMessages : Prop :=
  ∀ (s : State) (c : CoreId) (b : BitVec 3) (shape : BitVec 6),
    let v := s.bar c b
    let matched : Prop := v.valid = true ∧ v.lh.toNat * 8 + v.lw.toNat = shape.toNat
    let up (kind : BitVec 2) : Prop := s.linksUp (pathOf (s.tokenFrom c kind b) c) = true
    let tokens : List (Instr × BitVec 2) := [(.barrierRowToken b shape, 0), (.barrierColumnToken b shape, 1), (.barrierReleaseToken b shape, 2)]
    (s.cur = .core c →
      (matched → up 0 → ∃ u, exec (.barrierRowToken b shape) s = .next u ∧ u.mem = s.mem ∧ (u.bar c b).rowin = true ∧ (u.bar c b).gen = v.gen)
      ∧ (matched → up 1 → ∃ u, exec (.barrierColumnToken b shape) s = .next u ∧ u.mem = s.mem ∧ (u.bar c b).colin = true ∧ (u.bar c b).gen = v.gen)
      ∧ (matched → up 2 → (s.gangOn c).isSome → (s.core c).asleep = false →
        ∃ u, exec (.barrierReleaseToken b shape) s = .next u ∧ u.mem = s.mem ∧ (u.bar c b).gen = v.gen + 1 ∧ (u.bar c b).arrv = 0
          ∧ (u.bar c b).rowin = false ∧ (u.bar c b).colin = false)
      ∧ (∀ e ∈ tokens, up e.2 → ¬ matched → ∃ u, exec e.1 s = .next u ∧ u.mem = s.mem
        ∧ (u.core c).tokens = (s.core c).tokens ++ [{ kind := e.2, b := b, shape := shape }] ∧ u.bar c b = v)
      ∧ (∀ e ∈ tokens, ¬ up e.2 → ∃ u, exec e.1 s = .next u ∧ u.mem = s.mem ∧ u.cores = s.cores ∧ .event (.core c) e.1 ∈ u.agenda))
    ∧ (∀ group gen n r, s.cur = .none → s.groupRec group b = some (n, r) → r.master = s.pkg → s.pkgCount = [] →
      (1 < r.npkg.toNat → exec (.pkgBarrierArrivalMsg group b gen) s = .next { s with pkgCount := [(group, b, gen, 1)] })
      ∧ (r.npkg.toNat ≤ 1 → ∃ u, exec (.pkgBarrierArrivalMsg group b gen) s = .next u ∧ u.pkgCount = []
        ∧ u.outputs = s.outputs ++ [.pkgRelease group b gen] ∧ .event .none (.pkgBarrierReleaseMsg group b gen) ∈ u.agenda))
    ∧ (∀ group gen n r q l, s.cur = .none → s.groupRec group b = some (n, r) → s.launches = [(q, l)] → (descCtx l.desc).toNat = n →
      descGang l.desc = true → l.completed = false → l.at 0 0 = c →
        (v.valid = true → v.niGen = gen → (s.gangOn c).isSome → (s.core c).asleep = false →
          ∃ u, exec (.pkgBarrierReleaseMsg group b gen) s = .next u ∧ (u.bar c b).gen = v.gen + 1 ∧ (u.bar c b).arrv = 0)
        ∧ ((s.gangOn c) = none → l.preempted = true →
          exec (.pkgBarrierReleaseMsg group b gen) s = .next { s with pkgHeld := insertOnce s.pkgHeld (BitVec.ofNat 12 n, b, gen) }))

/-- R124, R208, R209, R210: YIELD parks the slot for the turns asked, and its expiry makes it ready; WAITD goes on once its counter is at most the bound; LAUNCH reserves a ring entry and notes its record for the grant, and waits for a full ring; SLOTCTL reads a slot-table entry, or stops a slot and waits until it has ended (one with nothing of its own left to commit becomes DONE at once, its VPROG and the MPROGs it left BUSY cleared), but not its own, nor one of a reserved role or of another context. Rests on the model's readings of log entries 72, 106. -/
def Obligations.CooperationInstructions : Prop :=
  ∀ (f : Fields) (s : State) (c : CoreId) (k : SlotId),
    let waits (i : Instr) : Prop := Waits i s s c k
    let y := s.slot c k
    (Issues (.yield f) f 1 s c k → s.chunk.solo = false → ∃ u, exec (.yield f) s = .next u ∧ OnlySlot s u c k ∧ (u.slot c k).regs = s.regs.advance
        ∧ (u.slot c k).park = .yield (s.rot + max ((s.src f.src1).toNat % 65536) 1 + 1))
      ∧ (∀ e, s.cur = .slot c k → y.park = .yield e → e ≤ s.rot → ∃ u, exec .yieldExpiry s = .next u ∧ OnlySlot s u c k
        ∧ u.slot c k = { y with park := .ready } ∧ .turn c k ∈ u.agenda)
      ∧ (∀ q, f.src1 = .dep q → Issues (.waitd f) f 1 s c k →
        ((s.regs.d.get q.toFin).toNat ≤ (s.src f.src2).toNat → Gives (.waitd f) s c k s.regs.advance)
        ∧ ((s.src f.src2).toNat < (s.regs.d.get q.toFin).toNat → waits (.waitd f)))
      ∧ (Issues (.launch f) f 1 s c k →
        let va := s.addrOf f.src1 8
        let q : QueueId := (s.src f.src2).extractLsb' 0 6
        let t : TowerId := (s.src f.src2).extractLsb' 6 2
        let z := s.queue t q
        let full : Prop := 2 ^ max 4 z.logn.toNat ≤ (z.tail - z.head).toNat + z.reserved
        (va.toNat % 128 ≠ 0 → ∃ tr, exec (.launch f) s = .next (s.raise c k tr) ∧ tr.cause = 0x04 ∧ tr.addr = va)
        ∧ (va.toNat % 128 = 0 → z.ctx = s.curCtx → ¬ full → ∃ w, (w.slot c k).chunk.effects = y.chunk.effects ++ [.launch t q va]
          ∧ w.queue t q = { z with reserved := z.reserved + 1 } ∧ w.mem = s.mem ∧ GivesFrom (.launch f) s w c k s.regs.advance)
        ∧ (va.toNat % 128 = 0 → z.ctx = s.curCtx → full → waits (.launch f))
        ∧ (va.toNat % 128 = 0 → z.ctx ≠ s.curCtx →
          ∃ tr, exec (.launch f) s = .next (s.raise c k tr) ∧ tr.cause = 0x07 ∧ tr.addr = va))
      ∧ (∀ d, f.dst = .g d → Issues (.slotctlRd f) f 1 s c k → Gives (.slotctlRd f) s c k (s.regs.putG d
          (BitVec.ofNat 64 ((s.slot c ((s.src f.src1).extractLsb' 0 4)).entry.toNat / (if (s.src f.src1).getLsbD 4 then 2 ^ 64 else 1)))).advance)
      ∧ (Issues (.slotctlStop f) f 1 s c k →
        let k' : SlotId := (s.src f.src1).extractLsb' 0 4
        let y' := s.slot c k'
        let reserved : Prop := (k' = 14 ∨ k' = 15) ∧ (entryCapr y'.entry = true ∨ entryMsgr y'.entry = true)
        let other : Prop := entryState y'.entry ≠ 0 ∧ entryCtx y'.entry ≠ s.curCtx
        (y.stopDone = true → s.chunk.solo = false → ∃ u, exec (.slotctlStop f) s = .next u ∧ OnlySlot s u c k ∧ (u.slot c k).regs = s.regs.advance ∧ (u.slot c k).stopDone = false)
        ∧ (y.stopDone = false →
          (k' = k ∨ reserved → ∃ tr, exec (.slotctlStop f) s = .next (s.raise c k tr) ∧ tr.cause = 0x01)
          ∧ (k' ≠ k → ¬ reserved → other → ∃ tr, exec (.slotctlStop f) s = .next (s.raise c k tr) ∧ tr.cause = 0x07 ∧ tr.addr = s.src f.src1)
          ∧ (k' ≠ k → ¬ reserved → ¬ other → entryState y'.entry ≠ 3 → Gives (.slotctlStop f) s c k s.regs.advance)
          ∧ (k' ≠ k → ¬ reserved → ¬ other → entryState y'.entry = 3 → y'.stopping = true ∨ y'.alone = false → ∃ u, exec (.slotctlStop f) s = .next u
            ∧ (u.slot c k').stopping = true ∧ (u.slot c k').regs = y'.regs ∧ (u.slot c k).regs = s.regs ∧ (u.slot c k).park = .stop k' ∧ u.mem = s.mem)
          ∧ (k' ≠ k → ¬ reserved → ¬ other → entryState y'.entry = 3 → entryCapr y'.entry = false → entryMsgr y'.entry = false → y'.stopping = false → y'.alone = true →
            s.chunk.solo = false → ∃ u, exec (.slotctlStop f) s = .next u ∧ entryState (u.slot c k').entry = 4 ∧ (u.slot c k').regs = { y'.regs with vprog := 0 }
            ∧ (∀ n : BitVec 2, ((s.core c).mprogOf n).getLsbD 31 = true → ((s.core c).mprogOf n).extractLsb' 24 4 = k' → (u.core c).mprogOf n = 0)
            ∧ (u.slot c k).regs = s.regs.advance ∧ u.mem = s.mem)))

/-- R300, R301: IFLUSH alone in its chunk empties the slot's fetch buffer and the instruction cache of the core's cluster; PROBE describes the translation of its address in its result word: bit 0 allowed, 1 to 4 the permissions W, X, U and RP, 7 a copy in the core's L1, 51 to 12 the page, 63 to 56 the cause. Rests on the model's readings of log entries 17, 50, 95. -/
def Obligations.FlushAndProbe : Prop :=
  ∀ (f : Fields) (s : State) (c : CoreId) (k : SlotId),
    (Issues (.iflush f) f 1 s c k → s.isAlone = true → s.chunk.solo = false → ∃ u, exec (.iflush f) s = .next u ∧ (u.slot c k).regs = s.regs.advance ∧ u.mem = s.mem
        ∧ (u.slot c k).fetched = [] ∧ u.icache = s.icache.filter fun e => e.1 != clusterOf c)
      ∧ (∀ d, f.dst = .g d → Issues (.probe f) f 1 s c k →
        let va := s.addrOf f.src1 8
        let kd := probeKind f.mod
        let gives (x : Word) : Prop := Gives (.probe f) s c k (s.regs.putG d x).advance
        (inWindow va = true → gives (BitVec.ofNat 64
          ((if kd = .fetch then 0x070000000000010A else 0x10B) + 2 ^ 12 * ((va.toNat - windowBase) / 4096))))
        ∧ (inWindow va = false → badVa va = true → gives 0x0700000000000000)
        ∧ (inWindow va = false → badVa va = false → s.tlbHits s.curCtx va = [] →
          let stop := s.walkStop s.curDie s.curPtroot va
          (stop = none → (∀ lvl m e, s.walkTop (towerOfDie s.curDie) s.curPtroot va = .absent lvl m e → gives 0x0600000000000000)
            ∧ (∀ lvl e, s.walkTop (towerOfDie s.curDie) s.curPtroot va = .held lvl e → gives 0x0500000000000000)
            ∧ (∀ l, s.walkTop (towerOfDie s.curDie) s.curPtroot va = .leaf l → ∃ x : Word,
              let pa := l.frame + va.toNat % 2 ^ l.size
              GivesFrom (.probe f) s (s.tlbAdd s.tlbPlaces s.curCtx va l) c k (s.regs.putG d x).advance
                ∧ (x.getLsbD 0 = true ↔ x.extractLsb' 56 8 = 0)
                ∧ (x.extractLsb' 56 8 = 0 ↔ ∃ pa, checkLeaf l va kd s.isUser true = .ok pa l)
                ∧ x.getLsbD 1 = l.w ∧ x.getLsbD 2 = l.x ∧ x.getLsbD 3 = l.u ∧ x.getLsbD 4 = l.rp
                ∧ x.getLsbD 7 = (isLocal pa && (s.inL1 c (pa / 64) || (s.core c).speculates (pa / 64)))
                ∧ x.extractLsb' 12 40 = BitVec.ofNat 40 (pa / 4096)))
          ∧ (∀ m, stop = some (m, .reject) → gives 0x0900000000000000)))

/-- R293 to R296: remote instructions with a word inside the launch's rectangle. LSW, LSADD and AMSG without a destination are noted in the chunk for its grant, the 65th deferred update after a cut; LSR and AMSG with a destination, alone, send their message and park the slot until the result comes, which goes to the destination. A word outside it, or a message of a launch without message slots, is a Protection fault at the word, and a misaligned offset a Misaligned one. Rests on the model's readings of log entry 17. -/
def Obligations.RemoteInstructions : Prop :=
  ∀ (f : Fields) (s : State) (c : CoreId) (k : SlotId),
    let w := s.src f.src1
    let v := s.src f.src2
    let l := s.curLaunch
    let y := s.slot c k
    let at_ := l.at (w.toNat / 2 ^ 32 % 32) (w.toNat / 2 ^ 37 % 32)
    let on := l.at (w.toNat % 32) (w.toNat / 32 % 32)
    let off := w.toNat % 2 ^ 19
    let size : BitVec 2 := f.mod.extractLsb' 0 2
    let bytes := if f.mod.getLsbD 0 then 8 else 4
    let inside : Prop := w &&& remoteBad = 0 ∧ w.toNat / 2 ^ 32 % 32 < descW l.desc ∧ w.toNat / 2 ^ 37 % 32 < descH l.desc
    let names : Prop := w &&& messageBad = 0 ∧ w.toNat % 32 < descW l.desc ∧ w.toNat / 32 % 32 < descH l.desc
    let pc := descEntry l.desc + ((w.extractLsb' 32 32).signExtend 64 <<< 2)
    let notes (i : Instr) (d : Deferred) : Prop :=
      (s.chunk.deferredCount < 64 → ∃ t, t.mem = s.mem ∧ (t.slot c k).chunk.effects = y.chunk.effects ++ [d] ∧ GivesFrom i s t c k s.regs.advance)
      ∧ (64 ≤ s.chunk.deferredCount → ∃ u, exec i s = .next u ∧ OnlySlot s u c k ∧ (u.slot c k).regs = s.regs
        ∧ (0 < y.chunk.len → y.canCut = true → (u.slot c k).cut = 0x02 ∧ (u.slot c k).waiting = some y.chunk))
    let sends (i : Instr) (d : BitVec 5) (m : Msg) : Prop := s.isAlone = true → ∃ u, exec i s = .next u ∧ u.mem = s.mem
      ∧ u.slot c k = { y with park := .remote d, chunk := { deadSet := (u.slot c k).chunk.deadSet } } ∧ u.flying = s.flying.put s.nextId { m with id := s.nextId }
      ∧ .event (.item s.nextId) .activeMessageArrival ∈ u.agenda
    let refused (i : Instr) (cause : Byte) : Prop := ∃ tr, exec i s = .next (s.raise c k tr) ∧ tr.cause = cause ∧ tr.addr = w
    (Issues (.lsw f) f 1 s c k →
      (inside → descMsg l.desc = true → off % 2 ^ size.toNat = 0 → notes (.lsw f) (.lsw at_ off size v))
      ∧ (¬ inside ∨ descMsg l.desc = false → refused (.lsw f) 0x07)
      ∧ (inside → descMsg l.desc = true → off % 2 ^ size.toNat ≠ 0 → refused (.lsw f) 0x04))
    ∧ (Issues (.lsadd f) f 1 s c k →
      (inside → off % bytes = 0 → notes (.lsadd f) (.lsadd at_ off size v)) ∧ (¬ inside → refused (.lsadd f) 0x07)
      ∧ (inside → off % bytes ≠ 0 → refused (.lsadd f) 0x04))
    ∧ (∀ d, f.dst = .g d → Issues (.lsr f) f 1 s c k →
      (inside → descMsg l.desc = true → entryMsgr y.entry = false → off % 2 ^ size.toNat = 0 → sends (.lsr f) d
        { id := 0, lsr := true, src := c, srcSlot := k, dst := at_, seq := s.curSeq, pc := BitVec.ofNat 64 off
          arg := BitVec.ofNat 64 (f.mod.toNat % 8), ret := some d })
      ∧ (¬ inside ∨ descMsg l.desc = false ∨ entryMsgr y.entry = true → refused (.lsr f) 0x07)
      ∧ (inside → descMsg l.desc = true → entryMsgr y.entry = false → off % 2 ^ size.toNat ≠ 0 → refused (.lsr f) 0x04))
    ∧ (Issues (.amsg f) f 1 s c k →
      (names → descMsg l.desc = true → f.mod.getLsbD 0 = false → notes (.amsg f) (.amsg
        { id := 0, lsr := false, src := c, srcSlot := k, dst := on, seq := s.curSeq, pc := pc, arg := v, ret := none }))
      ∧ (∀ d, names → descMsg l.desc = true → f.dst = .g d → f.mod.getLsbD 0 = true → entryMsgr y.entry = false → sends (.amsg f) d
        { id := 0, lsr := false, src := c, srcSlot := k, dst := on, seq := s.curSeq, pc := pc, arg := v, ret := some d })
      ∧ (¬ names ∨ descMsg l.desc = false ∨ (f.mod.getLsbD 0 = true ∧ entryMsgr y.entry = true) → refused (.amsg f) 0x07))
    ∧ (∀ d x, y.park = .remote d → y.chunk.deadSet = 0 → OnlySlot s (s.giveResult c k x) c k ∧ .turn c k ∈ (s.giveResult c k x).agenda
      ∧ (s.giveResult c k x).slot c k = { y with regs := (y.regs.putG d x).advance, park := .ready, chunk := {} })

/-- R294, R296, R297, R378: a message enters its target's queue, behind earlier ones of its sender slot, unless a link of its way sleeps or the queue holds 32; the idle message slot is to start the handler at the next rotation boundary, with the argument, the sender's core and slot, and whether a result is awaited, in G0 to G3 and zeros in the other registers; an LSR request is read by the message slot as a chunk of one access, and once that chunk is granted the waiting slot goes on with the value. Rests on the model's readings of log entry 63. -/
def Obligations.MessageEvents : Prop :=
  ∀ (s : State) (c : CoreId) (m : Msg) (l : Launch),
    let x := s.core c
    let way := pathOf m.src m.dst
    (∀ id, s.cur = .item id → s.flying.find id = some m → s.launch m.seq = some l → m.dst = c →
        (s.linksUp way = false → ∃ u, exec .activeMessageArrival s = .next u ∧ u.mem = s.mem ∧ u.cores = s.cores ∧ u.flying = s.flying
          ∧ .event (.item id) .activeMessageArrival ∈ u.agenda
          ∧ ∀ n ∈ way, s.linksAsleep.getLsbD n.toNat = true → s.linksWaking.getLsbD n.toNat = false → .event (.link n) .linkWake ∈ u.agenda)
        ∧ (s.linksUp way = true → (∀ e ∈ s.flying, e.1 < id → ¬ (e.2.src = m.src ∧ e.2.srcSlot = m.srcSlot ∧ e.2.dst = m.dst)) →
          l.aborted = false → l.completed = false → l.preempted = false → x.asleep = false →
          (x.msgs.length < 32 → ∃ u, exec .activeMessageArrival s = .next u ∧ u.mem = s.mem ∧ (u.core c).msgs = x.msgs ++ [m] ∧ u.flying = s.flying.del id
            ∧ .event (.core c) .messageHandlerStart ∈ u.agenda)
          ∧ (32 ≤ x.msgs.length → exec .activeMessageArrival s = .next s)))
      ∧ (s.cur = .core c → s.messageIdle c = some (m, l) → m.lsr = false → x.asleep = false →
        ∃ u, exec .messageHandlerStart s = .next u ∧ u.mem = s.mem ∧ (u.core c).msgs = x.msgs.drop 1 ∧ .event (.slot c 15) .slotDispatch ∈ u.agenda
          ∧ ∃ b : Start, (u.slot c 15) = { s.slot c 15 with starting := some b } ∧ b.msg = some m ∧ b.seq = 0
            ∧ b.regs.pc = m.pc ∧ b.regs.priv = false ∧ b.regs.trapvec = descTrapv l.desc &&& ~~~(3#64) ∧ b.regs.g[0] = m.arg
            ∧ b.regs.g[1] = m.src.setWidth 64 ∧ b.regs.g[2] = m.srcSlot.setWidth 64 ∧ b.regs.g[3] = (if m.ret.isSome then 1 else 0)
            ∧ (∀ i : Fin 32, 4 ≤ i.val → b.regs.g[i] = 0) ∧ b.regs.v = Vector.replicate 16 0 ∧ b.regs.a = Vector.replicate 8 0
            ∧ b.regs.p = Vector.replicate 7 0 ∧ b.regs.fpsr = 0 ∧ b.regs.target = 2048)
      ∧ (s.cur = .core c → s.messageIdle c = some (m, l) → m.lsr = true → x.soleFree (linesOf m.pc.toNat (2 ^ (m.arg.toNat % 4))) →
        let n := 2 ^ (m.arg.toNat % 4)
        let v := x.ls.nat m.pc.toNat n
        ∃ u w, exec .lsrRequestService s = .next u ∧ u.mem = s.mem ∧ (u.core c).ls = x.ls ∧ (u.slot c 15).waiting = some w
          ∧ w.lsR = linesOf m.pc.toNat n ∧ w.len = 1 ∧ w.wr = [] ∧ w.lsW = [] ∧ w.effects = [] ∧ (u.core c).msgs = x.msgs
          ∧ (u.slot c 15).park = .grant (.read m (if m.arg.getLsbD 2 = true ∧ 2 ^ (8 * n - 1) ≤ v then BitVec.ofInt 64 ((v : Int) - 2 ^ (8 * n)) else BitVec.ofNat 64 v))
          ∧ .slot c 15 ∈ u.requests ∧ .event .none .commitGrant ∈ u.agenda)
      ∧ (∀ v d, s.cur = .core c → (s.slot c 15).park = .read m v → s.launch m.seq = some l → l.aborted = false → (s.core m.src).asleep = false →
        let y := s.slot m.src m.srcSlot
        entrySeq y.entry = m.seq → y.park = .remote d → m.ret = some d → y.chunk.deadSet = 0 →
        ∃ u, exec .lsrRequestService s = .next u ∧ u.mem = s.mem ∧ (u.slot c 15).park = .idle ∧ (u.slot m.src m.srcSlot).park = .ready
          ∧ (u.core c).msgs = x.msgs.erase m ∧ .turn m.src m.srcSlot ∈ u.agenda ∧ (u.slot m.src m.srcSlot).regs = (y.regs.putG d v).advance)

/-- R298, R302: CFLUSH, CINV and CWB note the lines of their range for the grant, nothing for an empty one (for a range in one page that the walk of R287 maps to local memory, the lines of its bytes there); a range over 64 MiB or past the end is an Illegal Encoding, one in the local window a Protection fault; TLBINV notes its scope, address and context. Rests on the model's readings of log entry 46. -/
def Obligations.CacheInstructions : Prop :=
  ∀ (f : Fields) (s s' : State) (c : CoreId) (k : SlotId),
    let va := s.addrOf f.src1 8
    let n := (s.src f.src2).toNat
    let notes (i : Instr) (d : Deferred) : Prop := ∃ t, t.mem = s.mem
      ∧ (t.slot c k).chunk.effects = (s.slot c k).chunk.effects ++ [d] ∧ GivesFrom i s t c k s.regs.advance
    (∀ e ∈ [(Instr.cflush f, (0 : BitVec 2)), (.cinv f, 1), (.cwb f, 2)], Issues e.1 f 1 s c k →
        (n = 0 → Gives e.1 s c k s.regs.advance)
        ∧ (2 ^ 26 < n ∨ 2 ^ 64 < va.toNat + n → exec e.1 s = .next (s.raise c k { cause := 0x01, info := 0x20013 }))
        ∧ (0 < n → n ≤ 2 ^ 26 → va.toNat + n ≤ 2 ^ 64 →
          (inWindow va = true → ∃ tr, exec e.1 s = .next (s.raise c k tr) ∧ tr.cause = 0x07 ∧ tr.addr = va)
          ∧ (∀ ls, s.rangeLines va n = .ok (ls, s') → notes e.1 (.flush e.2 ls))
          ∧ (∀ pa, s.maps va n .read pa → notes e.1 (.flush e.2 (linesOf pa n)))))
      ∧ (∀ e ∈ [(Instr.tlbinvVa f, (0 : BitVec 2)), (.tlbinvCtx f, 1), (.tlbinvAll f, 2)], Issues e.1 f 1 s c k →
        notes e.1 (.tlbinv e.2 (s.src f.src1) ((s.src f.src2).setWidth 12)))

/-- R298, R302: the walker of a range flush makes the stack hold a line's committed bytes (CFLUSH, CWB), after which CFLUSH leaves no copy of it in an L1 or LLC, or brings back the bytes that the stack holds and leaves no copy (CINV); while the stack is handed over, or the token's holder bars a change, it waits; its end lets the slot's next chunk be granted. A completed invalidation leaves no covered translation, and waits for a token's holder that used one. Rests on the model's readings of log entry 34. -/
def Obligations.CacheEvents : Prop :=
  ∀ (s : State) (c : CoreId) (k : SlotId),
    (∀ f l ls, s.cur = .slot c k → s.flushes = [f] → f.c = c → f.k = k → f.lines = l :: ls →
      let st := (s.stack (stackOf (64 * l))).st
      let walks (p : State → Prop) : Prop := ∃ u, exec .rangeFlushWalk s = .next u ∧ u.flushes = [{ f with lines := ls }]
        ∧ .event (.slot c k) .rangeFlushWalk ∈ u.agenda ∧ p u
      let uncached (u : State) : Prop := (∀ e ∈ u.l1, l ∉ e.2) ∧ ∀ e ∈ u.llc, l ∉ e.2
      (st = .owned → f.kind = 2 → walks fun u => u.mem = s.mem ∧ u.dirty = s.dirty.del l ∧ u.l1 = s.l1 ∧ u.llc = s.llc)
      ∧ (st = .owned → f.kind = 0 → walks fun u => u.mem = s.mem ∧ u.dirty = s.dirty.del l ∧ uncached u)
      ∧ (∀ d, st = .owned → f.kind = 1 → s.dirty.find l = some d →
        (s.mem.nat (64 * l) 64 ≠ d.old.toNat → s.tokenBars [l] = false →
          walks fun u => u.mem = s.mem.setBytes (64 * l) (leBytes 64 d.old.toNat) ∧ u.dirty.find l = none ∧ uncached u)
        ∧ (s.mem.nat (64 * l) 64 ≠ d.old.toNat → s.tokenBars [l] = true → exec .rangeFlushWalk s = .next (s.postEvent (.slot c k) .rangeFlushWalk))
        ∧ (s.mem.nat (64 * l) 64 = d.old.toNat → walks fun u => u.mem = s.mem ∧ u.dirty = s.dirty.del l ∧ uncached u))
      ∧ (st = .owned → f.kind = 1 → s.dirty.find l = none → walks fun u => u.mem = s.mem ∧ u.dirty = s.dirty ∧ uncached u)
      ∧ (st = .pouring ∨ st = .claiming → exec .rangeFlushWalk s = .next (s.postEvent (.slot c k) .rangeFlushWalk))
      ∧ (st = .fenced → walks fun u => u.mem = s.mem ∧ u.dirty = s.dirty))
    ∧ (∀ f, s.cur = .slot c k → s.flushes = [f] → f.c = c → f.k = k → f.lines = [] →
      ∃ u, exec .rangeFlushWalk s = .next u ∧ u.flushes = [] ∧ u.mem = s.mem ∧ (u.slot c k).holdBack = (s.slot c k).holdBack - 1)
    ∧ (∀ id scope va ctx, s.cur = .item id → s.pendings.find id = some (.tlb c k scope va ctx) → s.token = none →
      ∃ u, exec .tlbInvalidationComplete s = .next u ∧ u.mem = s.mem ∧ u.pendings = s.pendings.del id
        ∧ u.tlb = s.tlb.filter fun e => !e.covered scope va ctx)

/-- R125, R128, R140, R143, R151: the element-wise vector instructions in registers. Each active lane takes the operation on the lanes of its sources, a G, A or immediate source being the same in all of them; a limit that the lane kind sets is an Illegal Encoding with check 0x14. Rests on the model's readings of log entry 41. -/
def Obligations.LaneResults : Prop :=
  ∀ (f : Fields) (s : State) (c : CoreId) (k : SlotId) (d : BitVec 4), f.dst = .v d →
    let value (row : LaneRow) (j : Nat) : Option (Nat × Flags) := some (row.op (s.laneSrc f.src1 row.lane.e j)
      (s.laneSrc f.src2 row.lane.e j) (laneOf (s.getV d) row.lane.e j))
    (∀ row ∈ s.laneTable f, Issues row.instr f (512 / row.lane.e) s c k →
        (row.limit = true → LanesGiven row.instr f s c k d row.lane.e (value row))
        ∧ (row.limit = false → exec row.instr s = .next (s.raise c k { cause := 0x01, info := 0x14 })))
      ∧ (∀ n, f.src2 = .imm n → Issues (.sfx f) f (512 / (modFmt f.mod).width) s c k → LanesGiven (.sfx f) f s c k d (modFmt f.mod).width fun j =>
        some (sfxRes (modFmt f.mod) (modRm f.mod) (immNat f.src2) (s.laneSrc f.src1 (modFmt f.mod).width j)))

/-- R141, R143, R144, R150, R154: vector instructions that move, select, convert or widen lanes: broadcasts, selects by a predicate, shuffles, slides, packs, inserts, ramps, dot products, conversions, planes read back and draws. Rests on the model's readings of log entry 39. -/
def Obligations.LaneMoves : Prop :=
  ∀ (f : Fields) (s : State) (c : CoreId) (k : SlotId) (d : BitVec 4), f.dst = .v d →
    let w := widthOf f.mod
    let n := 512 / w
    let ty := modTy f.mod
    let e := tyWidth ty
    let x := s.laneSrc f.src1
    let y := s.laneSrc f.src2
    let m := s.getP (pNum f.src2)
    let ix := intOf ty (s.src f.src1).toNat
    let iy := intOf ty (s.src f.src2).toNat
    let wrap (t : Nat) (sat : Bool) (v : Int) : Nat × Flags := ((narrow t sat v % 2 ^ tyWidth t).toNat, 0)
    let moves (i : Instr) (e : Nat) (fn : Nat → Option (Nat × Flags)) : Prop :=
      Issues i f (512 / e) s c k → LanesGiven i f s c k d e fn
    moves (.vbcast f) w (fun _ => some ((s.src f.src1).toNat % 2 ^ w, 0))
      ∧ moves (.vsel f) w (fun j => if m.getLsbD j != f.mod.getLsbD 3 then some (x w j, 0) else if f.mod.getLsbD 2 then some (0, 0) else none)
      ∧ moves (.vshuf f) w (fun j => some (x w (y w j % n), 0))
      ∧ moves (.vslide f) w (fun j =>
        let at_ := (j : Int) + (s.src f.src2).toInt
        if 0 ≤ at_ ∧ at_ < n ∨ f.mod.getLsbD 2 = true then some (x w (at_ % n).toNat, 0) else some (0, 0))
      ∧ moves (.vcomp f) w (fun j => some ((((List.range n).filter fun j => m.getLsbD j).map (x w)).getD j 0, 0))
      ∧ moves (.vins f) w (fun j => if j = (s.src f.src2).toNat % n then some ((s.src f.src1).toNat % 2 ^ w, 0) else none)
      ∧ moves (.viota f) e (fun j => some (wrap ty (modSat f.mod) (ix + j * iy)))
      ∧ (e ≤ 16 → moves (.vdot f) (4 * e) (fun j => some (((narrow (ty + 2) (modSat f.mod) (intOf (ty + 2) (laneOf (s.getV d) (4 * e) j)
          + ((List.range 4).map fun i => intOf ty (laneOf (s.getV (vNum f.src1)) e (4 * j + i))
            * intOf ty (laneOf (s.getV (vNum f.src2)) e (4 * j + i))).sum) % 2 ^ (4 * e)).toNat, 0))))
      ∧ (let es := cvtWidth (cvtSrc f.src2)
        let ed := cvtWidth (cvtDst f.src2)
        let part := cvtPart f.src2
        let conv (x : Nat) : Nat × Flags := convert (cvtSrc f.src2) (cvtDst f.src2) f.mod x
        (es ≤ ed → moves (.vcvt f) ed (fun j => some (conv (x es (part * (512 / ed) + j)))))
        ∧ (ed < es → moves (.vcvt f) ed (fun j =>
          if part * (512 / es) ≤ j ∧ j < part * (512 / es) + 512 / es then some (conv (x es (j - part * (512 / es)))) else none)))
      ∧ (let ps := immNat f.src2 % 16
        let pr := if immNat f.src2 / 16 % 16 = 0 then ps else immNat f.src2 / 16 % 16
        moves (.vunpl f) 8 (fun j => some ((planeRead (fun p => fieldNat (s.getV (vNum f.src1)) (256 * (j / 32) + 32 * p) 32) ps pr
          (f.mod.getLsbD 0) (j % 32) % 256).toNat, 0)))
      ∧ (f.mod = 3 → moves (.rngf f) 64 (fun j => some (drawValue true (x 64 j), 0)))
      ∧ (f.mod ≠ 3 → moves (.rngf f) 32 (fun j =>
        if 8 * immNat f.src2 ≤ j ∧ j < 8 * immNat f.src2 + 8 then some (drawValue false (x 64 (j - 8 * immNat f.src2)), 0) else none))

/-- R11, R142, R143, R145, R149, R153, R154: vector instructions whose result is no lane by lane value. VCMP puts the condition of each active lane and its complement into two masks, with bits past the lanes cleared; VEXT reads one lane if its guard bit is set; VRED reduces the active lanes; VPLANE writes a lane's bits into plane words, most significant first, and leaves a half with no active lane; RNGX encrypts counters. -/
def Obligations.LaneSummaries : Prop :=
  ∀ (f : Fields) (s : State) (c : CoreId) (k : SlotId),
    let l := s.kindLane f.mod
    let n := 512 / l.e
    let act (j : Nat) : Bool := (s.guardMask f).getLsbD j
    let quiet (fl : Flags) : Prop := s.regs.fpsr.extractLsb' 8 5 &&& fl = 0
    let ty := modTy f.mod
    let e := tyWidth ty
    let key := s.src f.src2
    (∀ pt pc cond, f.dst = .pp pt pc cond → Issues (.vcmp f) f n s c k → condLimit l cond.toNat = true →
        let r (j : Nat) : Bool × Flags := laneCond l cond.toNat (s.laneSrc f.src1 l.e j) (s.laneSrc f.src2 l.e j)
        let fl := ((List.range n).filter act).foldl (fun (a : Flags) j => a ||| (r j).2) 0
        quiet fl → ∃ t u : Word, Gives (.vcmp f) s c k (((s.regs.flagged fl).putP pt t).putP pc u).advance
          ∧ ∀ j, j < 64 → t.getLsbD j = (decide (j < n) && if act j then (r j).1 else (s.getP pt).getLsbD j)
            ∧ u.getLsbD j = (decide (j < n) && if act j then !(r j).1 else (s.getP pc).getLsbD j))
      ∧ (∀ d, f.dst = .g d → Issues (.vext f) f (512 / e) s c k →
        let j := (s.src f.src2).toNat % (512 / e)
        (act j = true → Gives (.vext f) s c k (s.regs.putG d (extendPat ty (s.laneSrc f.src1 e j))).advance)
        ∧ (act j = false → Gives (.vext f) s c k s.regs.advance))
      ∧ (∀ d, f.dst = .g d → Issues (.vred f) f n s c k → (l.flt = true → immNat f.src2 ≤ 2) →
        let r := reduce l (immNat f.src2) ((List.range n).map fun j => if act j then some (s.laneSrc f.src1 l.e j) else none)
        quiet r.2 → Gives (.vred f) s c k ((s.regs.flagged r.2).putG d (if l.flt then BitVec.ofNat 64 r.1 else extendPat l.ty r.1)).advance)
      ∧ (∀ d, f.dst = .v d → Issues (.vplane f) f 64 s c k →
        let ps := immNat f.src2 % 16
        ps ≤ 8 → ∃ v : VWord, Gives (.vplane f) s c k (s.regs.putV d v).advance ∧ ∀ h, h < 2 →
          ((∀ j, j < 32 → act (32 * h + j) = false) → ∀ b, b < 256 → v.getLsbD (256 * h + b) = (s.getV d).getLsbD (256 * h + b))
          ∧ (∀ j p, j < 32 → act (32 * h + j) = true → p < ps → v.getLsbD (256 * h + 32 * p + j)
            = (planeValue ps (f.mod.getLsbD 3) (laneOf (s.getV (vNum f.src1)) 8 (32 * h + j))).testBit (ps - 1 - p)))
      ∧ (∀ d a, f.dst = .g d → f.src1 = .g a → Issues (.rngx f) f 1 s c k →
        let r := orris key (s.getG (a + 1) ++ s.getG a : BitVec 128)
        Gives (.rngx f) s c k ((s.regs.putG d r.2).putG (d + 1) r.1).advance)
      ∧ (∀ d, f.dst = .v d → Issues (.rngx f) f 4 s c k → ∃ v : VWord, Gives (.rngx f) s c k (s.regs.putV d v).advance
        ∧ ∀ j, j < 4 → v.extractLsb' (128 * j) 128 = if act j then
            (let r := orris key ((s.getV (vNum f.src1)).extractLsb' (128 * j) 128); (r.1 ++ r.2 : BitVec 128))
          else (s.getV d).extractLsb' (128 * j) 128)
      ∧ (∀ d, f.dst = .g d → Issues (.rngf f) f 1 s c k →
        Gives (.rngf f) s c k (s.regs.putG d (BitVec.ofNat 64 (drawValue (f.mod = 3) (s.src f.src1).toNat))).advance)

/-- R146 to R148: vector loads, stores, gathers and scatters. Each active lane has its address; once all of them have been read, or written, the destination's lanes hold the values, and an A register is updated by the addressing mode. A row that is not aligned, or that crosses an end of the window, faults. In the window of the local store, with aligned lanes, no update pending on their granules, no poison there and no chunk of another slot, they complete: lanes are read from the local store, or written there in ascending order, and no byte of memory changes. -/
def Obligations.VectorMemory : Prop :=
  ∀ (f : Fields) (s t : State) (c : CoreId) (k : SlotId),
    let w := widthOf f.mod
    let n := w / 8
    let lanes := (List.range (512 / w)).filter fun j => (s.guardMask f).getLsbD j
    let row (a : Word) : List (Nat × Word) := lanes.map fun j => (j, a + BitVec.ofNat 64 (j * n))
    let index (o : Operand) (j : Nat) : Int := (BitVec.ofNat w (s.laneSrc o w j)).toInt
    let spread (a : Word) (o : Operand) : List (Nat × Word) := lanes.map fun j => (j, a + BitVec.ofInt 64 (index o j * n))
    let put (v : VWord) (xs : List (Nat × Nat)) : VWord := xs.foldl (fun v x => putLane v w x.1 x.2) v
    let stops (i : Instr) (a : Word) (kd : Kind) : Prop :=
      (a.toNat % n ≠ 0 → exec i s = .next (s.raise c k { cause := 0x04, addr := a, info := BitVec.ofNat 64 (Nat.log2 n) }))
      ∧ (a.toNat % n = 0 → crossesWindow a = true → exec i s = .next (s.raise c k (protTrap kd s.isUser true a 0)))
    let ls := (s.core c).ls
    let local_ (x : Nat → Word) (o : Nat → Nat) : Prop := s.chunk.solo = false ∧ s.soleChunk c k ∧ (s.core c).undoCount + 64 ≤ 204
      ∧ ∀ j ∈ lanes, x j = BitVec.ofNat 64 (windowBase + o j) ∧ o j % n = 0 ∧ o j + n ≤ 0x80000
        ∧ (s.slot c k).chunk.updateOn c [o j / 64] = false ∧ o j / 64 ∉ (s.core c).lsPoison
    let reads (o : Nat → Nat) : List (Nat × Nat) := lanes.map fun j => (j, ls.nat (o j) n)
    let gets (i : Instr) (r : Regs) : Prop := ∃ u, exec i s = .next u ∧ (u.core c).ls = ls ∧ u.mem = s.mem ∧ (u.slot c k).regs = r
    let puts (i : Instr) (o : Nat → Nat) (v : Nat → Nat) (r : Regs) : Prop := ∃ u, exec i s = .next u ∧ u.mem = s.mem ∧ (u.slot c k).regs = r
      ∧ (u.core c).ls = lanes.foldl (fun m j => m.setBytes (o j) (leBytes n (v j))) ls
    (∀ d o, f.dst = .v d →
      (Issues (.vld f) f (512 / w) s c k → let a := s.addrOf f.src1 64
        a.toNat % n = 0 → crossesWindow a = false → local_ (fun j => a + BitVec.ofNat 64 (j * n)) o →
          gets (.vld f) (((s.regs.putV d (put (s.getV d) (reads o))).updated f.src1 64).advance))
      ∧ (∀ b, f.src2 = .v b → Issues (.vgath f) f (512 / w) s c k →
        local_ (fun j => s.addrOf f.src1 0 + BitVec.ofInt 64 (index f.src2 j * n)) o →
          gets (.vgath f) (s.regs.putV d (put (s.getV d) (reads o))).advance))
    ∧ (∀ o, (Issues (.vst f) f (512 / w) s c k → let a := s.addrOf f.dst 64
        a.toNat % n = 0 → crossesWindow a = false → local_ (fun j => a + BitVec.ofNat 64 (j * n)) o →
          puts (.vst f) o (s.laneSrc f.src1 w) (s.regs.updated f.dst 64).advance)
      ∧ (∀ b, f.src1 = .v b → Issues (.vscat f) f (512 / w) s c k →
        local_ (fun j => s.addrOf f.dst 0 + BitVec.ofInt 64 (index f.src1 j * n)) o →
          puts (.vscat f) o (s.laneSrc f.src2 w) s.regs.advance))
    ∧ (t.cur = s.cur →
      (Issues (.vld f) f (512 / w) s c k →
        let a := s.addrOf f.src1 64
        stops (.vld f) a .read ∧ ∀ xs d, f.dst = .v d → a.toNat % n = 0 → crossesWindow a = false → s.loadLanes (row a) n = .ok (xs, t) →
          GivesFrom (.vld f) s t c k (((t.regs.putV d (put (t.getV d) xs)).updated f.src1 64).advance))
      ∧ (Issues (.vst f) f (512 / w) s c k →
        let a := s.addrOf f.dst 64
        stops (.vst f) a .write ∧ (a.toNat % n = 0 → crossesWindow a = false → s.storeLanes (row a) n (s.laneSrc f.src1 w) = .ok ((), t) →
          GivesFrom (.vst f) s t c k ((t.regs.updated f.dst 64).advance)))
      ∧ (∀ xs d b, f.dst = .v d → f.src2 = .v b → Issues (.vgath f) f (512 / w) s c k → s.loadLanes (spread (s.addrOf f.src1 0) f.src2) n = .ok (xs, t) →
        GivesFrom (.vgath f) s t c k (t.regs.putV d (put (t.getV d) xs)).advance)
      ∧ (∀ b, f.src1 = .v b → Issues (.vscat f) f (512 / w) s c k → s.storeLanes (spread (s.addrOf f.dst 0) f.src1) n (s.laneSrc f.src2 w) = .ok ((), t) →
        GivesFrom (.vscat f) s t c k t.regs.advance))

/-- R130, R132 to R137, R138, R139: vector instructions over forms. A form register without a valid record, and the checks of a first step, are Illegal Encodings; a limit on VKIND is met where an element is active; an empty destination, or a step past the last, completes; else one step reads its elements, writes them, and leaves VPROG at the next step, or ends the instruction with VPROG 0. FSET loads a record and FADJ changes one, both only to a valid one; FGET reads one. Rests on the model's readings of log entries 22, 36, 38. -/
def Obligations.FormInstructions : Prop :=
  ∀ (f : Fields) (s s1 s2 : State) (c : CoreId) (k : SlotId),
    let stops (i : Instr) (check n : Nat) : Prop := exec i s = .next (s.raise c k { cause := 0x01, info := BitVec.ofNat 64 (check + 256 * n) })
    let turns (i : Instr) (checks : Option Nat) (r : FormRun) : Prop :=
      let t := s.vprogStep (opcOf i)
      let first : Prop := t = 0
      let total := if r.staged then 1 else r.total
      (∀ n, first → checks = some n → stops i 0x11 n)
      ∧ (∀ n, first → checks = none → r.check = some n → stops i 0x11 n)
      ∧ (¬ first ∨ checks = none ∧ r.check = none →
        (formEmpty r.dst = true ∨ total ≤ t → Gives i s c k ({ s.regs with vprog := 0 } : Regs).advance)
        ∧ (formEmpty r.dst = false → s.takeWatches ((r.srcs.filter fun x => !formLsp x && !formEmpty x).map footprint) = .ok ((), s1) →
          r.effect (if r.staged then 0 else t) (if r.staged then r.total else 1) s1 = .ok ((), s2) → s2.cur = s.cur →
            (t + 1 < total → GivesFrom i s s2 c k { s2.regs with vprog := mkProg (t + 1) (opcOf i) 0 })
            ∧ (t + 1 = total → GivesFrom i s s2 c k ({ s2.regs with vprog := 0 } : Regs).advance)))
    let off := (s.addrOf f.src1 64).toNat
    ((∃ d, f.dst = .f d) →
      (∀ row ∈ s.laneTable f, Issues row.instr f (512 / row.lane.e) s c k →
        (∀ n, .f n ∈ [f.dst, f.src1, f.src2] → s.regs.forms.get n.toFin = none → stops row.instr 0x11 1)
        ∧ ∀ rs, s.formsOf [f.dst, f.src1, f.src2] = .ok (rs, s) →
          let limited : Prop := row.limit = false ∧ s.anyElem f (rs.headD 0) (512 / row.lane.e) = true
          (limited → stops row.instr 0x14 0) ∧ (¬ limited → turns row.instr
            (formChecks rs (wiseFmt (opcOf row.instr) row.lane row.exact rs) (sameExt rs))
            (wiseRun (opcOf row.instr) f row.lane row.old (fun _ => row.op) rs)))
      ∧ (∀ rs, Issues (.vred f) f (512 / (s.kindLane f.mod).e) s c k → s.formsOf [f.dst, f.src1] = .ok (rs, s) →
        ((s.kindLane f.mod).flt = true → immNat f.src2 ≤ 2) ∨ formEmpty (rs.headD 0) = true ∨ s.anyElem f ((rs[1]?).getD 0) (s.kindLane f.mod).count = false →
          turns (.vred f) (formChecks rs (rs.all ((s.kindLane f.mod).matches true)) (redExt rs)) (redRun f (s.kindLane f.mod) rs))
      ∧ (∀ rs, let w := max (cvtWidth (cvtSrc f.src2)) (cvtWidth (cvtDst f.src2))
        Issues (.vcvt f) f (512 / w) s c k → s.formsOf [f.dst, f.src1, .none] = .ok (rs, s) →
          turns (.vcvt f) (formChecks rs (cvtForms f rs) (sameExt rs))
            (wiseRun 0x92 { f with src2 := .none } ⟨w, false, 0, f16, 0, false⟩ false (cvtOp f) rs))
      ∧ (∀ rs n, f.src2 = .imm n → Issues (.sfx f) f (512 / (modFmt f.mod).width) s c k → s.formsOf [f.dst, f.src1, .none] = .ok (rs, s) →
        turns (.sfx f) (formChecks rs (wiseFmt 0xA4 (.fp f.mod) true rs) (sameExt rs))
          (wiseRun 0xA4 { f with src2 := .none } (.fp f.mod) false (fun l x _ _ => sfxRes l.t l.rm (immNat f.src2) x) rs)))
    ∧ (∀ d bs, f.dst = .f d → Issues (.fset f) f 1 s c k → off % 64 = 0 → off < 0x80000 → s.readLs c off 64 = .ok (bs, s1) → s1.cur = s.cur →
      let r : VWord := BitVec.ofNat 512 (leNat bs)
      (formCheck r = none → GivesFrom (.fset f) s s1 c k
        ((({ s1.regs with forms := s1.regs.forms.set d.toNat (some r) d.isLt } : Regs).updated f.src1 64).advance))
      ∧ (∀ n, formCheck r = some n → exec (.fset f) s = .next (s1.raise c k { cause := 0x01, info := BitVec.ofNat 64 (0x10 + 256 * n) })))
    ∧ (∀ n r, f.src1 = .f n → s.regs.forms.get n.toFin = some r → Issues (.fget f) f 1 s c k →
      (∀ d, f.dst = .g d → Gives (.fget f) s c k (s.regs.putG d (r.extractLsb' (64 * immNat f.src2) 64)).advance)
      ∧ (∀ a m o, f.dst = .mem a m o → (s.addrOf f.dst 64).toNat % 64 = 0 → (s.addrOf f.dst 64).toNat < 0x80000 →
        s.writeLs c (s.addrOf f.dst 64).toNat (leBytes 64 r.toNat) = .ok ((), s1) → s1.cur = s.cur →
          GivesFrom (.fget f) s s1 c k ((s1.regs.updated f.dst 64).advance)))
    ∧ (∀ n r, f.dst = .f n → s.regs.forms.get n.toFin = some r → Issues (.fadj f) f 1 s c k →
      let r' := adjust r f.mod.toNat (s.src f.src1)
      (formCheck r' = none → Gives (.fadj f) s c k ({ s.regs with forms := s.regs.forms.set n.toNat (some r') n.isLt } : Regs).advance)
      ∧ (∀ m, formCheck r' = some m → stops (.fadj f) 0x10 m))

/-- R159 to R174: the matrix unit. A long tile instruction waits for another slot's progress in its tile, begins at its own step in MPROG, does one step as a whole, and leaves MPROG at the next step, or at 0 at its end; at its first step, forms that are empty end it at once, and forms that fail its checks are Illegal Encodings. Elements written are exactly those that the step gives. MZERO clears a tile and MSCL scales one in one step. With nothing else at work in the local store, steps on operands there complete, with the elements, words and progress stated. Rests on the model's readings of log entries 44, 45. -/
def Obligations.MatrixInstructions : Prop :=
  ∀ (f : Fields) (s s1 s2 : State) (c : CoreId) (k : SlotId),
    let checked (i : Instr) (first : Bool) (rs : List VWord) (fmtOk extOk : Bool) (go : Prop) : Prop :=
      (∀ n, first = true → matrixCheck rs fmtOk extOk = some (some n) →
        exec i s = .next (s.raise c k { cause := 0x01, info := BitVec.ofNat 64 (0x11 + 256 * n) }))
      ∧ (first = true → matrixCheck rs fmtOk extOk = some none → Gives i s c k s.regs.advance)
      ∧ (first = false ∨ matrixCheck rs fmtOk extOk = none → go)
    let busy (n : BitVec 2) : Prop := ((s.core c).progs n).any (fun v => progBusy v && progSlot v != k.toNat) = true
    let waits (i : Instr) : Prop := Waits i s s c k
    let steps (i : Instr) (n : BitVec 2) (total : Nat) (reads : List (BitVec 2)) (regions : List (Int × Int))
        (body : Nat → State → Res Unit) (upd : Regs → Regs) : Prop :=
      let v := (s.core c).mprogOf n
      let t := if progBusy v && progOpc v == opcOf i then progStep v else 0
      (busy n → waits i)
      ∧ (¬ busy n → total ≤ t → s.touchTile n true = .ok ((), s1) → s1.cur = s.cur →
        GivesFrom i s (s1.setMprog n 0) c k (upd s1.regs).advance)
      ∧ (¬ busy n → t < total → s.takeWatches regions = .ok ((), s1) → tileRun reads n (body t) s1 = .ok ((), s2) → s2.cur = s.cur →
        (t + 1 < total → GivesFrom i s (s2.setMprog n (mkProg (t + 1) (opcOf i) k.toNat)) c k s2.regs)
        ∧ (t + 1 = total → GivesFrom i s (s2.setMprog n 0) c k (upd s2.regs).advance))
    (∀ d, f.dst = .tile d → Issues (.mma f) f 1 s c k → ∀ a b, s.formsOf [f.src1, f.src2] = .ok ([a, b], s) →
        checked (.mma f) (s.tileFirst d 0xB1) [a, b] (formBn a && formBn b) (mmaExt [a, b])
          (steps (.mma f) d ((formE a 0 + 31) / 32) [d] (matrixRegions a ++ matrixRegions b) (mmaStep d a b) id))
      ∧ (∀ d, f.dst = .tile d → Issues (.mld f) f 1 s c k → ∀ r, s.formsOf [f.src1] = .ok ([r], s) →
        checked (.mld f) (s.tileFirst d 0xB2) [r] (tileFmt r) (tileExt r) (steps (.mld f) d (formE r 1) [] (matrixRegions r) (mldStep d r) id))
      ∧ (∀ n, f.src1 = .tile n → Issues (.mst f) f 1 s c k → ∀ r, s.formsOf [f.dst] = .ok ([r], s) →
        checked (.mst f) (s.tileFirst n 0xB3) [r] (tileFmt r && (f.mod.toNat / 4 == 0 || formFmt r == 0x10 || formFmt r == 0x11)) (tileExt r)
          (steps (.mst f) n (formE r 1) [n] [] (mstStep n r (f.mod.toNat / 4)) id))
      ∧ (∀ d n, f.dst = .tile d → f.src1 = .tile n → Issues (.mmov f) f 1 s c k →
        steps (.mmov f) d 1 [n] [] (tileCopy d n (f.mod.getLsbD 0)) id)
      ∧ (∀ d a m o, f.dst = .tile d → f.src1 = .mem a m o → Issues (.mmov f) f 1 s c k → let va := s.addrOf f.src1 16384
        steps (.mmov f) d 64 [] (imageRegion va) (imageLoad d va) (·.updated f.src1 16384))
      ∧ (∀ n a m o, f.dst = .mem a m o → f.src1 = .tile n → Issues (.mmov f) f 1 s c k → let va := s.addrOf f.dst 16384
        steps (.mmov f) n 64 [n] [] (imageStore n va) (·.updated f.dst 16384))
      ∧ (∀ d, f.dst = .tile d → Issues (.mzero f) f 1 s c k → (busy d → waits (.mzero f)) ∧ (¬ busy d → s.touchTile d true = .ok ((), s1) → s1.cur = s.cur →
        GivesFrom (.mzero f) s ((s1.setTile d []).setMprog d 0) c k s1.regs.advance))
      ∧ (∀ d, f.dst = .tile d → Issues (.mscl f) f 1 s c k → ∀ rs, s.formsOf [f.src2] = .ok (rs, s) →
        checked (.mscl f) true rs (rs.all fun r => formFmt r == 0x12) (msclExt rs) ((busy d → waits (.mscl f))
          ∧ (¬ busy d → s.takeWatches (rs.flatMap matrixRegions) = .ok ((), s1) → msclRun f s1 = .ok ((), s2) → s2.cur = s.cur →
            GivesFrom (.mscl f) s s2 c k s2.regs.advance)))
      ∧ (∀ n fn, s.cur = .slot c k → s.writeTile n (mapTile (s.tileOf n) fn) = .ok ((), s2) → s2.mem = s.mem ∧ ∀ i j, i < 64 → j < 64 →
        tileElem (s2.tileOf n) (64 * i + j) = (match fn i j with
          | some v => BitVec.ofNat 32 v.1
          | none => tileElem (s.tileOf n) (64 * i + j)))
      ∧ (s.calm c k 128 →
        let ls := (s.core c).ls
        let old (n : BitVec 2) (i j : Nat) : BitVec 32 := tileElem ((s.core c).tile n) (64 * i + j)
        let at_ (n : BitVec 2) (opc : Nat) : Nat := let v := (s.core c).mprogOf n
          if progBusy v && progOpc v == opc then progStep v else 0
        let next (t total opc : Nat) : BitVec 32 := if t + 1 < total then mkProg (t + 1) opc k.toNat else 0
        let inside (a : Int) : Prop := 0 ≤ a ∧ a + 4 ≤ 0x80000
        let quiet : Prop := s.regs.fpsr.extractLsb' 8 5 = 0
        let did (i : Instr) (n : BitVec 2) (v : BitVec 32) (r : Regs) (el : Nat → Nat → BitVec 32) : Prop :=
          ∃ u, exec i s = .next u ∧ u.mem = s.mem ∧ (u.core c).ls = ls ∧ (u.core c).mprogOf n = v ∧ (u.slot c k).regs = r
            ∧ (∀ m, m ≠ n → (u.core c).tile m = (s.core c).tile m)
            ∧ ∀ a b, a < 64 → b < 64 → tileElem ((u.core c).tile n) (64 * a + b) = el a b
        let stored (i : Instr) (n : BitVec 2) (v : BitVec 32) (r : Regs) (places : List Nat) (last : Nat × BitVec 32) : Prop :=
          ∃ u, exec i s = .next u ∧ u.mem = s.mem ∧ (u.core c).tiles = (s.core c).tiles ∧ (u.core c).mprogOf n = v ∧ (u.slot c k).regs = r
            ∧ (u.core c).ls.nat last.1 4 = last.2.toNat ∧ ∀ a, (∀ p ∈ places, a < p ∨ p + 4 ≤ a) → (u.core c).ls.byte a = ls.byte a
        (∀ d, f.dst = .tile d → Issues (.mzero f) f 1 s c k → ¬ busy d → did (.mzero f) d 0 s.regs.advance fun _ _ => 0)
        ∧ (∀ d n, f.dst = .tile d → f.src1 = .tile n → Issues (.mmov f) f 1 s c k → ¬ busy d → progBusy ((s.core c).mprogOf d) = false →
          did (.mmov f) d 0 s.regs.advance fun i j => if f.mod.getLsbD 0 then old n j i else old n i j)
        ∧ (∀ d a m o w, f.dst = .tile d → f.src1 = .mem a m o → s.addrOf f.src1 16384 = BitVec.ofNat 64 (windowBase + w) → w % 64 = 0 →
          w + 16384 ≤ 0x80000 → Issues (.mmov f) f 1 s c k → ¬ busy d → let t := at_ d 0xB4
          t < 64 → did (.mmov f) d (next t 64 0xB4) (if t + 1 < 64 then s.regs else (s.regs.updated f.src1 16384).advance)
            fun i j => if i = t then BitVec.ofNat 32 (ls.nat (w + 256 * i + 4 * j) 4) else old d i j)
        ∧ (∀ n a m o w, f.dst = .mem a m o → f.src1 = .tile n → s.addrOf f.dst 16384 = BitVec.ofNat 64 (windowBase + w) → w % 64 = 0 →
          w + 16384 ≤ 0x80000 → Issues (.mmov f) f 1 s c k → ¬ busy n → let t := at_ n 0xB4
          t < 64 → stored (.mmov f) n (next t 64 0xB4) (if t + 1 < 64 then s.regs else (s.regs.updated f.dst 16384).advance)
            ((List.range 64).map fun j => w + 256 * t + 4 * j) (w + 256 * t + 4 * 63, old n t 63))
        ∧ (∀ d r, f.dst = .tile d → Issues (.mld f) f 1 s c k → s.formsOf [f.src1] = .ok ([r], s) → formLsp r = true → formFmt r = 0x12 →
          matrixCheck [r] (tileFmt r) (tileExt r) = none → ¬ busy d → let t := at_ d 0xB2
          t < formE r 1 → (∀ i0, i0 < formE r 0 → inside (formAddr r i0 t 0 0)) →
            did (.mld f) d (next t (formE r 1) 0xB2) (if t + 1 < formE r 1 then s.regs else s.regs.advance) fun i j =>
              let i0 := if formCmj r then i else j
              if (if formCmj r then j else i) = t ∧ i0 < formE r 0 then BitVec.ofNat 32 (ls.nat (formAddr r i0 t 0 0).toNat 4) else old d i j)
        ∧ (∀ n r, f.src1 = .tile n → Issues (.mst f) f 1 s c k → s.formsOf [f.dst] = .ok ([r], s) → formLsp r = true → formFmt r = 0x12 →
          f.mod.toNat / 4 = 0 → matrixCheck [r] (tileFmt r) (tileExt r) = none → ¬ busy n → let t := at_ n 0xB3
          t < formE r 1 → (∀ i0, i0 < formE r 0 → inside (formAddr r i0 t 0 0)) → let last := formE r 0 - 1
            stored (.mst f) n (next t (formE r 1) 0xB3) (if t + 1 < formE r 1 then s.regs else s.regs.advance)
              ((List.range (formE r 0)).map fun i0 => (formAddr r i0 t 0 0).toNat)
              ((formAddr r last t 0 0).toNat, if formCmj r then old n last t else old n t last))
        ∧ (∀ d n q, f.dst = .tile d → f.src1 = .tile n → f.src2 = .g q → Issues (.mscl f) f 1 s c k → ¬ busy d → quiet →
          ∃ fl, did (.mscl f) d ((s.core c).mprogOf d) (s.regs.flagged fl).advance fun i j =>
            BitVec.ofNat 32 (fpMul f32 (f.mod.toNat / 4) (old n i j).toNat ((s.src f.src2).toNat % 2 ^ 32)).1)
        ∧ (∀ d a b, f.dst = .tile d → Issues (.mma f) f 1 s c k → s.formsOf [f.src1, f.src2] = .ok ([a, b], s) →
          (∀ r ∈ [a, b], formLsp r = true ∧ formSls r = true) → matrixCheck [a, b] (formBn a && formBn b) (mmaExt [a, b]) = none →
          ¬ busy d → quiet → let t := at_ d 0xB1
          let total := (formE a 0 + 31) / 32
          let word (r : VWord) (i p : Nat) : Int := formAddr r t i 0 0 + 4 * p
          let scale (r : VWord) (i : Nat) : Int := formScale r + 4 * formOff r t i 0 0
          let block (r : VWord) (i : Nat) : List Int × Scale :=
            (blockValues r (fun p => if p < formPr r then ls.nat (word r i p).toNat 4 else 0) (min 32 (formE a 0 - 32 * t)), scaleOf (ls.nat (scale r i).toNat 4))
          t < total → (∀ r ∈ [a, b], ∀ i, i < formE r 1 → inside (scale r i) ∧ ∀ p, p < formPr r → inside (word r i p)) →
            ∃ fl, did (.mma f) d (next t total 0xB1) (if t + 1 < total then s.regs.flagged fl else (s.regs.flagged fl).advance) fun i j =>
              if i < formE a 1 ∧ j < formE b 1 then (match blockStep (old d i j).toNat (block a i) (block b j) with
                | some v => BitVec.ofNat 32 v.1
                | none => old d i j) else old d i j))

/-- R59 to R63, R175 to R181: Absolute records. The order of additions does not matter; an integer or a value of a format adds exactly its multiple of 2^-149. XACC and XADD note a pending delta in the chunk and leave the record as it is; XCLR writes 64 zero bytes; XRND rounds a record, its flags as R62 states; XGET gives a word of it or stores it. With nothing else at work in the local store, all of them complete. Rests on the model's readings of log entry 43. -/
def Obligations.Accumulators : Prop :=
  ∀ (f : Fields) (s s1 s2 : State) (c : CoreId) (k : SlotId),
    let tgt := s.absOff f.dst
    let ty := f.mod.toNat % 4
    let l := 512 / absWidth ty
    let adds (i : Instr) (d : VWord) : Prop := s.addDelta tgt d = .ok ((), s2) → s2.cur = s.cur → GivesFrom i s s2 c k s2.regs.advance
    let reads (i : Instr) (go : VWord → Prop) : Prop := Issues i f 1 s c k →
      ∀ bs, s.readLs c (s.absOff f.src1) 64 = .ok (bs, s1) → s1.cur = s.cur → go (BitVec.ofNat 512 (leNat bs))
    (∀ ds ds' : List VWord, ds.Perm ds' → ds.foldl absMerge 0 = ds'.foldl absMerge 0)
    ∧ (∀ x, (absValue (absOf 2 x) : Int) = intOf 3 x * 2 ^ 149 % 2 ^ 384 ∧ absStatus (absOf 2 x) = 0 ∧ absCount (absOf 2 x) = 1)
    ∧ (∀ x n m e, unpack f32 x = .fin n m e →
      (absValue (absOf 0 x) : Int) = (if n then -1 else 1) * (m * 2 ^ (e + 149).toNat) % 2 ^ 384 ∧ absStatus (absOf 0 x) = 0 ∧ absCount (absOf 0 x) = 1)
    ∧ (∀ d, s.cur = .slot c k → s.soleChunk c k → s.chunk.remoteOn c [tgt / 64] = false → (s.chunk.deltas.find tgt).isSome = true ∨ s.chunk.deltas.length < 4 →
      ∃ u, s.addDelta tgt d = .ok ((), u) ∧ u.cur = s.cur ∧ u.mem = s.mem ∧ (u.core c).ls = (s.core c).ls ∧ u.regs = s.regs
        ∧ u.chunk.deltas = s.chunk.deltas.put tgt (absMerge (s.chunk.deltas.look 0 tgt) d))
    ∧ (Issues (.xclr f) f 1 s c k → s.writeLs c tgt (leBytes 64 0) = .ok ((), s2) → s2.cur = s.cur → GivesFrom (.xclr f) s s2 c k s2.regs.advance)
    ∧ (∀ n, f.src1 = .g n → Issues (.xacc f) f 1 s c k → adds (.xacc f) (absOf ty ((s.getG n).toNat % 2 ^ absWidth ty)))
    ∧ (∀ n, f.src1 = .v n → Issues (.xacc f) f l s c k → adds (.xacc f)
      ((((List.range l).filter fun j => (s.guardMask f).getLsbD j).map fun j => absOf ty (laneOf (s.getV n) (absWidth ty) j)).foldl absMerge 0))
    ∧ (∀ n r, f.src1 = .f n → s.formsOf [f.src1] = .ok ([r], s) → Issues (.xacc f) f l s c k →
      let total := formSteps r l
      let steps := min total 65536
      let t := s.vprogStep 0xB6
      (∀ n, t = 0 → matrixCheck [r] (formFmt r == absFmt ty) true = some (some n) →
        exec (.xacc f) s = .next (s.raise c k { cause := 0x01, info := BitVec.ofNat 64 (0x11 + 256 * n) }))
      ∧ (t = 0 → matrixCheck [r] (formFmt r == absFmt ty) true = some none → Gives (.xacc f) s c k s.regs.advance)
      ∧ (t ≠ 0 ∨ matrixCheck [r] (formFmt r == absFmt ty) true = none →
        (steps ≤ t → Gives (.xacc f) s c k ({ s.regs with vprog := 0 } : Regs).advance)
        ∧ (t < steps → s.takeWatches (if formLsp r then [] else [footprint r]) = .ok ((), s1) → xaccRun f r l total t s1 = .ok ((), s2) →
          s2.cur = s.cur → (t + 1 < steps → GivesFrom (.xacc f) s s2 c k { s2.regs with vprog := mkProg (t + 1) 0xB6 0 })
            ∧ (t + 1 = steps → GivesFrom (.xacc f) s s2 c k ({ s2.regs with vprog := 0 } : Regs).advance))))
    ∧ (∀ n, f.src1 = .abs n → reads (.xadd f) fun r => s1.addDelta (s1.absOff f.dst) (mkAbs (absValue r) (absStatus r) (absCount r)) = .ok ((), s2) →
      s2.cur = s.cur → GivesFrom (.xadd f) s s2 c k s2.regs.advance)
    ∧ (∀ a m o w bs, f.src1 = .mem a m o → Issues (.xadd f) f 1 s c k → s.recordAddr f.src1 .read = .ok (w, s) → s.readRecord w = .ok (bs, s1) →
      let r : VWord := BitVec.ofNat 512 (leNat bs)
      s1.addDelta (s1.absOff f.dst) (mkAbs (absValue r) (absStatus r) (absCount r)) = .ok ((), s2) → s2.cur = s.cur →
        GivesFrom (.xadd f) s s2 c k (s2.regs.updated f.src1 64).advance)
    ∧ (∀ d, f.dst = .g d → reads (.xrnd f) fun r =>
      let x := absRound (modFmt f.mod) (modRm f.mod) r
      (s1.regs.fpsr.extractLsb' 8 5 &&& x.2 = 0 → GivesFrom (.xrnd f) s s1 c k ((s1.regs.flagged x.2).putG d (BitVec.ofNat 64 x.1)).advance)
      ∧ (s1.regs.fpsr.extractLsb' 8 5 &&& x.2 ≠ 0 →
        exec (.xrnd f) s = .next ((s1.sticky x.2).raise c k { cause := 0x0D, info := x.2.setWidth 64 })))
    ∧ (∀ d, f.dst = .g d → reads (.xget f) fun r => GivesFrom (.xget f) s s1 c k (s1.regs.putG d (r.extractLsb' (64 * immNat f.src2) 64)).advance)
    ∧ (∀ a m o w bs, f.dst = .mem a m o → Issues (.xget f) f 1 s c k → s.recordAddr f.dst .write = .ok (w, s) →
      s.readLs c (s.absOff f.src1) 64 = .ok (bs, s1) → s1.writeElem w bs = .ok ((), s2) → s2.cur = s.cur →
        GivesFrom (.xget f) s s2 c k (s2.regs.updated f.dst 64).advance)
    ∧ (s.calm c k 1 →
      let ls := (s.core c).ls
      let rec_ (o : Nat) : VWord := BitVec.ofNat 512 (leNat (ls.bytes o 64))
      let from_ := s.absOff f.src1
      let inStore (o : Operand) (w : Nat) : Prop := s.addrOf o 64 = BitVec.ofNat 64 (windowBase + w) ∧ w % 64 = 0 ∧ w < 0x80000
      let runs (i : Instr) (m : Mem) (r : Regs) : Prop := ∃ u, exec i s = .next u ∧ u.mem = s.mem ∧ (u.core c).ls = m ∧ (u.slot c k).regs = r
      let notes (i : Instr) (d : VWord) (r : Regs) : Prop := (s.chunk.deltas.find tgt).isSome = true ∨ s.chunk.deltas.length < 4 →
        ∃ t, t.mem = s.mem ∧ (t.core c).ls = ls ∧ t.chunk.deltas = s.chunk.deltas.put tgt (absMerge (s.chunk.deltas.look 0 tgt) d) ∧ GivesFrom i s t c k r
      let whole (x : VWord) : VWord := mkAbs (absValue x) (absStatus x) (absCount x)
      (Issues (.xclr f) f 1 s c k → runs (.xclr f) (ls.setBytes tgt (leBytes 64 0)) s.regs.advance)
      ∧ (∀ n, f.src1 = .g n → Issues (.xacc f) f 1 s c k → notes (.xacc f) (absOf ty ((s.getG n).toNat % 2 ^ absWidth ty)) s.regs.advance)
      ∧ (∀ n, f.src1 = .abs n → Issues (.xadd f) f 1 s c k → notes (.xadd f) (whole (rec_ from_)) s.regs.advance)
      ∧ (∀ a m o w, f.src1 = .mem a m o → inStore f.src1 w → Issues (.xadd f) f 1 s c k →
        notes (.xadd f) (whole (rec_ w)) (s.regs.updated f.src1 64).advance)
      ∧ (∀ d, f.dst = .g d → Issues (.xrnd f) f 1 s c k → let x := absRound (modFmt f.mod) (modRm f.mod) (rec_ from_)
        s.regs.fpsr.extractLsb' 8 5 &&& x.2 = 0 → runs (.xrnd f) ls ((s.regs.flagged x.2).putG d (BitVec.ofNat 64 x.1)).advance)
      ∧ (∀ d, f.dst = .g d → Issues (.xget f) f 1 s c k →
        runs (.xget f) ls (s.regs.putG d ((rec_ from_).extractLsb' (64 * immNat f.src2) 64)).advance)
      ∧ (∀ a m o w, f.dst = .mem a m o → inStore f.dst w → Issues (.xget f) f 1 s c k →
        runs (.xget f) (ls.setBytes w (ls.bytes from_ 64)) (s.regs.updated f.dst 64).advance))

/-- R248, R260 to R270: the capsule instructions. CAPNEW writes a header whose fields are the identifier, the core, the slot, the priority, the launch and the context, and zeros elsewhere; the itinerary instructions change the entries and ILEN; CAPSPLIT writes the rest of the capsule; CAPSEND, CAPINJ, CAPEND and CAPNEXT note a deferred effect, the last two ending the visit with the chunk; CAPGET takes a stranded record. Each misuse is a Capsule trap with its code in CAPSTAT.FCODE. With nothing else at work in the local store, the instructions complete with the bytes stated. Rests on the model's readings of log entry 47. -/
def Obligations.CapsuleInstructions : Prop :=
  ∀ (f : Fields) (s s1 s2 : State) (c : CoreId) (k : SlotId),
    let h := (s.src f.src1).toNat
    let l := s.curLaunch
    let traps (i : Instr) (code : Byte) : Prop := exec i s = .next ((s.setRegs { s.regs with fcode := code }).raise c k
      { cause := 0x0A, info := code.setWidth 64 })
    let ends (i : Instr) (r : Regs) : Prop := s2.cur = s.cur → GivesFrom i s s2 c k r.advance
    let notes (i : Instr) (d : Deferred) : Prop := ∃ t, t.mem = s1.mem
      ∧ (t.slot c k).chunk.effects = (s1.slot c k).chunk.effects ++ [d] ∧ GivesFrom i s t c k s1.regs.advance
    let endsVisit (i : Instr) (d : Deferred) : Prop := let y := s1.slot c k
      s1.cur = s.cur → y.dZero = true → y.waiting = none → y.cutDue = none → y.park = .ready → y.chunk.solo = false → y.awaiting = none →
      ∃ t, exec i s = .next t ∧ OnlySlot s1 t c k ∧ (t.slot c k).regs = y.regs ∧ (t.slot c k).cut = 0x0C ∧ (t.slot c k).park = .grant .stop
        ∧ (t.slot c k).chunk = {} ∧ .slot c k ∈ t.requests ∧ ∃ w, (t.slot c k).waiting = some w ∧ w.effects = y.chunk.effects ++ [d] ∧ w.wr = y.chunk.wr
    let area (a : Nat) (i : Instr) (go : Prop) : Prop :=
      (s.liveBay a = true → traps i 0x58) ∧ (s.liveBay a = false → l.staging a = false → traps i 0x51) ∧ (s.liveBay a = false → l.staging a = true → go)
    let itinerary (i : Instr) (go : BitVec 512 → Nat → Prop) : Prop := Issues i f 1 s c k →
      (s.liveBay h = false → l.staging h = false → traps i 0x51) ∧ ∀ x j, s.itinerary h = .ok ((x, j), s1) → go x j
    (Issues (.capnew f) f 1 s c k → (l.capsOk = false → traps (.capnew f) 0x57) ∧ (l.capsOk = true → area h (.capnew f)
      (∃ x, (∀ e ∈ [(0, 64, (s.src f.src2).toNat), (64, 10, c.toNat), (74, 4, k.toNat), (78, 2, f.mod.toNat % 4), (80, 112, 0), (192, 32, s.curSeq.toNat),
        (224, 12, s.curCtx.toNat), (236, 276, 0)], fieldNat x e.1 e.2.1 = e.2.2) ∧ (s.writeHeader h x = .ok ((), s2) → ends (.capnew f) s2.regs))))
    ∧ itinerary (.cappush f) (fun x _ => (16 ≤ capIlen x → traps (.cappush f) 0x52)
      ∧ (capIlen x < 16 → pushRun h x (s1.pair f.src2) s1 = .ok ((), s2) → ends (.cappush f) s2.regs))
    ∧ itinerary (.caphead f) (fun x j => (16 ≤ capIlen x → traps (.caphead f) 0x52)
      ∧ (capIlen x < 16 → headRun h x j (s1.pair f.src2) s1 = .ok ((), s2) → ends (.caphead f) s2.regs))
    ∧ itinerary (.cappop f) (fun x j => (capIlen x ≤ j → traps (.cappop f) 0x53)
      ∧ (∀ e t, j < capIlen x → s1.readEntry h (capIlen x - 1) = .ok (e, t) → popRun h x t = .ok ((), s2) →
        ends (.cappop f) ((s2.regs.putG (gNum f.dst) (e.extractLsb' 0 64)).putG (gNum f.dst + 1) (e.extractLsb' 64 64))))
    ∧ itinerary (.capset f) (fun x j => (f.mod.toNat < j ∨ capIlen x ≤ f.mod.toNat → traps (.capset f) 0x54)
      ∧ (j ≤ f.mod.toNat → f.mod.toNat < capIlen x → s1.writeEntry h f.mod.toNat (s1.pair f.src2) = .ok ((), s2) → ends (.capset f) s2.regs))
    ∧ (Issues (.capsplit f) f 1 s c k → let d := (s.src f.dst).toNat
      area d (.capsplit f) ((s.liveBay h = false → l.staging h = false → traps (.capsplit f) 0x51)
        ∧ (s.liveBay h = true ∨ l.staging h = true → (d < h + capBytes ∧ h < d + capBytes → traps (.capsplit f) 0x59)
          ∧ (∀ x, ¬ (d < h + capBytes ∧ h < d + capBytes) → s.readHeader h = .ok (x, s1) →
            (capMalformed x = true ∨ s.liveBay h = true ∧ capIlen x ≤ capHead x → traps (.capsplit f) 0x55)
            ∧ (capMalformed x = false → (s.liveBay h = true → capHead x < capIlen x) →
              let n := if s.liveBay h then capHead x + 1 else capHead x
              splitRun d h x n (splitHeader x n (s.src f.src2) c k) s1 = .ok ((), s2) → ends (.capsplit f) s2.regs)))))
    ∧ (∀ e ∈ [(Instr.capsend f, false), (.capinj f, true)], Issues e.1 f 1 s c k → (l.capsOk = false → traps e.1 0x57)
      ∧ (l.capsOk = true → area h e.1 (∀ x, s.readHeader h = .ok (x, s1) → s1.cur = s.cur → (capMalformed x = true → traps e.1 0x55)
        ∧ (capMalformed x = false → e.2 = false → capFcode x ≠ 0 → traps e.1 0x56)
        ∧ (capMalformed x = false → e.2 = true ∨ capFcode x = 0 → (s.spillWaits s.curSeq = true → Waits e.1 s s c k)
          ∧ (s.spillWaits s.curSeq = false → notes e.1 (.capsend h e.2))))))
    ∧ (Issues (.capend f) f 1 s c k → (s.inVisit = false → traps (.capend f) 0x50)
      ∧ (∀ g, s.inVisit = true → (s.slot c k).awaiting = some g → s.chunk.solo = false → ∃ u, exec (.capend f) s = .next u ∧ OnlySlot s u c k ∧ (u.slot c k).regs = s.regs)
      ∧ (s.inVisit = true → s1 = s → endsVisit (.capend f) (.capend s.regs.bay)))
    ∧ (∀ n, Issues (.capnext f) f 1 s c k → (s.inVisit = false → traps (.capnext f) 0x50)
      ∧ (s.inVisit = true → (if f.mod.getLsbD 0 then s1 = s ∧ n = (s.src f.src1).toNat
        else ∃ x, s.readHeader (s.regs.bayOff.toNat * 64) = .ok (x, s1) ∧ n = capHead x + 1) →
        (15 < n → traps (.capnext f) 0x54) ∧ (n ≤ 15 → endsVisit (.capnext f) (.capnext s.regs.bay n))))
    ∧ (∀ d orig, f.dst = .g d → Issues (.capplace f) f 1 s c k →
      (if s.regs.vis then ∃ x, s.readHeader (s.regs.bayOff.toNat * 64) = .ok (x, s1) ∧ orig = capOrig x else s1 = s ∧ orig = c) → s1.cur = s.cur →
      let w := s.src f.src1
      let p := if w.toNat / 2 ^ 32 ≠ 0 then .fail 0x40 else s1.resolve s1.curLaunch c (w.setWidth 32) (s1.src f.src2) orig
      (p = .wait → Waits (.capplace f) s s1 c k)
      ∧ (∀ c', p = .core c' → GivesFrom (.capplace f) s s1 c k (s1.regs.putG d (BitVec.ofNat 64
        ((s1.curLaunch.logical c').2 % 32 * 2 ^ 21 + (s1.curLaunch.logical c').1 % 32 * 2 ^ 16 + c'.toNat))).advance)
      ∧ (∀ e, p = .fail e → GivesFrom (.capplace f) s s1 c k (s1.regs.putG d (BitVec.ofNat 64 (2 ^ 63 + e.toNat))).advance))
    ∧ (∀ d, f.dst = .g d → Issues (.capkey f) f 1 s c k → let b := (s.src f.src2).toNat % 64
      Gives (.capkey f) s c k (s.regs.putG d (BitVec.ofNat 64
        (if b = 0 then 0 else (s.src f.src1 * 0x9F3AC58DE1B27365#64).toNat / 2 ^ (64 - b)))).advance)
    ∧ (∀ d, f.dst = .g d → Issues (.capget f) f 1 s c k → area h (.capget f) (s.soloGate 0x08 = .ok ((), s1) →
      let at_ := descStrand s1.curLaunch.desc
      let none_ (t : State) : Prop := t.cur = s.cur → GivesFrom (.capget f) s t c k (t.regs.putG d (BitVec.allOnes 64)).advance
      (at_ = 0 → none_ s1)
      ∧ (∀ bs t, at_ ≠ 0 → s1.listRead at_ 64 = .ok (bs, t) →
        let prod := leNat (bs.take 4)
        let cons := leNat ((bs.drop 4).take 4)
        let nrec := leNat ((bs.drop 8).take 4)
        bs.length = 64 → (prod = cons ∨ nrec = 0 → none_ t)
        ∧ (∀ x, prod ≠ cons → nrec ≠ 0 → t.takeRecord at_ h cons nrec = .ok (x, s2) → ends (.capget f) (s2.regs.putG d x)))))
    ∧ (s.calm c k 134 →
      let ls := (s.core c).ls
      let header (o : Nat) : BitVec 512 := BitVec.ofNat 512 (leNat (ls.bytes o 64))
      let entry (m : Mem) (o i : Nat) : Nat := m.nat (o + 0x40 + 16 * i) 16
      let named (o : Nat) : Prop := s.liveBay o = true ∨ l.staging o = true
      let first (o : Nat) : Nat := if s.liveBay o then capHead (header o) + 1 else capHead (header o)
      let sound (o : Nat) : Prop := capMalformed (header o) = false ∧ (s.liveBay o = true → capHead (header o) < capIlen (header o))
      let e : BitVec 128 := s.pair f.src2
      let len (n : Nat) : List Byte := leBytes 64 (setField (header h) 80 5 n).toNat
      let runs (i : Instr) (r : Regs) (p : Mem → Prop) : Prop := ∃ u, exec i s = .next u ∧ u.mem = s.mem ∧ (u.slot c k).regs = r ∧ p (u.core c).ls
      (Issues (.capnew f) f 1 s c k → l.capsOk = true → s.liveBay h = false → l.staging h = true → ∃ x : BitVec 512,
        runs (.capnew f) s.regs.advance (· = ls.setBytes h (leBytes 64 x.toNat)) ∧ fieldNat x 0 64 = (s.src f.src2).toNat ∧ fieldNat x 192 32 = s.curSeq.toNat)
      ∧ (named h → sound h → let n := capIlen (header h)
        (Issues (.cappush f) f 1 s c k → n < 16 → runs (.cappush f) s.regs.advance
          (· = (ls.setBytes (h + 0x40 + 16 * n) (leBytes 16 e.toNat)).setBytes h (len (n + 1))))
        ∧ (Issues (.caphead f) f 1 s c k → n < 16 → runs (.caphead f) s.regs.advance fun m => m.bytes h 64 = len (n + 1) ∧ entry m h (first h) = e.toNat
          ∧ (∀ i, first h ≤ i → i < n → entry m h (i + 1) = entry ls h i) ∧ ∀ i, i < first h → entry m h i = entry ls h i)
        ∧ (Issues (.cappop f) f 1 s c k → first h < n → let x : BitVec 128 := BitVec.ofNat 128 (entry ls h (n - 1))
          runs (.cappop f) (((s.regs.putG (gNum f.dst) (x.extractLsb' 0 64)).putG (gNum f.dst + 1) (x.extractLsb' 64 64)).advance)
            (· = (ls.setBytes (h + 0x40 + 16 * (n - 1)) (leBytes 16 0)).setBytes h (len (n - 1))))
        ∧ (Issues (.capset f) f 1 s c k → first h ≤ f.mod.toNat → f.mod.toNat < n → runs (.capset f) s.regs.advance
          (· = ls.setBytes (h + 0x40 + 16 * f.mod.toNat) (leBytes 16 e.toNat))))
      ∧ (Issues (.capsplit f) f 1 s c k → let d := (s.src f.dst).toNat
        s.liveBay d = false → l.staging d = true → named h → ¬ (d < h + capBytes ∧ h < d + capBytes) → sound h → let n := capIlen (header h)
        runs (.capsplit f) s.regs.advance fun m => m.bytes d 64 = leBytes 64 (splitHeader (header h) (first h) (s.src f.src2) c k).toNat
          ∧ (∀ i, i < n - first h → entry m d i = entry ls h (first h + i)) ∧ (∀ i, n - first h ≤ i → i < 16 → entry m d i = 0)
          ∧ ∀ j, j < capPayload (header h) → m.byte (d + 0x140 + j) = ls.byte (h + 0x140 + j))
      ∧ (∀ x ∈ [(Instr.capsend f, false), (.capinj f, true)], Issues x.1 f 1 s c k → l.capsOk = true → s.liveBay h = false → l.staging h = true →
        capMalformed (header h) = false → (x.2 = true ∨ capFcode (header h) = 0) → s.spillWaits s.curSeq = false → ∃ t, t.mem = s.mem ∧ (t.core c).ls = ls
          ∧ (t.slot c k).chunk.effects = (s.slot c k).chunk.effects ++ [.capsend h x.2] ∧ GivesFrom x.1 s t c k s.regs.advance)
      ∧ (∀ d, f.dst = .g d → Issues (.capget f) f 1 s c k → s.isAlone = true → s.liveBay h = false → l.staging h = true → descStrand l.desc = 0 →
        GivesFrom (.capget f) s (s.setChunk { s.chunk with solo := true }) c k (s.regs.putG d (BitVec.allOnes 64)).advance))

/-- R250 to R257, R261: capsule events. An arriving capsule lands in a free bay, and a bay that becomes free takes the capsule that waits; one that has waited 128 rotations is written to the overflow area. A visit starts on the idle capsule slot with the parameter, the payload and bay offsets and the index in G0 to G3. A faulted visit frees its bay and strands the capsule: with a list, its record is written and PROD counts it. Rests on the model's readings of log entries 52, 62, 64. -/
def Obligations.CapsuleEvents : Prop :=
  ∀ (s : State) (c : CoreId) (k : SlotId) (id : Nat) (x : Capsule) (l : Launch),
    let y := s.slot c k
    let written (ps : List (Nat × Nat)) (bs : List Byte) (m : Mem) : Mem :=
      (ps.foldl (fun (z : Mem × List Byte) p => (z.1.setBytes p.1 (z.2.take p.2), z.2.drop p.2)) (m, bs)).1
    let lands (i : Instr) (b : Nat) : Prop := b < 4 → s.tokenBarsLs x.core (linesOf (l.bayOffset b) (0x140 + capPayload (imgHeader x.img))) = false →
      ∃ u, exec i s = .next u ∧ u.mem = s.mem ∧ u.capsules = s.capsules.del id
        ∧ (u.core x.core).bay b = { st := .landed, seq := x.seq, order := s.nextId } ∧ .event (.core x.core) .capsuleVisitStart ∈ u.agenda
    s.capsules.find id = some x → s.launch x.seq = some l → s.tape = [] →
      (∀ b bs, s.cur = .item id → x.at_ = .flying → l.aborted = false → l.preempted = false → (s.core x.core).asleep = false →
        s.linksUp (pathOf x.from_ x.core) = true → s.mayLand x.core true = [] → s.mayLand x.core false = [] → (s.core x.core).freeBays = b :: bs → lands .capsuleArrival b)
      ∧ (∀ b bs t, s.cur = .core x.core → (s.core x.core).freeBays = b :: bs → s.nextLanding x.core = some (id, x) → x.at_ = .buffered t →
        l.preempted = false → s.spillWaits x.seq = false → lands .bayRefill b)
      ∧ (∀ t, s.cur = .core c → x.at_ = .buffered t →
        (s.rot < t + 128 → let w := if s.agenda.all Pick.timed then s.nextRotation else s
          exec (.capsuleSpillTimeout id) s = .next { w with agenda := w.agenda ++ [.event (.core c) (.capsuleSpillTimeout id)] })
        ∧ (∀ ps, let n := s.freeOverflow x.seq l
          t + 128 ≤ s.rot → s.spillWaits x.seq = false → s.niPages x.core l (overflowAt l n) 8576 .write = .ok ps → s.tokenBars (niLines ps) = false →
          ∃ u, exec (.capsuleSpillTimeout id) s = .next u ∧ u.mem = written ps (leBytes 64 0 ++ x.img.bytes 0 capBytes) s.mem
            ∧ u.capsules = s.capsules.put id { x with at_ := .spilled n, order := s.nextId }))
      ∧ (∀ l' b, s.cur = .core c → s.launchOf c 14 = some l' → entryCapr (s.slot c 14).entry = true → entryState (s.slot c 14).entry = 2 →
        l'.preempted = false → l'.aborted = false → (s.core c).asleep = false → s.nextVisit c l' = some b → b < 4 →
        let off := l'.bayOffset b
        let i := capHead (s.bayHeader c l' b)
        let e : BitVec 128 := BitVec.ofNat 128 (leNat (s.committedLs c (off + 0x40 + 16 * i) 16))
        (s.slot c 14).starting = none →
        ∃ u, exec .capsuleVisitStart s = .next u ∧ u.mem = s.mem ∧ .event (.slot c 14) .slotDispatch ∈ u.agenda ∧ ((u.core c).bay b).st = .visit
          ∧ ∃ z : Start, u.slot c 14 = { s.slot c 14 with starting := some z } ∧ z.msg = none ∧ z.seq = 0 ∧ z.regs.pc = handlerPc l' e
          ∧ z.regs.priv = false ∧ z.regs.vis = true ∧ z.regs.bay.toNat = b ∧ z.regs.hops.toNat = capHops (s.bayHeader c l' b)
          ∧ z.regs.trapvec = descTrapv l'.desc &&& ~~~(3#64) ∧ z.regs.g[0] = entParam e
          ∧ z.regs.g[1] = BitVec.ofNat 64 (off + 0x140) ∧ z.regs.g[2] = BitVec.ofNat 64 off ∧ z.regs.g[3] = BitVec.ofNat 64 i
          ∧ (∀ j : Fin 32, 4 ≤ j.val → z.regs.g[j] = 0) ∧ z.regs.v = Vector.replicate 16 0 ∧ z.regs.a = Vector.replicate 8 0)
      ∧ (∀ l' z, s.launch (entrySeq y.entry) = some l' → l'.aborted = false → y.starting = some z →
        OnlySlot s (s.runSlot c k) c k ∧ .turn c k ∈ (s.runSlot c k).agenda
        ∧ let r := (s.runSlot c k).slot c k
          entryState r.entry = 3 ∧ r.regs = z.regs ∧ r.msg = z.msg ∧ r.seq = z.seq ∧ r.park = .ready ∧ r.chunk = {} ∧ r.waiting = none ∧ r.starting = none)
      ∧ (∀ l' tr, s.cur = .slot c k → y.park = .strand tr → s.launchOf c k = some l' →
        ∃ v : State, exec .capsuleVisitStrand s = .next (v.strand s.nextId tr.cause (if tr.cause = 0x0A then tr.info.setWidth 8 else 0) y.regs.pc tr.addr)
          ∧ v.mem = s.mem ∧ v.capsules = s.capsules.put s.nextId
            { img := s.bayImage c l' y.regs.bay, seq := entrySeq y.entry, core := c, at_ := .unresolved, order := s.nextId
              poison := (s.core c).imagePoison (l'.bayOffset y.regs.bay.toNat) }
          ∧ (v.core c).bay y.regs.bay.toNat = {} ∧ (v.slot c k).park = .idle ∧ entryState (v.slot c k).entry = 2)
      ∧ (∀ h code detail pc addr ps rs, s.cur = .item id → x.at_ = .strandHeld h code detail pc addr → descStrand l.desc ≠ 0 →
        s.niPages x.core l (descStrand l.desc) 64 .write = .ok ps →
        let b := leNat (s.niRead ps)
        let prod := b % 2 ^ 32
        let cons := b / 2 ^ 32 % 2 ^ 32
        let nrec := b / 2 ^ 64 % 2 ^ 32
        nrec ≠ 0 → (prod + 2 ^ 32 - cons) % 2 ^ 32 ≠ nrec →
        s.niPages x.core l (descStrand l.desc + BitVec.ofNat 64 (64 + 0x2180 * (prod % nrec))) 8576 .write = .ok rs →
        s.tokenBars (niLines ps ++ niLines rs) = false →
        let img := imgSetHeader x.img (setField (imgHeader x.img) 104 8 code.toNat)
        ∃ v : State, exec .capsuleVisitStrand s = .next ((v.retire id x.seq).report (towerOf x.core) (strandRec x l code false addr)) ∧ v.capsules = s.capsules
          ∧ ∃ bs, v.mem = written ps (leBytes 4 ((prod + 1) % 2 ^ 32) ++ bs)
            (written rs (leBytes 64 (strandInfo code x.core detail prod pc addr).toNat ++ img.bytes 0 capBytes) s.mem))

/-- R310, R320 to R325: the engine instructions of a slot. A kick reads its record, fills in the kicking core, slot, context, launch and program, and notes it for an engine with room, or waits; ARRSET clears the bytes count and the status of an arrival word and sets the expected bytes, leaving GEN; AWAIT answers at once for another GEN and parks otherwise; EQUERY reads an engine's or a region's status; ELOAD parks until its region is copied. -/
def Obligations.EngineInstructions : Prop :=
  ∀ (f : Fields) (s s1 s2 : State) (c : CoreId) (k : SlotId),
    let v1 := s.src f.src1
    let v2 := s.src f.src2
    let stops (i : Instr) (field : Nat) : Prop := exec i s = .next (s.raise c k { cause := 0x01, info := BitVec.ofNat 64 (0x13 + 65536 * field) })
    (∀ e ∈ [(Instr.xcopy f, 0), (.xfill f, 1), (.xgath f, 2), (.xscat f, 3), (.xcmpr f, 4), (.xdcmp f, 5)], Issues e.1 f 1 s c k →
      (256 ≤ v2.toNat → stops e.1 2)
      ∧ (∀ bs, v2.toNat < 256 → s.load (s.addrOf f.src1 64) 64 64 = .ok (bs, s1) → s1.cur = s.cur →
        let n := s1.engineOf v2
        let x := s1.engine n
        let m := s1.kickRecord (BitVec.ofNat 512 (leNat bs)) (if f.mod.getLsbD 0 then none else some e.2)
        (16 ≤ x.queue.length + x.reserved → Waits e.1 s s c k)
        ∧ (x.queue.length + x.reserved < 16 → s1.chunk.solo = false → ∃ t, t.mem = s1.mem
          ∧ (t.slot c k).chunk.effects = (s1.slot c k).chunk.effects ++ [.kick n m] ∧ t.engine n = { x with reserved := x.reserved + 1 }
          ∧ GivesFrom e.1 s t c k s1.regs.advance)))
    ∧ (∀ m p, s.cur = .slot c k → p < 6 → let m' := s.kickRecord m (some p)
      cmdProg m' = p ∧ cmdOrig m' = c ∧ cmdOslot m' = k ∧ cmdCtx m' = s.curCtx ∧ cmdLseq m' = s.curSeq ∧ cmdSrc m' = cmdSrc m ∧ cmdDst m' = cmdDst m
        ∧ cmdLen m' = cmdLen m ∧ cmdArg0 m' = cmdArg0 m ∧ cmdArg1 m' = cmdArg1 m ∧ cmdAword m' = cmdAword m ∧ cmdProg (s.kickRecord m none) = cmdProg m)
    ∧ (Issues (.arrset f) f 1 s c k → let va := s.addrOf f.dst 16
      (va.toNat % 16 ≠ 0 → ∃ tr, exec (.arrset f) s = .next (s.raise c k tr) ∧ tr.cause = 0x04 ∧ tr.addr = va)
      ∧ (va.toNat % 16 = 0 → s.store va (leBytes 6 0) 1 = .ok ((), s1) → s1.store (va + 8) (leBytes 8 (v1.toNat % 2 ^ 48)) 8 = .ok ((), s2) →
        s2.cur = s.cur → GivesFrom (.arrset f) s s2 c k s2.regs.advance))
    ∧ (∀ d l x, f.dst = .g d → Issues (.await f) f 1 s c k → s.isAlone = true →
      (s.setChunk { s.chunk with solo := true }).waitValue (s.addrOf f.src1 16) 16 = .ok ((l, x), s1) → s1.cur = s.cur → (s1.src f.src2) = v2 →
        let w := x % 2 ^ 64
        let ex := if s1.regs.waittmo = 0 then none else some (s1.rot + s1.regs.waittmo.toNat)
        (w / 2 ^ 48 ≠ v2.toNat % 2 ^ 16 → GivesFrom (.await f) s s1 c k (s1.regs.putG d (BitVec.ofNat 64 w)).advance)
        ∧ (∀ ls n, w / 2 ^ 48 = v2.toNat % 2 ^ 16 → (∃ c', l = .ls c' n ∧ ls = true) ∨ l = .mem n ∧ ls = false →
          ∃ u, exec (.await f) s = .next u ∧ OnlySlot s1 u c k ∧ (u.slot c k).park = .await d ls n ex
          ∧ (u.slot c k).regs = s1.regs ∧ (u.slot c k).chunk = { tlb := (s1.slot c k).chunk.tlb, deadSet := (u.slot c k).chunk.deadSet }
          ∧ (ex.isSome → .event (.slot c k) .waitvTimeout ∈ u.agenda)))
    ∧ (∀ d, f.dst = .g d → Issues (.equery f) f 1 s c k →
      (v1.toNat < 128 → let x := s.engine (v1.extractLsb' 0 7)
        x.queue.length < 32 → Gives (.equery f) s c k (s.regs.putG d (BitVec.ofNat 64 (x.queue.length + 2 ^ 5 * bit x.cmd.isSome
          + 2 ^ 6 * x.cmd.elim 0 cmdProg
          + 2 ^ 10 * bit x.park.isHeld + 2 ^ 11 * bit (x.park == .loading) + 2 ^ 32 * x.num.toNat))).advance)
      ∧ (v1.toNat / 64 = 2 → Gives (.equery f) s c k (s.regs.putG d
          (BitVec.ofNat 64 (bit ((s.estore (v1.extractLsb' 4 2)).isLoading (v1.toNat % 16)) + 256 * s.regionUsers (v1.extractLsb' 4 2) (v1.extractLsb' 0 4)))).advance)
      ∧ (v1.toNat / 64 = 3 ∨ 256 ≤ v1.toNat → stops (.equery f) 1))
    ∧ (∀ d l, f.dst = .g d → Issues (.eload f) f 1 s c k → let va := s.addrOf f.src1 4096
      (64 ≤ v2.toNat → stops (.eload f) 2)
      ∧ (v2.toNat < 64 → va.toNat % 4096 ≠ 0 → ∃ tr, exec (.eload f) s = .next (s.raise c k tr) ∧ tr.cause = 0x04 ∧ tr.addr = va)
      ∧ (v2.toNat < 64 → va.toNat % 4096 = 0 → s.locateReach va 4096 .read = .ok (l, s1) → s1.isAlone = true →
        let t : TowerId := v2.extractLsb' 4 2
        let r : BitVec 4 := v2.extractLsb' 0 4
        ∃ u, exec (.eload f) s = .next u ∧ u.mem = s1.mem ∧ (u.slot c k).park = .eload t r l va d ∧ (u.slot c k).regs = s1.regs
          ∧ (u.slot c k).chunk = { tlb := s1.chunk.tlb, deadSet := (u.slot c k).chunk.deadSet }
          ∧ (u.estore t).loads = (s1.estore t).loads ++ [(r, c, k)] ∧ .event (.slot c k) .eloadRegionLoad ∈ u.agenda))
    ∧ (s.calm c k 16 →
      let ls := (s.core c).ls
      let at_ (o : Operand) (n w : Nat) : Prop := s.addrOf o n = BitVec.ofNat 64 (windowBase + w) ∧ w % n = 0 ∧ w + n ≤ 0x80000
      (∀ e ∈ [(Instr.xcopy f, 0), (.xfill f, 1), (.xgath f, 2), (.xscat f, 3), (.xcmpr f, 4), (.xdcmp f, 5)], ∀ w, Issues e.1 f 1 s c k →
        at_ f.src1 64 w → v2.toNat < 256 → let n := s.engineOf v2
        let m := s.kickRecord (BitVec.ofNat 512 (ls.nat w 64)) (if f.mod.getLsbD 0 then none else some e.2)
        (s.engine n).queue.length + (s.engine n).reserved < 16 → ∃ t, t.mem = s.mem ∧ (t.core c).ls = ls
          ∧ (t.slot c k).chunk.effects = (s.slot c k).chunk.effects ++ [.kick n m] ∧ (t.engine n).reserved = (s.engine n).reserved + 1
          ∧ GivesFrom e.1 s t c k s.regs.advance)
      ∧ (∀ w, Issues (.arrset f) f 1 s c k → at_ f.dst 16 w → ∃ u, exec (.arrset f) s = .next u ∧ u.mem = s.mem ∧ (u.slot c k).regs = s.regs.advance
          ∧ (u.core c).ls = (ls.setBytes w (leBytes 6 0)).setBytes (w + 8) (leBytes 8 (v1.toNat % 2 ^ 48)))
      ∧ (∀ d w, f.dst = .g d → Issues (.await f) f 1 s c k → at_ f.src1 16 w → s.isAlone = true → let x := leNat (s.committedLs c w 8)
        (x / 2 ^ 48 ≠ v2.toNat % 2 ^ 16 →
          ∃ u, exec (.await f) s = .next u ∧ u.mem = s.mem ∧ (u.core c).ls = ls
            ∧ (u.slot c k).regs.butDead (s.regs.putG d (BitVec.ofNat 64 x)).advance))
      ∧ (∀ d w, f.dst = .g d → Issues (.eload f) f 1 s c k → at_ f.src1 4096 w → v2.toNat < 64 → s.isAlone = true →
        ∃ u, exec (.eload f) s = .next u ∧ u.mem = s.mem ∧ (u.core c).ls = ls ∧ (u.slot c k).regs = s.regs
          ∧ (u.slot c k).park = .eload (v2.extractLsb' 4 2) (v2.extractLsb' 0 4) (.ls c w) (s.addrOf f.src1 4096) d))

/-- R305 to R308, R311, R318, R319, R323, R325: what engines do. A micro-step of a hart moves, fills, compresses or expands its bytes as a whole, updates the A registers, counts the arrival bytes, and the hart goes on 12 bytes further modulo 2^16; HALT cuts the chunk, which ends the command at its grant. A queued command starts at its program's entry, or where it was suspended. AWAIT_WAKE gives the arrival word; a region is replaced once no engine uses it. An engine at 64 squashes sends a record. Rests on the model's readings of log entries 6, 26, 53, 54, 55, 56, 57, 58, 93. -/
def Obligations.EngineEvents : Prop :=
  ∀ (f : Fields) (s s1 s2 s3 : State) (e : EngineId) (c : CoreId) (k : SlotId),
    let x := s.engine e
    let n := (s.src f.src2).toNat
    let runs (i : Instr) (t : State) (r : Regs) (m : Nat) : Prop := t.cur = s.cur → ∃ u, exec i s = .next u ∧ u.mem = t.mem ∧ u.cores = t.cores
      ∧ (u.engine e).regs = { r with pc := (r.pc + 12) &&& 0xFFFF } ∧ (u.engine e).bytes = (t.engine e).bytes + m
      ∧ (u.engine e).cmd = (t.engine e).cmd ∧ ∀ e', e' ≠ e → u.engine e' = t.engine e'
    let live (r : Regs) (d : BitVec 5) : Regs := { r with dead := r.dead ||| ((s.slot c k).chunk.deadSet &&& ~~~(1#64 <<< deadG d)) }
    (s.cur = .engine e → s.anyLane f 1 = true →
      (0 < n → n ≤ 4096 →
        s.bulkMove (s.addrOf f.src1 n) (s.addrOf f.dst n) n (copyOrder (s.addrOf f.src1 n) (s.addrOf f.dst n) (f.mod.getLsbD 0)) = .ok ((), s1) →
        runs (.hartXcopy f) s1 ((s1.regs.updated f.dst n).updated f.src1 n) n)
      ∧ (0 < n → n ≤ 4096 → s.bulkStore (s.addrOf f.dst n) (fillBytes (s.addrOf f.dst n) (s.src f.src1) n) = .ok ((), s1) →
        runs (.hartXfill f) s1 (s1.regs.updated f.dst n) n)
      ∧ (n = 0 ∨ 4096 < n → ∀ i ∈ [Instr.hartXcopy f, .hartXfill f], exec i s = .next (s.engineAbort e 1 (illegal 0x13 2 0)))
      ∧ (∀ b out, s.bulkLoad (s.addrOf f.src1 64) 64 = .ok (b, s1) → s1.encodeBlock (s1.ecmd 5) b = .ok (out, s2) →
        s2.bulkStore (s2.addrOf f.dst out.length) out = .ok ((), s3) →
        runs (.hartXcmpr f) s3 ((s3.regs.updated f.dst out.length).updated f.src1 64) 64)
      ∧ (∀ b m, s.decodeBlock (s.ecmd 5) (s.addrOf f.src1 1) = .ok ((b, m), s1) → s1.bulkStore (s1.addrOf f.dst 64) b = .ok ((), s2) →
        runs (.hartXdcmp f) s2 ((s2.regs.updated f.dst 64).updated f.src1 m) 64)
      ∧ (x.waiting = false → x.park.isHeld = false → x.chunk.solo = false → ∃ u, exec (.hartHalt f) s = .next u ∧ u.mem = s.mem ∧ u.cores = s.cores
        ∧ (u.engine e).waiting = true ∧ (u.engine e).park = .grant ∧ (u.engine e).chunk.effects.getLast? = some (.cmdEnd e) ∧ (u.engine e).chunk.wr = x.chunk.wr
        ∧ .engine e ∈ u.requests ∧ .event .none .commitGrant ∈ u.agenda))
    ∧ (∀ a b, (b.all (· == 0) = true → s.encodeBlock a b = .ok ([0], s))
      ∧ (b.all (· == 0) = false → fieldNat a 16 8 = 0 → s.encodeBlock a b = .ok (0xFF :: b, s)))
    ∧ (∀ q rest pr, s.cur = .engine e → x.cmd = none → x.queue = q :: rest → (s.estore (engineTower e)).loads = [] →
      (s.estore (engineTower e)).program (cmdProg q.rec_) = some pr →
      ∃ u, exec .engineCommandStart s = .next u ∧ u.mem = s.mem ∧ u.cores = s.cores ∧ (u.engine e).cmd = some q.rec_ ∧ (u.engine e).queue = rest
        ∧ (u.engine e).regs = q.saved.elim { pc := pr.entry } (·.1) ∧ (u.engine e).num = q.saved.elim x.num (·.2)
        ∧ (u.engine e).regions = pr.regions ∧ (u.engine e).park = .ready ∧ .eturn e ∈ u.agenda)
    ∧ (s.cur = .engine e → let m := x.cmd.getD 0
      exec .engineWatchdog s = .next (s.report (engineTower e)
        { cause := 0x10, kind := 5, eng := true, core := e.toNat, ctx := cmdCtx m, lseq := cmdLseq m }))
    ∧ (∀ t r l va d bs, s.cur = .slot c k → (s.slot c k).park = .eload t r l va d → ((s.estore t).loads.find? fun l => l.1 == r) = some (r, c, k) →
      s.regionUsers t r = 0 → s.eloadBytes l va = .ok (bs, s) → ∃ u, exec .eloadRegionLoad s = .next u ∧ u.mem = s.mem
        ∧ (u.estore t).bytes = (s.estore t).bytes.setBytes (4096 * r.toNat) bs ∧ (u.estore t).loaded = (s.estore t).loaded ||| (1#16 <<< r.toNat)
        ∧ (u.slot c k).park = .ready ∧ (u.slot c k).regs = live ((s.slot c k).regs.putG d 0).advance d ∧ .turn c k ∈ u.agenda)
    ∧ (∀ d pa ex, s.cur = .slot c k → (s.core c).asleep = false → (s.slot c k).park = .await d false pa ex → s.poisoned (linesOf pa 16) = none →
      s.reach (dieOf c) (stackOf pa) = .yes →
      ∃ u, exec .awaitWake s = .next u ∧ OnlySlot s u c k ∧ (u.slot c k).park = .ready ∧ .turn c k ∈ u.agenda
        ∧ (u.slot c k).regs = live (s.regs.putG d (BitVec.ofNat 64 (s.mem.nat pa 16 % 2 ^ 64))).advance d)

/-- R341 to R343, R347, R376, R377, R383, R384, R399: the system instructions of a slot. DECANT answers at once what needs no Decant, and else asks the base-note arbiter and parks; STKQ reads a stack; CKPTQ tests the conditions of R382 and takes a checkpoint; FAULTQ takes the oldest record, or counts; RESUME is noted for the grant; HOSTINT raises its interrupt, which is pending while masked; PREACK acknowledges a pre-emption. Rests on the model's readings of log entries 17, 32, 59, 65. -/
def Obligations.SystemInstructions : Prop :=
  ∀ (f : Fields) (s s1 s2 : State) (c : CoreId) (k : SlotId) (d : BitVec 5),
    let v1 := s.src f.src1
    let v2 := s.src f.src2
    let stops (i : Instr) (check field : Nat) : Prop := exec i s = .next (s.raise c k { cause := 0x01, info := BitVec.ofNat 64 (check + 65536 * field) })
    let solo := s.setChunk { s.chunk with solo := true }
    (∀ m e, f.dst = .g d → Issues (.decant f) f 1 s c k →
      (16 ≤ v1.toNat → stops (.decant f) 0x13 1) ∧ (v1.toNat < 16 → 8 ≤ v2.toNat → stops (.decant f) 0x13 2)
      ∧ (v1 = BitVec.setWidth 64 (m : BitVec 4) → v2 = BitVec.setWidth 64 (e : BitVec 3) →
        ((s.ctx s.curCtx).dcnt = false → exec (.decant f) s = .next (s.raise c k { cause := 0x07 }))
        ∧ ((s.ctx s.curCtx).dcnt = true → s.isAlone = true →
          let o := (s.stack m).owner m
          let p := (s.ctx s.curCtx).part
          let ends (code : Nat) : Prop := Gives (.decant f) s c k (s.regs.putG d (BitVec.ofNat 64 (code + 256 * (s.stack m).epoch.toNat))).advance
          let wired : Prop := e = stackDie0 m ∨ e = stackDie1 m
          let mine : Prop := (s.die e).part = p ∧ (s.die o).part = p
          (e = o → ends 1) ∧ (e ≠ o → ¬ wired → ends 2) ∧ (e ≠ o → wired → ¬ mine → ends 3)
          ∧ (e ≠ o → wired → mine → ∃ u, exec (.decant f) s = .next u ∧ OnlySlot s u c k ∧ u.slot c k = { s.slot c k with park := .decant m d, chunk := { s.chunk with deadSet := (u.slot c k).chunk.deadSet } }
            ∧ u.requests = s.requests ++ [.decant c k m e] ∧ .event .none .commitGrant ∈ u.agenda))))
    ∧ (f.dst = .g d → Issues (.stkq f) f 1 s c k → (16 ≤ v1.toNat → stops (.stkq f) 0x13 1)
      ∧ ∀ m : StackId, v1 = m.setWidth 64 → ∃ w : Word, Gives (.stkq f) s c k (s.regs.putG d w).advance
        ∧ w.extractLsb' 0 4 = m ∧ ((s.stack m).st ≠ .claiming → w.extractLsb' 4 3 = (s.stack m).owner m)
        ∧ ((s.stack m).st = .claiming → w.extractLsb' 4 3 = if (s.stack m).aim then stackDie1 m else stackDie0 m)
        ∧ w.getLsbD 7 = (s.stack m).port ∧ w.extractLsb' 8 2 = BitVec.ofNat 2 (s.stack m).st.code ∧ w.extractLsb' 10 3 = stackDie0 m
        ∧ w.extractLsb' 13 3 = stackDie1 m ∧ w.extractLsb' 16 8 = (s.stack m).epoch
        ∧ w.getLsbD 24 = ((s.die (dieOf c)).part == (s.die (w.extractLsb' 4 3)).part) ∧ w.getLsbD 25 = (towerOfDie (w.extractLsb' 4 3) == towerOf c)
        ∧ w.extractLsb' 26 6 = 0 ∧ w.extractLsb' 32 32 = BitVec.ofNat 32 (min (s.dirtyCount m) (2 ^ 32 - 1)))
    ∧ (f.dst = .g d → Issues (.ckptqTest f) f 1 s c k → (65536 ≤ v2.toNat → stops (.ckptqTest f) 0x13 2)
      ∧ (v2.toNat < 65536 → s.isAlone = true →
        let why := whyBits (s.quiescence s.curCtx c k)
        let stk := s.maskBusy (v2.setWidth 16)
        Gives (.ckptqTest f) s c k (s.regs.putG d (BitVec.ofNat 64 (bit (why == 0 && !stk) + 2 * why + 64 * bit stk))).advance))
    ∧ (∀ pa, f.dst = .g d → Issues (.ckptqTake f) f 1 s c k → let va := s.addrOf f.src1 64
      let mask : BitVec 16 := v2.setWidth 16
      (65536 ≤ v2.toNat → stops (.ckptqTake f) 0x13 2)
      ∧ (v2.toNat < 65536 → va.toNat % 64 ≠ 0 → ∃ tr, exec (.ckptqTake f) s = .next (s.raise c k tr) ∧ tr.cause = 0x04 ∧ tr.addr = va)
      ∧ (v2.toNat < 65536 → va.toNat % 64 = 0 → s.locateReach va 64 .write = .ok (.mem pa, s1) → s1.isAlone = true →
        let why := whyBits (s1.quiescence s.curCtx c k)
        let stk := s1.maskBusy mask
        (why ≠ 0 ∨ stk = true → GivesFrom (.ckptqTake f) s s1 c k (s.regs.putG d (BitVec.ofNat 64 (2 * why + 64 * bit stk))).advance)
        ∧ (why = 0 → stk = false → pa % 64 = 0 → s1.tokenBars [pa / 64] = false → (s1.slot c k).chunk.hit (linesOf pa 64) = false →
          (s1.stack (stackOf pa)).st ≠ .fenced → s1.chunk.solo = false →
          let lines := ((List.range 16).filter fun n => mask.getLsbD n).foldl (fun a n => a + s1.dirtyCount (BitVec.ofNat 4 n)) 0
          ∃ u, ∃ r : BitVec 512, exec (.ckptqTake f) s = .next u ∧ u.mem = s.mem.setBytes pa (leBytes 64 r.toNat)
            ∧ (u.slot c k).regs = (s.regs.putG d (BitVec.ofNat 64 (1 + 2 ^ 32 * min lines (2 ^ 32 - 1)))).advance
            ∧ (∀ e ∈ u.dirty, e ∈ s1.dirty ∧ mask.getLsbD (stackOf (64 * e.1)).toNat = false ∧ e.1 ≠ pa / 64)
            ∧ r.extractLsb' 0 12 = s.curCtx ∧ r.extractLsb' 16 16 = mask ∧ r.extractLsb' 32 32 = s.curSeq
            ∧ r.extractLsb' 256 64 = BitVec.ofNat 64 lines ∧ r.extractLsb' 320 64 = BitVec.ofNat 64 s.cycle)))
    ∧ (f.dst = .g d → Issues (.faultqCnt f) f 1 s c k → (4 ≤ v2.toNat → stops (.faultqCnt f) 0x13 2)
      ∧ ∀ t : TowerId, v2 = t.setWidth 64 → Gives (.faultqCnt f) s c k (s.regs.putG d (((s.faultq t).prod - (s.faultq t).cons).setWidth 64)).advance)
    ∧ (f.dst = .g d → Issues (.faultqPop f) f 1 s c k → let va := s.addrOf f.src1 64
      (4 ≤ v2.toNat → stops (.faultqPop f) 0x13 2)
      ∧ (v2.toNat < 4 → va.toNat % 64 ≠ 0 → ∃ tr, exec (.faultqPop f) s = .next (s.raise c k tr) ∧ tr.cause = 0x04 ∧ tr.addr = va)
      ∧ ∀ (t : TowerId) pa, v2 = t.setWidth 64 → va.toNat % 64 = 0 → s.isAlone = true → let q := s.faultq t
        (q.prod = q.cons → GivesFrom (.faultqPop f) s solo c k (s.regs.putG d (BitVec.allOnes 64)).advance)
        ∧ (q.prod ≠ q.cons → solo.locateInside va 64 .write = .ok (.mem pa, s2) → s2.tokenBars (linesOf pa 64) = false →
          (s2.slot c k).chunk.hit (linesOf pa 64) = false → (s2.stack (stackOf pa)).st ≠ .fenced → ∃ u, exec (.faultqPop f) s = .next u
            ∧ u.mem = s.mem.setBytes pa (s.mem.bytes (q.slotAt q.cons) 64) ∧ (u.faultq t).cons = q.cons + 1
            ∧ (u.slot c k).regs.butDead (s.regs.putG d (BitVec.ofNat 64 (s.mem.nat (q.slotAt q.cons) 8))).advance
            ∧ ((s.poison.find (q.slotAt q.cons / 64)).isSome → (u.poison.find (pa / 64)).isSome)))
    ∧ (∀ e ∈ [(Instr.resume f, false), (.resumeFail f, true)], Issues e.1 f 1 s c k → (2 ^ 18 ≤ v1.toNat → stops e.1 0x13 1)
      ∧ (∀ (t : TowerId) (h : BitVec 16), v1 = (t ++ h).setWidth 64 → ∃ u, u.mem = s.mem
        ∧ (u.slot c k).chunk.effects = (s.slot c k).chunk.effects ++ [.resume t h e.2] ∧ GivesFrom e.1 s u c k s.regs.advance))
    ∧ (Issues (.hostint f) f 1 s c k → (2048 ≤ v1.toNat → stops (.hostint f) 0x13 1)
      ∧ (v1.toNat < 2048 → s.isAlone = true →
        let e := s.host.entry v1.toNat
        let masked : Prop := e.getLsbD 96 = true ∨ s.host.fmask = true ∨ s.host.enabled = false ∨ s.host.up = false
        ∃ u, exec (.hostint f) s = .next u ∧ u.mem = s.mem ∧ (u.slot c k).regs.butDead s.regs.advance
          ∧ (masked → u.host.pending = s.host.pending ||| (1#2048 <<< v1.toNat) ∧ u.outputs = s.outputs)
          ∧ (¬ masked → s.host.posted = [] → u.host.pending = s.host.pending ∧ u.outputs = s.outputs ++ [.msix (e.extractLsb' 0 64) (e.extractLsb' 64 32)])))
    ∧ (Issues (.preack f) f 1 s c k → (s.regs.trapcause ≠ 0x12 ∨ s.regs.trapinfo.getLsbD 0 = true → stops (.preack f) 0x14 0)
      ∧ (s.regs.trapcause = 0x12 → s.regs.trapinfo.getLsbD 0 = false → (s.slot c k).dZero = true → s.isAlone = true →
        ∃ u, exec (.preack f) s = .next u ∧ OnlySlot s u c k ∧ u.slot c k = { s.slot c k with park := .preacked, chunk := {}, sscr0 := s.regs.sscr[0] }
          ∧ ((s.ctx s.curCtx).preempting.isSome = true → .event (.ctx s.curCtx) .preemption ∈ u.agenda)))

/-- R371, R373, R378 to R380: the Decant of a stack drains it step by step, and changes no byte of memory: the old home recalls its lines from every L1 (step 3), which waits for earlier Decants of the tower, the LLC writes them back (step 4), the port's queue empties (step 5), the route tables are rewritten (step 6), and the other port claims the stack, with the next epoch (steps 7 and 8); a core that cannot answer or a write not acknowledged leaves it FENCED, with a machine check, a claim not confirmed leaves it with its old owner. Links and cores sleep under their conditions and wake; a dead die's stacks are FENCED and its launches aborted. Rests on the model's readings of log entries 25, 66, 67. -/
def Obligations.StackLinkAndSleepEvents : Prop :=
  ∀ (s : State) (m : StackId) (l : BitVec 4) (c : CoreId) (d : DieId) (t : TowerId),
    let x := s.stack m
    let aborts (u : State) (test : CoreId → Bool) : Prop := ∀ n q, s.launch n = some q → q.completed = false → q.cores.any test = true →
      ∃ q', u.launch n = some q' ∧ q'.aborted = true
    let answered (u : State) (code : Nat) (epoch : Byte) : Prop := ∀ c k g, x.by_ = some (c, k) → (s.slot c k).park = .decant m g → (s.slot c k).chunk.solo = false →
      (u.slot c k).regs = ((s.slot c k).regs.putG g (BitVec.ofNat 64 (code + 256 * epoch.toNat + 2 ^ 32 * min x.lines (2 ^ 32 - 1)))).advance
    let drains (next : StackState) (step : Nat) (lines : Nat) (more : State → Prop) : Prop := ∃ u, exec .decantDrain s = .next u ∧ u.mem = s.mem ∧ u.cores = s.cores
      ∧ u.stack m = { x with st := next, step := step, lines := lines } ∧ .event (.stack m) .decantDrain ∈ u.agenda ∧ more u
    let fails (i : Instr) : Prop := ∃ u, exec i s = .next u ∧ (u.stack m).st = .fenced ∧ (u.stack m).by_ = none
      ∧ aborts u fun c => towerOf c == towerOfDie (x.owner m)
    (s.cur = .stack m →
      (x.st ≠ .pouring → x.st ≠ .claiming → exec .decantDrain s = .next s)
      ∧ (x.st = .pouring → x.step = 3 → s.pourWaits m = true → drains .pouring 3 x.lines fun _ => True)
      ∧ (x.st = .pouring → x.step = 3 → s.pourWaits m = false →
        ((∀ y ∈ s.recallCores m, (s.die (dieOf y)).alive = true) → s.linksAsleep = 0 →
          drains .pouring 4 x.lines fun u => (∀ e ∈ u.dirty, stackOf (64 * e.1) = m → e.2.holder = none)
            ∧ (∀ e ∈ u.l1, ∀ n ∈ e.2, stackOf (64 * n) ≠ m) ∧ ∀ e ∈ u.dir, stackOf (64 * e.1) ≠ m)
        ∧ ((∃ y ∈ s.recallCores m, (s.die (dieOf y)).alive = false) → fails .decantDrain))
      ∧ (x.st = .pouring → x.step = 4 → drains .pouring 5 (s.dirtyCount m) fun u =>
        (∀ e ∈ u.dirty, stackOf (64 * e.1) ≠ m) ∧ ∀ e ∈ u.llc, ∀ n ∈ e.2, stackOf (64 * n) ≠ m)
      ∧ (x.st = .pouring → x.step = 5 → drains .pouring 6 x.lines (fun _ => True) ∧ fails .decantWriteTimeout)
      ∧ (x.st = .pouring → x.step = 6 → drains .claiming 7 x.lines fun _ => True)
      ∧ (x.st = .claiming → x.step = 7 → ∃ u, exec .decantDrain s = .next u ∧ u.mem = s.mem ∧ answered u 0 (x.epoch + 1)
        ∧ u.stack m = { x with st := .owned, port := x.aim, epoch := x.epoch + 1, by_ := none, lines := 0, step := 0 })
      ∧ (x.st = .claiming → ∃ u, exec .decantClaimTimeout s = .next u ∧ u.mem = s.mem ∧ answered u 5 x.epoch
        ∧ u.stack m = { x with st := .owned, by_ := none, lines := 0, step := 0 })
      ∧ (x.st ≠ .claiming → exec .decantClaimTimeout s = .next s)
      ∧ (x.st ≠ .pouring ∨ x.step ≠ 5 → exec .decantWriteTimeout s = .next s))
    ∧ (s.cur = .die d → ∃ u, exec (.deadDieTimeout t) s = .next u ∧ (u.die d).alive = false
      ∧ (∀ m', (s.stack m').owner m' = d → (u.stack m').st = .fenced) ∧ aborts u fun c => dieOf c == d)
    ∧ (s.cur = .link l →
      (exec .linkSleep s = .next (if l.toNat < 4 ∨ (8 ≤ l.toNat ∧ ∀ c, dieOf c = l.extractLsb' 0 3 → (s.core c).asleep = true)
        then { s with linksAsleep := s.linksAsleep ||| (1#16 <<< l.toNat) } else s))
      ∧ (s.linksAsleep.getLsbD l.toNat = true → exec .linkWake s =
        .next (({ s with linksWaking := s.linksWaking ||| (1#16 <<< l.toNat) }).postEvent (.link l) .linkWakeRetry))
      ∧ (s.linksAsleep.getLsbD l.toNat = false → exec .linkWake s = .next s)
      ∧ (s.linksWaking.getLsbD l.toNat = true → exec .linkWakeRetry s = .next { s with
        linksAsleep := s.linksAsleep &&& ~~~(1#16 <<< l.toNat), linksWaking := s.linksWaking &&& ~~~(1#16 <<< l.toNat) })
      ∧ (s.linksWaking.getLsbD l.toNat = false → exec .linkWakeRetry s = .next s))
    ∧ (s.cur = .core c →
      (s.mayRest c = true → ∃ u, exec .retentionSleepEntry s = .next u ∧ u.mem = s.mem ∧ u.core c = { s.core c with asleep := true }
        ∧ u.l1.look [] c.toNat = [] ∧ (∀ e ∈ u.tlb, e.place ≠ .core c) ∧ ∀ e ∈ u.dirty, e.2.holder ≠ some c)
      ∧ (s.mayRest c = false → exec .retentionSleepEntry s = .next s)
      ∧ (∃ u, exec .retentionWake s = .next u ∧ (u.core c).asleep = false ∧ u.mem = s.mem ∧ ((s.core c).asleep = false → u = s)))

/-- R188 to R192, R396, R423: the records of a command queue. The doorbell sets TAIL, and the Nose goes to the operation of the record at HEAD; a record ends with its STATUS written at byte 1, in memory of the package or of the host, and HEAD moves on. NOP gives 01, an unknown operation 04; WAIT waits for its launch, SIGNAL writes its value once the queue's launches are complete; LAUNCH checks its descriptor, takes the next sequence number and waits until its launch is bound. A record that cannot be read and written stops the queue; while its stack is handed over (R372), or the token's holder bars its line (R225), it is looked at again. Rests on the model's readings of log entries 4, 94. -/
def Obligations.LaunchCommands : Prop :=
  ∀ (s : State) (t : TowerId) (q : QueueId) (pa : Nat), s.cur = .queue t q →
    let y := s.queue t q
    let at_ := s.noseAt t y.ctx (y.slotAt y.head) true
    let goes : Prop := y.en = true ∧ y.head ≠ y.tail ∧ s.svc.halted = false ∧ s.ctxStopped y.ctx = false
    let r : BitVec 256 := BitVec.ofNat 256 (s.mem.nat pa 32)
    let opc : Instr := match (r.extractLsb' 0 8).toNat with
      | 0 => .cmdNop
      | 1 => .cmdLaunch
      | 2 => .cmdWait
      | 3 => .cmdSignal
      | _ => .cmdBadOperation
    let found : Prop := goes ∧ y.busy = true ∧ at_ = .at_ (.mem pa)
    let taken (i : Instr) : Prop := found ∧ pa % 32 = 0 ∧ opc = i ∧ s.tokenBars (linesOf pa 32) = false
    let arg : Word := r.extractLsb' 64 64
    let ends (i : Instr) (status : Byte) (m : Mem) : Prop := ∃ u, exec i s = .next u ∧ u.mem = m.setBytes (pa + 1) [status]
      ∧ (u.queue t q).head = y.head + 1 ∧ (u.queue t q).taking = none ∧ (u.queue t q).tail = y.tail ∧ u.launches = s.launches
    (∀ tail, ∃ u, exec (.queueTailDoorbell tail) s = .next u ∧ u.mem = s.mem ∧ (u.queue t q).tail = tail ∧ (u.queue t q).head = y.head
      ∧ (y.en = true → y.busy = false → y.head ≠ tail → s.svc.halted = false → s.ctxStopped y.ctx = false →
        (∀ l, s.noseAt t y.ctx (y.slotAt y.head) false = .at_ l → (u.queue t q).en = true ∧ (u.queue t q).busy = true
          ∧ ∃ i, .event (.queue t q) i ∈ u.agenda ∧ let b := leNat (s.bytesAt l 1)
            (b = 0 → i = .cmdNop) ∧ (b = 1 → i = .cmdLaunch) ∧ (b = 2 → i = .cmdWait) ∧ (b = 3 → i = .cmdSignal) ∧ (3 < b → i = .cmdBadOperation))
        ∧ (s.noseAt t y.ctx (y.slotAt y.head) false = .fail → (u.queue t q).en = false)))
    ∧ (∀ i ∈ [Instr.cmdNop, .cmdLaunch, .cmdWait, .cmdSignal, .cmdBadOperation],
      (¬ goes ∨ y.busy = false → exec i s = .next (s.setQueue t q { y with busy := false }))
      ∧ (goes → y.busy = true → at_ = .fail → exec i s = .next (s.setQueue t q { y with en := false, busy := false }))
      ∧ (goes → y.busy = true → at_ = .wait → exec i s = .next (s.postEvent (.queue t q) i))
      ∧ (found → opc ≠ i → exec i s = .next (s.postEvent (.queue t q) opc))
      ∧ (found → opc = i → s.tokenBars (linesOf pa 32) = true → exec i s = .next (s.postEvent (.queue t q) i)))
    ∧ (taken .cmdNop → ends .cmdNop 1 s.mem) ∧ (taken .cmdBadOperation → ends .cmdBadOperation 4 s.mem)
    ∧ (∀ hpa, goes → y.busy = true → at_ = .at_ (.host true hpa) → s.hostMem.byte hpa = 0 →
      ∃ u, exec .cmdNop s = .next u ∧ u.hostMem = s.hostMem.setBytes (hpa + 1) [1] ∧ u.mem = s.mem ∧ (u.queue t q).head = y.head + 1)
    ∧ (taken .cmdWait → let n : SeqNo := arg.extractLsb' 0 32
      let issued : Prop := (s.lastSeq - n).toNat < 2 ^ 31
      ((issued ∧ ∀ l, s.launch n = some l → l.completed = true) → ends .cmdWait 1 s.mem)
      ∧ (¬ issued ∨ (∃ l, s.launch n = some l ∧ l.completed = false) → exec .cmdWait s = .next s))
    ∧ (taken .cmdSignal → let drained : Prop := ∀ e ∈ s.launches, e.2.completed = true ∨ e.2.t ≠ t ∨ e.2.q ≠ q
      (arg.toNat % 8 ≠ 0 → ends .cmdSignal 4 s.mem)
      ∧ (arg.toNat % 8 = 0 → ¬ drained → exec .cmdSignal s = .next s)
      ∧ (arg.toNat % 8 = 0 → drained → (s.noseAt t y.ctx arg true = .fail → ends .cmdSignal 4 s.mem)
        ∧ (∀ a, s.noseAt t y.ctx arg true = .at_ (.mem a) →
          (s.tokenBars (linesOf a 8) = true → exec .cmdSignal s = .next (s.postEvent (.queue t q) .cmdSignal))
          ∧ (s.tokenBars (linesOf a 8) = false → ends .cmdSignal 1 (s.mem.setBytes a (leBytes 8 (r.extractLsb' 128 64).toNat))))))
    ∧ (taken .cmdLaunch →
      (∀ n l, y.taking = some n → s.launch n = some l → l.allBound = false → l.completed = false → exec .cmdLaunch s = .next s)
      ∧ (∀ n l, y.taking = some n → s.launch n = some l → l.allBound = true ∨ l.completed = true →
        ∃ u, exec .cmdLaunch s = .next u ∧ u.mem = s.mem ∧ (u.queue t q).head = y.head + 1 ∧ (u.queue t q).taking = none)
      ∧ (y.taking = none → arg.toNat % 128 ≠ 0 ∨ s.noseAt t y.ctx arg false = .fail → ends .cmdLaunch 2 s.mem)
      ∧ (∀ da, y.taking = none → arg.toNat % 128 = 0 → s.noseAt t y.ctx arg false = .at_ (.mem da) →
        let d : BitVec 1024 := BitVec.ofNat 1024 (s.mem.nat da 128)
        (s.checkDescriptor d y.ctx ≠ 1 → ends .cmdLaunch (s.checkDescriptor d y.ctx) s.mem)
        ∧ (s.checkDescriptor d y.ctx = 1 → let n := s.lastSeq + 1
          ∃ u, exec .cmdLaunch s = .next u ∧ u.lastSeq = n ∧ u.launch n = some { desc := d, t := t, q := q }
            ∧ u.mem = s.mem.setBytes (pa + 1) (1 :: s.mem.bytes (pa + 2) 2 ++ leBytes 4 n.toNat) ∧ (u.queue t q).lastseq = n
            ∧ (u.queue t q).taking = some n ∧ (u.queue t q).head = y.head ∧ .event (.launch n) .launchPlacement ∈ u.agenda)))
    ∧ (∀ (d : BitVec 1024) (ctx : CtxId), s.checkDescriptor d ctx = 1 ↔ d &&& ~~~descMask = 0 ∧ (descEntry d).toNat % 4 = 0 ∧ descPtroot d &&& 0xFFF0000000000FFF = 0
      ∧ (descCompl d).toNat % 8 = 0 ∧ descLw d ≤ 5 ∧ descLh d ≤ 5 ∧ 1 ≤ descSlots d ∧ descSlots d + bit (descCaps d) + bit (descMsg d) ≤ 16
      ∧ 1 ≤ descLskib d ∧ descLskib d ≤ 512 ∧ descLslo d + descLskib d ≤ 512
      ∧ (descPin d = true → descOx d % descW d = 0 ∧ descOy d % descH d = 0) ∧ descCtx d = ctx ∧ s.origins d ≠ [])

/-- R185, R187, R192 to R200, R19, R20, R32: placing, binding and completing launches. A launch is placed at one of its allowed origins once AFTER is over; placement and binding only write entries of the slot table that are not RUN, and what is written takes effect at the next rotation boundary; the queue that binds a free slot is of the highest class and has the most credit; a bound launch slot turns RUN with the registers of R32; a launch completes under its three conditions, its completion word rises by 1 and its entries are freed. Rests on the model's readings of log entries 29, 73, 74, 75, 89. -/
def Obligations.LaunchEvents : Prop :=
  ∀ (s : State) (n : SeqNo) (l : Launch) (c : CoreId) (k : SlotId),
    let y := s.slot c k
    let tableOnly (u : State) : Prop := u.mem = s.mem ∧ ∀ c' k', u.slot c' k' = { s.slot c' k' with entryNext := (u.slot c' k').entryNext }
      ∧ ((s.slot c' k').isRun = true → u.slot c' k' = s.slot c' k')
    (s.cur = .slot c k → ∀ e, (y.isRun = true → exec (.slotTableWrite e) s = .next s)
      ∧ (y.isRun = false → ∃ u, exec (.slotTableWrite e) s = .next u ∧ OnlySlot s u c k ∧ u.slot c k = { y with entryNext := some (e &&& entryMask) }
        ∧ .event (.slot c k) .slotDispatch ∈ u.agenda))
    ∧ (s.cur = .launch n → s.launch n = some l →
      (l.origin ≠ none ∨ l.completed = true ∨ l.aborted = true ∨ s.ctxStopped (descCtx l.desc) = true → exec .launchPlacement s = .next s)
      ∧ (descAftv l.desc = true → s.launchOver (descAfter l.desc) = false → exec .launchPlacement s = .next s)
      ∧ (l.origin = none → l.completed = false → l.aborted = false → s.ctxStopped (descCtx l.desc) = false →
        (descAftv l.desc = true → s.launchOver (descAfter l.desc) = true) → s.origins l.desc ≠ [] →
        ∃ u, ∃ o ∈ s.origins l.desc, exec .launchPlacement s = .next u ∧ u.mem = s.mem ∧ u.cores = s.cores
          ∧ ∃ l', u.launch n = some l' ∧ l' = { l with origin := some o, unbound := l'.unbound }
          ∧ (∀ x p, (x, p) ∈ l'.unbound ↔ x ∈ l'.cores ∧ (p < descSlots l.desc ∨ (p = 16 ∧ descCaps l.desc = true) ∨ (p = 17 ∧ descMsg l.desc = true)))
          ∧ (descGang l.desc = true → .event (.launch n) .gangPlacement ∈ u.agenda)
          ∧ (descGang l.desc = false → ∀ x ∈ l'.cores, .event (.core x) .rebindByWeight ∈ u.agenda))
      ∧ (∃ u, exec .gangPlacement s = .next u ∧ tableOnly u)
      ∧ (l.allBound = true ∨ l.completed = true ∨ l.aborted = true ∨ l.origin = none → exec .gangPlacement s = .next s))
    ∧ (s.cur = .core c → ∃ u, exec .rebindByWeight s = .next u ∧ tableOnly u)
    ∧ (∀ x ∈ s.contenders c, (∃ e ∈ s.bindable c fun p => decide (p < 16), e.2.t = x.1 ∧ e.2.q = x.2)
      ∧ ∀ e ∈ s.bindable c fun p => decide (p < 16), min 2 (s.queue x.1 x.2).cls.toNat ≤ min 2 (s.queue e.2.t e.2.q).cls.toNat)
    ∧ (∀ e w v, s.weigh c e = (some w, v) → w ∈ e
      ∧ ∀ x ∈ e, x ≠ w → Tab.look v.credits 0 (creditNo c x.1 x.2)
        ≤ Tab.look v.credits 0 (creditNo c w.1 w.2) + (e.map fun x => (max 1 (s.queue x.1 x.2).weight.toNat : Int)).sum)
    ∧ (s.cur = .slot c k → (y.dispatches = false → exec .slotDispatch s = .next s)
      ∧ ((∀ c' k', (c', k') ≠ (c, k) → (s.slot c' k').dispatches = false) →
        let passes (z : Slot) : Prop := ∃ u, exec .slotDispatch s = .next u ∧ u.mem = s.mem ∧ u.rot = s.rot + 1 ∧ u.phase = 0 ∧ .turn c k ∈ u.agenda
          ∧ u.slot c k = z ∧ ∀ c' k', (c', k') ≠ (c, k) → u.slot c' k' = s.slot c' k'
        (y.entryNext = none → entryState y.entry = 2 → y.starting = none → entryCapr y.entry = false → entryMsgr y.entry = false → s.launch (entrySeq y.entry) = some l →
          l.aborted = false → ∃ z, passes z ∧ entryState z.entry = 3 ∧ z.seq = 0 ∧ z.sqc = 0 ∧ z.eff = 2048 ∧ z.chunk = {} ∧ z.waiting = none ∧ z.park = .ready
            ∧ let r := z.regs
              r.pc = entryPc y.entry ∧ r.g[0] = descParam l.desc ∧ r.g[1] = BitVec.ofNat 64 (l.logical c).1 ∧ r.g[2] = BitVec.ofNat 64 (l.logical c).2
              ∧ r.g[3] = BitVec.ofNat 64 (entryLslot y.entry) ∧ r.g[4] = BitVec.ofNat 64 (descW l.desc) ∧ r.g[5] = BitVec.ofNat 64 (descH l.desc)
              ∧ r.g[6] = BitVec.ofNat 64 (descSlots l.desc) ∧ (∀ i : Fin 32, 7 ≤ i.val → r.g[i] = 0) ∧ r.v = Vector.replicate 16 0
              ∧ r.a = Vector.replicate 8 0 ∧ r.p = Vector.replicate 7 0 ∧ r.target = 2048 ∧ r.fpsr = 0 ∧ r.vprog = 0 ∧ r.xbase = 0x1FF)
        ∧ (∀ b, y.entryNext = none → entryState y.entry = 2 → y.starting = some b → s.launch (entrySeq y.entry) = some l → l.aborted = false →
          ∃ z, passes z ∧ entryState z.entry = 3 ∧ z.regs = b.regs ∧ z.seq = b.seq ∧ z.msg = b.msg ∧ z.chunk = {} ∧ z.park = .ready)
        ∧ (∀ e, y.entryNext = some e → y.isRun = false → (entryState e = 2 → s.imageBarred c (entrySeq e) = false) →
          ∃ u, exec .slotDispatch s = .next u ∧ (u.slot c k).entry = e ∧ (u.slot c k).entryNext = none ∧ u.mem = s.mem ∧ u.rot = s.rot + 1 ∧ u.phase = 0)))
    ∧ (s.cur = .launch n → s.launch n = some l → l.drops = 0 →
      (l.completed = true → exec .launchCompletion s = .next s)
      ∧ (s.mayComplete n l = false → exec .launchCompletion s = .next s)
      ∧ (l.aborted = false → (s.mayComplete n l = true ↔ l.origin.isSome = true ∧ l.done.length = descSlots l.desc * l.cores.length ∧ l.population = 0 ∧ l.commands = 0))
      ∧ (l.completed = false → s.mayComplete n l = true → (s.journal (descCtx l.desc)).rec_ = false →
        (∀ pa, descCompl l.desc ≠ 0 → s.noseAt l.t (descCtx l.desc) (descCompl l.desc) true = .at_ (.mem pa) → s.tokenBars (linesOf pa 8) = false →
          ∃ u, exec .launchCompletion s = .next u ∧ (∃ l', u.launch n = some l' ∧ l'.completed = true ∧ l'.desc = l.desc)
            ∧ u.mem = s.mem.setBytes pa (leBytes 8 ((s.mem.nat pa 8 + 1) % 2 ^ 64)))
        ∧ (descCompl l.desc = 0 → ∃ u, exec .launchCompletion s = .next u ∧ u.mem = s.mem ∧ (∃ l', u.launch n = some l' ∧ l'.completed = true ∧ l'.desc = l.desc)
          ∧ ∀ x ∈ s.entriesOf n, (s.slot x.1 x.2).isRun = false → (u.slot x.1 x.2).entryNext = some 0)))

/-- R76, R211, R216, R219 to R228, R243, R334, R346 to R352, R392, R393: grants, the priority token, the livelock watchdog, held steps, posted writes, and pre-emption and resume of a context. Of the requests that may be granted the one granted comes first in the order of R220; its bytes become committed memory, its slot's CHUNKSEQ rises by 1, its squash count is 0 and EFF doubles up to TARGET. Rests on the model's readings of log entries 51, 57, 70, 71, 76, 77, 78, 79, 80, 90. -/
def Obligations.GrantAndPreemptionEvents : Prop :=
  ∀ (s : State) (c : CoreId) (k : SlotId) (n : CtxId),
    let y := s.slot c k
    (s.cur = .none →
      (s.requests = [] → exec .commitGrant s = .next s)
      ∧ (∀ b v, s.nextBid = (some b, v) → v = { s with tape := v.tape } ∧ b.req ∈ s.requests ∧ s.requestChunk b.req = some b.chunk ∧ s.admits b.req b.chunk = true
        ∧ b = s.bid b.req b.chunk ∧ (∀ h ∈ s.arbHeld, ∀ a ∈ b.holds, a ∉ h.1)
        ∧ ∀ r ∈ s.requests, ∀ w, s.requestChunk r = some w → s.admits r w = true → rankBefore (requestRank r w) (requestRank b.req b.chunk) = true →
          let first := s.bid r w
          (∀ a ∈ b.holds, a ∉ first.holds) ∧ b.reach.meets first.reach = false ∧ (s.arbHeld = [] → s.tape ≠ []))
      ∧ ((∀ r ∈ s.requests, (s.requestChunk r).isSome = true) →
        ((s.nextBid.1 = none → ∃ u, exec .commitGrant s = .next u ∧ u.mem = s.mem ∧ u.cores = s.cores ∧ u.engines = s.engines ∧ u.requests = s.requests)
        ∧ (∀ b v, s.nextBid = (some b, v) → s.linksUp b.way = false → ∃ u, exec .commitGrant s = .next u ∧ u.mem = s.mem ∧ u.cores = s.cores
          ∧ u.engines = s.engines ∧ u.requests = s.requests
          ∧ ∀ l ∈ b.way, s.linksAsleep.getLsbD l.toNat = true → s.linksWaking.getLsbD l.toNat = false → .event (.link l) .linkWake ∈ u.agenda)
        ∧ (∀ b v w, s.nextBid = (some b, v) → b.req = .slot c k → b.chunk = w → s.linksUp b.way = true → w.effects = [] →
          (s.journal (entryCtx y.entry)).rec_ = false → (s.journal (entryCtx y.entry)).rpl = false → y.chunk.behind w = false → y.isRun = true → y.park = .ready ∨ y.park = .grant .go →
          ∃ u, exec .commitGrant s = .next u ∧ u.mem = w.wr.foldl (fun m e => m.setByte e.1 e.2) s.mem
            ∧ u.token = (if s.token = some (.slot c k) then none else s.token) ∧ .turn c k ∈ u.agenda
            ∧ ∃ z, u.slot c k = z ∧ z.waiting = none ∧ z.seq = y.seq + 1 ∧ z.sqc = 0 ∧ z.park = .ready
              ∧ z.eff = BitVec.ofNat 13 (min (if y.chunk.opened then y.chunk.chk.target else y.regs.target).toNat (2 * y.eff.toNat))
              ∧ z.regs = { y.regs with dead := y.regs.dead ||| (w.deadSet &&& ~~~y.chunk.written) })))
      ∧ (∀ r rest, s.token = none → s.tokenQ = r :: rest → exec .priorityTokenGrant s = .next { s with token := some r, tokenQ := rest })
      ∧ (s.token ≠ none ∨ s.tokenQ = [] → exec .priorityTokenGrant s = .next s))
    ∧ (s.cur = .slot c k →
      (y.isRun = true → 64 ≤ y.sqc.toNat → y.alone = true → y.strands { cause := 0x10, info := y.sqc.setWidth 64 } = false → y.regs.trapvec ≠ 0 → y.regs.inh = false →
        ∃ u, exec .livelockWatchdog s = .next u ∧ u.mem = s.mem ∧ (u.slot c k).sqc = 0
          ∧ (u.slot c k).regs = y.regs.trapped { cause := 0x10, info := y.sqc.setWidth 64 } ∧ .slot c k ∉ u.tokenQ ∧ u.token ≠ some (.slot c k))
      ∧ (y.isRun = false ∨ y.sqc.toNat < 64 ∨ y.alone = false → exec .livelockWatchdog s = .next s)
      ∧ (∀ i p, y.park = .solo i → performer i = some p → exec .soloStep s = p (s.setSlot c k { y with park := .ready }))
      ∧ (∀ i p, y.park = .edge i → performer i = some p → exec .edgeAccess s = p (s.setSlot c k { y with park := .ready }))
      ∧ (∀ i p t, y.park = .edge i → performer i = some p → p { s.setSlot c k { y with park := .ready } with answer := some 3 } = .next t →
        exec .edgeCompletionTimeout s = .next { t with answer := none } ∧ exec .peerResponseTimeout s = .next { t with answer := none })
      ∧ (∀ i, y.park = .solo i → performer i = none → ∃ u, exec .soloStep s = .next u ∧ OnlySlot s u c k ∧ u.slot c k = { y with park := .ready }
        ∧ u.agenda.head? = some (.turn c k))
      ∧ (∀ i, y.park = .edge i → performer i = none → (∃ u, exec .edgeAccess s = .next u ∧ OnlySlot s u c k ∧ u.slot c k = { y with park := .ready }
          ∧ u.agenda.head? = some (.turn c k))
        ∧ ∃ u, exec .edgeCompletionTimeout s = .next u ∧ exec .peerResponseTimeout s = .next u ∧ u.answer = some 3 ∧ u.slot c k = { y with park := .ready })
      ∧ (y.held false = none → exec .soloStep s = .next s)
      ∧ (y.held true = none → exec .edgeAccess s = .next s ∧ exec .edgeCompletionTimeout s = .next s ∧ exec .peerResponseTimeout s = .next s)
      ∧ (∀ st, ∃ u, exec (.postedWriteCompletion st) s = .next u ∧ u.mem = s.mem
        ∧ u.slot c k = { y with posted := { y.posted with
            open_ := y.posted.open_ - 1, err := if y.posted.err = 0 ∧ s.host.hasWrite (.slot c k) = true then st else y.posted.err } }
        ∧ (∀ c' k', (c', k') ≠ (c, k) → u.slot c' k' = s.slot c' k')
        ∧ (s.host.hasWrite (.slot c k) = false → u.hostMem = s.hostMem)
        ∧ ∀ a bs rest, s.host.posted = .write (.slot c k) a bs :: rest →
          u.hostMem = (if st = 0 then s.hostMem.setBytes a bs else s.hostMem))
      ∧ (∀ w, exec (.unassignedOpcode w) s = .next (s.raise c k { cause := 0x02 })))
    ∧ (∀ e w, s.cur = .engine e → exec (.unassignedOpcode w) s = .next (s.engineAbort e 2 { cause := 0x02 }))
    ∧ (s.cur = .ctx n →
      ((s.saves.find n.toNat).isSome = true → exec .preemption s = .next s)
      ∧ ((s.saves.find n.toNat).isSome = false →
        ((s.ctx n).preempting = none → s.saveBlockOk n = false → ∃ u, exec .preemption s = .next u
          ∧ ∀ q l, s.launch q = some l → descCtx l.desc = n → l.completed = false → l.aborted = false → l.origin.isSome = true → l.hasSlots = true →
            ∃ l', u.launch q = some l' ∧ l'.aborted = true)
        ∧ ((s.ctx n).preempting = none → s.saveBlockOk n = true → ∃ u, exec .preemption s = .next u
          ∧ .event (.ctx n) .preemption ∈ u.agenda ∧ .event (.ctx n) .preemptionTimeout ∈ u.agenda)
        ∧ ((s.ctx n).preempting ≠ none → (s.truncateAll n).preemptReady n = false → ∃ u, exec .preemption s = .next u ∧ u.mem = s.mem
          ∧ .event (.ctx n) .preemption ∈ u.agenda ∧ (∀ x ∈ s.untold n, (u.slot x.1 x.2).preempt = true) ∧ (s.untold n = [] → u.cores = s.cores))
        ∧ ((s.ctx n).preempting ≠ none → s.untold n = [] → s.preemptReady n = true → s.saveBlockOk n = true → s.token = none → ∃ u sv, exec .preemption s = .next u
          ∧ (u.ctx n).preempting = none ∧ u.saves.find n.toNat = some sv
          ∧ ∀ q l, (q, l) ∈ s.toSave n → q ∈ sv.launches ∧ ∀ x ∈ s.touched q l,
            (∃ b, (q, s.saveCore q l x b) ∈ sv.cores)
            ∧ ∀ j, entryCtx (u.slot x j).entry = n → entryState (u.slot x j).entry = 0 ∨ entryState (u.slot x j).entry = 5)
        ∧ ((s.ctx n).preempting ≠ none → s.untold n = [] → s.preemptReady n = true → s.saveBlockOk n = false → exec .preemption s = .next (s.abortPreempt n)))
      ∧ ((s.ctx n).preempting = none → exec .preemptionTimeout s = .next s)
      ∧ (∀ r, (s.ctx n).preempting = some r → s.rot < r + 2 ^ 18 → ∃ u, exec .preemptionTimeout s = .next u ∧ u.mem = s.mem
        ∧ .event (.ctx n) .preemptionTimeout ∈ u.agenda ∧ ((∃ p ∈ s.agenda, p.timed = false) → u.cores = s.cores))
      ∧ (∀ r, (s.ctx n).preempting = some r → r + 2 ^ 18 ≤ s.rot →
        (s.acknowledged n = true → s.untold n = [] → exec .preemptionTimeout s = .next s)
        ∧ (s.acknowledged n = false ∨ s.untold n ≠ [] → exec .preemptionTimeout s = .next ((s.reportTimeout n).abortPreempt n)))
      ∧ (s.saves.find n.toNat = none → exec .contextResume s = .next s)
      ∧ (∀ v, s.saves.find n.toNat = some v →
        (s.savedLaunches v = [] → v.rings = [] → v.outboxes = [] → ∃ u, exec .contextResume s = .next u ∧ u.saves.find n.toNat = none ∧ u.mem = s.mem)
        ∧ ((∃ p ∈ s.agenda, p.timed = false) → (s.setCtx n { s.ctx n with tilesWait := [] }).resumeAll n v (s.savedLaunches v) [] = none →
          ∃ u, exec .contextResume s = .next u ∧ u.cores = s.cores ∧ u.saves = s.saves ∧ u.mem = s.mem ∧ .event (.ctx n) .contextResume ∈ u.agenda)))
    ∧ (∀ q l, s.launch q = some l → descCtx l.desc = n → l.completed = false → l.aborted = false → l.origin.isSome = true → l.preempted = true →
      ∃ l', (s.abortPreempt n).launch q = some l' ∧ l'.aborted = true)
    ∧ (y.regs.inh = true → (s.truncateSlot c k).slot c k = { y with preempt := true, regs := { y.regs with ppend := true } })
    ∧ (y.regs.inh = false → y.park = .ready → (s.truncateSlot c k).slot c k = { y with preempt := true })
    ∧ (∀ b : Bool, y.chunk.len = 0 → y.waiting = none → y.awaiting = none → y.strands { cause := 0x12, info := BitVec.ofNat 64 (2 * bit b) } = false → y.regs.trapvec ≠ 0 → y.regs.inh = false →
      (b = true ↔ s.tilesTaken c (entryCtx y.entry) = false) → (b = true → s.lowerPending c k = false) →
      ∃ z, (s.preemptTurn c k).slot c k = z ∧ z.regs = y.regs.trapped { cause := 0x12, info := BitVec.ofNat 64 (2 * bit b) } ∧ z.preempt = false ∧ z.tiles = some b)
    ∧ (∀ q l x tiles, y.isRun = false → ∃ z b, (s.resumeSlot q l c k x tiles).slot c k = z ∧ z.entryNext = some (l.record q x.role 2 &&& entryMask) ∧ z.posted = x.posted
      ∧ (x.run = true → z.starting = some b ∧ b.seq = x.chunkSeq ∧ b.msg = x.msg
        ∧ b.regs.pc = addrCsr (descTrapv l.desc) ∧ b.regs.priv = true ∧ b.regs.inh = false ∧ b.regs.trapcause = 0x12
        ∧ b.regs.trapinfo = BitVec.ofNat 64 (1 + 2 * bit tiles) ∧ b.regs.sscr[0] = x.sscr0))

/-- R341, R344, R366, R368, R388, R390 to R402, R415, R416, R418, R419: fault records, soft errors, registers written by the host or a Nose, host accesses, atomics, reads of registers and snoops, MSI-X, rail limits, and the Ouvken ports. A record that finds its queue disabled or full waits if it is of kind 0 and is counted as dropped otherwise; else it is stored at PROD with its number, unless the stack there is FENCED, and PROD rises by 1. Rests on the model's readings of log entries 9, 20, 25, 32, 60, 61, 68, 81, 82, 84, 86, 91, 97, 115. -/
def Obligations.HostAndLinkEvents : Prop :=
  ∀ (s : State) (t : TowerId) (d : DieId) (p : BitVec 4) (r : FaultRec) (c : CoreId) (k : SlotId) (x : Word),
    let q := s.faultq t
    let z := s.die d
    let h := s.host
    let stored (b : BitVec 512) : Mem := if (s.stack (stackOf (q.slotAt q.prod))).st = .fenced then s.mem
      else s.mem.setBytes (q.slotAt q.prod) (leBytes 64 (setField b 320 32 q.prod.toNat).toNat)
    ((q.en = false ∨ q.isFull = true → (r.kind = 0 → s.report t r = s.setFaultq t { q with wait := q.wait ++ [r.bits t] })
        ∧ (r.kind ≠ 0 → s.report t r = s.setFaultq t { q with drop := q.drop + 1 }))
      ∧ (q.en = true → q.isFull = false → s.tokenBars (linesOf (q.slotAt q.prod) 64) = false →
        (s.report t r).mem = stored (r.bits t) ∧ (s.report t r).faultq t = { q with prod := q.prod + 1 }))
    ∧ (s.cur = .tower t →
      (q.wait = [] → exec .faultRecordDeferredWrite s = .next (s.setFaultq t { q with wait := [] }))
      ∧ (∀ b, q.wait = [b] → q.en = true → q.isFull = false → s.tokenBars (linesOf (q.slotAt q.prod) 64) = false →
        ∃ u, exec .faultRecordDeferredWrite s = .next u ∧ u.mem = stored b ∧ u.faultq t = { q with prod := q.prod + 1, wait := [] })
      ∧ (∀ b bs, q.wait = b :: bs → q.en = false ∨ q.isFull = true → exec .faultRecordDeferredWrite s = .next (s.setFaultq t { q with wait := b :: bs }))
      ∧ exec .memoryFirewallBlock s = .next (s.report t { cause := 0, sub := s.svc.cause, kind := 8 })
      ∧ (h.snooped = [] → exec .hdmBackInvalidateTimeout s = .next s)
      ∧ (h.snooped ≠ [] → exec .hdmBackInvalidateTimeout s = .next (s.report t { cause := 0, kind := 7 }).hostLinkDown))
    ∧ (s.hostLinkDown.host.up = false ∧ s.hostLinkDown.host.posted = [] ∧ s.hostLinkDown.host.shared = [] ∧ s.hostLinkDown.host.snooped = [] ∧ s.hostLinkDown.mem = s.mem
      ∧ ((s.slot c k).posted.count ≠ 0 → (s.hostLinkDown.slot c k).posted.open_ = 0
        ∧ (s.hostLinkDown.slot c k).posted.err = if (s.slot c k).posted.err = 0 then 6 else (s.slot c k).posted.err))
    ∧ (s.cur = .die d →
      exec .softErrorCorrected s = .next (s.setDie d { z with cecnt := if z.cecnt = BitVec.allOnes 16 then z.cecnt else z.cecnt + 1 })
      ∧ (s.dieBusy d = false → ∃ u, exec (.diepartWrite x) s = .next u ∧ u.die d = { z with part := x.extractLsb' 0 3 } ∧ u.mem = s.mem ∧ u.cores = s.cores)
      ∧ (s.dieBusy d = true → ∃ u, exec (.diepartWrite x) s = .next u ∧ u.dies = s.dies ∧ u.mem = s.mem ∧ u.cores = s.cores)
      ∧ (∀ hi, exec (.monstatWrite true hi x) s = .next s)
      ∧ exec (.monstatWrite false true x) s = .next (s.setDie d { z with throt := x.extractLsb' 0 12 })
      ∧ exec (.monstatWrite false false x) s = .next (s.setDie d { z with cecnt := x.extractLsb' 48 16 })
      ∧ (∃ u v, exec .monstatVminRead s = .next u ∧ u.die d = { z with vmin := v } ∧ u.mem = s.mem ∧ u.cores = s.cores
        ∧ u.outputs = s.outputs ++ [.regRead (0#32 ++ z.vmin ++ 0#4 ++ z.throt : BitVec 64)]))
    ∧ (s.cur = .none →
      (∀ n at3, exec (.softErrorUncorrectable (.line n at3)) s = .next { s with poison := s.poison.put n.toNat at3 })
      ∧ (∀ n, exec (.softErrorUncorrectable (.granule c n)) s = .next (s.setCore c { s.core c with lsPoison := insertOnce (s.core c).lsPoison n.toNat }))
      ∧ exec (.softErrorUncorrectable (.control t)) s = .next ((s.report t { cause := 0, kind := 7 }).abortWhere fun c => towerOf c == t)
      ∧ (∀ e, exec (.softErrorUncorrectable (.engineState e)) s = .next (if (s.engine e).chunk.isEmpty then s else s.squashEngine e))
      ∧ ((s.slot c k).waiting = none → exec (.softErrorUncorrectable (.chunkState c k)) s = .next (if (s.slot c k).chunk.isEmpty then s else s.squashSlot c k false))
      ∧ ((s.slot c k).waiting ≠ none → ∃ (u : State) (whole : Bool), exec (.softErrorUncorrectable (.chunkState c k)) s = .next (u.squashSlot c k whole) ∧ u = { s with tape := u.tape })
      ∧ ((s.slot c k).isRun = true → (s.slot c k).chunk.opened = true ∨ (∃ w ∈ (s.slot c k).waiting, w.opened = true) → (∀ w ∈ (s.slot c k).waiting, w.opened = true) →
        ∃ u : State, exec (.softErrorUncorrectable (.checkpoint c k)) s = .next (u.trapDue c k (poisonTrap 0 5 false)) ∧ u.mem = s.mem)
      ∧ ((s.slot c k).isRun = true → ((s.slot c k).waiting = none ∧ (s.slot c k).chunk.opened = true ∧ (s.slot c k).chunk.shadows ≠ [])
          ∨ ((s.slot c k).chunk.opened = false ∧ ∃ w, (s.slot c k).waiting = some w ∧ w.opened = true ∧ w.shadows ≠ []) →
        ∃ u : State, exec (.softErrorUncorrectable (.tileShadow c k)) s = .next (u.trapDue c k (poisonTrap 0 4 false)) ∧ u.mem = s.mem)
      ∧ exec .hostPortLinkDown s = .next s.hostLinkDown
      ∧ (s.svc.tripped = false → let takes (x : Input) (u : State) : Prop := step { s with agenda := .input x :: s.agenda } = .next u
        (∀ on off, ∃ u, takes (.msixControl on off) u ∧ u.host.enabled = on ∧ u.host.fmask = off ∧ u.mem = s.mem
          ∧ ∀ v : BitVec 11, on = true → off = false → h.pending.getLsbD v.toNat = true → (h.entry v.toNat).getLsbD 96 = false →
            .event .none (.msixPendingSend v) ∈ u.agenda)
        ∧ (∀ pkg pa bs, takes (.peerWrite pkg pa bs) { s with peerMem := s.peerMem.setBytes (pkg.toNat * 2 ^ 40 + pa.toNat) bs })
        ∧ (∀ off n, 6 ≤ s.svc.boot → h.up = true → ∃ u, takes (.barRead off n) u ∧ u.mem = s.mem
          ∧ u.outputs = s.outputs ++ [.hostRead (some (s.regBytes off.toNat n)) 0])
        ∧ (∀ n, ∃ u, takes (.birsp n) u ∧ u.mem = s.mem ∧ u.host.snooped = h.snooped.erase n ∧ ∀ e ∈ u.arbHeld, e.2 ≠ [])
        ∧ (∀ rail limit, ∃ u, takes (.railLimit rail limit) u ∧ u.railLimit rail = min limit (s.railLimit rail))
        ∧ ∀ (opc : Byte) ty (pa : BitVec 40) v w, let a := pa.toNat
          let n := if opc = 0x70 then 16 else atomicBits ty / 8
          3 ≤ s.svc.boot → h.up = true → opc ∈ [(0x68 : Byte), 0x6E, 0x6F, 0x70] → a % n = 0 → s.portReach (stackOf a) = .yes →
          s.poisoned (linesOf a n) = none → s.tokenBars (linesOf a n) = false →
          ∃ u, takes (.hostAtomic opc ty pa v w) u ∧ .hostRead (some (leBytes n (s.mem.nat a n))) 0 ∈ u.outputs
            ∧ u.mem = s.mem.setBytes a (leBytes n (if opc = 0x70 then (if s.mem.nat a n = w.toNat then v.toNat else s.mem.nat a n)
              else atomicNew opc.toNat ty (atomicBits ty) (s.mem.nat a n) v.toNat w.toNat)))
      ∧ (∀ hpa bs, exec (.hostSnoop hpa bs) s = .next { s with hostMem := s.hostMem.setBytes hpa.toNat bs })
      ∧ (∀ w pa n bs, s.svc.boot < 3 → exec (.hostMemoryAccess w pa n bs) s = .next (if w then s else { s with outputs := s.outputs ++ [.hostRead none 1] }))
      ∧ (∀ w pa n bs, 3 ≤ s.svc.boot → n = 0 ∨ h.up = false → exec (.hostMemoryAccess w pa n bs) s = .next s)
      ∧ (∀ (pa : BitVec 40) (n : Nat) (bs : List Byte), 3 ≤ s.svc.boot → n ≠ 0 → h.up = true →
        let a := pa.toNat
        (s.portReach (stackOf a) = .reject → ∀ w, ∃ u, exec (.hostMemoryAccess w pa n bs) s = .next u ∧ u.mem = s.mem
          ∧ (u.stack (stackOf a)).rej = satSucc (s.stack (stackOf a)).rej ∧ u.outputs = s.outputs ++ [if w then .hostWrite 5 else .hostRead none 5])
        ∧ (s.portReach (stackOf a) = .park → ∀ w, ∃ u, exec (.hostMemoryAccess w pa n bs) s = .next u ∧ u = { s with agenda := u.agenda }
          ∧ .event .none (.hostMemoryAccess w pa n bs) ∈ u.agenda)
        ∧ (s.portReach (stackOf a) = .yes → a % 64 + n ≤ 64 →
          (s.tokenBars (linesOf a n) = false → ∃ u, exec (.hostMemoryAccess true pa n bs) s = .next u
            ∧ u.mem = s.mem.setBytes a ((List.range n).map fun i => bs.getD i 0) ∧ .hostWrite 0 ∈ u.outputs)
          ∧ (s.tokenBars (linesOf a n) = true → ∃ u, exec (.hostMemoryAccess true pa n bs) s = .next u ∧ u.mem = s.mem
            ∧ .event .none (.hostMemoryAccess true pa n bs) ∈ u.agenda)
          ∧ (s.poisoned (linesOf a n) = none → ∃ u, exec (.hostMemoryAccess false pa n bs) s = .next u ∧ u.mem = s.mem ∧ u.cores = s.cores
            ∧ u.outputs = s.outputs ++ [.hostRead (some (s.mem.bytes a n)) 0] ∧ ∀ l ∈ linesOf a n, l ∈ u.host.shared)
          ∧ (s.poisoned (linesOf a n) ≠ none → ∃ u, exec (.hostMemoryAccess false pa n bs) s = .next u ∧ u.mem = s.mem
            ∧ u.outputs = s.outputs ++ [.hostRead none 4]))
        ∧ (s.portReach (stackOf a) = .yes → 64 < a % 64 + n → a + (64 - a % 64) < 2 ^ 40 → s.tokenBars (linesOf a (64 - a % 64)) = false →
          ∀ w, ∃ u, exec (.hostMemoryAccess w pa n bs) s = .next u
            ∧ .event .none (.hostMemoryAccess w (pa + BitVec.ofNat 40 (64 - a % 64)) (n - (64 - a % 64)) (bs.drop (64 - a % 64))) ∈ u.agenda))
      ∧ (∀ v : BitVec 11,
        let e := h.entry v.toNat
        let blocked : Prop := h.pending.getLsbD v.toNat = false ∨ e.getLsbD 96 = true ∨ h.fmask = true ∨ h.enabled = false ∨ h.up = false
        (blocked → exec (.msixPendingSend v) s = .next s)
        ∧ (¬ blocked → h.posted = [] → ∃ u, exec (.msixPendingSend v) s = .next u ∧ u.mem = s.mem ∧ u.host.pending = h.pending &&& ~~~(1#2048 <<< v.toNat)
          ∧ u.outputs = s.outputs ++ [.msix (e.extractLsb' 0 64) (e.extractLsb' 64 32)]))
      ∧ (∀ v, exec (.alarmWrite true v) s = .next s ∧ exec (.alarmWrite false v) s = .next { s with svc := { s.svc with
          pol := if s.svc.lock = true ∧ min 2 (v.extractLsb' 0 2).toNat < min 2 s.svc.pol.toNat then s.svc.pol else v.extractLsb' 0 2
          lock := s.svc.lock || v.getLsbD 2, cause := s.svc.cause &&& ~~~(v.extractLsb' 8 8) } })
      ∧ (∀ (b : Bool) (off : BitVec 28), (b = true → h.up = true) →
        let w := regAt (off.toNat / 8 * 8)
        let now := exec (.registerWrite b off x) s
        (∀ t q, w = .queue t q 0 → ((s.queue t q).en = true → now = .next s) ∧ ((s.queue t q).en = false → now = .next (s.setQueue t q { s.queue t q with base := x })))
        ∧ (∀ t q, w = .queue t q 1 → let y := s.queue t q
          ∃ u, now = .next u ∧ u.mem = s.mem ∧ (u.queue t q).weight = x.extractLsb' 16 8
            ∧ (y.en = true → (u.queue t q).ctx = y.ctx ∧ (u.queue t q).cls = y.cls ∧ (u.queue t q).logn = y.logn)
            ∧ (y.en = false → (u.queue t q).ctx = x.extractLsb' 32 12 ∧ (u.queue t q).cls = x.extractLsb' 24 2 ∧ (u.queue t q).logn = x.extractLsb' 0 4))
        ∧ (∀ t q, w = .queue t q 2 → ∃ u, now = .next u ∧ u.mem = s.mem ∧ (u.queue t q).tail = x.extractLsb' 0 32 ∧ (u.queue t q).head = (s.queue t q).head)
        ∧ (∀ t, w = .faultq t 0 → now = .next (s.setFaultq t { s.faultq t with base := x }))
        ∧ (∀ n, w = .ctx n 0 → ∃ u, now = .next u ∧ u.ctx n = { s.ctx n with save := x })
        ∧ (∀ n, w = .ctx n 1 → ∃ u, now = .next u ∧ u.ctx n = { s.ctx n with part := x.extractLsb' 0 3, dcnt := x.getLsbD 3 })
        ∧ (∀ n, w = .ctx n 2 → ∃ u, now = .next u ∧ u.ctx n = { s.ctx n with ptroot := x })
        ∧ (∀ m, w = .stack m → now = .next (s.setStack m { s.stack m with rej := (s.stack m).rej &&& ~~~(x.extractLsb' 24 8) }))
        ∧ (∀ n, w = .pkgbar n → now = .next { s with pkgBars := s.pkgBars.put n.toNat ⟨x.extractLsb' 0 16, x.extractLsb' 16 8, x.extractLsb' 24 9, x.extractLsb' 40 8⟩ })
        ∧ (∀ n, w = .route n → now = .next { s with routes := s.routes.put n.toNat (x.extractLsb' 0 4, x.getLsbD 4) })
        ∧ (w = .none ∨ (∃ n, w = .pba n) ∨ (∃ n, w = .port n) ∨ (b = true ∧ (w = .alarm ∨ ∃ n hi, w = .monstat n hi)) → now = .next s))
      ∧ (∀ w mask, s.regWrite (.faultq t w) .slot x mask = s)
      ∧ (h.up = false → ∀ off, exec (.registerWrite true off x) s = .next s))
    ∧ (s.cur = .port p →
      let y := s.ports.look {} p.toNat
      exec .ouvkenPortDown s = .next { s with ports := s.ports.put p.toNat { y with up := false } }
      ∧ (∀ f, (y.up = false → exec (.ouvkenFlitReceive f) s = .next s)
        ∧ (let failed := if y.asked then y.fails + 1 else y.fails
          (y.up = true → f.crcOk = false → failed < 16 → exec (.ouvkenFlitReceive f) s
            = .next { s with ports := s.ports.put p.toNat { y with asked := true, fails := failed }, outputs := s.outputs ++ [.replay p] })
          ∧ (y.up = true → f.crcOk = false → 16 ≤ failed → ∃ u, exec (.ouvkenFlitReceive f) s = .next u ∧ (u.ports.look {} p.toNat).up = false ∧ u.mem = s.mem ∧ u.outputs = s.outputs))
        ∧ (y.up = true → f.crcOk = true →
          (f.dest = s.pkg → exec (.ouvkenFlitReceive f) s = .next { s with ports := s.ports.put p.toNat { y with asked := false, fails := 0 } })
          ∧ (∀ o, f.dest ≠ s.pkg → s.routes.look (0, false) f.dest.toNat = (o, true) → o ≠ p → (s.ports.look {} o.toNat).up = true →
            ∃ u, exec (.ouvkenFlitReceive f) s = .next u ∧ u.mem = s.mem ∧ u.outputs = s.outputs ++ [.flit o f]
              ∧ (u.ports.look {} o.toNat).sent = (s.ports.look {} o.toNat).sent ++ [f])
          ∧ (∀ o v, f.dest ≠ s.pkg → s.routes.look (0, false) f.dest.toNat = (o, v) → o ≠ p → v = false ∨ (s.ports.look {} o.toNat).up = false →
            exec (.ouvkenFlitReceive f) s = .next { s with ports := s.ports.put p.toNat { y with asked := false, fails := 0 }, outputs := s.outputs ++ [.peer f.src [] 6] })))
      ∧ ∀ (src : BitVec 8) (pa : BitVec 40),
        let a := pa.toNat
        (s.portReach (stackOf a) = .reject → ∀ op, ∃ u, exec (.peerAccessRequest src pa op) s = .next u ∧ u.mem = s.mem
          ∧ (u.stack (stackOf a)).rej = satSucc (s.stack (stackOf a)).rej ∧ u.outputs = s.outputs ++ [.peer src [] 5])
        ∧ (s.portReach (stackOf a) = .park → ∀ op, exec (.peerAccessRequest src pa op) s = .next (s.postEvent (.port p) (.peerAccessRequest src pa op)))
        ∧ (s.portReach (stackOf a) = .yes →
          (∀ n, s.poisoned (linesOf a n) = none → exec (.peerAccessRequest src pa (.load n)) s = .next { s with outputs := s.outputs ++ [.peer src (s.mem.bytes a n) 0] })
          ∧ (∀ n, s.poisoned (linesOf a n) ≠ none → exec (.peerAccessRequest src pa (.load n)) s = .next { s with outputs := s.outputs ++ [.peer src [] 4] })
          ∧ (∀ bs, s.tokenBars (linesOf a bs.length) = false → ∃ u, exec (.peerAccessRequest src pa (.store bs)) s = .next u
            ∧ u.mem = s.mem.setBytes a bs ∧ .peer src [] 0 ∈ u.outputs)
          ∧ (∀ opc ty v w, let n := if opc = 0x70 then 16 else atomicBits ty / 8
            s.tokenBars (linesOf a n) = false → s.poisoned (linesOf a n) = none → ∃ u, exec (.peerAccessRequest src pa (.atomic opc ty v w)) s = .next u
              ∧ .peer src (leBytes n (s.mem.nat a n)) 0 ∈ u.outputs
              ∧ u.mem = s.mem.setBytes a (leBytes n (if opc = 0x70 then (if s.mem.nat a n = w.toNat then v.toNat else s.mem.nat a n)
                else atomicNew opc.toNat ty (atomicBits ty) (s.mem.nat a n) v.toNat w.toNat)))))

/-- R414 to R417, R419 to R421: the security alarm by POL, bring-up after power good or a package reset step by step, rail clamp on every die of the rail, thermal throttle and trip (after which only power, reset and the alarm still act), and the SPDM exchange. The codes and payloads of the SPDM answers are the model's own (presumed from DMTF SPDM 1.2; log entry 87). Rests on the model's readings of log entries 82, 83, 84, 85, 86, 87. -/
def Obligations.ServiceEvents : Prop :=
  ∀ (s : State) (d : DieId),
    let v := s.svc
    let ready : Prop := v.spdm.version = true ∧ v.spdm.caps = true ∧ v.spdm.algs = true
    let answers (i : Instr) (o : Out) : Prop := ∃ u, exec i s = .next u ∧ u.outputs = s.outputs ++ [o] ∧ u.mem = s.mem ∧ u.cores = s.cores
    (s.cur = .none →
      (∀ cause : BitVec 2, ∃ u, exec (.securityAlarm cause) s = .next u
        ∧ u.svc = { v with
            cause := v.cause ||| (1#8 <<< cause), num := v.num + 1, erased := v.erased || decide (2 ≤ v.pol.toNat), halted := v.halted || decide (1 ≤ v.pol.toNat) }
        ∧ (1 ≤ v.pol.toNat → (∀ p : BitVec 4, (u.ports.look {} p.toNat).up = false) ∧ u.host.up = false
          ∧ (∀ m, (u.stack m).st = .owned ∨ (u.stack m).st = .fenced)
          ∧ ∀ n l, s.launch n = some l → l.completed = false → ∃ l', u.launch n = some l' ∧ l'.aborted = true))
      ∧ (∀ i ∈ [Instr.powerGood, .packageReset], ∃ u, exec i s = .next u ∧ u.agenda.head? = some .boot
        ∧ u = { State.reset with
            agenda := u.agenda, tape := s.tape, fresh := s.fresh, hostMem := s.hostMem, peerMem := s.peerMem, lsImages := s.lsImages, pkg := s.pkg
            outputs := s.outputs, svc := { erased := v.erased, boot := 1 }, host := { up := false }, ports := u.ports }
        ∧ ∀ p : BitVec 4, (u.ports.look {} p.toNat).up = false)
      ∧ (∀ t : State, s.agenda = [] → s.tape = [] → v.tripped = false → t = { s with agenda := [.boot] } →
        (v.boot = 1 → step t = .next { s with agenda := [.boot], svc := { v with boot := 2 } })
        ∧ (v.boot = 2 → ∃ u, step t = .next u ∧ u.svc = { v with boot := 3 } ∧ u.mem = [] ∧ u.agenda = [.boot] ∧ ∀ m, u.stack m = {})
        ∧ (v.boot = 3 → ∃ u, step t = .next u ∧ u.svc = { v with boot := 4 } ∧ u.agenda = [.boot] ∧ (∀ c, u.core c = State.reset.core c) ∧ ∀ d, (u.die d).part = 0)
        ∧ (v.boot = 4 → ∃ u, step t = .next u ∧ u.svc = { v with boot := 5 } ∧ u.agenda = [.boot])
        ∧ (v.boot = 5 → ∃ u, step t = .next u ∧ u.svc = { v with boot := 6 } ∧ u.host = { s.host with up := true } ∧ u.agenda = [.boot])
        ∧ (v.boot = 6 → ∃ u, step t = .next u ∧ u.svc = { v with boot := 7 } ∧ u.agenda = [] ∧ ∀ p : BitVec 4, (u.ports.look {} p.toNat).up = true))
      ∧ (v.tripped = true → (s.agenda = [] → step s = .next s)
        ∧ ∀ q rest, s.agenda = q :: rest → (∀ i ∈ [Instr.powerGood, .packageReset, .securityAlarm 0, .securityAlarm 1, .securityAlarm 2, .securityAlarm 3], ∀ a, q ≠ .event a i) →
          step s = .next { s with agenda := rest })
      ∧ (∃ u, exec .thermalTrip s = .next u ∧ u.svc = { v with tripped := true } ∧ u.mem = s.mem ∧ .mgmt 0 ∈ u.outputs)
      ∧ (v.erased = true → ∀ off n nonce, ∀ i ∈ [Instr.getVersion, .getCapabilities, .negotiateAlgorithms, .getDigests, .getCertificate off n, .challenge nonce, .getMeasurements 4],
        answers i (.spdm 0x7F [0x05]))
      ∧ (v.erased = false →
        (∃ u, exec .getVersion s = .next u ∧ u.outputs = s.outputs ++ [.spdm 0x04 [0, 1, 0, 0x12]] ∧ u.svc = { v with spdm := { version := true } })
        ∧ (v.spdm.version = true → (∃ u, exec .getCapabilities s = .next u ∧ u.outputs = s.outputs ++ [.spdm 0x61 [0x16, 0, 0, 0]] ∧ u.svc = { v with spdm := { v.spdm with caps := true } })
          ∧ (v.spdm.caps = true → ∃ u, exec .negotiateAlgorithms s = .next u ∧ u.outputs = s.outputs ++ [.spdm 0x63 [0x80, 0, 0, 0, 2, 0, 0, 0]]
            ∧ u.svc = { v with spdm := { v.spdm with algs := true } }))
        ∧ (ready → answers .getDigests (.spdm 0x01 (attest 0 48 0)) ∧ (∀ off n, answers (.getCertificate off n) (.spdm 0x02 (attest 1 n off)))
          ∧ (∀ nonce : BitVec 256, answers (.challenge nonce) (.spdm 0x03 (leBytes 32 nonce.toNat ++ attest (s.fresh + 8) 96 0)))
          ∧ answers (.getMeasurements 0) (.spdm 0x60 [4])
          ∧ (∀ i : BitVec 8, 1 ≤ i.toNat → i.toNat ≤ 3 → answers (.getMeasurements i) (.spdm 0x60 (i :: attest (1 + i.toNat) 48 0)))
          ∧ answers (.getMeasurements 4) (.spdm 0x60 (4 :: attest 5 48 (64 * (v.pol.toNat + 4 * bit v.lock))))
          ∧ (∀ i : BitVec 8, 4 < i.toNat → i.toNat < 255 → answers (.getMeasurements i) (.spdm 0x7F [0x01])))
        ∧ (¬ ready → ∀ off n nonce, ∀ i ∈ [Instr.getDigests, .getCertificate off n, .challenge nonce, .getMeasurements 4], answers i (.spdm 0x7F [0x04]))))
    ∧ (s.cur = .die d →
      (∃ u b, exec .railCurrentClamp s = .next u ∧ u.mem = s.mem ∧ u.cores = s.cores
        ∧ ∀ e, u.die e = if Config.railOf e = Config.railOf d then { s.die e with slow := b } else s.die e)
      ∧ (∃ u a b c, exec .thermalThrottle s = .next u ∧ u.mem = s.mem ∧ u.cores = s.cores
        ∧ u.die d = { s.die d with tmax := a, tidx := b, rosc := c, hot := decide (min 880 (s.die d).throt.toNat < a.toNat) }))

/-- R66 to R71, R75, R307: the decoder reads back every well-formed instruction from the word that the encoder gives it, with every operand at every value that its encoding admits: on a slot, and for the engine forms on an engine hart. -/
def Obligations.RoundTrip : Prop :=
  ∀ (i : Instr) (w : BitVec 96), i.wf = true → encode i = some w →
    (i.hartOnly = false → decodeSlot w = .ok i) ∧ (i.hartOnly = true → decodeHart w = .ok i)

/-- R19, R30, R190, R193, R341, R350, R366, R368, R401, R403, R414, R416, R419: the package right after reset. Memory and every local store read as zero; every register of device control space and every slot holds the value of its Reset column, with the stacks OWNED by their first die; no launch, request, hold or fault record exists, and memory has its canonical form. The registers of an unbound slot (log entry 3), the empty agenda, on which a step is a passing rotation (log entry 1), the last launch number 0 (log entry 4) and the MSI-X bits (log entry 9) are the model's choice. -/
def Obligations.ResetState : Prop :=
  let s := State.reset
  s.MemWf ∧ (∀ a, s.mem.byte a = 0) ∧ (∀ c a, (s.core c).ls.byte a = 0) ∧ s.rot = 0 ∧ s.phase = 0
    ∧ (∀ t q, s.regRead (.queue t q 0) = 0 ∧ s.regRead (.queue t q 1) = 0x01010000 ∧ s.regRead (.queue t q 2) = 0 ∧ s.regRead (.queue t q 3) = 0)
    ∧ (∀ t, s.regRead (.faultq t 0) = 0 ∧ s.regRead (.faultq t 1) = 4 ∧ s.regRead (.faultq t 2) = 0 ∧ s.regRead (.faultq t 3) = 0)
    ∧ (∀ n w, s.regRead (.ctx n w) = 0) ∧ (∀ d, s.regRead (.diepart d) = 0) ∧ (∀ n, s.regRead (.pkgbar n) = 0)
    ∧ (∀ p, s.regRead (.route p) = 0) ∧ (∀ n, s.regRead (.pba n) = 0) ∧ s.regRead .alarm = 0
    ∧ (∀ m, s.regRead (.stack m) = (0#41 ++ stackDie1 m ++ 0#1 ++ stackDie0 m ++ 0#16 : BitVec 64))
    ∧ (∀ d, s.regRead (.monstat d false) = 0 ∧ s.regRead (.monstat d true) = 800)
    ∧ (∀ c k, (s.slot c k).entry = 0 ∧ (s.slot c k).eff = 2048 ∧ (s.slot c k).chunk = {} ∧ (s.slot c k).waiting = none
      ∧ (∀ n : Fin 32, (s.slot c k).regs.g[n] = 0) ∧ (s.slot c k).regs.target = 2048 ∧ (s.slot c k).regs.xbase = 0x1FF
      ∧ (s.slot c k).regs.fpsr = 0 ∧ (s.slot c k).regs.priv = false ∧ (s.slot c k).regs.trapvec = 0)
    ∧ (∀ c b, (s.core c).bars[(b : Fin 8)] = {}) ∧ (∀ e, (s.engine e).cmd = none ∧ (s.engine e).queue = [])
    ∧ s.launches = [] ∧ s.requests = [] ∧ s.token = none ∧ s.holds = [] ∧ s.lastSeq = 0 ∧ s.poison = [] ∧ s.outputs = []
    ∧ step s = .next { s with rot := 1 }

/-- R21, R22, R66, R75, R283, R305: a step is the instruction at the program counter. When the agenda gives a turn to a running, ready slot that nothing stops first, the machine opens the slot's chunk, fetches three words and executes exactly the instruction that they decode to; a word that does not decode is an Illegal Instruction or Illegal Encoding trap. A word of code comes from committed memory, or from a copy fetched earlier (R283). A machine event runs as its row at the agent it names, a hart's turn runs the word at its program counter in the engine store. Eight words, written out from R66 to R71, decode to the instructions they stand for, and one with a reserved bit set does not decode. Rests on the model's readings of log entries 1, 30. -/
def Obligations.StepRunsDecoded : Prop :=
  (∀ (s : State) (c : CoreId) (k : SlotId) (rest : List Pick),
    let timed := { ({ s with agenda := rest, cur := .none } : State).atSlot k ((s.slot c k).lastRot == s.rot) with cur := .slot c k }
    let y := timed.slot c k
    let ready := (timed.setSlot c k { y with lastRot := timed.rot, regs := { y.regs with ppend := y.regs.ppend || y.preempt } }).openChunk c k
    s.agenda = .turn c k :: rest → s.svc.tripped = false → y.isRun = true → y.park = .ready → y.cutDue = none → y.stopping = false →
      (y.preempt = true → y.regs.inh = true) → (y.sqc.toNat < 64 ∨ y.alone = false) →
    (∀ w t i, ready.fetch = .ok (w, t) → decodeSlot w = .ok i →
      step s = match exec i t with
        | .next u => .next { u with answer := none }
        | o => o)
    ∧ (∀ w t e, ready.fetch = .ok (w, t) → decodeSlot w = .error e →
      step s = .next { t.raise c k (decodeTrap e) with answer := none }))
  ∧ (∀ (s : State) (a1 a2 a3 : List Byte) (t1 t2 t3 : State), s.regs.pc.extractLsb' 0 2 = 0 → s.fetchWord s.regs.pc = .ok (a1, t1) →
      t1.fetchWord (s.regs.pc + 4) = .ok (a2, t2) → t2.fetchWord (s.regs.pc + 8) = .ok (a3, t3) →
      s.fetch = .ok (wordOfBytes (a1 ++ a2 ++ a3), t3))
  ∧ (∀ (s t u : State) (va : Word) (pa : Nat), inWindow va = false → s.locate va 4 .fetch = .ok (.mem pa, t) → t.reachMem va pa = .ok ((), u) →
      u.poisoned [pa / 64] = none → pa % 4 = 0 →
      (u.codeCopies (pa / 64) = [] → ∃ v, s.fetchWord va = .ok (u.mem.bytes pa 4, v) ∧ v = { u with icache := v.icache, cores := v.cores })
      ∧ ∃ x v, (x = BitVec.ofNat 512 (u.mem.nat (pa / 64 * 64) 64) ∨ x ∈ u.codeCopies (pa / 64))
        ∧ s.fetchWord va = .ok (leBytes 4 (fieldNat x (8 * (pa % 64)) 32), v))
  ∧ (∀ (s : State) (a : Agent) (i : Instr) (rest : List Pick), s.agenda = .event a i :: rest → s.svc.tripped = false →
      step s = exec i { s with agenda := rest, cur := a })
  ∧ (∀ (s r t : State) (e : EngineId) (rest : List Pick) (m : BitVec 512) (bs : List Byte) (i : Instr),
      let x := s.engine e
      let pc := r.regs.pc.toNat % 65536
      s.agenda = .eturn e :: rest → s.svc.tripped = false → x.cmd = some m → x.park = .ready → x.waiting = false → x.std = false → x.regions ≠ 0 →
      ({ s with agenda := rest, cur := .engine e } : State).openEngine e m = .ok ((), r) →
      pc % 4 = 0 → r.storeRead pc 12 = .ok (bs, t) → decodeHart (wordOfBytes bs) = .ok i → step s = exec i t)
  ∧ (let word (a b c : BitVec 32) : BitVec 96 := c ++ b ++ a
    let op (g : BitVec 3) (lr1 : Bool) (m : BitVec 4) (d a b : Operand) : Fields := ⟨false, g, lr1, false, false, false, m, d, a, b⟩
    decodeSlot (word 0x0580000C 0x00040000 0x20380200) = .ok (.add (op 3 true 2 (.g 4) (.g 5) (.imm 12)))
      ∧ decodeSlot (word 0x03000004 0x00020000 0x50700600) = .ok (.fadd (op 7 false 6 (.g 2) (.g 3) (.g 4)))
      ∧ decodeSlot (word 0x00000008 0x00046C00 0x70700C00) = .ok (.acas2 (op 7 false 12 (.g 4) (.mem 3 .offset 0) (.g 8)))
      ∧ decodeSlot (word 0x21000000 0x0014E000 0x10700000) = .ok (.csrr (op 7 false 0 (.g 20) (.csr 0x21) .none))
      ∧ decodeSlot (word 0x02200003 0x00012000 0x82700220) = .ok (.vadd (op 7 false 2 (.v 1) (.v 2) (.v 3)))
      ∧ decodeSlot (word 0x04C00005 0x0001C000 0xB17000E4) = .ok (.mma (op 7 false 0 (.tile 1) (.f 4) (.f 5)))
      ∧ decodeSlot (word 0x00800080 0x00006400 0xD0700000) = .ok (.xcopy (op 7 false 0 .none (.mem 1 .offset 0) (.imm 0x80)))
      ∧ decodeSlot (word 0x04000000 0x00000000 0xE4700000) = .ok (.hostint (op 7 false 0 .none (.g 4) .none))
      ∧ decodeSlot (word 0x04000000 0x00000000 0xE4701000) = .error .reservedBits)

/-- R284 to R291: the walk of a page table. At each level a missing entry is a hold if it is marked for service and Page Not Present otherwise, a malformed one is Page Not Present; a leaf of 1 GiB, 2 MiB, 4 KiB or, with sixteen equal entries, 64 KiB gives its frame with the permissions of every level; an entry with RP gives a copy by the order of R289. A leaf is then tested for level, write and fetch, for a write to a replica, and for the region of its address; a present translation is cached in every TLB on its way. -/
def Obligations.AddressTranslation : Prop :=
  ∀ (s : State) (t : TowerId) (root va : Word) (ctx : CtxId),
    let go := s.walkTop t root va
    (∀ lvl table w x u, s.WalksTo va root.toNat lvl table w x u → isLocal table = true →
      let e := s.entryAt va lvl table
      let c16 := e.getLsbD 53
      let addr := fieldNat e 6 46 * 64
      let size := if c16 = true then 16 else 12 + 9 * lvl
      let equal : Prop := c16 = true → lvl = 0 → ∀ j < 16, BitVec.ofNat 64 (s.mem.nat (table + 8 * (fieldNat va 12 9 / 16 * 16 + j)) 8) = e
      let leaf (f : Nat) : Walk := .leaf {
        frame := f, size := size, w := w && e.getLsbD 2, x := x && e.getLsbD 3, u := u && e.getLsbD 4, rp := e.getLsbD 5, lvl := lvl, entry := e }
      (e.getLsbD 0 = false → go = if e.getLsbD 1 = true then .held lvl e else .absent lvl false e)
      ∧ (e.getLsbD 0 = true → equal →
        (e.extractLsb' 54 10 ≠ 0 ∨ (c16 = true ∧ lvl ≠ 0) → go = .absent lvl true e)
        ∧ (e.extractLsb' 54 10 = 0 → c16 = false ∨ lvl = 0 →
          (e.getLsbD 52 = false → lvl = 0 ∨ e.getLsbD 5 = true ∨ addr % 4096 ≠ 0 → go = .absent lvl true e)
          ∧ (e.getLsbD 52 = true → 2 < lvl → go = .absent lvl true e)
          ∧ (e.getLsbD 52 = true → lvl ≤ 2 →
            (e.getLsbD 5 = false → go = if addr % 2 ^ size = 0 then leaf addr else .absent lvl true e)
            ∧ (e.getLsbD 5 = true → isLocal addr = false ∨ s.chooseCopy t addr size = none → go = .absent lvl true e)
            ∧ (∀ f, e.getLsbD 5 = true → isLocal addr = true → s.chooseCopy t addr size = some f → go = leaf f)))))
    ∧ (∀ at_ size, let r : BitVec 512 := BitVec.ofNat 512 (s.mem.nat at_ 64)
      let copies := (List.range 4).filterMap (replicaFrame r)
      let near (p : Nat) : Bool := isLocal p && towerOfDie ((s.stack (stackOf p)).owner (stackOf p)) == t
      (r.getLsbD 0 = false ∨ (∃ p ∈ copies, p % 2 ^ size ≠ 0 ∨ 2 ^ 48 ≤ p) → s.chooseCopy t at_ size = none)
      ∧ ∀ f, s.chooseCopy t at_ size = some f → f ∈ copies ∧ f % 2 ^ size = 0
        ∧ ((∃ p ∈ copies, near p = true) → copies.find? near = some f)
        ∧ ((∀ p ∈ copies, near p = false) → (∃ p ∈ copies, isLocal p = true) → copies.find? isLocal = some f)
        ∧ ((∀ p ∈ copies, isLocal p = false) → copies.head? = some f))
    ∧ (∀ k user, let meets := s.xlateWalk t root va k user true
      (∀ lvl e, go = .held lvl e → meets = .held lvl e)
      ∧ (∀ lvl m e, go = .absent lvl m e → ∃ tr, meets = .trap tr ∧ tr.cause = 0x06 ∧ tr.addr = va ∧ tr.entry = e
        ∧ tr.info = BitVec.ofNat 64 (lvl + 8 * bit m + 16 * bit (decide (k = .fetch)) + 32 * bit (decide (k = .write))))
      ∧ (∀ l, go = .leaf l → let pa := l.frame + va.toNat % 2 ^ l.size
        let r := pa / 2 ^ 40
        let denied : Prop := (user = true ∧ l.u = false) ∨ (k = .write ∧ l.w = false) ∨ (k = .fetch ∧ l.x = false)
        let bad : Prop := (0x100 ≤ r ∧ r < 0x400) ∨ (0x800 ≤ r ∧ r < 0xFFF) ∨ (r = 0xFFF ∧ l.u = true)
        let protection (addrReason : Bool) : Xl := .trap { cause := 0x07, addr := va, entry := l.entry
                                                           info := BitVec.ofNat 64 (bit (decide (k = .write)) + 2 * bit (decide (k = .fetch)) + 4 * bit user + 8 * bit addrReason) }
        (denied → meets = protection false)
        ∧ (¬ denied → l.rp = true → k = .write → meets = .trap { cause := 0x08, addr := va, info := BitVec.ofNat 64 l.lvl, entry := l.entry })
        ∧ (¬ denied → l.rp = false ∨ k ≠ .write → bad → meets = protection true)
        ∧ (¬ denied → l.rp = false ∨ k ≠ .write → ¬ bad → meets = .ok pa l)))
    ∧ (s.tlbHits ctx va = [] →
      (s.lookup ctx root va).1 = (s.walkTop (towerOfDie s.curDie) root va, true)
      ∧ ∀ l, s.walkTop (towerOfDie s.curDie) root va = .leaf l → s.walkStop s.curDie root va = none → ∀ p ∈ s.tlbPlaces,
        ∃ e ∈ (s.lookup ctx root va).2.tlb, e.place = p ∧ e.ctx = ctx ∧ e.base = va.toNat / 2 ^ l.size ∧ e.frame = l.frame ∧ e.size = l.size
          ∧ e.w = l.w ∧ e.x = l.x ∧ e.u = l.u ∧ e.rp = l.rp ∧ e.entry = l.entry)
end

