-- ==== Sys2Proof/Laws/Table.lean ====
section
/-! SUPPORT. Lookups in sparse tables after an update. -/

namespace Sys2Proof.Machine

theorem tab_find_put_same {α : Type} (t : Tab α) (n : Nat) (x : α) : Tab.find (Tab.put t n x) n = some x := by
  induction t with
  | nil => simp [Tab.put, Tab.find]
  | cons e t ih =>
    obtain ⟨m, y⟩ := e
    simp only [Tab.put]
    split_ifs with h h' <;> simp_all [Tab.find]

theorem tab_find_put_ne {α : Type} (t : Tab α) (n m : Nat) (x : α) (h : m ≠ n) :
    Tab.find (Tab.put t n x) m = Tab.find t m := by
  induction t with
  | nil => simp [Tab.put, Tab.find, h]
  | cons e t ih =>
    obtain ⟨p, y⟩ := e
    simp only [Tab.put]
    split_ifs with h1 h2
    · subst h1; simp [Tab.find, h]
    · by_cases h3 : m < n
      · simp [Tab.find, h, h3, show m ≠ p by omega, show m < p by omega]
      · simp [Tab.find, h, h3]
    · simp [Tab.find, ih]

@[simp] theorem tab_look_put_same {α : Type} (t : Tab α) (d : α) (n : Nat) (x : α) : Tab.look (Tab.put t n x) d n = x := by
  simp [Tab.look, tab_find_put_same]

theorem tab_look_put_ne {α : Type} (t : Tab α) (d : α) (n m : Nat) (x : α) (h : m ≠ n) :
    Tab.look (Tab.put t n x) d m = Tab.look t d m := by
  simp [Tab.look, tab_find_put_ne t n m x h]

/-- An entry of an updated table is the new one or an old one. -/
theorem tab_mem_put {α : Type} (t : Tab α) (n : Nat) (x : α) (e : Nat × α) (h : e ∈ Tab.put t n x) : e = (n, x) ∨ e ∈ t := by
  induction t with
  | nil => simpa [Tab.put] using h
  | cons y t ih =>
    obtain ⟨m, y⟩ := y
    simp only [Tab.put] at h
    split_ifs at h <;> simp only [List.mem_cons] at h ⊢
    · rcases h with h | h <;> simp [h]
    · rcases h with h | h | h <;> simp [h]
    · rcases h with h | h
      · simp [h]
      · rcases ih h with h | h <;> simp [h]

/-- What a table holds under a number is listed. -/
theorem tab_find_mem {α : Type} (t : Tab α) (n : Nat) (x : α) (h : Tab.find t n = some x) : (n, x) ∈ t := by
  induction t with
  | nil => simp [Tab.find] at h
  | cons e t ih =>
    obtain ⟨m, y⟩ := e
    simp only [Tab.find] at h
    split_ifs at h with h1
    · simp_all
    · simp [ih h]

/-- A property of the default and of every entry holds of what a lookup gives. -/
theorem tab_look_all {α : Type} (t : Tab α) (d : α) (n : Nat) (p : α → Prop) (hd : p d) (h : ∀ e ∈ t, p e.2) : p (Tab.look t d n) := by
  unfold Tab.look
  cases hx : Tab.find t n with
  | none => exact hd
  | some x => exact h _ (tab_find_mem t n x hx)

end Sys2Proof.Machine
end

