-- ==== Sys2Proof/Laws/State.lean ====
section
/-! SUPPORT. The fields of the state after each update: one lemma a field and update; and what the readers of Look.lean give after the writers. -/

namespace Sys2Proof.Machine

section setCore
variable (s : State) (c : CoreId) (x : Core)
@[simp] theorem setCore_agenda : (s.setCore c x).agenda = s.agenda := rfl
@[simp] theorem setCore_cur : (s.setCore c x).cur = s.cur := rfl
@[simp] theorem setCore_tape : (s.setCore c x).tape = s.tape := rfl
@[simp] theorem setCore_answer : (s.setCore c x).answer = s.answer := rfl
@[simp] theorem setCore_fresh : (s.setCore c x).fresh = s.fresh := rfl
@[simp] theorem setCore_mem : (s.setCore c x).mem = s.mem := rfl
@[simp] theorem setCore_dirty : (s.setCore c x).dirty = s.dirty := rfl
@[simp] theorem setCore_l1 : (s.setCore c x).l1 = s.l1 := rfl
@[simp] theorem setCore_llc : (s.setCore c x).llc = s.llc := rfl
@[simp] theorem setCore_dir : (s.setCore c x).dir = s.dir := rfl
@[simp] theorem setCore_poison : (s.setCore c x).poison = s.poison := rfl
@[simp] theorem setCore_tlb : (s.setCore c x).tlb = s.tlb := rfl
@[simp] theorem setCore_icache : (s.setCore c x).icache = s.icache := rfl
@[simp] theorem setCore_rot : (s.setCore c x).rot = s.rot := rfl
@[simp] theorem setCore_phase : (s.setCore c x).phase = s.phase := rfl
@[simp] theorem setCore_requests : (s.setCore c x).requests = s.requests := rfl
@[simp] theorem setCore_arbHeld : (s.setCore c x).arbHeld = s.arbHeld := rfl
@[simp] theorem setCore_token : (s.setCore c x).token = s.token := rfl
@[simp] theorem setCore_tokenQ : (s.setCore c x).tokenQ = s.tokenQ := rfl
@[simp] theorem setCore_queues : (s.setCore c x).queues = s.queues := rfl
@[simp] theorem setCore_lastSeq : (s.setCore c x).lastSeq = s.lastSeq := rfl
@[simp] theorem setCore_launches : (s.setCore c x).launches = s.launches := rfl
@[simp] theorem setCore_credits : (s.setCore c x).credits = s.credits := rfl
@[simp] theorem setCore_ctxs : (s.setCore c x).ctxs = s.ctxs := rfl
@[simp] theorem setCore_saves : (s.setCore c x).saves = s.saves := rfl
@[simp] theorem setCore_faultqs : (s.setCore c x).faultqs = s.faultqs := rfl
@[simp] theorem setCore_holds : (s.setCore c x).holds = s.holds := rfl
@[simp] theorem setCore_nextHid : (s.setCore c x).nextHid = s.nextHid := rfl
@[simp] theorem setCore_engines : (s.setCore c x).engines = s.engines := rfl
@[simp] theorem setCore_estores : (s.setCore c x).estores = s.estores := rfl
@[simp] theorem setCore_stks : (s.setCore c x).stks = s.stks := rfl
@[simp] theorem setCore_dies : (s.setCore c x).dies = s.dies := rfl
@[simp] theorem setCore_rails : (s.setCore c x).rails = s.rails := rfl
@[simp] theorem setCore_linksAsleep : (s.setCore c x).linksAsleep = s.linksAsleep := rfl
@[simp] theorem setCore_linksWaking : (s.setCore c x).linksWaking = s.linksWaking := rfl
@[simp] theorem setCore_journals : (s.setCore c x).journals = s.journals := rfl
@[simp] theorem setCore_capsules : (s.setCore c x).capsules = s.capsules := rfl
@[simp] theorem setCore_flying : (s.setCore c x).flying = s.flying := rfl
@[simp] theorem setCore_nextId : (s.setCore c x).nextId = s.nextId := rfl
@[simp] theorem setCore_pendings : (s.setCore c x).pendings = s.pendings := rfl
@[simp] theorem setCore_flushes : (s.setCore c x).flushes = s.flushes := rfl
@[simp] theorem setCore_host : (s.setCore c x).host = s.host := rfl
@[simp] theorem setCore_lsImages : (s.setCore c x).lsImages = s.lsImages := rfl
@[simp] theorem setCore_hostMem : (s.setCore c x).hostMem = s.hostMem := rfl
@[simp] theorem setCore_peerMem : (s.setCore c x).peerMem = s.peerMem := rfl
@[simp] theorem setCore_pkgBars : (s.setCore c x).pkgBars = s.pkgBars := rfl
@[simp] theorem setCore_pkgCount : (s.setCore c x).pkgCount = s.pkgCount := rfl
@[simp] theorem setCore_pkgHeld : (s.setCore c x).pkgHeld = s.pkgHeld := rfl
@[simp] theorem setCore_routes : (s.setCore c x).routes = s.routes := rfl
@[simp] theorem setCore_ports : (s.setCore c x).ports = s.ports := rfl
@[simp] theorem setCore_pkg : (s.setCore c x).pkg = s.pkg := rfl
@[simp] theorem setCore_svc : (s.setCore c x).svc = s.svc := rfl
@[simp] theorem setCore_outputs : (s.setCore c x).outputs = s.outputs := rfl
end setCore

section setSlot
variable (s : State) (c : CoreId) (k : SlotId) (x : Slot)
@[simp] theorem setSlot_agenda : (s.setSlot c k x).agenda = s.agenda := rfl
@[simp] theorem setSlot_cur : (s.setSlot c k x).cur = s.cur := rfl
@[simp] theorem setSlot_tape : (s.setSlot c k x).tape = s.tape := rfl
@[simp] theorem setSlot_answer : (s.setSlot c k x).answer = s.answer := rfl
@[simp] theorem setSlot_fresh : (s.setSlot c k x).fresh = s.fresh := rfl
@[simp] theorem setSlot_mem : (s.setSlot c k x).mem = s.mem := rfl
@[simp] theorem setSlot_dirty : (s.setSlot c k x).dirty = s.dirty := rfl
@[simp] theorem setSlot_l1 : (s.setSlot c k x).l1 = s.l1 := rfl
@[simp] theorem setSlot_llc : (s.setSlot c k x).llc = s.llc := rfl
@[simp] theorem setSlot_dir : (s.setSlot c k x).dir = s.dir := rfl
@[simp] theorem setSlot_poison : (s.setSlot c k x).poison = s.poison := rfl
@[simp] theorem setSlot_tlb : (s.setSlot c k x).tlb = s.tlb := rfl
@[simp] theorem setSlot_icache : (s.setSlot c k x).icache = s.icache := rfl
@[simp] theorem setSlot_rot : (s.setSlot c k x).rot = s.rot := rfl
@[simp] theorem setSlot_phase : (s.setSlot c k x).phase = s.phase := rfl
@[simp] theorem setSlot_requests : (s.setSlot c k x).requests = s.requests := rfl
@[simp] theorem setSlot_arbHeld : (s.setSlot c k x).arbHeld = s.arbHeld := rfl
@[simp] theorem setSlot_token : (s.setSlot c k x).token = s.token := rfl
@[simp] theorem setSlot_tokenQ : (s.setSlot c k x).tokenQ = s.tokenQ := rfl
@[simp] theorem setSlot_queues : (s.setSlot c k x).queues = s.queues := rfl
@[simp] theorem setSlot_lastSeq : (s.setSlot c k x).lastSeq = s.lastSeq := rfl
@[simp] theorem setSlot_launches : (s.setSlot c k x).launches = s.launches := rfl
@[simp] theorem setSlot_credits : (s.setSlot c k x).credits = s.credits := rfl
@[simp] theorem setSlot_ctxs : (s.setSlot c k x).ctxs = s.ctxs := rfl
@[simp] theorem setSlot_saves : (s.setSlot c k x).saves = s.saves := rfl
@[simp] theorem setSlot_faultqs : (s.setSlot c k x).faultqs = s.faultqs := rfl
@[simp] theorem setSlot_holds : (s.setSlot c k x).holds = s.holds := rfl
@[simp] theorem setSlot_nextHid : (s.setSlot c k x).nextHid = s.nextHid := rfl
@[simp] theorem setSlot_engines : (s.setSlot c k x).engines = s.engines := rfl
@[simp] theorem setSlot_estores : (s.setSlot c k x).estores = s.estores := rfl
@[simp] theorem setSlot_stks : (s.setSlot c k x).stks = s.stks := rfl
@[simp] theorem setSlot_dies : (s.setSlot c k x).dies = s.dies := rfl
@[simp] theorem setSlot_rails : (s.setSlot c k x).rails = s.rails := rfl
@[simp] theorem setSlot_linksAsleep : (s.setSlot c k x).linksAsleep = s.linksAsleep := rfl
@[simp] theorem setSlot_linksWaking : (s.setSlot c k x).linksWaking = s.linksWaking := rfl
@[simp] theorem setSlot_journals : (s.setSlot c k x).journals = s.journals := rfl
@[simp] theorem setSlot_capsules : (s.setSlot c k x).capsules = s.capsules := rfl
@[simp] theorem setSlot_flying : (s.setSlot c k x).flying = s.flying := rfl
@[simp] theorem setSlot_nextId : (s.setSlot c k x).nextId = s.nextId := rfl
@[simp] theorem setSlot_pendings : (s.setSlot c k x).pendings = s.pendings := rfl
@[simp] theorem setSlot_flushes : (s.setSlot c k x).flushes = s.flushes := rfl
@[simp] theorem setSlot_host : (s.setSlot c k x).host = s.host := rfl
@[simp] theorem setSlot_lsImages : (s.setSlot c k x).lsImages = s.lsImages := rfl
@[simp] theorem setSlot_hostMem : (s.setSlot c k x).hostMem = s.hostMem := rfl
@[simp] theorem setSlot_peerMem : (s.setSlot c k x).peerMem = s.peerMem := rfl
@[simp] theorem setSlot_pkgBars : (s.setSlot c k x).pkgBars = s.pkgBars := rfl
@[simp] theorem setSlot_pkgCount : (s.setSlot c k x).pkgCount = s.pkgCount := rfl
@[simp] theorem setSlot_pkgHeld : (s.setSlot c k x).pkgHeld = s.pkgHeld := rfl
@[simp] theorem setSlot_routes : (s.setSlot c k x).routes = s.routes := rfl
@[simp] theorem setSlot_ports : (s.setSlot c k x).ports = s.ports := rfl
@[simp] theorem setSlot_pkg : (s.setSlot c k x).pkg = s.pkg := rfl
@[simp] theorem setSlot_svc : (s.setSlot c k x).svc = s.svc := rfl
@[simp] theorem setSlot_outputs : (s.setSlot c k x).outputs = s.outputs := rfl
end setSlot

section setEngine
variable (s : State) (e : EngineId) (x : Engine)
@[simp] theorem setEngine_agenda : (s.setEngine e x).agenda = s.agenda := rfl
@[simp] theorem setEngine_cur : (s.setEngine e x).cur = s.cur := rfl
@[simp] theorem setEngine_tape : (s.setEngine e x).tape = s.tape := rfl
@[simp] theorem setEngine_answer : (s.setEngine e x).answer = s.answer := rfl
@[simp] theorem setEngine_fresh : (s.setEngine e x).fresh = s.fresh := rfl
@[simp] theorem setEngine_cores : (s.setEngine e x).cores = s.cores := rfl
@[simp] theorem setEngine_mem : (s.setEngine e x).mem = s.mem := rfl
@[simp] theorem setEngine_dirty : (s.setEngine e x).dirty = s.dirty := rfl
@[simp] theorem setEngine_l1 : (s.setEngine e x).l1 = s.l1 := rfl
@[simp] theorem setEngine_llc : (s.setEngine e x).llc = s.llc := rfl
@[simp] theorem setEngine_dir : (s.setEngine e x).dir = s.dir := rfl
@[simp] theorem setEngine_poison : (s.setEngine e x).poison = s.poison := rfl
@[simp] theorem setEngine_tlb : (s.setEngine e x).tlb = s.tlb := rfl
@[simp] theorem setEngine_icache : (s.setEngine e x).icache = s.icache := rfl
@[simp] theorem setEngine_rot : (s.setEngine e x).rot = s.rot := rfl
@[simp] theorem setEngine_phase : (s.setEngine e x).phase = s.phase := rfl
@[simp] theorem setEngine_requests : (s.setEngine e x).requests = s.requests := rfl
@[simp] theorem setEngine_arbHeld : (s.setEngine e x).arbHeld = s.arbHeld := rfl
@[simp] theorem setEngine_token : (s.setEngine e x).token = s.token := rfl
@[simp] theorem setEngine_tokenQ : (s.setEngine e x).tokenQ = s.tokenQ := rfl
@[simp] theorem setEngine_queues : (s.setEngine e x).queues = s.queues := rfl
@[simp] theorem setEngine_lastSeq : (s.setEngine e x).lastSeq = s.lastSeq := rfl
@[simp] theorem setEngine_launches : (s.setEngine e x).launches = s.launches := rfl
@[simp] theorem setEngine_credits : (s.setEngine e x).credits = s.credits := rfl
@[simp] theorem setEngine_ctxs : (s.setEngine e x).ctxs = s.ctxs := rfl
@[simp] theorem setEngine_saves : (s.setEngine e x).saves = s.saves := rfl
@[simp] theorem setEngine_faultqs : (s.setEngine e x).faultqs = s.faultqs := rfl
@[simp] theorem setEngine_holds : (s.setEngine e x).holds = s.holds := rfl
@[simp] theorem setEngine_nextHid : (s.setEngine e x).nextHid = s.nextHid := rfl
@[simp] theorem setEngine_estores : (s.setEngine e x).estores = s.estores := rfl
@[simp] theorem setEngine_stks : (s.setEngine e x).stks = s.stks := rfl
@[simp] theorem setEngine_dies : (s.setEngine e x).dies = s.dies := rfl
@[simp] theorem setEngine_rails : (s.setEngine e x).rails = s.rails := rfl
@[simp] theorem setEngine_linksAsleep : (s.setEngine e x).linksAsleep = s.linksAsleep := rfl
@[simp] theorem setEngine_linksWaking : (s.setEngine e x).linksWaking = s.linksWaking := rfl
@[simp] theorem setEngine_journals : (s.setEngine e x).journals = s.journals := rfl
@[simp] theorem setEngine_capsules : (s.setEngine e x).capsules = s.capsules := rfl
@[simp] theorem setEngine_flying : (s.setEngine e x).flying = s.flying := rfl
@[simp] theorem setEngine_nextId : (s.setEngine e x).nextId = s.nextId := rfl
@[simp] theorem setEngine_pendings : (s.setEngine e x).pendings = s.pendings := rfl
@[simp] theorem setEngine_flushes : (s.setEngine e x).flushes = s.flushes := rfl
@[simp] theorem setEngine_host : (s.setEngine e x).host = s.host := rfl
@[simp] theorem setEngine_lsImages : (s.setEngine e x).lsImages = s.lsImages := rfl
@[simp] theorem setEngine_hostMem : (s.setEngine e x).hostMem = s.hostMem := rfl
@[simp] theorem setEngine_peerMem : (s.setEngine e x).peerMem = s.peerMem := rfl
@[simp] theorem setEngine_pkgBars : (s.setEngine e x).pkgBars = s.pkgBars := rfl
@[simp] theorem setEngine_pkgCount : (s.setEngine e x).pkgCount = s.pkgCount := rfl
@[simp] theorem setEngine_pkgHeld : (s.setEngine e x).pkgHeld = s.pkgHeld := rfl
@[simp] theorem setEngine_routes : (s.setEngine e x).routes = s.routes := rfl
@[simp] theorem setEngine_ports : (s.setEngine e x).ports = s.ports := rfl
@[simp] theorem setEngine_pkg : (s.setEngine e x).pkg = s.pkg := rfl
@[simp] theorem setEngine_svc : (s.setEngine e x).svc = s.svc := rfl
@[simp] theorem setEngine_outputs : (s.setEngine e x).outputs = s.outputs := rfl
end setEngine

section setStack
variable (s : State) (m : StackId) (x : Stack)
@[simp] theorem setStack_agenda : (s.setStack m x).agenda = s.agenda := rfl
@[simp] theorem setStack_cur : (s.setStack m x).cur = s.cur := rfl
@[simp] theorem setStack_tape : (s.setStack m x).tape = s.tape := rfl
@[simp] theorem setStack_answer : (s.setStack m x).answer = s.answer := rfl
@[simp] theorem setStack_fresh : (s.setStack m x).fresh = s.fresh := rfl
@[simp] theorem setStack_cores : (s.setStack m x).cores = s.cores := rfl
@[simp] theorem setStack_mem : (s.setStack m x).mem = s.mem := rfl
@[simp] theorem setStack_dirty : (s.setStack m x).dirty = s.dirty := rfl
@[simp] theorem setStack_l1 : (s.setStack m x).l1 = s.l1 := rfl
@[simp] theorem setStack_llc : (s.setStack m x).llc = s.llc := rfl
@[simp] theorem setStack_dir : (s.setStack m x).dir = s.dir := rfl
@[simp] theorem setStack_poison : (s.setStack m x).poison = s.poison := rfl
@[simp] theorem setStack_tlb : (s.setStack m x).tlb = s.tlb := rfl
@[simp] theorem setStack_icache : (s.setStack m x).icache = s.icache := rfl
@[simp] theorem setStack_rot : (s.setStack m x).rot = s.rot := rfl
@[simp] theorem setStack_phase : (s.setStack m x).phase = s.phase := rfl
@[simp] theorem setStack_requests : (s.setStack m x).requests = s.requests := rfl
@[simp] theorem setStack_arbHeld : (s.setStack m x).arbHeld = s.arbHeld := rfl
@[simp] theorem setStack_token : (s.setStack m x).token = s.token := rfl
@[simp] theorem setStack_tokenQ : (s.setStack m x).tokenQ = s.tokenQ := rfl
@[simp] theorem setStack_queues : (s.setStack m x).queues = s.queues := rfl
@[simp] theorem setStack_lastSeq : (s.setStack m x).lastSeq = s.lastSeq := rfl
@[simp] theorem setStack_launches : (s.setStack m x).launches = s.launches := rfl
@[simp] theorem setStack_credits : (s.setStack m x).credits = s.credits := rfl
@[simp] theorem setStack_ctxs : (s.setStack m x).ctxs = s.ctxs := rfl
@[simp] theorem setStack_saves : (s.setStack m x).saves = s.saves := rfl
@[simp] theorem setStack_faultqs : (s.setStack m x).faultqs = s.faultqs := rfl
@[simp] theorem setStack_holds : (s.setStack m x).holds = s.holds := rfl
@[simp] theorem setStack_nextHid : (s.setStack m x).nextHid = s.nextHid := rfl
@[simp] theorem setStack_engines : (s.setStack m x).engines = s.engines := rfl
@[simp] theorem setStack_estores : (s.setStack m x).estores = s.estores := rfl
@[simp] theorem setStack_dies : (s.setStack m x).dies = s.dies := rfl
@[simp] theorem setStack_rails : (s.setStack m x).rails = s.rails := rfl
@[simp] theorem setStack_linksAsleep : (s.setStack m x).linksAsleep = s.linksAsleep := rfl
@[simp] theorem setStack_linksWaking : (s.setStack m x).linksWaking = s.linksWaking := rfl
@[simp] theorem setStack_journals : (s.setStack m x).journals = s.journals := rfl
@[simp] theorem setStack_capsules : (s.setStack m x).capsules = s.capsules := rfl
@[simp] theorem setStack_flying : (s.setStack m x).flying = s.flying := rfl
@[simp] theorem setStack_nextId : (s.setStack m x).nextId = s.nextId := rfl
@[simp] theorem setStack_pendings : (s.setStack m x).pendings = s.pendings := rfl
@[simp] theorem setStack_flushes : (s.setStack m x).flushes = s.flushes := rfl
@[simp] theorem setStack_host : (s.setStack m x).host = s.host := rfl
@[simp] theorem setStack_lsImages : (s.setStack m x).lsImages = s.lsImages := rfl
@[simp] theorem setStack_hostMem : (s.setStack m x).hostMem = s.hostMem := rfl
@[simp] theorem setStack_peerMem : (s.setStack m x).peerMem = s.peerMem := rfl
@[simp] theorem setStack_pkgBars : (s.setStack m x).pkgBars = s.pkgBars := rfl
@[simp] theorem setStack_pkgCount : (s.setStack m x).pkgCount = s.pkgCount := rfl
@[simp] theorem setStack_pkgHeld : (s.setStack m x).pkgHeld = s.pkgHeld := rfl
@[simp] theorem setStack_routes : (s.setStack m x).routes = s.routes := rfl
@[simp] theorem setStack_ports : (s.setStack m x).ports = s.ports := rfl
@[simp] theorem setStack_pkg : (s.setStack m x).pkg = s.pkg := rfl
@[simp] theorem setStack_svc : (s.setStack m x).svc = s.svc := rfl
@[simp] theorem setStack_outputs : (s.setStack m x).outputs = s.outputs := rfl
end setStack

section setDie
variable (s : State) (d : DieId) (x : Die)
@[simp] theorem setDie_agenda : (s.setDie d x).agenda = s.agenda := rfl
@[simp] theorem setDie_cur : (s.setDie d x).cur = s.cur := rfl
@[simp] theorem setDie_tape : (s.setDie d x).tape = s.tape := rfl
@[simp] theorem setDie_answer : (s.setDie d x).answer = s.answer := rfl
@[simp] theorem setDie_fresh : (s.setDie d x).fresh = s.fresh := rfl
@[simp] theorem setDie_cores : (s.setDie d x).cores = s.cores := rfl
@[simp] theorem setDie_mem : (s.setDie d x).mem = s.mem := rfl
@[simp] theorem setDie_dirty : (s.setDie d x).dirty = s.dirty := rfl
@[simp] theorem setDie_l1 : (s.setDie d x).l1 = s.l1 := rfl
@[simp] theorem setDie_llc : (s.setDie d x).llc = s.llc := rfl
@[simp] theorem setDie_dir : (s.setDie d x).dir = s.dir := rfl
@[simp] theorem setDie_poison : (s.setDie d x).poison = s.poison := rfl
@[simp] theorem setDie_tlb : (s.setDie d x).tlb = s.tlb := rfl
@[simp] theorem setDie_icache : (s.setDie d x).icache = s.icache := rfl
@[simp] theorem setDie_rot : (s.setDie d x).rot = s.rot := rfl
@[simp] theorem setDie_phase : (s.setDie d x).phase = s.phase := rfl
@[simp] theorem setDie_requests : (s.setDie d x).requests = s.requests := rfl
@[simp] theorem setDie_arbHeld : (s.setDie d x).arbHeld = s.arbHeld := rfl
@[simp] theorem setDie_token : (s.setDie d x).token = s.token := rfl
@[simp] theorem setDie_tokenQ : (s.setDie d x).tokenQ = s.tokenQ := rfl
@[simp] theorem setDie_queues : (s.setDie d x).queues = s.queues := rfl
@[simp] theorem setDie_lastSeq : (s.setDie d x).lastSeq = s.lastSeq := rfl
@[simp] theorem setDie_launches : (s.setDie d x).launches = s.launches := rfl
@[simp] theorem setDie_credits : (s.setDie d x).credits = s.credits := rfl
@[simp] theorem setDie_ctxs : (s.setDie d x).ctxs = s.ctxs := rfl
@[simp] theorem setDie_saves : (s.setDie d x).saves = s.saves := rfl
@[simp] theorem setDie_faultqs : (s.setDie d x).faultqs = s.faultqs := rfl
@[simp] theorem setDie_holds : (s.setDie d x).holds = s.holds := rfl
@[simp] theorem setDie_nextHid : (s.setDie d x).nextHid = s.nextHid := rfl
@[simp] theorem setDie_engines : (s.setDie d x).engines = s.engines := rfl
@[simp] theorem setDie_estores : (s.setDie d x).estores = s.estores := rfl
@[simp] theorem setDie_stks : (s.setDie d x).stks = s.stks := rfl
@[simp] theorem setDie_rails : (s.setDie d x).rails = s.rails := rfl
@[simp] theorem setDie_linksAsleep : (s.setDie d x).linksAsleep = s.linksAsleep := rfl
@[simp] theorem setDie_linksWaking : (s.setDie d x).linksWaking = s.linksWaking := rfl
@[simp] theorem setDie_journals : (s.setDie d x).journals = s.journals := rfl
@[simp] theorem setDie_capsules : (s.setDie d x).capsules = s.capsules := rfl
@[simp] theorem setDie_flying : (s.setDie d x).flying = s.flying := rfl
@[simp] theorem setDie_nextId : (s.setDie d x).nextId = s.nextId := rfl
@[simp] theorem setDie_pendings : (s.setDie d x).pendings = s.pendings := rfl
@[simp] theorem setDie_flushes : (s.setDie d x).flushes = s.flushes := rfl
@[simp] theorem setDie_host : (s.setDie d x).host = s.host := rfl
@[simp] theorem setDie_lsImages : (s.setDie d x).lsImages = s.lsImages := rfl
@[simp] theorem setDie_hostMem : (s.setDie d x).hostMem = s.hostMem := rfl
@[simp] theorem setDie_peerMem : (s.setDie d x).peerMem = s.peerMem := rfl
@[simp] theorem setDie_pkgBars : (s.setDie d x).pkgBars = s.pkgBars := rfl
@[simp] theorem setDie_pkgCount : (s.setDie d x).pkgCount = s.pkgCount := rfl
@[simp] theorem setDie_pkgHeld : (s.setDie d x).pkgHeld = s.pkgHeld := rfl
@[simp] theorem setDie_routes : (s.setDie d x).routes = s.routes := rfl
@[simp] theorem setDie_ports : (s.setDie d x).ports = s.ports := rfl
@[simp] theorem setDie_pkg : (s.setDie d x).pkg = s.pkg := rfl
@[simp] theorem setDie_svc : (s.setDie d x).svc = s.svc := rfl
@[simp] theorem setDie_outputs : (s.setDie d x).outputs = s.outputs := rfl
end setDie

section setCtx
variable (s : State) (n : CtxId) (x : Ctx)
@[simp] theorem setCtx_agenda : (s.setCtx n x).agenda = s.agenda := rfl
@[simp] theorem setCtx_cur : (s.setCtx n x).cur = s.cur := rfl
@[simp] theorem setCtx_tape : (s.setCtx n x).tape = s.tape := rfl
@[simp] theorem setCtx_answer : (s.setCtx n x).answer = s.answer := rfl
@[simp] theorem setCtx_fresh : (s.setCtx n x).fresh = s.fresh := rfl
@[simp] theorem setCtx_cores : (s.setCtx n x).cores = s.cores := rfl
@[simp] theorem setCtx_mem : (s.setCtx n x).mem = s.mem := rfl
@[simp] theorem setCtx_dirty : (s.setCtx n x).dirty = s.dirty := rfl
@[simp] theorem setCtx_l1 : (s.setCtx n x).l1 = s.l1 := rfl
@[simp] theorem setCtx_llc : (s.setCtx n x).llc = s.llc := rfl
@[simp] theorem setCtx_dir : (s.setCtx n x).dir = s.dir := rfl
@[simp] theorem setCtx_poison : (s.setCtx n x).poison = s.poison := rfl
@[simp] theorem setCtx_tlb : (s.setCtx n x).tlb = s.tlb := rfl
@[simp] theorem setCtx_icache : (s.setCtx n x).icache = s.icache := rfl
@[simp] theorem setCtx_rot : (s.setCtx n x).rot = s.rot := rfl
@[simp] theorem setCtx_phase : (s.setCtx n x).phase = s.phase := rfl
@[simp] theorem setCtx_requests : (s.setCtx n x).requests = s.requests := rfl
@[simp] theorem setCtx_arbHeld : (s.setCtx n x).arbHeld = s.arbHeld := rfl
@[simp] theorem setCtx_token : (s.setCtx n x).token = s.token := rfl
@[simp] theorem setCtx_tokenQ : (s.setCtx n x).tokenQ = s.tokenQ := rfl
@[simp] theorem setCtx_queues : (s.setCtx n x).queues = s.queues := rfl
@[simp] theorem setCtx_lastSeq : (s.setCtx n x).lastSeq = s.lastSeq := rfl
@[simp] theorem setCtx_launches : (s.setCtx n x).launches = s.launches := rfl
@[simp] theorem setCtx_credits : (s.setCtx n x).credits = s.credits := rfl
@[simp] theorem setCtx_saves : (s.setCtx n x).saves = s.saves := rfl
@[simp] theorem setCtx_faultqs : (s.setCtx n x).faultqs = s.faultqs := rfl
@[simp] theorem setCtx_holds : (s.setCtx n x).holds = s.holds := rfl
@[simp] theorem setCtx_nextHid : (s.setCtx n x).nextHid = s.nextHid := rfl
@[simp] theorem setCtx_engines : (s.setCtx n x).engines = s.engines := rfl
@[simp] theorem setCtx_estores : (s.setCtx n x).estores = s.estores := rfl
@[simp] theorem setCtx_stks : (s.setCtx n x).stks = s.stks := rfl
@[simp] theorem setCtx_dies : (s.setCtx n x).dies = s.dies := rfl
@[simp] theorem setCtx_rails : (s.setCtx n x).rails = s.rails := rfl
@[simp] theorem setCtx_linksAsleep : (s.setCtx n x).linksAsleep = s.linksAsleep := rfl
@[simp] theorem setCtx_linksWaking : (s.setCtx n x).linksWaking = s.linksWaking := rfl
@[simp] theorem setCtx_journals : (s.setCtx n x).journals = s.journals := rfl
@[simp] theorem setCtx_capsules : (s.setCtx n x).capsules = s.capsules := rfl
@[simp] theorem setCtx_flying : (s.setCtx n x).flying = s.flying := rfl
@[simp] theorem setCtx_nextId : (s.setCtx n x).nextId = s.nextId := rfl
@[simp] theorem setCtx_pendings : (s.setCtx n x).pendings = s.pendings := rfl
@[simp] theorem setCtx_flushes : (s.setCtx n x).flushes = s.flushes := rfl
@[simp] theorem setCtx_host : (s.setCtx n x).host = s.host := rfl
@[simp] theorem setCtx_lsImages : (s.setCtx n x).lsImages = s.lsImages := rfl
@[simp] theorem setCtx_hostMem : (s.setCtx n x).hostMem = s.hostMem := rfl
@[simp] theorem setCtx_peerMem : (s.setCtx n x).peerMem = s.peerMem := rfl
@[simp] theorem setCtx_pkgBars : (s.setCtx n x).pkgBars = s.pkgBars := rfl
@[simp] theorem setCtx_pkgCount : (s.setCtx n x).pkgCount = s.pkgCount := rfl
@[simp] theorem setCtx_pkgHeld : (s.setCtx n x).pkgHeld = s.pkgHeld := rfl
@[simp] theorem setCtx_routes : (s.setCtx n x).routes = s.routes := rfl
@[simp] theorem setCtx_ports : (s.setCtx n x).ports = s.ports := rfl
@[simp] theorem setCtx_pkg : (s.setCtx n x).pkg = s.pkg := rfl
@[simp] theorem setCtx_svc : (s.setCtx n x).svc = s.svc := rfl
@[simp] theorem setCtx_outputs : (s.setCtx n x).outputs = s.outputs := rfl
end setCtx

section setQueue
variable (s : State) (t : TowerId) (q : QueueId) (x : Queue)
@[simp] theorem setQueue_agenda : (s.setQueue t q x).agenda = s.agenda := rfl
@[simp] theorem setQueue_cur : (s.setQueue t q x).cur = s.cur := rfl
@[simp] theorem setQueue_tape : (s.setQueue t q x).tape = s.tape := rfl
@[simp] theorem setQueue_answer : (s.setQueue t q x).answer = s.answer := rfl
@[simp] theorem setQueue_fresh : (s.setQueue t q x).fresh = s.fresh := rfl
@[simp] theorem setQueue_cores : (s.setQueue t q x).cores = s.cores := rfl
@[simp] theorem setQueue_mem : (s.setQueue t q x).mem = s.mem := rfl
@[simp] theorem setQueue_dirty : (s.setQueue t q x).dirty = s.dirty := rfl
@[simp] theorem setQueue_l1 : (s.setQueue t q x).l1 = s.l1 := rfl
@[simp] theorem setQueue_llc : (s.setQueue t q x).llc = s.llc := rfl
@[simp] theorem setQueue_dir : (s.setQueue t q x).dir = s.dir := rfl
@[simp] theorem setQueue_poison : (s.setQueue t q x).poison = s.poison := rfl
@[simp] theorem setQueue_tlb : (s.setQueue t q x).tlb = s.tlb := rfl
@[simp] theorem setQueue_icache : (s.setQueue t q x).icache = s.icache := rfl
@[simp] theorem setQueue_rot : (s.setQueue t q x).rot = s.rot := rfl
@[simp] theorem setQueue_phase : (s.setQueue t q x).phase = s.phase := rfl
@[simp] theorem setQueue_requests : (s.setQueue t q x).requests = s.requests := rfl
@[simp] theorem setQueue_arbHeld : (s.setQueue t q x).arbHeld = s.arbHeld := rfl
@[simp] theorem setQueue_token : (s.setQueue t q x).token = s.token := rfl
@[simp] theorem setQueue_tokenQ : (s.setQueue t q x).tokenQ = s.tokenQ := rfl
@[simp] theorem setQueue_lastSeq : (s.setQueue t q x).lastSeq = s.lastSeq := rfl
@[simp] theorem setQueue_launches : (s.setQueue t q x).launches = s.launches := rfl
@[simp] theorem setQueue_credits : (s.setQueue t q x).credits = s.credits := rfl
@[simp] theorem setQueue_ctxs : (s.setQueue t q x).ctxs = s.ctxs := rfl
@[simp] theorem setQueue_saves : (s.setQueue t q x).saves = s.saves := rfl
@[simp] theorem setQueue_faultqs : (s.setQueue t q x).faultqs = s.faultqs := rfl
@[simp] theorem setQueue_holds : (s.setQueue t q x).holds = s.holds := rfl
@[simp] theorem setQueue_nextHid : (s.setQueue t q x).nextHid = s.nextHid := rfl
@[simp] theorem setQueue_engines : (s.setQueue t q x).engines = s.engines := rfl
@[simp] theorem setQueue_estores : (s.setQueue t q x).estores = s.estores := rfl
@[simp] theorem setQueue_stks : (s.setQueue t q x).stks = s.stks := rfl
@[simp] theorem setQueue_dies : (s.setQueue t q x).dies = s.dies := rfl
@[simp] theorem setQueue_rails : (s.setQueue t q x).rails = s.rails := rfl
@[simp] theorem setQueue_linksAsleep : (s.setQueue t q x).linksAsleep = s.linksAsleep := rfl
@[simp] theorem setQueue_linksWaking : (s.setQueue t q x).linksWaking = s.linksWaking := rfl
@[simp] theorem setQueue_journals : (s.setQueue t q x).journals = s.journals := rfl
@[simp] theorem setQueue_capsules : (s.setQueue t q x).capsules = s.capsules := rfl
@[simp] theorem setQueue_flying : (s.setQueue t q x).flying = s.flying := rfl
@[simp] theorem setQueue_nextId : (s.setQueue t q x).nextId = s.nextId := rfl
@[simp] theorem setQueue_pendings : (s.setQueue t q x).pendings = s.pendings := rfl
@[simp] theorem setQueue_flushes : (s.setQueue t q x).flushes = s.flushes := rfl
@[simp] theorem setQueue_host : (s.setQueue t q x).host = s.host := rfl
@[simp] theorem setQueue_lsImages : (s.setQueue t q x).lsImages = s.lsImages := rfl
@[simp] theorem setQueue_hostMem : (s.setQueue t q x).hostMem = s.hostMem := rfl
@[simp] theorem setQueue_peerMem : (s.setQueue t q x).peerMem = s.peerMem := rfl
@[simp] theorem setQueue_pkgBars : (s.setQueue t q x).pkgBars = s.pkgBars := rfl
@[simp] theorem setQueue_pkgCount : (s.setQueue t q x).pkgCount = s.pkgCount := rfl
@[simp] theorem setQueue_pkgHeld : (s.setQueue t q x).pkgHeld = s.pkgHeld := rfl
@[simp] theorem setQueue_routes : (s.setQueue t q x).routes = s.routes := rfl
@[simp] theorem setQueue_ports : (s.setQueue t q x).ports = s.ports := rfl
@[simp] theorem setQueue_pkg : (s.setQueue t q x).pkg = s.pkg := rfl
@[simp] theorem setQueue_svc : (s.setQueue t q x).svc = s.svc := rfl
@[simp] theorem setQueue_outputs : (s.setQueue t q x).outputs = s.outputs := rfl
end setQueue

section setFaultq
variable (s : State) (t : TowerId) (x : FaultQ)
@[simp] theorem setFaultq_agenda : (s.setFaultq t x).agenda = s.agenda := rfl
@[simp] theorem setFaultq_cur : (s.setFaultq t x).cur = s.cur := rfl
@[simp] theorem setFaultq_tape : (s.setFaultq t x).tape = s.tape := rfl
@[simp] theorem setFaultq_answer : (s.setFaultq t x).answer = s.answer := rfl
@[simp] theorem setFaultq_fresh : (s.setFaultq t x).fresh = s.fresh := rfl
@[simp] theorem setFaultq_cores : (s.setFaultq t x).cores = s.cores := rfl
@[simp] theorem setFaultq_mem : (s.setFaultq t x).mem = s.mem := rfl
@[simp] theorem setFaultq_dirty : (s.setFaultq t x).dirty = s.dirty := rfl
@[simp] theorem setFaultq_l1 : (s.setFaultq t x).l1 = s.l1 := rfl
@[simp] theorem setFaultq_llc : (s.setFaultq t x).llc = s.llc := rfl
@[simp] theorem setFaultq_dir : (s.setFaultq t x).dir = s.dir := rfl
@[simp] theorem setFaultq_poison : (s.setFaultq t x).poison = s.poison := rfl
@[simp] theorem setFaultq_tlb : (s.setFaultq t x).tlb = s.tlb := rfl
@[simp] theorem setFaultq_icache : (s.setFaultq t x).icache = s.icache := rfl
@[simp] theorem setFaultq_rot : (s.setFaultq t x).rot = s.rot := rfl
@[simp] theorem setFaultq_phase : (s.setFaultq t x).phase = s.phase := rfl
@[simp] theorem setFaultq_requests : (s.setFaultq t x).requests = s.requests := rfl
@[simp] theorem setFaultq_arbHeld : (s.setFaultq t x).arbHeld = s.arbHeld := rfl
@[simp] theorem setFaultq_token : (s.setFaultq t x).token = s.token := rfl
@[simp] theorem setFaultq_tokenQ : (s.setFaultq t x).tokenQ = s.tokenQ := rfl
@[simp] theorem setFaultq_queues : (s.setFaultq t x).queues = s.queues := rfl
@[simp] theorem setFaultq_lastSeq : (s.setFaultq t x).lastSeq = s.lastSeq := rfl
@[simp] theorem setFaultq_launches : (s.setFaultq t x).launches = s.launches := rfl
@[simp] theorem setFaultq_credits : (s.setFaultq t x).credits = s.credits := rfl
@[simp] theorem setFaultq_ctxs : (s.setFaultq t x).ctxs = s.ctxs := rfl
@[simp] theorem setFaultq_saves : (s.setFaultq t x).saves = s.saves := rfl
@[simp] theorem setFaultq_holds : (s.setFaultq t x).holds = s.holds := rfl
@[simp] theorem setFaultq_nextHid : (s.setFaultq t x).nextHid = s.nextHid := rfl
@[simp] theorem setFaultq_engines : (s.setFaultq t x).engines = s.engines := rfl
@[simp] theorem setFaultq_estores : (s.setFaultq t x).estores = s.estores := rfl
@[simp] theorem setFaultq_stks : (s.setFaultq t x).stks = s.stks := rfl
@[simp] theorem setFaultq_dies : (s.setFaultq t x).dies = s.dies := rfl
@[simp] theorem setFaultq_rails : (s.setFaultq t x).rails = s.rails := rfl
@[simp] theorem setFaultq_linksAsleep : (s.setFaultq t x).linksAsleep = s.linksAsleep := rfl
@[simp] theorem setFaultq_linksWaking : (s.setFaultq t x).linksWaking = s.linksWaking := rfl
@[simp] theorem setFaultq_journals : (s.setFaultq t x).journals = s.journals := rfl
@[simp] theorem setFaultq_capsules : (s.setFaultq t x).capsules = s.capsules := rfl
@[simp] theorem setFaultq_flying : (s.setFaultq t x).flying = s.flying := rfl
@[simp] theorem setFaultq_nextId : (s.setFaultq t x).nextId = s.nextId := rfl
@[simp] theorem setFaultq_pendings : (s.setFaultq t x).pendings = s.pendings := rfl
@[simp] theorem setFaultq_flushes : (s.setFaultq t x).flushes = s.flushes := rfl
@[simp] theorem setFaultq_host : (s.setFaultq t x).host = s.host := rfl
@[simp] theorem setFaultq_lsImages : (s.setFaultq t x).lsImages = s.lsImages := rfl
@[simp] theorem setFaultq_hostMem : (s.setFaultq t x).hostMem = s.hostMem := rfl
@[simp] theorem setFaultq_peerMem : (s.setFaultq t x).peerMem = s.peerMem := rfl
@[simp] theorem setFaultq_pkgBars : (s.setFaultq t x).pkgBars = s.pkgBars := rfl
@[simp] theorem setFaultq_pkgCount : (s.setFaultq t x).pkgCount = s.pkgCount := rfl
@[simp] theorem setFaultq_pkgHeld : (s.setFaultq t x).pkgHeld = s.pkgHeld := rfl
@[simp] theorem setFaultq_routes : (s.setFaultq t x).routes = s.routes := rfl
@[simp] theorem setFaultq_ports : (s.setFaultq t x).ports = s.ports := rfl
@[simp] theorem setFaultq_pkg : (s.setFaultq t x).pkg = s.pkg := rfl
@[simp] theorem setFaultq_svc : (s.setFaultq t x).svc = s.svc := rfl
@[simp] theorem setFaultq_outputs : (s.setFaultq t x).outputs = s.outputs := rfl
end setFaultq

section setEstore
variable (s : State) (t : TowerId) (x : EStore)
@[simp] theorem setEstore_agenda : (s.setEstore t x).agenda = s.agenda := rfl
@[simp] theorem setEstore_cur : (s.setEstore t x).cur = s.cur := rfl
@[simp] theorem setEstore_tape : (s.setEstore t x).tape = s.tape := rfl
@[simp] theorem setEstore_answer : (s.setEstore t x).answer = s.answer := rfl
@[simp] theorem setEstore_fresh : (s.setEstore t x).fresh = s.fresh := rfl
@[simp] theorem setEstore_cores : (s.setEstore t x).cores = s.cores := rfl
@[simp] theorem setEstore_mem : (s.setEstore t x).mem = s.mem := rfl
@[simp] theorem setEstore_dirty : (s.setEstore t x).dirty = s.dirty := rfl
@[simp] theorem setEstore_l1 : (s.setEstore t x).l1 = s.l1 := rfl
@[simp] theorem setEstore_llc : (s.setEstore t x).llc = s.llc := rfl
@[simp] theorem setEstore_dir : (s.setEstore t x).dir = s.dir := rfl
@[simp] theorem setEstore_poison : (s.setEstore t x).poison = s.poison := rfl
@[simp] theorem setEstore_tlb : (s.setEstore t x).tlb = s.tlb := rfl
@[simp] theorem setEstore_icache : (s.setEstore t x).icache = s.icache := rfl
@[simp] theorem setEstore_rot : (s.setEstore t x).rot = s.rot := rfl
@[simp] theorem setEstore_phase : (s.setEstore t x).phase = s.phase := rfl
@[simp] theorem setEstore_requests : (s.setEstore t x).requests = s.requests := rfl
@[simp] theorem setEstore_arbHeld : (s.setEstore t x).arbHeld = s.arbHeld := rfl
@[simp] theorem setEstore_token : (s.setEstore t x).token = s.token := rfl
@[simp] theorem setEstore_tokenQ : (s.setEstore t x).tokenQ = s.tokenQ := rfl
@[simp] theorem setEstore_queues : (s.setEstore t x).queues = s.queues := rfl
@[simp] theorem setEstore_lastSeq : (s.setEstore t x).lastSeq = s.lastSeq := rfl
@[simp] theorem setEstore_launches : (s.setEstore t x).launches = s.launches := rfl
@[simp] theorem setEstore_credits : (s.setEstore t x).credits = s.credits := rfl
@[simp] theorem setEstore_ctxs : (s.setEstore t x).ctxs = s.ctxs := rfl
@[simp] theorem setEstore_saves : (s.setEstore t x).saves = s.saves := rfl
@[simp] theorem setEstore_faultqs : (s.setEstore t x).faultqs = s.faultqs := rfl
@[simp] theorem setEstore_holds : (s.setEstore t x).holds = s.holds := rfl
@[simp] theorem setEstore_nextHid : (s.setEstore t x).nextHid = s.nextHid := rfl
@[simp] theorem setEstore_engines : (s.setEstore t x).engines = s.engines := rfl
@[simp] theorem setEstore_stks : (s.setEstore t x).stks = s.stks := rfl
@[simp] theorem setEstore_dies : (s.setEstore t x).dies = s.dies := rfl
@[simp] theorem setEstore_rails : (s.setEstore t x).rails = s.rails := rfl
@[simp] theorem setEstore_linksAsleep : (s.setEstore t x).linksAsleep = s.linksAsleep := rfl
@[simp] theorem setEstore_linksWaking : (s.setEstore t x).linksWaking = s.linksWaking := rfl
@[simp] theorem setEstore_journals : (s.setEstore t x).journals = s.journals := rfl
@[simp] theorem setEstore_capsules : (s.setEstore t x).capsules = s.capsules := rfl
@[simp] theorem setEstore_flying : (s.setEstore t x).flying = s.flying := rfl
@[simp] theorem setEstore_nextId : (s.setEstore t x).nextId = s.nextId := rfl
@[simp] theorem setEstore_pendings : (s.setEstore t x).pendings = s.pendings := rfl
@[simp] theorem setEstore_flushes : (s.setEstore t x).flushes = s.flushes := rfl
@[simp] theorem setEstore_host : (s.setEstore t x).host = s.host := rfl
@[simp] theorem setEstore_lsImages : (s.setEstore t x).lsImages = s.lsImages := rfl
@[simp] theorem setEstore_hostMem : (s.setEstore t x).hostMem = s.hostMem := rfl
@[simp] theorem setEstore_peerMem : (s.setEstore t x).peerMem = s.peerMem := rfl
@[simp] theorem setEstore_pkgBars : (s.setEstore t x).pkgBars = s.pkgBars := rfl
@[simp] theorem setEstore_pkgCount : (s.setEstore t x).pkgCount = s.pkgCount := rfl
@[simp] theorem setEstore_pkgHeld : (s.setEstore t x).pkgHeld = s.pkgHeld := rfl
@[simp] theorem setEstore_routes : (s.setEstore t x).routes = s.routes := rfl
@[simp] theorem setEstore_ports : (s.setEstore t x).ports = s.ports := rfl
@[simp] theorem setEstore_pkg : (s.setEstore t x).pkg = s.pkg := rfl
@[simp] theorem setEstore_svc : (s.setEstore t x).svc = s.svc := rfl
@[simp] theorem setEstore_outputs : (s.setEstore t x).outputs = s.outputs := rfl
end setEstore

section setJournal
variable (s : State) (n : CtxId) (x : Journal)
@[simp] theorem setJournal_agenda : (s.setJournal n x).agenda = s.agenda := rfl
@[simp] theorem setJournal_cur : (s.setJournal n x).cur = s.cur := rfl
@[simp] theorem setJournal_tape : (s.setJournal n x).tape = s.tape := rfl
@[simp] theorem setJournal_answer : (s.setJournal n x).answer = s.answer := rfl
@[simp] theorem setJournal_fresh : (s.setJournal n x).fresh = s.fresh := rfl
@[simp] theorem setJournal_cores : (s.setJournal n x).cores = s.cores := rfl
@[simp] theorem setJournal_mem : (s.setJournal n x).mem = s.mem := rfl
@[simp] theorem setJournal_dirty : (s.setJournal n x).dirty = s.dirty := rfl
@[simp] theorem setJournal_l1 : (s.setJournal n x).l1 = s.l1 := rfl
@[simp] theorem setJournal_llc : (s.setJournal n x).llc = s.llc := rfl
@[simp] theorem setJournal_dir : (s.setJournal n x).dir = s.dir := rfl
@[simp] theorem setJournal_poison : (s.setJournal n x).poison = s.poison := rfl
@[simp] theorem setJournal_tlb : (s.setJournal n x).tlb = s.tlb := rfl
@[simp] theorem setJournal_icache : (s.setJournal n x).icache = s.icache := rfl
@[simp] theorem setJournal_rot : (s.setJournal n x).rot = s.rot := rfl
@[simp] theorem setJournal_phase : (s.setJournal n x).phase = s.phase := rfl
@[simp] theorem setJournal_requests : (s.setJournal n x).requests = s.requests := rfl
@[simp] theorem setJournal_arbHeld : (s.setJournal n x).arbHeld = s.arbHeld := rfl
@[simp] theorem setJournal_token : (s.setJournal n x).token = s.token := rfl
@[simp] theorem setJournal_tokenQ : (s.setJournal n x).tokenQ = s.tokenQ := rfl
@[simp] theorem setJournal_queues : (s.setJournal n x).queues = s.queues := rfl
@[simp] theorem setJournal_lastSeq : (s.setJournal n x).lastSeq = s.lastSeq := rfl
@[simp] theorem setJournal_launches : (s.setJournal n x).launches = s.launches := rfl
@[simp] theorem setJournal_credits : (s.setJournal n x).credits = s.credits := rfl
@[simp] theorem setJournal_ctxs : (s.setJournal n x).ctxs = s.ctxs := rfl
@[simp] theorem setJournal_saves : (s.setJournal n x).saves = s.saves := rfl
@[simp] theorem setJournal_faultqs : (s.setJournal n x).faultqs = s.faultqs := rfl
@[simp] theorem setJournal_holds : (s.setJournal n x).holds = s.holds := rfl
@[simp] theorem setJournal_nextHid : (s.setJournal n x).nextHid = s.nextHid := rfl
@[simp] theorem setJournal_engines : (s.setJournal n x).engines = s.engines := rfl
@[simp] theorem setJournal_estores : (s.setJournal n x).estores = s.estores := rfl
@[simp] theorem setJournal_stks : (s.setJournal n x).stks = s.stks := rfl
@[simp] theorem setJournal_dies : (s.setJournal n x).dies = s.dies := rfl
@[simp] theorem setJournal_rails : (s.setJournal n x).rails = s.rails := rfl
@[simp] theorem setJournal_linksAsleep : (s.setJournal n x).linksAsleep = s.linksAsleep := rfl
@[simp] theorem setJournal_linksWaking : (s.setJournal n x).linksWaking = s.linksWaking := rfl
@[simp] theorem setJournal_capsules : (s.setJournal n x).capsules = s.capsules := rfl
@[simp] theorem setJournal_flying : (s.setJournal n x).flying = s.flying := rfl
@[simp] theorem setJournal_nextId : (s.setJournal n x).nextId = s.nextId := rfl
@[simp] theorem setJournal_pendings : (s.setJournal n x).pendings = s.pendings := rfl
@[simp] theorem setJournal_flushes : (s.setJournal n x).flushes = s.flushes := rfl
@[simp] theorem setJournal_host : (s.setJournal n x).host = s.host := rfl
@[simp] theorem setJournal_lsImages : (s.setJournal n x).lsImages = s.lsImages := rfl
@[simp] theorem setJournal_hostMem : (s.setJournal n x).hostMem = s.hostMem := rfl
@[simp] theorem setJournal_peerMem : (s.setJournal n x).peerMem = s.peerMem := rfl
@[simp] theorem setJournal_pkgBars : (s.setJournal n x).pkgBars = s.pkgBars := rfl
@[simp] theorem setJournal_pkgCount : (s.setJournal n x).pkgCount = s.pkgCount := rfl
@[simp] theorem setJournal_pkgHeld : (s.setJournal n x).pkgHeld = s.pkgHeld := rfl
@[simp] theorem setJournal_routes : (s.setJournal n x).routes = s.routes := rfl
@[simp] theorem setJournal_ports : (s.setJournal n x).ports = s.ports := rfl
@[simp] theorem setJournal_pkg : (s.setJournal n x).pkg = s.pkg := rfl
@[simp] theorem setJournal_svc : (s.setJournal n x).svc = s.svc := rfl
@[simp] theorem setJournal_outputs : (s.setJournal n x).outputs = s.outputs := rfl
end setJournal

section setLaunch
variable (s : State) (n : SeqNo) (x : Launch)
@[simp] theorem setLaunch_agenda : (s.setLaunch n x).agenda = s.agenda := rfl
@[simp] theorem setLaunch_cur : (s.setLaunch n x).cur = s.cur := rfl
@[simp] theorem setLaunch_tape : (s.setLaunch n x).tape = s.tape := rfl
@[simp] theorem setLaunch_answer : (s.setLaunch n x).answer = s.answer := rfl
@[simp] theorem setLaunch_fresh : (s.setLaunch n x).fresh = s.fresh := rfl
@[simp] theorem setLaunch_cores : (s.setLaunch n x).cores = s.cores := rfl
@[simp] theorem setLaunch_mem : (s.setLaunch n x).mem = s.mem := rfl
@[simp] theorem setLaunch_dirty : (s.setLaunch n x).dirty = s.dirty := rfl
@[simp] theorem setLaunch_l1 : (s.setLaunch n x).l1 = s.l1 := rfl
@[simp] theorem setLaunch_llc : (s.setLaunch n x).llc = s.llc := rfl
@[simp] theorem setLaunch_dir : (s.setLaunch n x).dir = s.dir := rfl
@[simp] theorem setLaunch_poison : (s.setLaunch n x).poison = s.poison := rfl
@[simp] theorem setLaunch_tlb : (s.setLaunch n x).tlb = s.tlb := rfl
@[simp] theorem setLaunch_icache : (s.setLaunch n x).icache = s.icache := rfl
@[simp] theorem setLaunch_rot : (s.setLaunch n x).rot = s.rot := rfl
@[simp] theorem setLaunch_phase : (s.setLaunch n x).phase = s.phase := rfl
@[simp] theorem setLaunch_requests : (s.setLaunch n x).requests = s.requests := rfl
@[simp] theorem setLaunch_arbHeld : (s.setLaunch n x).arbHeld = s.arbHeld := rfl
@[simp] theorem setLaunch_token : (s.setLaunch n x).token = s.token := rfl
@[simp] theorem setLaunch_tokenQ : (s.setLaunch n x).tokenQ = s.tokenQ := rfl
@[simp] theorem setLaunch_queues : (s.setLaunch n x).queues = s.queues := rfl
@[simp] theorem setLaunch_lastSeq : (s.setLaunch n x).lastSeq = s.lastSeq := rfl
@[simp] theorem setLaunch_credits : (s.setLaunch n x).credits = s.credits := rfl
@[simp] theorem setLaunch_ctxs : (s.setLaunch n x).ctxs = s.ctxs := rfl
@[simp] theorem setLaunch_saves : (s.setLaunch n x).saves = s.saves := rfl
@[simp] theorem setLaunch_faultqs : (s.setLaunch n x).faultqs = s.faultqs := rfl
@[simp] theorem setLaunch_holds : (s.setLaunch n x).holds = s.holds := rfl
@[simp] theorem setLaunch_nextHid : (s.setLaunch n x).nextHid = s.nextHid := rfl
@[simp] theorem setLaunch_engines : (s.setLaunch n x).engines = s.engines := rfl
@[simp] theorem setLaunch_estores : (s.setLaunch n x).estores = s.estores := rfl
@[simp] theorem setLaunch_stks : (s.setLaunch n x).stks = s.stks := rfl
@[simp] theorem setLaunch_dies : (s.setLaunch n x).dies = s.dies := rfl
@[simp] theorem setLaunch_rails : (s.setLaunch n x).rails = s.rails := rfl
@[simp] theorem setLaunch_linksAsleep : (s.setLaunch n x).linksAsleep = s.linksAsleep := rfl
@[simp] theorem setLaunch_linksWaking : (s.setLaunch n x).linksWaking = s.linksWaking := rfl
@[simp] theorem setLaunch_journals : (s.setLaunch n x).journals = s.journals := rfl
@[simp] theorem setLaunch_capsules : (s.setLaunch n x).capsules = s.capsules := rfl
@[simp] theorem setLaunch_flying : (s.setLaunch n x).flying = s.flying := rfl
@[simp] theorem setLaunch_nextId : (s.setLaunch n x).nextId = s.nextId := rfl
@[simp] theorem setLaunch_pendings : (s.setLaunch n x).pendings = s.pendings := rfl
@[simp] theorem setLaunch_flushes : (s.setLaunch n x).flushes = s.flushes := rfl
@[simp] theorem setLaunch_host : (s.setLaunch n x).host = s.host := rfl
@[simp] theorem setLaunch_lsImages : (s.setLaunch n x).lsImages = s.lsImages := rfl
@[simp] theorem setLaunch_hostMem : (s.setLaunch n x).hostMem = s.hostMem := rfl
@[simp] theorem setLaunch_peerMem : (s.setLaunch n x).peerMem = s.peerMem := rfl
@[simp] theorem setLaunch_pkgBars : (s.setLaunch n x).pkgBars = s.pkgBars := rfl
@[simp] theorem setLaunch_pkgCount : (s.setLaunch n x).pkgCount = s.pkgCount := rfl
@[simp] theorem setLaunch_pkgHeld : (s.setLaunch n x).pkgHeld = s.pkgHeld := rfl
@[simp] theorem setLaunch_routes : (s.setLaunch n x).routes = s.routes := rfl
@[simp] theorem setLaunch_ports : (s.setLaunch n x).ports = s.ports := rfl
@[simp] theorem setLaunch_pkg : (s.setLaunch n x).pkg = s.pkg := rfl
@[simp] theorem setLaunch_svc : (s.setLaunch n x).svc = s.svc := rfl
@[simp] theorem setLaunch_outputs : (s.setLaunch n x).outputs = s.outputs := rfl
end setLaunch

section send
variable (s : State) (o : Out)
@[simp] theorem send_agenda : (s.send o).agenda = s.agenda := rfl
@[simp] theorem send_cur : (s.send o).cur = s.cur := rfl
@[simp] theorem send_tape : (s.send o).tape = s.tape := rfl
@[simp] theorem send_answer : (s.send o).answer = s.answer := rfl
@[simp] theorem send_fresh : (s.send o).fresh = s.fresh := rfl
@[simp] theorem send_cores : (s.send o).cores = s.cores := rfl
@[simp] theorem send_mem : (s.send o).mem = s.mem := rfl
@[simp] theorem send_dirty : (s.send o).dirty = s.dirty := rfl
@[simp] theorem send_l1 : (s.send o).l1 = s.l1 := rfl
@[simp] theorem send_llc : (s.send o).llc = s.llc := rfl
@[simp] theorem send_dir : (s.send o).dir = s.dir := rfl
@[simp] theorem send_poison : (s.send o).poison = s.poison := rfl
@[simp] theorem send_tlb : (s.send o).tlb = s.tlb := rfl
@[simp] theorem send_icache : (s.send o).icache = s.icache := rfl
@[simp] theorem send_rot : (s.send o).rot = s.rot := rfl
@[simp] theorem send_phase : (s.send o).phase = s.phase := rfl
@[simp] theorem send_requests : (s.send o).requests = s.requests := rfl
@[simp] theorem send_arbHeld : (s.send o).arbHeld = s.arbHeld := rfl
@[simp] theorem send_token : (s.send o).token = s.token := rfl
@[simp] theorem send_tokenQ : (s.send o).tokenQ = s.tokenQ := rfl
@[simp] theorem send_queues : (s.send o).queues = s.queues := rfl
@[simp] theorem send_lastSeq : (s.send o).lastSeq = s.lastSeq := rfl
@[simp] theorem send_launches : (s.send o).launches = s.launches := rfl
@[simp] theorem send_credits : (s.send o).credits = s.credits := rfl
@[simp] theorem send_ctxs : (s.send o).ctxs = s.ctxs := rfl
@[simp] theorem send_saves : (s.send o).saves = s.saves := rfl
@[simp] theorem send_faultqs : (s.send o).faultqs = s.faultqs := rfl
@[simp] theorem send_holds : (s.send o).holds = s.holds := rfl
@[simp] theorem send_nextHid : (s.send o).nextHid = s.nextHid := rfl
@[simp] theorem send_engines : (s.send o).engines = s.engines := rfl
@[simp] theorem send_estores : (s.send o).estores = s.estores := rfl
@[simp] theorem send_stks : (s.send o).stks = s.stks := rfl
@[simp] theorem send_dies : (s.send o).dies = s.dies := rfl
@[simp] theorem send_rails : (s.send o).rails = s.rails := rfl
@[simp] theorem send_linksAsleep : (s.send o).linksAsleep = s.linksAsleep := rfl
@[simp] theorem send_linksWaking : (s.send o).linksWaking = s.linksWaking := rfl
@[simp] theorem send_journals : (s.send o).journals = s.journals := rfl
@[simp] theorem send_capsules : (s.send o).capsules = s.capsules := rfl
@[simp] theorem send_flying : (s.send o).flying = s.flying := rfl
@[simp] theorem send_nextId : (s.send o).nextId = s.nextId := rfl
@[simp] theorem send_pendings : (s.send o).pendings = s.pendings := rfl
@[simp] theorem send_flushes : (s.send o).flushes = s.flushes := rfl
@[simp] theorem send_host : (s.send o).host = s.host := rfl
@[simp] theorem send_lsImages : (s.send o).lsImages = s.lsImages := rfl
@[simp] theorem send_hostMem : (s.send o).hostMem = s.hostMem := rfl
@[simp] theorem send_peerMem : (s.send o).peerMem = s.peerMem := rfl
@[simp] theorem send_pkgBars : (s.send o).pkgBars = s.pkgBars := rfl
@[simp] theorem send_pkgCount : (s.send o).pkgCount = s.pkgCount := rfl
@[simp] theorem send_pkgHeld : (s.send o).pkgHeld = s.pkgHeld := rfl
@[simp] theorem send_routes : (s.send o).routes = s.routes := rfl
@[simp] theorem send_ports : (s.send o).ports = s.ports := rfl
@[simp] theorem send_pkg : (s.send o).pkg = s.pkg := rfl
@[simp] theorem send_svc : (s.send o).svc = s.svc := rfl
end send

section withCaches
variable (s : State) (k : State)
@[simp] theorem withCaches_agenda : (s.withCaches k).agenda = s.agenda := rfl
@[simp] theorem withCaches_cur : (s.withCaches k).cur = s.cur := rfl
@[simp] theorem withCaches_tape : (s.withCaches k).tape = s.tape := rfl
@[simp] theorem withCaches_answer : (s.withCaches k).answer = s.answer := rfl
@[simp] theorem withCaches_fresh : (s.withCaches k).fresh = s.fresh := rfl
@[simp] theorem withCaches_cores : (s.withCaches k).cores = s.cores := rfl
@[simp] theorem withCaches_mem : (s.withCaches k).mem = s.mem := rfl
@[simp] theorem withCaches_tlb : (s.withCaches k).tlb = s.tlb := rfl
@[simp] theorem withCaches_icache : (s.withCaches k).icache = s.icache := rfl
@[simp] theorem withCaches_rot : (s.withCaches k).rot = s.rot := rfl
@[simp] theorem withCaches_phase : (s.withCaches k).phase = s.phase := rfl
@[simp] theorem withCaches_requests : (s.withCaches k).requests = s.requests := rfl
@[simp] theorem withCaches_arbHeld : (s.withCaches k).arbHeld = s.arbHeld := rfl
@[simp] theorem withCaches_token : (s.withCaches k).token = s.token := rfl
@[simp] theorem withCaches_tokenQ : (s.withCaches k).tokenQ = s.tokenQ := rfl
@[simp] theorem withCaches_queues : (s.withCaches k).queues = s.queues := rfl
@[simp] theorem withCaches_lastSeq : (s.withCaches k).lastSeq = s.lastSeq := rfl
@[simp] theorem withCaches_launches : (s.withCaches k).launches = s.launches := rfl
@[simp] theorem withCaches_credits : (s.withCaches k).credits = s.credits := rfl
@[simp] theorem withCaches_ctxs : (s.withCaches k).ctxs = s.ctxs := rfl
@[simp] theorem withCaches_saves : (s.withCaches k).saves = s.saves := rfl
@[simp] theorem withCaches_faultqs : (s.withCaches k).faultqs = s.faultqs := rfl
@[simp] theorem withCaches_holds : (s.withCaches k).holds = s.holds := rfl
@[simp] theorem withCaches_nextHid : (s.withCaches k).nextHid = s.nextHid := rfl
@[simp] theorem withCaches_engines : (s.withCaches k).engines = s.engines := rfl
@[simp] theorem withCaches_estores : (s.withCaches k).estores = s.estores := rfl
@[simp] theorem withCaches_stks : (s.withCaches k).stks = s.stks := rfl
@[simp] theorem withCaches_dies : (s.withCaches k).dies = s.dies := rfl
@[simp] theorem withCaches_rails : (s.withCaches k).rails = s.rails := rfl
@[simp] theorem withCaches_linksAsleep : (s.withCaches k).linksAsleep = s.linksAsleep := rfl
@[simp] theorem withCaches_linksWaking : (s.withCaches k).linksWaking = s.linksWaking := rfl
@[simp] theorem withCaches_journals : (s.withCaches k).journals = s.journals := rfl
@[simp] theorem withCaches_capsules : (s.withCaches k).capsules = s.capsules := rfl
@[simp] theorem withCaches_flying : (s.withCaches k).flying = s.flying := rfl
@[simp] theorem withCaches_nextId : (s.withCaches k).nextId = s.nextId := rfl
@[simp] theorem withCaches_pendings : (s.withCaches k).pendings = s.pendings := rfl
@[simp] theorem withCaches_flushes : (s.withCaches k).flushes = s.flushes := rfl
@[simp] theorem withCaches_host : (s.withCaches k).host = s.host := rfl
@[simp] theorem withCaches_lsImages : (s.withCaches k).lsImages = s.lsImages := rfl
@[simp] theorem withCaches_hostMem : (s.withCaches k).hostMem = s.hostMem := rfl
@[simp] theorem withCaches_peerMem : (s.withCaches k).peerMem = s.peerMem := rfl
@[simp] theorem withCaches_pkgBars : (s.withCaches k).pkgBars = s.pkgBars := rfl
@[simp] theorem withCaches_pkgCount : (s.withCaches k).pkgCount = s.pkgCount := rfl
@[simp] theorem withCaches_pkgHeld : (s.withCaches k).pkgHeld = s.pkgHeld := rfl
@[simp] theorem withCaches_routes : (s.withCaches k).routes = s.routes := rfl
@[simp] theorem withCaches_ports : (s.withCaches k).ports = s.ports := rfl
@[simp] theorem withCaches_pkg : (s.withCaches k).pkg = s.pkg := rfl
@[simp] theorem withCaches_svc : (s.withCaches k).svc = s.svc := rfl
@[simp] theorem withCaches_outputs : (s.withCaches k).outputs = s.outputs := rfl
end withCaches

section again
variable (s : State) (f : Pick → Bool) (p : Pick)
@[simp] theorem again_cur : (s.again f p).cur = s.cur := rfl
@[simp] theorem again_tape : (s.again f p).tape = s.tape := rfl
@[simp] theorem again_answer : (s.again f p).answer = s.answer := rfl
@[simp] theorem again_fresh : (s.again f p).fresh = s.fresh := rfl
@[simp] theorem again_cores : (s.again f p).cores = s.cores := rfl
@[simp] theorem again_mem : (s.again f p).mem = s.mem := rfl
@[simp] theorem again_dirty : (s.again f p).dirty = s.dirty := rfl
@[simp] theorem again_l1 : (s.again f p).l1 = s.l1 := rfl
@[simp] theorem again_llc : (s.again f p).llc = s.llc := rfl
@[simp] theorem again_dir : (s.again f p).dir = s.dir := rfl
@[simp] theorem again_poison : (s.again f p).poison = s.poison := rfl
@[simp] theorem again_tlb : (s.again f p).tlb = s.tlb := rfl
@[simp] theorem again_icache : (s.again f p).icache = s.icache := rfl
@[simp] theorem again_rot : (s.again f p).rot = s.rot := rfl
@[simp] theorem again_phase : (s.again f p).phase = s.phase := rfl
@[simp] theorem again_requests : (s.again f p).requests = s.requests := rfl
@[simp] theorem again_arbHeld : (s.again f p).arbHeld = s.arbHeld := rfl
@[simp] theorem again_token : (s.again f p).token = s.token := rfl
@[simp] theorem again_tokenQ : (s.again f p).tokenQ = s.tokenQ := rfl
@[simp] theorem again_queues : (s.again f p).queues = s.queues := rfl
@[simp] theorem again_lastSeq : (s.again f p).lastSeq = s.lastSeq := rfl
@[simp] theorem again_launches : (s.again f p).launches = s.launches := rfl
@[simp] theorem again_credits : (s.again f p).credits = s.credits := rfl
@[simp] theorem again_ctxs : (s.again f p).ctxs = s.ctxs := rfl
@[simp] theorem again_saves : (s.again f p).saves = s.saves := rfl
@[simp] theorem again_faultqs : (s.again f p).faultqs = s.faultqs := rfl
@[simp] theorem again_holds : (s.again f p).holds = s.holds := rfl
@[simp] theorem again_nextHid : (s.again f p).nextHid = s.nextHid := rfl
@[simp] theorem again_engines : (s.again f p).engines = s.engines := rfl
@[simp] theorem again_estores : (s.again f p).estores = s.estores := rfl
@[simp] theorem again_stks : (s.again f p).stks = s.stks := rfl
@[simp] theorem again_dies : (s.again f p).dies = s.dies := rfl
@[simp] theorem again_rails : (s.again f p).rails = s.rails := rfl
@[simp] theorem again_linksAsleep : (s.again f p).linksAsleep = s.linksAsleep := rfl
@[simp] theorem again_linksWaking : (s.again f p).linksWaking = s.linksWaking := rfl
@[simp] theorem again_journals : (s.again f p).journals = s.journals := rfl
@[simp] theorem again_capsules : (s.again f p).capsules = s.capsules := rfl
@[simp] theorem again_flying : (s.again f p).flying = s.flying := rfl
@[simp] theorem again_nextId : (s.again f p).nextId = s.nextId := rfl
@[simp] theorem again_pendings : (s.again f p).pendings = s.pendings := rfl
@[simp] theorem again_flushes : (s.again f p).flushes = s.flushes := rfl
@[simp] theorem again_host : (s.again f p).host = s.host := rfl
@[simp] theorem again_lsImages : (s.again f p).lsImages = s.lsImages := rfl
@[simp] theorem again_hostMem : (s.again f p).hostMem = s.hostMem := rfl
@[simp] theorem again_peerMem : (s.again f p).peerMem = s.peerMem := rfl
@[simp] theorem again_pkgBars : (s.again f p).pkgBars = s.pkgBars := rfl
@[simp] theorem again_pkgCount : (s.again f p).pkgCount = s.pkgCount := rfl
@[simp] theorem again_pkgHeld : (s.again f p).pkgHeld = s.pkgHeld := rfl
@[simp] theorem again_routes : (s.again f p).routes = s.routes := rfl
@[simp] theorem again_ports : (s.again f p).ports = s.ports := rfl
@[simp] theorem again_pkg : (s.again f p).pkg = s.pkg := rfl
@[simp] theorem again_svc : (s.again f p).svc = s.svc := rfl
@[simp] theorem again_outputs : (s.again f p).outputs = s.outputs := rfl
end again

section setRegs
variable (s : State) (r : Regs)
@[simp] theorem setRegs_agenda : (s.setRegs r).agenda = s.agenda := by unfold State.setRegs; split <;> rfl
@[simp] theorem setRegs_cur : (s.setRegs r).cur = s.cur := by unfold State.setRegs; split <;> rfl
@[simp] theorem setRegs_tape : (s.setRegs r).tape = s.tape := by unfold State.setRegs; split <;> rfl
@[simp] theorem setRegs_answer : (s.setRegs r).answer = s.answer := by unfold State.setRegs; split <;> rfl
@[simp] theorem setRegs_fresh : (s.setRegs r).fresh = s.fresh := by unfold State.setRegs; split <;> rfl
@[simp] theorem setRegs_mem : (s.setRegs r).mem = s.mem := by unfold State.setRegs; split <;> rfl
@[simp] theorem setRegs_dirty : (s.setRegs r).dirty = s.dirty := by unfold State.setRegs; split <;> rfl
@[simp] theorem setRegs_l1 : (s.setRegs r).l1 = s.l1 := by unfold State.setRegs; split <;> rfl
@[simp] theorem setRegs_llc : (s.setRegs r).llc = s.llc := by unfold State.setRegs; split <;> rfl
@[simp] theorem setRegs_dir : (s.setRegs r).dir = s.dir := by unfold State.setRegs; split <;> rfl
@[simp] theorem setRegs_poison : (s.setRegs r).poison = s.poison := by unfold State.setRegs; split <;> rfl
@[simp] theorem setRegs_tlb : (s.setRegs r).tlb = s.tlb := by unfold State.setRegs; split <;> rfl
@[simp] theorem setRegs_icache : (s.setRegs r).icache = s.icache := by unfold State.setRegs; split <;> rfl
@[simp] theorem setRegs_rot : (s.setRegs r).rot = s.rot := by unfold State.setRegs; split <;> rfl
@[simp] theorem setRegs_phase : (s.setRegs r).phase = s.phase := by unfold State.setRegs; split <;> rfl
@[simp] theorem setRegs_requests : (s.setRegs r).requests = s.requests := by unfold State.setRegs; split <;> rfl
@[simp] theorem setRegs_arbHeld : (s.setRegs r).arbHeld = s.arbHeld := by unfold State.setRegs; split <;> rfl
@[simp] theorem setRegs_token : (s.setRegs r).token = s.token := by unfold State.setRegs; split <;> rfl
@[simp] theorem setRegs_tokenQ : (s.setRegs r).tokenQ = s.tokenQ := by unfold State.setRegs; split <;> rfl
@[simp] theorem setRegs_queues : (s.setRegs r).queues = s.queues := by unfold State.setRegs; split <;> rfl
@[simp] theorem setRegs_lastSeq : (s.setRegs r).lastSeq = s.lastSeq := by unfold State.setRegs; split <;> rfl
@[simp] theorem setRegs_launches : (s.setRegs r).launches = s.launches := by unfold State.setRegs; split <;> rfl
@[simp] theorem setRegs_credits : (s.setRegs r).credits = s.credits := by unfold State.setRegs; split <;> rfl
@[simp] theorem setRegs_ctxs : (s.setRegs r).ctxs = s.ctxs := by unfold State.setRegs; split <;> rfl
@[simp] theorem setRegs_saves : (s.setRegs r).saves = s.saves := by unfold State.setRegs; split <;> rfl
@[simp] theorem setRegs_faultqs : (s.setRegs r).faultqs = s.faultqs := by unfold State.setRegs; split <;> rfl
@[simp] theorem setRegs_holds : (s.setRegs r).holds = s.holds := by unfold State.setRegs; split <;> rfl
@[simp] theorem setRegs_nextHid : (s.setRegs r).nextHid = s.nextHid := by unfold State.setRegs; split <;> rfl
@[simp] theorem setRegs_estores : (s.setRegs r).estores = s.estores := by unfold State.setRegs; split <;> rfl
@[simp] theorem setRegs_stks : (s.setRegs r).stks = s.stks := by unfold State.setRegs; split <;> rfl
@[simp] theorem setRegs_dies : (s.setRegs r).dies = s.dies := by unfold State.setRegs; split <;> rfl
@[simp] theorem setRegs_rails : (s.setRegs r).rails = s.rails := by unfold State.setRegs; split <;> rfl
@[simp] theorem setRegs_linksAsleep : (s.setRegs r).linksAsleep = s.linksAsleep := by unfold State.setRegs; split <;> rfl
@[simp] theorem setRegs_linksWaking : (s.setRegs r).linksWaking = s.linksWaking := by unfold State.setRegs; split <;> rfl
@[simp] theorem setRegs_journals : (s.setRegs r).journals = s.journals := by unfold State.setRegs; split <;> rfl
@[simp] theorem setRegs_capsules : (s.setRegs r).capsules = s.capsules := by unfold State.setRegs; split <;> rfl
@[simp] theorem setRegs_flying : (s.setRegs r).flying = s.flying := by unfold State.setRegs; split <;> rfl
@[simp] theorem setRegs_nextId : (s.setRegs r).nextId = s.nextId := by unfold State.setRegs; split <;> rfl
@[simp] theorem setRegs_pendings : (s.setRegs r).pendings = s.pendings := by unfold State.setRegs; split <;> rfl
@[simp] theorem setRegs_flushes : (s.setRegs r).flushes = s.flushes := by unfold State.setRegs; split <;> rfl
@[simp] theorem setRegs_host : (s.setRegs r).host = s.host := by unfold State.setRegs; split <;> rfl
@[simp] theorem setRegs_lsImages : (s.setRegs r).lsImages = s.lsImages := by unfold State.setRegs; split <;> rfl
@[simp] theorem setRegs_hostMem : (s.setRegs r).hostMem = s.hostMem := by unfold State.setRegs; split <;> rfl
@[simp] theorem setRegs_peerMem : (s.setRegs r).peerMem = s.peerMem := by unfold State.setRegs; split <;> rfl
@[simp] theorem setRegs_pkgBars : (s.setRegs r).pkgBars = s.pkgBars := by unfold State.setRegs; split <;> rfl
@[simp] theorem setRegs_pkgCount : (s.setRegs r).pkgCount = s.pkgCount := by unfold State.setRegs; split <;> rfl
@[simp] theorem setRegs_pkgHeld : (s.setRegs r).pkgHeld = s.pkgHeld := by unfold State.setRegs; split <;> rfl
@[simp] theorem setRegs_routes : (s.setRegs r).routes = s.routes := by unfold State.setRegs; split <;> rfl
@[simp] theorem setRegs_ports : (s.setRegs r).ports = s.ports := by unfold State.setRegs; split <;> rfl
@[simp] theorem setRegs_pkg : (s.setRegs r).pkg = s.pkg := by unfold State.setRegs; split <;> rfl
@[simp] theorem setRegs_svc : (s.setRegs r).svc = s.svc := by unfold State.setRegs; split <;> rfl
@[simp] theorem setRegs_outputs : (s.setRegs r).outputs = s.outputs := by unfold State.setRegs; split <;> rfl
end setRegs

section setChunk
variable (s : State) (x : Chunk)
@[simp] theorem setChunk_agenda : (s.setChunk x).agenda = s.agenda := by unfold State.setChunk; split <;> rfl
@[simp] theorem setChunk_cur : (s.setChunk x).cur = s.cur := by unfold State.setChunk; split <;> rfl
@[simp] theorem setChunk_tape : (s.setChunk x).tape = s.tape := by unfold State.setChunk; split <;> rfl
@[simp] theorem setChunk_answer : (s.setChunk x).answer = s.answer := by unfold State.setChunk; split <;> rfl
@[simp] theorem setChunk_fresh : (s.setChunk x).fresh = s.fresh := by unfold State.setChunk; split <;> rfl
@[simp] theorem setChunk_mem : (s.setChunk x).mem = s.mem := by unfold State.setChunk; split <;> rfl
@[simp] theorem setChunk_dirty : (s.setChunk x).dirty = s.dirty := by unfold State.setChunk; split <;> rfl
@[simp] theorem setChunk_l1 : (s.setChunk x).l1 = s.l1 := by unfold State.setChunk; split <;> rfl
@[simp] theorem setChunk_llc : (s.setChunk x).llc = s.llc := by unfold State.setChunk; split <;> rfl
@[simp] theorem setChunk_dir : (s.setChunk x).dir = s.dir := by unfold State.setChunk; split <;> rfl
@[simp] theorem setChunk_poison : (s.setChunk x).poison = s.poison := by unfold State.setChunk; split <;> rfl
@[simp] theorem setChunk_tlb : (s.setChunk x).tlb = s.tlb := by unfold State.setChunk; split <;> rfl
@[simp] theorem setChunk_icache : (s.setChunk x).icache = s.icache := by unfold State.setChunk; split <;> rfl
@[simp] theorem setChunk_rot : (s.setChunk x).rot = s.rot := by unfold State.setChunk; split <;> rfl
@[simp] theorem setChunk_phase : (s.setChunk x).phase = s.phase := by unfold State.setChunk; split <;> rfl
@[simp] theorem setChunk_requests : (s.setChunk x).requests = s.requests := by unfold State.setChunk; split <;> rfl
@[simp] theorem setChunk_arbHeld : (s.setChunk x).arbHeld = s.arbHeld := by unfold State.setChunk; split <;> rfl
@[simp] theorem setChunk_token : (s.setChunk x).token = s.token := by unfold State.setChunk; split <;> rfl
@[simp] theorem setChunk_tokenQ : (s.setChunk x).tokenQ = s.tokenQ := by unfold State.setChunk; split <;> rfl
@[simp] theorem setChunk_queues : (s.setChunk x).queues = s.queues := by unfold State.setChunk; split <;> rfl
@[simp] theorem setChunk_lastSeq : (s.setChunk x).lastSeq = s.lastSeq := by unfold State.setChunk; split <;> rfl
@[simp] theorem setChunk_launches : (s.setChunk x).launches = s.launches := by unfold State.setChunk; split <;> rfl
@[simp] theorem setChunk_credits : (s.setChunk x).credits = s.credits := by unfold State.setChunk; split <;> rfl
@[simp] theorem setChunk_ctxs : (s.setChunk x).ctxs = s.ctxs := by unfold State.setChunk; split <;> rfl
@[simp] theorem setChunk_saves : (s.setChunk x).saves = s.saves := by unfold State.setChunk; split <;> rfl
@[simp] theorem setChunk_faultqs : (s.setChunk x).faultqs = s.faultqs := by unfold State.setChunk; split <;> rfl
@[simp] theorem setChunk_holds : (s.setChunk x).holds = s.holds := by unfold State.setChunk; split <;> rfl
@[simp] theorem setChunk_nextHid : (s.setChunk x).nextHid = s.nextHid := by unfold State.setChunk; split <;> rfl
@[simp] theorem setChunk_estores : (s.setChunk x).estores = s.estores := by unfold State.setChunk; split <;> rfl
@[simp] theorem setChunk_stks : (s.setChunk x).stks = s.stks := by unfold State.setChunk; split <;> rfl
@[simp] theorem setChunk_dies : (s.setChunk x).dies = s.dies := by unfold State.setChunk; split <;> rfl
@[simp] theorem setChunk_rails : (s.setChunk x).rails = s.rails := by unfold State.setChunk; split <;> rfl
@[simp] theorem setChunk_linksAsleep : (s.setChunk x).linksAsleep = s.linksAsleep := by unfold State.setChunk; split <;> rfl
@[simp] theorem setChunk_linksWaking : (s.setChunk x).linksWaking = s.linksWaking := by unfold State.setChunk; split <;> rfl
@[simp] theorem setChunk_journals : (s.setChunk x).journals = s.journals := by unfold State.setChunk; split <;> rfl
@[simp] theorem setChunk_capsules : (s.setChunk x).capsules = s.capsules := by unfold State.setChunk; split <;> rfl
@[simp] theorem setChunk_flying : (s.setChunk x).flying = s.flying := by unfold State.setChunk; split <;> rfl
@[simp] theorem setChunk_nextId : (s.setChunk x).nextId = s.nextId := by unfold State.setChunk; split <;> rfl
@[simp] theorem setChunk_pendings : (s.setChunk x).pendings = s.pendings := by unfold State.setChunk; split <;> rfl
@[simp] theorem setChunk_flushes : (s.setChunk x).flushes = s.flushes := by unfold State.setChunk; split <;> rfl
@[simp] theorem setChunk_host : (s.setChunk x).host = s.host := by unfold State.setChunk; split <;> rfl
@[simp] theorem setChunk_lsImages : (s.setChunk x).lsImages = s.lsImages := by unfold State.setChunk; split <;> rfl
@[simp] theorem setChunk_hostMem : (s.setChunk x).hostMem = s.hostMem := by unfold State.setChunk; split <;> rfl
@[simp] theorem setChunk_peerMem : (s.setChunk x).peerMem = s.peerMem := by unfold State.setChunk; split <;> rfl
@[simp] theorem setChunk_pkgBars : (s.setChunk x).pkgBars = s.pkgBars := by unfold State.setChunk; split <;> rfl
@[simp] theorem setChunk_pkgCount : (s.setChunk x).pkgCount = s.pkgCount := by unfold State.setChunk; split <;> rfl
@[simp] theorem setChunk_pkgHeld : (s.setChunk x).pkgHeld = s.pkgHeld := by unfold State.setChunk; split <;> rfl
@[simp] theorem setChunk_routes : (s.setChunk x).routes = s.routes := by unfold State.setChunk; split <;> rfl
@[simp] theorem setChunk_ports : (s.setChunk x).ports = s.ports := by unfold State.setChunk; split <;> rfl
@[simp] theorem setChunk_pkg : (s.setChunk x).pkg = s.pkg := by unfold State.setChunk; split <;> rfl
@[simp] theorem setChunk_svc : (s.setChunk x).svc = s.svc := by unfold State.setChunk; split <;> rfl
@[simp] theorem setChunk_outputs : (s.setChunk x).outputs = s.outputs := by unfold State.setChunk; split <;> rfl
end setChunk

section choose
variable (s : State) (n : Nat)
@[simp] theorem choose_agenda : (s.choose n).2.agenda = s.agenda := by unfold State.choose; split <;> rfl
@[simp] theorem choose_cur : (s.choose n).2.cur = s.cur := by unfold State.choose; split <;> rfl
@[simp] theorem choose_answer : (s.choose n).2.answer = s.answer := by unfold State.choose; split <;> rfl
@[simp] theorem choose_fresh : (s.choose n).2.fresh = s.fresh := by unfold State.choose; split <;> rfl
@[simp] theorem choose_cores : (s.choose n).2.cores = s.cores := by unfold State.choose; split <;> rfl
@[simp] theorem choose_mem : (s.choose n).2.mem = s.mem := by unfold State.choose; split <;> rfl
@[simp] theorem choose_dirty : (s.choose n).2.dirty = s.dirty := by unfold State.choose; split <;> rfl
@[simp] theorem choose_l1 : (s.choose n).2.l1 = s.l1 := by unfold State.choose; split <;> rfl
@[simp] theorem choose_llc : (s.choose n).2.llc = s.llc := by unfold State.choose; split <;> rfl
@[simp] theorem choose_dir : (s.choose n).2.dir = s.dir := by unfold State.choose; split <;> rfl
@[simp] theorem choose_poison : (s.choose n).2.poison = s.poison := by unfold State.choose; split <;> rfl
@[simp] theorem choose_tlb : (s.choose n).2.tlb = s.tlb := by unfold State.choose; split <;> rfl
@[simp] theorem choose_icache : (s.choose n).2.icache = s.icache := by unfold State.choose; split <;> rfl
@[simp] theorem choose_rot : (s.choose n).2.rot = s.rot := by unfold State.choose; split <;> rfl
@[simp] theorem choose_phase : (s.choose n).2.phase = s.phase := by unfold State.choose; split <;> rfl
@[simp] theorem choose_requests : (s.choose n).2.requests = s.requests := by unfold State.choose; split <;> rfl
@[simp] theorem choose_arbHeld : (s.choose n).2.arbHeld = s.arbHeld := by unfold State.choose; split <;> rfl
@[simp] theorem choose_token : (s.choose n).2.token = s.token := by unfold State.choose; split <;> rfl
@[simp] theorem choose_tokenQ : (s.choose n).2.tokenQ = s.tokenQ := by unfold State.choose; split <;> rfl
@[simp] theorem choose_queues : (s.choose n).2.queues = s.queues := by unfold State.choose; split <;> rfl
@[simp] theorem choose_lastSeq : (s.choose n).2.lastSeq = s.lastSeq := by unfold State.choose; split <;> rfl
@[simp] theorem choose_launches : (s.choose n).2.launches = s.launches := by unfold State.choose; split <;> rfl
@[simp] theorem choose_credits : (s.choose n).2.credits = s.credits := by unfold State.choose; split <;> rfl
@[simp] theorem choose_ctxs : (s.choose n).2.ctxs = s.ctxs := by unfold State.choose; split <;> rfl
@[simp] theorem choose_saves : (s.choose n).2.saves = s.saves := by unfold State.choose; split <;> rfl
@[simp] theorem choose_faultqs : (s.choose n).2.faultqs = s.faultqs := by unfold State.choose; split <;> rfl
@[simp] theorem choose_holds : (s.choose n).2.holds = s.holds := by unfold State.choose; split <;> rfl
@[simp] theorem choose_nextHid : (s.choose n).2.nextHid = s.nextHid := by unfold State.choose; split <;> rfl
@[simp] theorem choose_engines : (s.choose n).2.engines = s.engines := by unfold State.choose; split <;> rfl
@[simp] theorem choose_estores : (s.choose n).2.estores = s.estores := by unfold State.choose; split <;> rfl
@[simp] theorem choose_stks : (s.choose n).2.stks = s.stks := by unfold State.choose; split <;> rfl
@[simp] theorem choose_dies : (s.choose n).2.dies = s.dies := by unfold State.choose; split <;> rfl
@[simp] theorem choose_rails : (s.choose n).2.rails = s.rails := by unfold State.choose; split <;> rfl
@[simp] theorem choose_linksAsleep : (s.choose n).2.linksAsleep = s.linksAsleep := by unfold State.choose; split <;> rfl
@[simp] theorem choose_linksWaking : (s.choose n).2.linksWaking = s.linksWaking := by unfold State.choose; split <;> rfl
@[simp] theorem choose_journals : (s.choose n).2.journals = s.journals := by unfold State.choose; split <;> rfl
@[simp] theorem choose_capsules : (s.choose n).2.capsules = s.capsules := by unfold State.choose; split <;> rfl
@[simp] theorem choose_flying : (s.choose n).2.flying = s.flying := by unfold State.choose; split <;> rfl
@[simp] theorem choose_nextId : (s.choose n).2.nextId = s.nextId := by unfold State.choose; split <;> rfl
@[simp] theorem choose_pendings : (s.choose n).2.pendings = s.pendings := by unfold State.choose; split <;> rfl
@[simp] theorem choose_flushes : (s.choose n).2.flushes = s.flushes := by unfold State.choose; split <;> rfl
@[simp] theorem choose_host : (s.choose n).2.host = s.host := by unfold State.choose; split <;> rfl
@[simp] theorem choose_lsImages : (s.choose n).2.lsImages = s.lsImages := by unfold State.choose; split <;> rfl
@[simp] theorem choose_hostMem : (s.choose n).2.hostMem = s.hostMem := by unfold State.choose; split <;> rfl
@[simp] theorem choose_peerMem : (s.choose n).2.peerMem = s.peerMem := by unfold State.choose; split <;> rfl
@[simp] theorem choose_pkgBars : (s.choose n).2.pkgBars = s.pkgBars := by unfold State.choose; split <;> rfl
@[simp] theorem choose_pkgCount : (s.choose n).2.pkgCount = s.pkgCount := by unfold State.choose; split <;> rfl
@[simp] theorem choose_pkgHeld : (s.choose n).2.pkgHeld = s.pkgHeld := by unfold State.choose; split <;> rfl
@[simp] theorem choose_routes : (s.choose n).2.routes = s.routes := by unfold State.choose; split <;> rfl
@[simp] theorem choose_ports : (s.choose n).2.ports = s.ports := by unfold State.choose; split <;> rfl
@[simp] theorem choose_pkg : (s.choose n).2.pkg = s.pkg := by unfold State.choose; split <;> rfl
@[simp] theorem choose_svc : (s.choose n).2.svc = s.svc := by unfold State.choose; split <;> rfl
@[simp] theorem choose_outputs : (s.choose n).2.outputs = s.outputs := by unfold State.choose; split <;> rfl
end choose

section post
variable (s : State) (p : Pick)
@[simp] theorem post_cur : (s.post p).cur = s.cur := by simp only [State.post, choose_cur]
@[simp] theorem post_answer : (s.post p).answer = s.answer := by simp only [State.post, choose_answer]
@[simp] theorem post_fresh : (s.post p).fresh = s.fresh := by simp only [State.post, choose_fresh]
@[simp] theorem post_cores : (s.post p).cores = s.cores := by simp only [State.post, choose_cores]
@[simp] theorem post_mem : (s.post p).mem = s.mem := by simp only [State.post, choose_mem]
@[simp] theorem post_dirty : (s.post p).dirty = s.dirty := by simp only [State.post, choose_dirty]
@[simp] theorem post_l1 : (s.post p).l1 = s.l1 := by simp only [State.post, choose_l1]
@[simp] theorem post_llc : (s.post p).llc = s.llc := by simp only [State.post, choose_llc]
@[simp] theorem post_dir : (s.post p).dir = s.dir := by simp only [State.post, choose_dir]
@[simp] theorem post_poison : (s.post p).poison = s.poison := by simp only [State.post, choose_poison]
@[simp] theorem post_tlb : (s.post p).tlb = s.tlb := by simp only [State.post, choose_tlb]
@[simp] theorem post_icache : (s.post p).icache = s.icache := by simp only [State.post, choose_icache]
@[simp] theorem post_rot : (s.post p).rot = s.rot := by simp only [State.post, choose_rot]
@[simp] theorem post_phase : (s.post p).phase = s.phase := by simp only [State.post, choose_phase]
@[simp] theorem post_requests : (s.post p).requests = s.requests := by simp only [State.post, choose_requests]
@[simp] theorem post_arbHeld : (s.post p).arbHeld = s.arbHeld := by simp only [State.post, choose_arbHeld]
@[simp] theorem post_token : (s.post p).token = s.token := by simp only [State.post, choose_token]
@[simp] theorem post_tokenQ : (s.post p).tokenQ = s.tokenQ := by simp only [State.post, choose_tokenQ]
@[simp] theorem post_queues : (s.post p).queues = s.queues := by simp only [State.post, choose_queues]
@[simp] theorem post_lastSeq : (s.post p).lastSeq = s.lastSeq := by simp only [State.post, choose_lastSeq]
@[simp] theorem post_launches : (s.post p).launches = s.launches := by simp only [State.post, choose_launches]
@[simp] theorem post_credits : (s.post p).credits = s.credits := by simp only [State.post, choose_credits]
@[simp] theorem post_ctxs : (s.post p).ctxs = s.ctxs := by simp only [State.post, choose_ctxs]
@[simp] theorem post_saves : (s.post p).saves = s.saves := by simp only [State.post, choose_saves]
@[simp] theorem post_faultqs : (s.post p).faultqs = s.faultqs := by simp only [State.post, choose_faultqs]
@[simp] theorem post_holds : (s.post p).holds = s.holds := by simp only [State.post, choose_holds]
@[simp] theorem post_nextHid : (s.post p).nextHid = s.nextHid := by simp only [State.post, choose_nextHid]
@[simp] theorem post_engines : (s.post p).engines = s.engines := by simp only [State.post, choose_engines]
@[simp] theorem post_estores : (s.post p).estores = s.estores := by simp only [State.post, choose_estores]
@[simp] theorem post_stks : (s.post p).stks = s.stks := by simp only [State.post, choose_stks]
@[simp] theorem post_dies : (s.post p).dies = s.dies := by simp only [State.post, choose_dies]
@[simp] theorem post_rails : (s.post p).rails = s.rails := by simp only [State.post, choose_rails]
@[simp] theorem post_linksAsleep : (s.post p).linksAsleep = s.linksAsleep := by simp only [State.post, choose_linksAsleep]
@[simp] theorem post_linksWaking : (s.post p).linksWaking = s.linksWaking := by simp only [State.post, choose_linksWaking]
@[simp] theorem post_journals : (s.post p).journals = s.journals := by simp only [State.post, choose_journals]
@[simp] theorem post_capsules : (s.post p).capsules = s.capsules := by simp only [State.post, choose_capsules]
@[simp] theorem post_flying : (s.post p).flying = s.flying := by simp only [State.post, choose_flying]
@[simp] theorem post_nextId : (s.post p).nextId = s.nextId := by simp only [State.post, choose_nextId]
@[simp] theorem post_pendings : (s.post p).pendings = s.pendings := by simp only [State.post, choose_pendings]
@[simp] theorem post_flushes : (s.post p).flushes = s.flushes := by simp only [State.post, choose_flushes]
@[simp] theorem post_host : (s.post p).host = s.host := by simp only [State.post, choose_host]
@[simp] theorem post_lsImages : (s.post p).lsImages = s.lsImages := by simp only [State.post, choose_lsImages]
@[simp] theorem post_hostMem : (s.post p).hostMem = s.hostMem := by simp only [State.post, choose_hostMem]
@[simp] theorem post_peerMem : (s.post p).peerMem = s.peerMem := by simp only [State.post, choose_peerMem]
@[simp] theorem post_pkgBars : (s.post p).pkgBars = s.pkgBars := by simp only [State.post, choose_pkgBars]
@[simp] theorem post_pkgCount : (s.post p).pkgCount = s.pkgCount := by simp only [State.post, choose_pkgCount]
@[simp] theorem post_pkgHeld : (s.post p).pkgHeld = s.pkgHeld := by simp only [State.post, choose_pkgHeld]
@[simp] theorem post_routes : (s.post p).routes = s.routes := by simp only [State.post, choose_routes]
@[simp] theorem post_ports : (s.post p).ports = s.ports := by simp only [State.post, choose_ports]
@[simp] theorem post_pkg : (s.post p).pkg = s.pkg := by simp only [State.post, choose_pkg]
@[simp] theorem post_svc : (s.post p).svc = s.svc := by simp only [State.post, choose_svc]
@[simp] theorem post_outputs : (s.post p).outputs = s.outputs := by simp only [State.post, choose_outputs]
end post

section postAfter
variable (s : State) (f : Pick → Bool) (p : Pick)
@[simp] theorem postAfter_cur : (s.postAfter f p).cur = s.cur := by simp only [State.postAfter, choose_cur]
@[simp] theorem postAfter_answer : (s.postAfter f p).answer = s.answer := by simp only [State.postAfter, choose_answer]
@[simp] theorem postAfter_fresh : (s.postAfter f p).fresh = s.fresh := by simp only [State.postAfter, choose_fresh]
@[simp] theorem postAfter_cores : (s.postAfter f p).cores = s.cores := by simp only [State.postAfter, choose_cores]
@[simp] theorem postAfter_mem : (s.postAfter f p).mem = s.mem := by simp only [State.postAfter, choose_mem]
@[simp] theorem postAfter_dirty : (s.postAfter f p).dirty = s.dirty := by simp only [State.postAfter, choose_dirty]
@[simp] theorem postAfter_l1 : (s.postAfter f p).l1 = s.l1 := by simp only [State.postAfter, choose_l1]
@[simp] theorem postAfter_llc : (s.postAfter f p).llc = s.llc := by simp only [State.postAfter, choose_llc]
@[simp] theorem postAfter_dir : (s.postAfter f p).dir = s.dir := by simp only [State.postAfter, choose_dir]
@[simp] theorem postAfter_poison : (s.postAfter f p).poison = s.poison := by simp only [State.postAfter, choose_poison]
@[simp] theorem postAfter_tlb : (s.postAfter f p).tlb = s.tlb := by simp only [State.postAfter, choose_tlb]
@[simp] theorem postAfter_icache : (s.postAfter f p).icache = s.icache := by simp only [State.postAfter, choose_icache]
@[simp] theorem postAfter_rot : (s.postAfter f p).rot = s.rot := by simp only [State.postAfter, choose_rot]
@[simp] theorem postAfter_phase : (s.postAfter f p).phase = s.phase := by simp only [State.postAfter, choose_phase]
@[simp] theorem postAfter_requests : (s.postAfter f p).requests = s.requests := by simp only [State.postAfter, choose_requests]
@[simp] theorem postAfter_arbHeld : (s.postAfter f p).arbHeld = s.arbHeld := by simp only [State.postAfter, choose_arbHeld]
@[simp] theorem postAfter_token : (s.postAfter f p).token = s.token := by simp only [State.postAfter, choose_token]
@[simp] theorem postAfter_tokenQ : (s.postAfter f p).tokenQ = s.tokenQ := by simp only [State.postAfter, choose_tokenQ]
@[simp] theorem postAfter_queues : (s.postAfter f p).queues = s.queues := by simp only [State.postAfter, choose_queues]
@[simp] theorem postAfter_lastSeq : (s.postAfter f p).lastSeq = s.lastSeq := by simp only [State.postAfter, choose_lastSeq]
@[simp] theorem postAfter_launches : (s.postAfter f p).launches = s.launches := by simp only [State.postAfter, choose_launches]
@[simp] theorem postAfter_credits : (s.postAfter f p).credits = s.credits := by simp only [State.postAfter, choose_credits]
@[simp] theorem postAfter_ctxs : (s.postAfter f p).ctxs = s.ctxs := by simp only [State.postAfter, choose_ctxs]
@[simp] theorem postAfter_saves : (s.postAfter f p).saves = s.saves := by simp only [State.postAfter, choose_saves]
@[simp] theorem postAfter_faultqs : (s.postAfter f p).faultqs = s.faultqs := by simp only [State.postAfter, choose_faultqs]
@[simp] theorem postAfter_holds : (s.postAfter f p).holds = s.holds := by simp only [State.postAfter, choose_holds]
@[simp] theorem postAfter_nextHid : (s.postAfter f p).nextHid = s.nextHid := by simp only [State.postAfter, choose_nextHid]
@[simp] theorem postAfter_engines : (s.postAfter f p).engines = s.engines := by simp only [State.postAfter, choose_engines]
@[simp] theorem postAfter_estores : (s.postAfter f p).estores = s.estores := by simp only [State.postAfter, choose_estores]
@[simp] theorem postAfter_stks : (s.postAfter f p).stks = s.stks := by simp only [State.postAfter, choose_stks]
@[simp] theorem postAfter_dies : (s.postAfter f p).dies = s.dies := by simp only [State.postAfter, choose_dies]
@[simp] theorem postAfter_rails : (s.postAfter f p).rails = s.rails := by simp only [State.postAfter, choose_rails]
@[simp] theorem postAfter_linksAsleep : (s.postAfter f p).linksAsleep = s.linksAsleep := by simp only [State.postAfter, choose_linksAsleep]
@[simp] theorem postAfter_linksWaking : (s.postAfter f p).linksWaking = s.linksWaking := by simp only [State.postAfter, choose_linksWaking]
@[simp] theorem postAfter_journals : (s.postAfter f p).journals = s.journals := by simp only [State.postAfter, choose_journals]
@[simp] theorem postAfter_capsules : (s.postAfter f p).capsules = s.capsules := by simp only [State.postAfter, choose_capsules]
@[simp] theorem postAfter_flying : (s.postAfter f p).flying = s.flying := by simp only [State.postAfter, choose_flying]
@[simp] theorem postAfter_nextId : (s.postAfter f p).nextId = s.nextId := by simp only [State.postAfter, choose_nextId]
@[simp] theorem postAfter_pendings : (s.postAfter f p).pendings = s.pendings := by simp only [State.postAfter, choose_pendings]
@[simp] theorem postAfter_flushes : (s.postAfter f p).flushes = s.flushes := by simp only [State.postAfter, choose_flushes]
@[simp] theorem postAfter_host : (s.postAfter f p).host = s.host := by simp only [State.postAfter, choose_host]
@[simp] theorem postAfter_lsImages : (s.postAfter f p).lsImages = s.lsImages := by simp only [State.postAfter, choose_lsImages]
@[simp] theorem postAfter_hostMem : (s.postAfter f p).hostMem = s.hostMem := by simp only [State.postAfter, choose_hostMem]
@[simp] theorem postAfter_peerMem : (s.postAfter f p).peerMem = s.peerMem := by simp only [State.postAfter, choose_peerMem]
@[simp] theorem postAfter_pkgBars : (s.postAfter f p).pkgBars = s.pkgBars := by simp only [State.postAfter, choose_pkgBars]
@[simp] theorem postAfter_pkgCount : (s.postAfter f p).pkgCount = s.pkgCount := by simp only [State.postAfter, choose_pkgCount]
@[simp] theorem postAfter_pkgHeld : (s.postAfter f p).pkgHeld = s.pkgHeld := by simp only [State.postAfter, choose_pkgHeld]
@[simp] theorem postAfter_routes : (s.postAfter f p).routes = s.routes := by simp only [State.postAfter, choose_routes]
@[simp] theorem postAfter_ports : (s.postAfter f p).ports = s.ports := by simp only [State.postAfter, choose_ports]
@[simp] theorem postAfter_pkg : (s.postAfter f p).pkg = s.pkg := by simp only [State.postAfter, choose_pkg]
@[simp] theorem postAfter_svc : (s.postAfter f p).svc = s.svc := by simp only [State.postAfter, choose_svc]
@[simp] theorem postAfter_outputs : (s.postAfter f p).outputs = s.outputs := by simp only [State.postAfter, choose_outputs]
end postAfter

section postEvent
variable (s : State) (a : Agent) (i : Instr)
@[simp] theorem postEvent_cur : (s.postEvent a i).cur = s.cur := post_cur s _
@[simp] theorem postEvent_answer : (s.postEvent a i).answer = s.answer := post_answer s _
@[simp] theorem postEvent_fresh : (s.postEvent a i).fresh = s.fresh := post_fresh s _
@[simp] theorem postEvent_cores : (s.postEvent a i).cores = s.cores := post_cores s _
@[simp] theorem postEvent_mem : (s.postEvent a i).mem = s.mem := post_mem s _
@[simp] theorem postEvent_dirty : (s.postEvent a i).dirty = s.dirty := post_dirty s _
@[simp] theorem postEvent_l1 : (s.postEvent a i).l1 = s.l1 := post_l1 s _
@[simp] theorem postEvent_llc : (s.postEvent a i).llc = s.llc := post_llc s _
@[simp] theorem postEvent_dir : (s.postEvent a i).dir = s.dir := post_dir s _
@[simp] theorem postEvent_poison : (s.postEvent a i).poison = s.poison := post_poison s _
@[simp] theorem postEvent_tlb : (s.postEvent a i).tlb = s.tlb := post_tlb s _
@[simp] theorem postEvent_icache : (s.postEvent a i).icache = s.icache := post_icache s _
@[simp] theorem postEvent_rot : (s.postEvent a i).rot = s.rot := post_rot s _
@[simp] theorem postEvent_phase : (s.postEvent a i).phase = s.phase := post_phase s _
@[simp] theorem postEvent_requests : (s.postEvent a i).requests = s.requests := post_requests s _
@[simp] theorem postEvent_arbHeld : (s.postEvent a i).arbHeld = s.arbHeld := post_arbHeld s _
@[simp] theorem postEvent_token : (s.postEvent a i).token = s.token := post_token s _
@[simp] theorem postEvent_tokenQ : (s.postEvent a i).tokenQ = s.tokenQ := post_tokenQ s _
@[simp] theorem postEvent_queues : (s.postEvent a i).queues = s.queues := post_queues s _
@[simp] theorem postEvent_lastSeq : (s.postEvent a i).lastSeq = s.lastSeq := post_lastSeq s _
@[simp] theorem postEvent_launches : (s.postEvent a i).launches = s.launches := post_launches s _
@[simp] theorem postEvent_credits : (s.postEvent a i).credits = s.credits := post_credits s _
@[simp] theorem postEvent_ctxs : (s.postEvent a i).ctxs = s.ctxs := post_ctxs s _
@[simp] theorem postEvent_saves : (s.postEvent a i).saves = s.saves := post_saves s _
@[simp] theorem postEvent_faultqs : (s.postEvent a i).faultqs = s.faultqs := post_faultqs s _
@[simp] theorem postEvent_holds : (s.postEvent a i).holds = s.holds := post_holds s _
@[simp] theorem postEvent_nextHid : (s.postEvent a i).nextHid = s.nextHid := post_nextHid s _
@[simp] theorem postEvent_engines : (s.postEvent a i).engines = s.engines := post_engines s _
@[simp] theorem postEvent_estores : (s.postEvent a i).estores = s.estores := post_estores s _
@[simp] theorem postEvent_stks : (s.postEvent a i).stks = s.stks := post_stks s _
@[simp] theorem postEvent_dies : (s.postEvent a i).dies = s.dies := post_dies s _
@[simp] theorem postEvent_rails : (s.postEvent a i).rails = s.rails := post_rails s _
@[simp] theorem postEvent_linksAsleep : (s.postEvent a i).linksAsleep = s.linksAsleep := post_linksAsleep s _
@[simp] theorem postEvent_linksWaking : (s.postEvent a i).linksWaking = s.linksWaking := post_linksWaking s _
@[simp] theorem postEvent_journals : (s.postEvent a i).journals = s.journals := post_journals s _
@[simp] theorem postEvent_capsules : (s.postEvent a i).capsules = s.capsules := post_capsules s _
@[simp] theorem postEvent_flying : (s.postEvent a i).flying = s.flying := post_flying s _
@[simp] theorem postEvent_nextId : (s.postEvent a i).nextId = s.nextId := post_nextId s _
@[simp] theorem postEvent_pendings : (s.postEvent a i).pendings = s.pendings := post_pendings s _
@[simp] theorem postEvent_flushes : (s.postEvent a i).flushes = s.flushes := post_flushes s _
@[simp] theorem postEvent_host : (s.postEvent a i).host = s.host := post_host s _
@[simp] theorem postEvent_lsImages : (s.postEvent a i).lsImages = s.lsImages := post_lsImages s _
@[simp] theorem postEvent_hostMem : (s.postEvent a i).hostMem = s.hostMem := post_hostMem s _
@[simp] theorem postEvent_peerMem : (s.postEvent a i).peerMem = s.peerMem := post_peerMem s _
@[simp] theorem postEvent_pkgBars : (s.postEvent a i).pkgBars = s.pkgBars := post_pkgBars s _
@[simp] theorem postEvent_pkgCount : (s.postEvent a i).pkgCount = s.pkgCount := post_pkgCount s _
@[simp] theorem postEvent_pkgHeld : (s.postEvent a i).pkgHeld = s.pkgHeld := post_pkgHeld s _
@[simp] theorem postEvent_routes : (s.postEvent a i).routes = s.routes := post_routes s _
@[simp] theorem postEvent_ports : (s.postEvent a i).ports = s.ports := post_ports s _
@[simp] theorem postEvent_pkg : (s.postEvent a i).pkg = s.pkg := post_pkg s _
@[simp] theorem postEvent_svc : (s.postEvent a i).svc = s.svc := post_svc s _
@[simp] theorem postEvent_outputs : (s.postEvent a i).outputs = s.outputs := post_outputs s _
end postEvent

section postTurn
variable (s : State) (c : CoreId) (k : SlotId)
@[simp] theorem postTurn_cur : (s.postTurn c k).cur = s.cur := by unfold State.postTurn; split_ifs <;> first | rfl | exact post_cur s _
@[simp] theorem postTurn_answer : (s.postTurn c k).answer = s.answer := by unfold State.postTurn; split_ifs <;> first | rfl | exact post_answer s _
@[simp] theorem postTurn_fresh : (s.postTurn c k).fresh = s.fresh := by unfold State.postTurn; split_ifs <;> first | rfl | exact post_fresh s _
@[simp] theorem postTurn_cores : (s.postTurn c k).cores = s.cores := by unfold State.postTurn; split_ifs <;> first | rfl | exact post_cores s _
@[simp] theorem postTurn_mem : (s.postTurn c k).mem = s.mem := by unfold State.postTurn; split_ifs <;> first | rfl | exact post_mem s _
@[simp] theorem postTurn_dirty : (s.postTurn c k).dirty = s.dirty := by unfold State.postTurn; split_ifs <;> first | rfl | exact post_dirty s _
@[simp] theorem postTurn_l1 : (s.postTurn c k).l1 = s.l1 := by unfold State.postTurn; split_ifs <;> first | rfl | exact post_l1 s _
@[simp] theorem postTurn_llc : (s.postTurn c k).llc = s.llc := by unfold State.postTurn; split_ifs <;> first | rfl | exact post_llc s _
@[simp] theorem postTurn_dir : (s.postTurn c k).dir = s.dir := by unfold State.postTurn; split_ifs <;> first | rfl | exact post_dir s _
@[simp] theorem postTurn_poison : (s.postTurn c k).poison = s.poison := by unfold State.postTurn; split_ifs <;> first | rfl | exact post_poison s _
@[simp] theorem postTurn_tlb : (s.postTurn c k).tlb = s.tlb := by unfold State.postTurn; split_ifs <;> first | rfl | exact post_tlb s _
@[simp] theorem postTurn_icache : (s.postTurn c k).icache = s.icache := by unfold State.postTurn; split_ifs <;> first | rfl | exact post_icache s _
@[simp] theorem postTurn_rot : (s.postTurn c k).rot = s.rot := by unfold State.postTurn; split_ifs <;> first | rfl | exact post_rot s _
@[simp] theorem postTurn_phase : (s.postTurn c k).phase = s.phase := by unfold State.postTurn; split_ifs <;> first | rfl | exact post_phase s _
@[simp] theorem postTurn_requests : (s.postTurn c k).requests = s.requests := by unfold State.postTurn; split_ifs <;> first | rfl | exact post_requests s _
@[simp] theorem postTurn_arbHeld : (s.postTurn c k).arbHeld = s.arbHeld := by unfold State.postTurn; split_ifs <;> first | rfl | exact post_arbHeld s _
@[simp] theorem postTurn_token : (s.postTurn c k).token = s.token := by unfold State.postTurn; split_ifs <;> first | rfl | exact post_token s _
@[simp] theorem postTurn_tokenQ : (s.postTurn c k).tokenQ = s.tokenQ := by unfold State.postTurn; split_ifs <;> first | rfl | exact post_tokenQ s _
@[simp] theorem postTurn_queues : (s.postTurn c k).queues = s.queues := by unfold State.postTurn; split_ifs <;> first | rfl | exact post_queues s _
@[simp] theorem postTurn_lastSeq : (s.postTurn c k).lastSeq = s.lastSeq := by unfold State.postTurn; split_ifs <;> first | rfl | exact post_lastSeq s _
@[simp] theorem postTurn_launches : (s.postTurn c k).launches = s.launches := by unfold State.postTurn; split_ifs <;> first | rfl | exact post_launches s _
@[simp] theorem postTurn_credits : (s.postTurn c k).credits = s.credits := by unfold State.postTurn; split_ifs <;> first | rfl | exact post_credits s _
@[simp] theorem postTurn_ctxs : (s.postTurn c k).ctxs = s.ctxs := by unfold State.postTurn; split_ifs <;> first | rfl | exact post_ctxs s _
@[simp] theorem postTurn_saves : (s.postTurn c k).saves = s.saves := by unfold State.postTurn; split_ifs <;> first | rfl | exact post_saves s _
@[simp] theorem postTurn_faultqs : (s.postTurn c k).faultqs = s.faultqs := by unfold State.postTurn; split_ifs <;> first | rfl | exact post_faultqs s _
@[simp] theorem postTurn_holds : (s.postTurn c k).holds = s.holds := by unfold State.postTurn; split_ifs <;> first | rfl | exact post_holds s _
@[simp] theorem postTurn_nextHid : (s.postTurn c k).nextHid = s.nextHid := by unfold State.postTurn; split_ifs <;> first | rfl | exact post_nextHid s _
@[simp] theorem postTurn_engines : (s.postTurn c k).engines = s.engines := by unfold State.postTurn; split_ifs <;> first | rfl | exact post_engines s _
@[simp] theorem postTurn_estores : (s.postTurn c k).estores = s.estores := by unfold State.postTurn; split_ifs <;> first | rfl | exact post_estores s _
@[simp] theorem postTurn_stks : (s.postTurn c k).stks = s.stks := by unfold State.postTurn; split_ifs <;> first | rfl | exact post_stks s _
@[simp] theorem postTurn_dies : (s.postTurn c k).dies = s.dies := by unfold State.postTurn; split_ifs <;> first | rfl | exact post_dies s _
@[simp] theorem postTurn_rails : (s.postTurn c k).rails = s.rails := by unfold State.postTurn; split_ifs <;> first | rfl | exact post_rails s _
@[simp] theorem postTurn_linksAsleep : (s.postTurn c k).linksAsleep = s.linksAsleep := by unfold State.postTurn; split_ifs <;> first | rfl | exact post_linksAsleep s _
@[simp] theorem postTurn_linksWaking : (s.postTurn c k).linksWaking = s.linksWaking := by unfold State.postTurn; split_ifs <;> first | rfl | exact post_linksWaking s _
@[simp] theorem postTurn_journals : (s.postTurn c k).journals = s.journals := by unfold State.postTurn; split_ifs <;> first | rfl | exact post_journals s _
@[simp] theorem postTurn_capsules : (s.postTurn c k).capsules = s.capsules := by unfold State.postTurn; split_ifs <;> first | rfl | exact post_capsules s _
@[simp] theorem postTurn_flying : (s.postTurn c k).flying = s.flying := by unfold State.postTurn; split_ifs <;> first | rfl | exact post_flying s _
@[simp] theorem postTurn_nextId : (s.postTurn c k).nextId = s.nextId := by unfold State.postTurn; split_ifs <;> first | rfl | exact post_nextId s _
@[simp] theorem postTurn_pendings : (s.postTurn c k).pendings = s.pendings := by unfold State.postTurn; split_ifs <;> first | rfl | exact post_pendings s _
@[simp] theorem postTurn_flushes : (s.postTurn c k).flushes = s.flushes := by unfold State.postTurn; split_ifs <;> first | rfl | exact post_flushes s _
@[simp] theorem postTurn_host : (s.postTurn c k).host = s.host := by unfold State.postTurn; split_ifs <;> first | rfl | exact post_host s _
@[simp] theorem postTurn_lsImages : (s.postTurn c k).lsImages = s.lsImages := by unfold State.postTurn; split_ifs <;> first | rfl | exact post_lsImages s _
@[simp] theorem postTurn_hostMem : (s.postTurn c k).hostMem = s.hostMem := by unfold State.postTurn; split_ifs <;> first | rfl | exact post_hostMem s _
@[simp] theorem postTurn_peerMem : (s.postTurn c k).peerMem = s.peerMem := by unfold State.postTurn; split_ifs <;> first | rfl | exact post_peerMem s _
@[simp] theorem postTurn_pkgBars : (s.postTurn c k).pkgBars = s.pkgBars := by unfold State.postTurn; split_ifs <;> first | rfl | exact post_pkgBars s _
@[simp] theorem postTurn_pkgCount : (s.postTurn c k).pkgCount = s.pkgCount := by unfold State.postTurn; split_ifs <;> first | rfl | exact post_pkgCount s _
@[simp] theorem postTurn_pkgHeld : (s.postTurn c k).pkgHeld = s.pkgHeld := by unfold State.postTurn; split_ifs <;> first | rfl | exact post_pkgHeld s _
@[simp] theorem postTurn_routes : (s.postTurn c k).routes = s.routes := by unfold State.postTurn; split_ifs <;> first | rfl | exact post_routes s _
@[simp] theorem postTurn_ports : (s.postTurn c k).ports = s.ports := by unfold State.postTurn; split_ifs <;> first | rfl | exact post_ports s _
@[simp] theorem postTurn_pkg : (s.postTurn c k).pkg = s.pkg := by unfold State.postTurn; split_ifs <;> first | rfl | exact post_pkg s _
@[simp] theorem postTurn_svc : (s.postTurn c k).svc = s.svc := by unfold State.postTurn; split_ifs <;> first | rfl | exact post_svc s _
@[simp] theorem postTurn_outputs : (s.postTurn c k).outputs = s.outputs := by unfold State.postTurn; split_ifs <;> first | rfl | exact post_outputs s _
end postTurn

section postEturn
variable (s : State) (e : EngineId)
@[simp] theorem postEturn_cur : (s.postEturn e).cur = s.cur := by unfold State.postEturn; split_ifs <;> first | rfl | exact post_cur s _
@[simp] theorem postEturn_answer : (s.postEturn e).answer = s.answer := by unfold State.postEturn; split_ifs <;> first | rfl | exact post_answer s _
@[simp] theorem postEturn_fresh : (s.postEturn e).fresh = s.fresh := by unfold State.postEturn; split_ifs <;> first | rfl | exact post_fresh s _
@[simp] theorem postEturn_cores : (s.postEturn e).cores = s.cores := by unfold State.postEturn; split_ifs <;> first | rfl | exact post_cores s _
@[simp] theorem postEturn_mem : (s.postEturn e).mem = s.mem := by unfold State.postEturn; split_ifs <;> first | rfl | exact post_mem s _
@[simp] theorem postEturn_dirty : (s.postEturn e).dirty = s.dirty := by unfold State.postEturn; split_ifs <;> first | rfl | exact post_dirty s _
@[simp] theorem postEturn_l1 : (s.postEturn e).l1 = s.l1 := by unfold State.postEturn; split_ifs <;> first | rfl | exact post_l1 s _
@[simp] theorem postEturn_llc : (s.postEturn e).llc = s.llc := by unfold State.postEturn; split_ifs <;> first | rfl | exact post_llc s _
@[simp] theorem postEturn_dir : (s.postEturn e).dir = s.dir := by unfold State.postEturn; split_ifs <;> first | rfl | exact post_dir s _
@[simp] theorem postEturn_poison : (s.postEturn e).poison = s.poison := by unfold State.postEturn; split_ifs <;> first | rfl | exact post_poison s _
@[simp] theorem postEturn_tlb : (s.postEturn e).tlb = s.tlb := by unfold State.postEturn; split_ifs <;> first | rfl | exact post_tlb s _
@[simp] theorem postEturn_icache : (s.postEturn e).icache = s.icache := by unfold State.postEturn; split_ifs <;> first | rfl | exact post_icache s _
@[simp] theorem postEturn_rot : (s.postEturn e).rot = s.rot := by unfold State.postEturn; split_ifs <;> first | rfl | exact post_rot s _
@[simp] theorem postEturn_phase : (s.postEturn e).phase = s.phase := by unfold State.postEturn; split_ifs <;> first | rfl | exact post_phase s _
@[simp] theorem postEturn_requests : (s.postEturn e).requests = s.requests := by unfold State.postEturn; split_ifs <;> first | rfl | exact post_requests s _
@[simp] theorem postEturn_arbHeld : (s.postEturn e).arbHeld = s.arbHeld := by unfold State.postEturn; split_ifs <;> first | rfl | exact post_arbHeld s _
@[simp] theorem postEturn_token : (s.postEturn e).token = s.token := by unfold State.postEturn; split_ifs <;> first | rfl | exact post_token s _
@[simp] theorem postEturn_tokenQ : (s.postEturn e).tokenQ = s.tokenQ := by unfold State.postEturn; split_ifs <;> first | rfl | exact post_tokenQ s _
@[simp] theorem postEturn_queues : (s.postEturn e).queues = s.queues := by unfold State.postEturn; split_ifs <;> first | rfl | exact post_queues s _
@[simp] theorem postEturn_lastSeq : (s.postEturn e).lastSeq = s.lastSeq := by unfold State.postEturn; split_ifs <;> first | rfl | exact post_lastSeq s _
@[simp] theorem postEturn_launches : (s.postEturn e).launches = s.launches := by unfold State.postEturn; split_ifs <;> first | rfl | exact post_launches s _
@[simp] theorem postEturn_credits : (s.postEturn e).credits = s.credits := by unfold State.postEturn; split_ifs <;> first | rfl | exact post_credits s _
@[simp] theorem postEturn_ctxs : (s.postEturn e).ctxs = s.ctxs := by unfold State.postEturn; split_ifs <;> first | rfl | exact post_ctxs s _
@[simp] theorem postEturn_saves : (s.postEturn e).saves = s.saves := by unfold State.postEturn; split_ifs <;> first | rfl | exact post_saves s _
@[simp] theorem postEturn_faultqs : (s.postEturn e).faultqs = s.faultqs := by unfold State.postEturn; split_ifs <;> first | rfl | exact post_faultqs s _
@[simp] theorem postEturn_holds : (s.postEturn e).holds = s.holds := by unfold State.postEturn; split_ifs <;> first | rfl | exact post_holds s _
@[simp] theorem postEturn_nextHid : (s.postEturn e).nextHid = s.nextHid := by unfold State.postEturn; split_ifs <;> first | rfl | exact post_nextHid s _
@[simp] theorem postEturn_engines : (s.postEturn e).engines = s.engines := by unfold State.postEturn; split_ifs <;> first | rfl | exact post_engines s _
@[simp] theorem postEturn_estores : (s.postEturn e).estores = s.estores := by unfold State.postEturn; split_ifs <;> first | rfl | exact post_estores s _
@[simp] theorem postEturn_stks : (s.postEturn e).stks = s.stks := by unfold State.postEturn; split_ifs <;> first | rfl | exact post_stks s _
@[simp] theorem postEturn_dies : (s.postEturn e).dies = s.dies := by unfold State.postEturn; split_ifs <;> first | rfl | exact post_dies s _
@[simp] theorem postEturn_rails : (s.postEturn e).rails = s.rails := by unfold State.postEturn; split_ifs <;> first | rfl | exact post_rails s _
@[simp] theorem postEturn_linksAsleep : (s.postEturn e).linksAsleep = s.linksAsleep := by unfold State.postEturn; split_ifs <;> first | rfl | exact post_linksAsleep s _
@[simp] theorem postEturn_linksWaking : (s.postEturn e).linksWaking = s.linksWaking := by unfold State.postEturn; split_ifs <;> first | rfl | exact post_linksWaking s _
@[simp] theorem postEturn_journals : (s.postEturn e).journals = s.journals := by unfold State.postEturn; split_ifs <;> first | rfl | exact post_journals s _
@[simp] theorem postEturn_capsules : (s.postEturn e).capsules = s.capsules := by unfold State.postEturn; split_ifs <;> first | rfl | exact post_capsules s _
@[simp] theorem postEturn_flying : (s.postEturn e).flying = s.flying := by unfold State.postEturn; split_ifs <;> first | rfl | exact post_flying s _
@[simp] theorem postEturn_nextId : (s.postEturn e).nextId = s.nextId := by unfold State.postEturn; split_ifs <;> first | rfl | exact post_nextId s _
@[simp] theorem postEturn_pendings : (s.postEturn e).pendings = s.pendings := by unfold State.postEturn; split_ifs <;> first | rfl | exact post_pendings s _
@[simp] theorem postEturn_flushes : (s.postEturn e).flushes = s.flushes := by unfold State.postEturn; split_ifs <;> first | rfl | exact post_flushes s _
@[simp] theorem postEturn_host : (s.postEturn e).host = s.host := by unfold State.postEturn; split_ifs <;> first | rfl | exact post_host s _
@[simp] theorem postEturn_lsImages : (s.postEturn e).lsImages = s.lsImages := by unfold State.postEturn; split_ifs <;> first | rfl | exact post_lsImages s _
@[simp] theorem postEturn_hostMem : (s.postEturn e).hostMem = s.hostMem := by unfold State.postEturn; split_ifs <;> first | rfl | exact post_hostMem s _
@[simp] theorem postEturn_peerMem : (s.postEturn e).peerMem = s.peerMem := by unfold State.postEturn; split_ifs <;> first | rfl | exact post_peerMem s _
@[simp] theorem postEturn_pkgBars : (s.postEturn e).pkgBars = s.pkgBars := by unfold State.postEturn; split_ifs <;> first | rfl | exact post_pkgBars s _
@[simp] theorem postEturn_pkgCount : (s.postEturn e).pkgCount = s.pkgCount := by unfold State.postEturn; split_ifs <;> first | rfl | exact post_pkgCount s _
@[simp] theorem postEturn_pkgHeld : (s.postEturn e).pkgHeld = s.pkgHeld := by unfold State.postEturn; split_ifs <;> first | rfl | exact post_pkgHeld s _
@[simp] theorem postEturn_routes : (s.postEturn e).routes = s.routes := by unfold State.postEturn; split_ifs <;> first | rfl | exact post_routes s _
@[simp] theorem postEturn_ports : (s.postEturn e).ports = s.ports := by unfold State.postEturn; split_ifs <;> first | rfl | exact post_ports s _
@[simp] theorem postEturn_pkg : (s.postEturn e).pkg = s.pkg := by unfold State.postEturn; split_ifs <;> first | rfl | exact post_pkg s _
@[simp] theorem postEturn_svc : (s.postEturn e).svc = s.svc := by unfold State.postEturn; split_ifs <;> first | rfl | exact post_svc s _
@[simp] theorem postEturn_outputs : (s.postEturn e).outputs = s.outputs := by unfold State.postEturn; split_ifs <;> first | rfl | exact post_outputs s _
end postEturn

section postOnce
variable (s : State) (a : Agent) (i : Instr)
@[simp] theorem postOnce_cur : (s.postOnce a i).cur = s.cur := by unfold State.postOnce; split_ifs <;> first | rfl | exact post_cur s _
@[simp] theorem postOnce_answer : (s.postOnce a i).answer = s.answer := by unfold State.postOnce; split_ifs <;> first | rfl | exact post_answer s _
@[simp] theorem postOnce_fresh : (s.postOnce a i).fresh = s.fresh := by unfold State.postOnce; split_ifs <;> first | rfl | exact post_fresh s _
@[simp] theorem postOnce_cores : (s.postOnce a i).cores = s.cores := by unfold State.postOnce; split_ifs <;> first | rfl | exact post_cores s _
@[simp] theorem postOnce_mem : (s.postOnce a i).mem = s.mem := by unfold State.postOnce; split_ifs <;> first | rfl | exact post_mem s _
@[simp] theorem postOnce_dirty : (s.postOnce a i).dirty = s.dirty := by unfold State.postOnce; split_ifs <;> first | rfl | exact post_dirty s _
@[simp] theorem postOnce_l1 : (s.postOnce a i).l1 = s.l1 := by unfold State.postOnce; split_ifs <;> first | rfl | exact post_l1 s _
@[simp] theorem postOnce_llc : (s.postOnce a i).llc = s.llc := by unfold State.postOnce; split_ifs <;> first | rfl | exact post_llc s _
@[simp] theorem postOnce_dir : (s.postOnce a i).dir = s.dir := by unfold State.postOnce; split_ifs <;> first | rfl | exact post_dir s _
@[simp] theorem postOnce_poison : (s.postOnce a i).poison = s.poison := by unfold State.postOnce; split_ifs <;> first | rfl | exact post_poison s _
@[simp] theorem postOnce_tlb : (s.postOnce a i).tlb = s.tlb := by unfold State.postOnce; split_ifs <;> first | rfl | exact post_tlb s _
@[simp] theorem postOnce_icache : (s.postOnce a i).icache = s.icache := by unfold State.postOnce; split_ifs <;> first | rfl | exact post_icache s _
@[simp] theorem postOnce_rot : (s.postOnce a i).rot = s.rot := by unfold State.postOnce; split_ifs <;> first | rfl | exact post_rot s _
@[simp] theorem postOnce_phase : (s.postOnce a i).phase = s.phase := by unfold State.postOnce; split_ifs <;> first | rfl | exact post_phase s _
@[simp] theorem postOnce_requests : (s.postOnce a i).requests = s.requests := by unfold State.postOnce; split_ifs <;> first | rfl | exact post_requests s _
@[simp] theorem postOnce_arbHeld : (s.postOnce a i).arbHeld = s.arbHeld := by unfold State.postOnce; split_ifs <;> first | rfl | exact post_arbHeld s _
@[simp] theorem postOnce_token : (s.postOnce a i).token = s.token := by unfold State.postOnce; split_ifs <;> first | rfl | exact post_token s _
@[simp] theorem postOnce_tokenQ : (s.postOnce a i).tokenQ = s.tokenQ := by unfold State.postOnce; split_ifs <;> first | rfl | exact post_tokenQ s _
@[simp] theorem postOnce_queues : (s.postOnce a i).queues = s.queues := by unfold State.postOnce; split_ifs <;> first | rfl | exact post_queues s _
@[simp] theorem postOnce_lastSeq : (s.postOnce a i).lastSeq = s.lastSeq := by unfold State.postOnce; split_ifs <;> first | rfl | exact post_lastSeq s _
@[simp] theorem postOnce_launches : (s.postOnce a i).launches = s.launches := by unfold State.postOnce; split_ifs <;> first | rfl | exact post_launches s _
@[simp] theorem postOnce_credits : (s.postOnce a i).credits = s.credits := by unfold State.postOnce; split_ifs <;> first | rfl | exact post_credits s _
@[simp] theorem postOnce_ctxs : (s.postOnce a i).ctxs = s.ctxs := by unfold State.postOnce; split_ifs <;> first | rfl | exact post_ctxs s _
@[simp] theorem postOnce_saves : (s.postOnce a i).saves = s.saves := by unfold State.postOnce; split_ifs <;> first | rfl | exact post_saves s _
@[simp] theorem postOnce_faultqs : (s.postOnce a i).faultqs = s.faultqs := by unfold State.postOnce; split_ifs <;> first | rfl | exact post_faultqs s _
@[simp] theorem postOnce_holds : (s.postOnce a i).holds = s.holds := by unfold State.postOnce; split_ifs <;> first | rfl | exact post_holds s _
@[simp] theorem postOnce_nextHid : (s.postOnce a i).nextHid = s.nextHid := by unfold State.postOnce; split_ifs <;> first | rfl | exact post_nextHid s _
@[simp] theorem postOnce_engines : (s.postOnce a i).engines = s.engines := by unfold State.postOnce; split_ifs <;> first | rfl | exact post_engines s _
@[simp] theorem postOnce_estores : (s.postOnce a i).estores = s.estores := by unfold State.postOnce; split_ifs <;> first | rfl | exact post_estores s _
@[simp] theorem postOnce_stks : (s.postOnce a i).stks = s.stks := by unfold State.postOnce; split_ifs <;> first | rfl | exact post_stks s _
@[simp] theorem postOnce_dies : (s.postOnce a i).dies = s.dies := by unfold State.postOnce; split_ifs <;> first | rfl | exact post_dies s _
@[simp] theorem postOnce_rails : (s.postOnce a i).rails = s.rails := by unfold State.postOnce; split_ifs <;> first | rfl | exact post_rails s _
@[simp] theorem postOnce_linksAsleep : (s.postOnce a i).linksAsleep = s.linksAsleep := by unfold State.postOnce; split_ifs <;> first | rfl | exact post_linksAsleep s _
@[simp] theorem postOnce_linksWaking : (s.postOnce a i).linksWaking = s.linksWaking := by unfold State.postOnce; split_ifs <;> first | rfl | exact post_linksWaking s _
@[simp] theorem postOnce_journals : (s.postOnce a i).journals = s.journals := by unfold State.postOnce; split_ifs <;> first | rfl | exact post_journals s _
@[simp] theorem postOnce_capsules : (s.postOnce a i).capsules = s.capsules := by unfold State.postOnce; split_ifs <;> first | rfl | exact post_capsules s _
@[simp] theorem postOnce_flying : (s.postOnce a i).flying = s.flying := by unfold State.postOnce; split_ifs <;> first | rfl | exact post_flying s _
@[simp] theorem postOnce_nextId : (s.postOnce a i).nextId = s.nextId := by unfold State.postOnce; split_ifs <;> first | rfl | exact post_nextId s _
@[simp] theorem postOnce_pendings : (s.postOnce a i).pendings = s.pendings := by unfold State.postOnce; split_ifs <;> first | rfl | exact post_pendings s _
@[simp] theorem postOnce_flushes : (s.postOnce a i).flushes = s.flushes := by unfold State.postOnce; split_ifs <;> first | rfl | exact post_flushes s _
@[simp] theorem postOnce_host : (s.postOnce a i).host = s.host := by unfold State.postOnce; split_ifs <;> first | rfl | exact post_host s _
@[simp] theorem postOnce_lsImages : (s.postOnce a i).lsImages = s.lsImages := by unfold State.postOnce; split_ifs <;> first | rfl | exact post_lsImages s _
@[simp] theorem postOnce_hostMem : (s.postOnce a i).hostMem = s.hostMem := by unfold State.postOnce; split_ifs <;> first | rfl | exact post_hostMem s _
@[simp] theorem postOnce_peerMem : (s.postOnce a i).peerMem = s.peerMem := by unfold State.postOnce; split_ifs <;> first | rfl | exact post_peerMem s _
@[simp] theorem postOnce_pkgBars : (s.postOnce a i).pkgBars = s.pkgBars := by unfold State.postOnce; split_ifs <;> first | rfl | exact post_pkgBars s _
@[simp] theorem postOnce_pkgCount : (s.postOnce a i).pkgCount = s.pkgCount := by unfold State.postOnce; split_ifs <;> first | rfl | exact post_pkgCount s _
@[simp] theorem postOnce_pkgHeld : (s.postOnce a i).pkgHeld = s.pkgHeld := by unfold State.postOnce; split_ifs <;> first | rfl | exact post_pkgHeld s _
@[simp] theorem postOnce_routes : (s.postOnce a i).routes = s.routes := by unfold State.postOnce; split_ifs <;> first | rfl | exact post_routes s _
@[simp] theorem postOnce_ports : (s.postOnce a i).ports = s.ports := by unfold State.postOnce; split_ifs <;> first | rfl | exact post_ports s _
@[simp] theorem postOnce_pkg : (s.postOnce a i).pkg = s.pkg := by unfold State.postOnce; split_ifs <;> first | rfl | exact post_pkg s _
@[simp] theorem postOnce_svc : (s.postOnce a i).svc = s.svc := by unfold State.postOnce; split_ifs <;> first | rfl | exact post_svc s _
@[simp] theorem postOnce_outputs : (s.postOnce a i).outputs = s.outputs := by unfold State.postOnce; split_ifs <;> first | rfl | exact post_outputs s _
end postOnce

@[simp] theorem core_setCore_same (s : State) (c : CoreId) (x : Core) : (s.setCore c x).core c = x := by
  simp [State.core, State.setCore]

theorem core_setCore_ne (s : State) (c c' : CoreId) (x : Core) (h : c' ≠ c) : (s.setCore c x).core c' = s.core c' := by
  simp only [State.core, State.setCore]
  exact tab_look_put_ne _ _ _ _ _ fun e => h (BitVec.eq_of_toNat_eq e)

theorem core_setCore (s : State) (c c' : CoreId) (x : Core) : (s.setCore c x).core c' = if c' = c then x else s.core c' := by
  by_cases h : c' = c
  · subst h; simp
  · simp [h, core_setCore_ne]

@[simp] theorem slot_setSlot_core (x : Core) (k : SlotId) (y : Slot) : (x.setSlot k y).slot k = y := by
  simp [Core.slot, Core.setSlot]

theorem slot_setSlot_core_ne (x : Core) (k k' : SlotId) (y : Slot) (h : k' ≠ k) : (x.setSlot k y).slot k' = x.slot k' := by
  simp only [Core.slot, Core.setSlot]
  exact tab_look_put_ne _ _ _ _ _ fun e => h (BitVec.eq_of_toNat_eq e)

@[simp] theorem slot_setSlot_same (s : State) (c : CoreId) (k : SlotId) (y : Slot) : (s.setSlot c k y).slot c k = y := by
  simp [State.slot, State.setSlot]

theorem slot_setSlot_ne (s : State) (c c' : CoreId) (k k' : SlotId) (y : Slot) (h : (c', k') ≠ (c, k)) :
    (s.setSlot c k y).slot c' k' = s.slot c' k' := by
  unfold State.slot State.setSlot
  by_cases hc : c' = c
  · subst hc
    rw [core_setCore_same, slot_setSlot_core_ne]
    intro hk; exact h (by rw [hk])
  · rw [core_setCore_ne _ _ _ _ hc]

/-- A slot write leaves the rest of the core alone. -/
theorem core_setSlot_ls (s : State) (c c' : CoreId) (k : SlotId) (y : Slot) : ((s.setSlot c k y).core c').ls = (s.core c').ls := by
  by_cases h : c' = c
  · subst h; simp [State.setSlot, Core.setSlot]
  · rw [State.setSlot, core_setCore_ne _ _ _ _ h]

@[simp] theorem engine_setEngine_same (s : State) (e : EngineId) (x : Engine) : (s.setEngine e x).engine e = x := by
  simp [State.engine, State.setEngine]

theorem engine_setEngine_ne (s : State) (e e' : EngineId) (x : Engine) (h : e' ≠ e) : (s.setEngine e x).engine e' = s.engine e' := by
  simp only [State.engine, State.setEngine]
  exact tab_look_put_ne _ _ _ _ _ fun h' => h (BitVec.eq_of_toNat_eq h')

@[simp] theorem stack_setStack_same (s : State) (m : StackId) (x : Stack) : (s.setStack m x).stack m = x := by
  simp [State.stack, State.setStack]

@[simp] theorem die_setDie_same (s : State) (d : DieId) (x : Die) : (s.setDie d x).die d = x := by
  simp [State.die, State.setDie]

@[simp] theorem ctx_setCtx_same (s : State) (n : CtxId) (x : Ctx) : (s.setCtx n x).ctx n = x := by
  simp [State.ctx, State.setCtx]

@[simp] theorem queue_setQueue_same (s : State) (t : TowerId) (q : QueueId) (x : Queue) : (s.setQueue t q x).queue t q = x := by
  simp [State.queue, State.setQueue]

@[simp] theorem faultq_setFaultq_same (s : State) (t : TowerId) (x : FaultQ) : (s.setFaultq t x).faultq t = x := by
  simp [State.faultq, State.setFaultq]

@[simp] theorem estore_setEstore_same (s : State) (t : TowerId) (x : EStore) : (s.setEstore t x).estore t = x := by
  simp [State.estore, State.setEstore]

@[simp] theorem journal_setJournal_same (s : State) (n : CtxId) (x : Journal) : (s.setJournal n x).journal n = x := by
  simp [State.journal, State.setJournal]

@[simp] theorem launch_setLaunch_same (s : State) (n : SeqNo) (x : Launch) : (s.setLaunch n x).launch n = some x := by
  simp [State.launch, State.setLaunch, tab_find_put_same]

end Sys2Proof.Machine
end

