-- ==== Sys2Proof/Laws/Finish.lean ====
section
/-! SUPPORT. How an instruction of a slot ends: the register writes, and what the end of an instruction leaves alone. -/

namespace Sys2Proof.Machine

theorem tab_put_put {α : Type} (t : Tab α) (n : Nat) (x y : α) : Tab.put (Tab.put t n x) n y = Tab.put t n y := by
  induction t with
  | nil => simp [Tab.put]
  | cons e t ih =>
    obtain ⟨m, z⟩ := e
    simp only [Tab.put]
    split_ifs with h1 h2
    · simp [Tab.put]
    · simp [Tab.put]
    · simp [Tab.put, h1, h2, ih]

theorem setCore_setCore (s : State) (c : CoreId) (x y : Core) : (s.setCore c x).setCore c y = s.setCore c y := by
  simp [State.setCore, tab_put_put]

theorem setSlot_setSlot (s : State) (c : CoreId) (k : SlotId) (y z : Slot) :
    (s.setSlot c k y).setSlot c k z = s.setSlot c k z := by
  simp [State.setSlot, setCore_setCore, Core.setSlot, tab_put_put]

section slot
variable (s : State) (c : CoreId) (k : SlotId)

theorem regs_slot (h : s.cur = .slot c k) : s.regs = (s.slot c k).regs := by simp [State.regs, h]
theorem chunk_slot (h : s.cur = .slot c k) : s.chunk = (s.slot c k).chunk := by simp [State.chunk, h]
theorem setRegs_slot (h : s.cur = .slot c k) (r : Regs) : s.setRegs r = s.setSlot c k { s.slot c k with regs := r } := by
  simp [State.setRegs, h]
theorem setChunk_slot (h : s.cur = .slot c k) (x : Chunk) : s.setChunk x = s.setSlot c k { s.slot c k with chunk := x } := by
  simp [State.setChunk, h]

@[simp] theorem regs_setRegs (h : s.cur = .slot c k) (r : Regs) : (s.setRegs r).regs = r := by
  rw [regs_slot _ c k (by simpa using h), setRegs_slot s c k h]; simp

end slot

theorem onlySlot_refl (s : State) (c : CoreId) (k : SlotId) : OnlySlot s s c k := ⟨rfl, fun _ => rfl, fun _ _ _ => rfl⟩

theorem onlySlot_trans {s t u : State} {c : CoreId} {k : SlotId} (h : OnlySlot s t c k) (h' : OnlySlot t u c k) :
    OnlySlot s u c k := by
  refine ⟨?_, fun c' => (h'.cores c').trans (h.cores c'), fun c' k' e => (h'.slots c' k' e).trans (h.slots c' k' e)⟩
  rw [h'.rest, h.rest]

theorem onlySlot_setSlot (s : State) (c : CoreId) (k : SlotId) (y : Slot) : OnlySlot s (s.setSlot c k y) c k := by
  refine ⟨rfl, ?_, fun c' k' e => slot_setSlot_ne s c c' k k' y e⟩
  intro c'
  by_cases h : c' = c
  · subst h; simp [State.setSlot, Core.setSlot]
  · rw [State.setSlot, core_setCore_ne _ _ _ _ h]

/-- A change of nothing but the agenda, the tape and the requests. -/
theorem onlySlot_of_cores {s t : State} (c : CoreId) (k : SlotId) (hr : t = { s with cores := t.cores, tape := t.tape, agenda := t.agenda, requests := t.requests })
    (h : t.cores = s.cores) : OnlySlot s t c k := by
  refine ⟨hr, ?_, ?_⟩
  · intro c'; simp only [State.core, h]
  · intro c' k' _; simp only [State.slot, State.core, h]

theorem onlySlot_choose (s : State) (n : Nat) (c : CoreId) (k : SlotId) : OnlySlot s (s.choose n).2 c k := by
  refine onlySlot_of_cores c k ?_ (by simp)
  unfold State.choose; split <;> rfl

theorem onlySlot_post (s : State) (p : Pick) (c : CoreId) (k : SlotId) : OnlySlot s (s.post p) c k := by
  refine onlySlot_of_cores c k ?_ (by simp)
  simp only [State.post, State.choose]; split <;> rfl

theorem onlySlot_postEvent (s : State) (a : Agent) (i : Instr) (c : CoreId) (k : SlotId) : OnlySlot s (s.postEvent a i) c k :=
  onlySlot_post s _ c k

theorem onlySlot_postTurn (s : State) (c' : CoreId) (k' : SlotId) (c : CoreId) (k : SlotId) : OnlySlot s (s.postTurn c' k') c k := by
  unfold State.postTurn; split_ifs
  · exact onlySlot_refl s c k
  · exact onlySlot_post s _ c k

theorem onlySlot_postOnce (s : State) (a : Agent) (i : Instr) (c : CoreId) (k : SlotId) : OnlySlot s (s.postOnce a i) c k := by
  unfold State.postOnce; split_ifs
  · exact onlySlot_refl s c k
  · exact onlySlot_post s _ c k

/-- A posted turn is on the agenda. -/
theorem turn_postTurn (s : State) (c : CoreId) (k : SlotId) : .turn c k ∈ (s.postTurn c k).agenda := by
  unfold State.postTurn
  by_cases h : Pick.turn c k ∈ s.agenda
  · rw [if_pos h]; exact h
  · rw [if_neg h]; simp [State.post]

@[simp] theorem slot_postTurn (s : State) (c' : CoreId) (k' : SlotId) (c : CoreId) (k : SlotId) :
    (s.postTurn c' k').slot c k = s.slot c k := by simp [State.slot, State.core]
@[simp] theorem slot_postEvent (s : State) (a : Agent) (i : Instr) (c : CoreId) (k : SlotId) :
    (s.postEvent a i).slot c k = s.slot c k := by simp [State.slot, State.core]
@[simp] theorem slot_choose (s : State) (n : Nat) (c : CoreId) (k : SlotId) :
    (s.choose n).2.slot c k = s.slot c k := by simp [State.slot, State.core]

theorem onlySlot_cutChunk (s : State) (c : CoreId) (k : SlotId) (code : Byte) (a : Option After) :
    OnlySlot s (s.cutChunk c k code a) c k := by
  unfold State.cutChunk
  refine onlySlot_trans ?_ (onlySlot_postEvent _ _ _ c k)
  refine onlySlot_trans (onlySlot_setSlot s c k { s.slot c k with
    cut := code, waiting := some (s.slot c k).chunk, chunk := {}, cutDue := none
    park := match a with
      | some a => .grant a
      | none => .ready }) ?_
  exact onlySlot_of_cores c k rfl rfl

/-- A slot after a cut: the open chunk waits, and a new one is empty. -/
theorem slot_cutChunk (s : State) (c : CoreId) (k : SlotId) (code : Byte) (a : Option After) :
    (s.cutChunk c k code a).slot c k = { s.slot c k with
      cut := code, waiting := some (s.slot c k).chunk, chunk := {}, cutDue := none
      park := match a with
        | some a => .grant a
        | none => .ready } := by
  unfold State.cutChunk
  rw [slot_postEvent]
  exact slot_setSlot_same s c k _

/-- The slot y is y' but for how its chunks stand, and shows the same speculative bytes. -/
structure Stands (y' y : Slot) : Prop where
  rest : y = { y' with cut := y.cut, chunk := y.chunk, waiting := y.waiting, cutDue := y.cutDue, park := y.park }
  seen : ∀ pa, (specByte y.chunk.wr pa).or (specByte (y.waiting.getD {}).wr pa)
      = (specByte y'.chunk.wr pa).or (specByte (y'.waiting.getD {}).wr pa)

theorem stands_refl (y : Slot) : Stands y y := ⟨rfl, fun _ => rfl⟩

theorem stands_trans {x y z : Slot} (h : Stands x y) (h' : Stands y z) : Stands x z :=
  ⟨by rw [h'.rest, h.rest], fun pa => (h'.seen pa).trans (h.seen pa)⟩

theorem stands_due (y : Slot) (code : Byte) (a : Option After) : Stands y (y.due code a) := by
  unfold Slot.due; split_ifs
  · exact ⟨rfl, fun _ => rfl⟩
  · exact stands_refl y

theorem stands_cut (y : Slot) (code : Byte) (p : Park) (h : y.waiting = none) :
    Stands y { y with cut := code, waiting := some y.chunk, chunk := {}, cutDue := none, park := p } := by
  refine ⟨rfl, fun pa => ?_⟩
  simp only [h, Option.getD_some, Option.getD_none]
  have : specByte ({} : Chunk).wr pa = none := rfl
  rw [this]
  cases specByte y.chunk.wr pa <;> rfl

/-- Only the slot changed, and it only stands differently. -/
structure Stood (s t : State) (c : CoreId) (k : SlotId) : Prop where
  only : OnlySlot s t c k
  stands : Stands (s.slot c k) (t.slot c k)

theorem stood_refl (s : State) (c : CoreId) (k : SlotId) : Stood s s c k := ⟨onlySlot_refl s c k, stands_refl _⟩
theorem stood_trans {s t u : State} {c : CoreId} {k : SlotId} (h : Stood s t c k) (h' : Stood t u c k) : Stood s u c k :=
  ⟨onlySlot_trans h.only h'.only, stands_trans h.stands h'.stands⟩
theorem stood_setSlot (s : State) (c : CoreId) (k : SlotId) (y : Slot) (h : Stands (s.slot c k) y) : Stood s (s.setSlot c k y) c k :=
  ⟨onlySlot_setSlot s c k y, by simpa using h⟩
theorem stood_postTurn (s : State) (c : CoreId) (k : SlotId) (c' : CoreId) (k' : SlotId) : Stood s (s.postTurn c' k') c k :=
  ⟨onlySlot_postTurn s c' k' c k, by rw [slot_postTurn]; exact stands_refl _⟩
theorem stood_postEvent (s : State) (c : CoreId) (k : SlotId) (a : Agent) (i : Instr) : Stood s (s.postEvent a i) c k :=
  ⟨onlySlot_postEvent s a i c k, by rw [slot_postEvent]; exact stands_refl _⟩
theorem stood_choose (s : State) (c : CoreId) (k : SlotId) (n : Nat) : Stood s (s.choose n).2 c k :=
  ⟨onlySlot_choose s n c k, by rw [slot_choose]; exact stands_refl _⟩
theorem stood_cutChunk (s : State) (c : CoreId) (k : SlotId) (code : Byte) (a : Option After) (h : (s.slot c k).waiting = none) :
    Stood s (s.cutChunk c k code a) c k :=
  ⟨onlySlot_cutChunk s c k code a, by rw [slot_cutChunk]; exact stands_cut _ code _ h⟩

theorem stood_tryCut (s : State) (c : CoreId) (k : SlotId) (hn : (s.slot c k).chunk.isEmpty = false) : Stood s (s.tryCut c k) c k := by
  unfold State.tryCut
  cases hd : (s.slot c k).cutDue with
  | none => simpa only [hd] using stood_postTurn s c k c k
  | some d =>
    simp only [hd, hn, Bool.false_eq_true, if_false]
    split_ifs with h1 h2
    · have hw : (s.slot c k).waiting = none := by
        simp only [Slot.canCut, Bool.and_eq_true, Option.isNone_iff_eq_none] at h1; exact h1.2
      exact stood_trans (stood_cutChunk s c k _ _ hw) (stood_postTurn _ c k c k)
    · have hw : (s.slot c k).waiting = none := by
        simp only [Slot.canCut, Bool.and_eq_true, Option.isNone_iff_eq_none] at h1; exact h1.2
      exact stood_cutChunk s c k _ _ hw
    · exact stood_postTurn s c k c k

theorem stands_length (y : Slot) (n : Option Nat) : Stands y (y.lengthened.lengthDue.replayDue n) := by
  have h1 : Stands y y.lengthened := ⟨rfl, fun _ => rfl⟩
  have h2 : Stands y.lengthened y.lengthened.lengthDue := by
    unfold Slot.lengthDue; split
    · exact stands_due _ _ _
    · exact stands_refl _
  have h3 : Stands y.lengthened.lengthDue (y.lengthened.lengthDue.replayDue n) := by
    unfold Slot.replayDue; split
    · exact stands_due _ _ _
    · exact stands_refl _
  exact stands_trans h1 (stands_trans h2 h3)

theorem stood_hintDue (s : State) (c : CoreId) (k : SlotId) (cb : Bool) : Stood s (s.hintDue c k cb) c k := by
  unfold State.hintDue
  cases cb
  · exact stood_refl s c k
  · simp only [if_true]
    by_cases h : (s.choose 2).1 = 1
    · rw [if_pos h]; exact stood_trans (stood_choose s c k 2) (stood_setSlot _ c k _ (stands_due _ _ _))
    · rw [if_neg h]; exact stood_choose s c k 2

theorem length_counted (y : Slot) (n : Option Nat) : (y.lengthened.lengthDue.replayDue n).chunk.len = y.chunk.len + 1 := by
  have h (y : Slot) (code : Byte) (a : Option After) : (y.due code a).chunk = y.chunk := by unfold Slot.due; split_ifs <;> rfl
  unfold Slot.replayDue Slot.lengthDue
  split_ifs <;> first | rfl | (simp only [h]; rfl)

theorem hintDue_len (s : State) (c : CoreId) (k : SlotId) (cb : Bool) : ((s.hintDue c k cb).slot c k).chunk.len = (s.slot c k).chunk.len := by
  unfold State.hintDue
  cases cb
  · rfl
  · rw [if_pos rfl]
    by_cases h : (s.choose 2).1 = 1
    · rw [if_pos h, slot_setSlot_same]; unfold Slot.due; split_ifs <;> rw [slot_choose]
    · rw [if_neg h, slot_choose]

/-- After an instruction of a chunk that is not solo, counting it changes only how the slot stands. -/
theorem stood_counted (s : State) (c : CoreId) (k : SlotId) (cb : Bool) (h : (s.slot c k).chunk.solo = false) :
    Stood s (s.counted c k cb) c k := by
  unfold State.counted
  simp only [h, Bool.false_eq_true, if_false]
  have h1 := stood_trans (stood_setSlot s c k _ (stands_length _ (s.replayLen c k))) (stood_hintDue _ c k cb)
  split_ifs
  · refine stood_trans h1 (stood_tryCut _ c k ?_)
    rw [Chunk.isEmpty, hintDue_len, slot_setSlot_same, length_counted]
    rfl
  · exact h1

/-- Counting an instruction changes only the slot, and none of its registers but the dead bits. -/
theorem only_counted (s : State) (c : CoreId) (k : SlotId) (cb : Bool) :
    OnlySlot s (s.counted c k cb) c k ∧ (s.counted c k cb).slot c k = { s.slot c k with
      regs := { (s.slot c k).regs with dead := ((s.counted c k cb).slot c k).regs.dead }
      cut := ((s.counted c k cb).slot c k).cut, chunk := ((s.counted c k cb).slot c k).chunk
      waiting := ((s.counted c k cb).slot c k).waiting, cutDue := ((s.counted c k cb).slot c k).cutDue
      park := ((s.counted c k cb).slot c k).park } := by
  by_cases h : (s.slot c k).chunk.solo = false
  · refine ⟨(stood_counted s c k cb h).only, ?_⟩
    have e := (stood_counted s c k cb h).stands.rest
    rw [e]
  · have h' : (s.slot c k).chunk.solo = true := by simpa using h
    unfold State.counted
    simp only [h', if_true]
    have h1 : OnlySlot s (s.freshChunk c k) c k := onlySlot_setSlot s c k _
    have h2 : (s.freshChunk c k).slot c k = { s.slot c k with
        regs := { (s.slot c k).regs with dead := (s.slot c k).regs.dead ||| (s.slot c k).chunk.deadSet }, chunk := {} } :=
      slot_setSlot_same s c k _
    split_ifs
    · exact ⟨onlySlot_trans h1 (onlySlot_postTurn _ c k c k), by rw [slot_postTurn, h2]⟩
    · exact ⟨h1, by rw [h2]⟩

/-- Counting an instruction of a chunk that is not solo changes no register. -/
theorem regs_counted (s : State) (c : CoreId) (k : SlotId) (cb : Bool) (h : (s.slot c k).chunk.solo = false) :
    ((s.counted c k cb).slot c k).regs = (s.slot c k).regs := by
  rw [(stood_counted s c k cb h).stands.rest]

/-- The chunk x holds the bytes, the length and the effects of w, and is solo as w is. -/
structure SameBytes (w x : Chunk) : Prop where
  wr : x.wr = w.wr
  solo : x.solo = w.solo
  len : x.len = w.len
  effects : x.effects = w.effects

/-- The executing slot's registers have become r, and nothing else changed but notes in its chunk and a cut that falls due. -/
structure RegsNow (s u : State) (c : CoreId) (k : SlotId) (r : Regs) : Prop where
  only : OnlySlot s u c k
  chunk : SameBytes (s.slot c k).chunk (u.slot c k).chunk
  slot : u.slot c k = { s.slot c k with regs := r, chunk := (u.slot c k).chunk, cutDue := (u.slot c k).cutDue }

section regs
variable {s u : State} {c : CoreId} {k : SlotId} {r : Regs}

theorem onlySlot_cur (h : OnlySlot s u c k) : u.cur = s.cur := by rw [h.rest]

theorem regsNow_refl (h : s.cur = .slot c k) : RegsNow s s c k s.regs :=
  ⟨onlySlot_refl s c k, ⟨rfl, rfl, rfl, rfl⟩, by rw [regs_slot s c k h]⟩

theorem regsNow_cur (h : RegsNow s u c k r) (hc : s.cur = .slot c k) : u.cur = .slot c k := by rw [onlySlot_cur h.only, hc]

theorem regsNow_regs (h : RegsNow s u c k r) (hc : s.cur = .slot c k) : u.regs = r := by
  rw [regs_slot u c k (regsNow_cur h hc), h.slot]

theorem regsNow_chunk (h : RegsNow s u c k r) (hc : s.cur = .slot c k) : SameBytes s.chunk u.chunk := by
  rw [chunk_slot s c k hc, chunk_slot u c k (regsNow_cur h hc)]; exact h.chunk

theorem regsNow_setRegs (h : RegsNow s u c k r) (hc : s.cur = .slot c k) (r' : Regs) : RegsNow s (u.setRegs r') c k r' := by
  have hu := regsNow_cur h hc
  rw [setRegs_slot u c k hu]
  refine ⟨onlySlot_trans h.only (onlySlot_setSlot u c k _), ?_, ?_⟩
  · simpa using h.chunk
  · rw [slot_setSlot_same, h.slot]

theorem regsNow_setChunk (h : RegsNow s u c k r) (hc : s.cur = .slot c k) (x : Chunk) (hx : SameBytes s.chunk x) :
    RegsNow s (u.setChunk x) c k r := by
  have hu := regsNow_cur h hc
  rw [setChunk_slot u c k hu]
  refine ⟨onlySlot_trans h.only (onlySlot_setSlot u c k _), ?_, ?_⟩
  · simpa [chunk_slot s c k hc] using hx
  · rw [slot_setSlot_same, h.slot]

/-- A register marked as written: only its dead bit and the chunk's notes change. -/
theorem regsNow_alive (h : RegsNow s u c k r) (hc : s.cur = .slot c k) (n : Nat) :
    RegsNow s (u.alive n) c k { r with dead := r.dead &&& ~~~(1#64 <<< n) } := by
  unfold State.alive
  have h1 := regsNow_setRegs h hc { u.regs with dead := u.regs.dead &&& ~~~(1#64 <<< n) }
  refine regsNow_setChunk (by rw [regsNow_regs h hc] at h1; rw [regsNow_regs h hc]; exact h1) hc _ ?_
  have := regsNow_chunk h1 hc
  exact ⟨this.wr, this.solo, this.len, this.effects⟩

theorem regsNow_setG (h : RegsNow s u c k r) (hc : s.cur = .slot c k) (n : BitVec 5) (x : Word) :
    RegsNow s (u.setG n x) c k (r.putG n x) := by
  unfold State.setG
  have h1 := regsNow_setRegs h hc { u.regs with g := u.regs.g.set n.toNat x n.isLt }
  have h2 := regsNow_alive h1 hc (deadG n)
  rw [regsNow_regs h hc] at h2 ⊢
  exact h2

theorem regsNow_setV (h : RegsNow s u c k r) (hc : s.cur = .slot c k) (n : BitVec 4) (x : VWord) :
    RegsNow s (u.setV n x) c k (r.putV n x) := by
  unfold State.setV
  have h1 := regsNow_setRegs h hc { u.regs with v := u.regs.v.set n.toNat x n.isLt }
  have h2 := regsNow_alive h1 hc (deadV n)
  rw [regsNow_regs h hc] at h2 ⊢
  exact h2

theorem regsNow_setA (h : RegsNow s u c k r) (hc : s.cur = .slot c k) (n : BitVec 3) (x : Word) :
    RegsNow s (u.setA n x) c k (r.putA n x) := by
  unfold State.setA
  have h1 := regsNow_setRegs h hc { u.regs with a := u.regs.a.set n.toNat x n.isLt }
  have h2 := regsNow_alive h1 hc (deadA n)
  rw [regsNow_regs h hc] at h2 ⊢
  exact h2

theorem regsNow_setP (h : RegsNow s u c k r) (hc : s.cur = .slot c k) (n : BitVec 3) (x : Word) :
    RegsNow s (u.setP n x) c k (r.putP n x) := by
  unfold State.setP Regs.putP
  split_ifs with hn
  · have h1 := regsNow_setRegs h hc { u.regs with p := u.regs.p.set n.toNat x hn }
    have h2 := regsNow_alive h1 hc (deadP n)
    rw [regsNow_regs h hc] at h2 ⊢
    exact h2
  · exact h

theorem regsNow_setDst (h : RegsNow s u c k r) (hc : s.cur = .slot c k) (o : Operand) (x : Word) :
    RegsNow s (u.setDst o x) c k (r.putDst o x) := by
  cases o with
  | g n => exact regsNow_setG h hc n x
  | a n => exact regsNow_setA h hc n x
  | p n => exact regsNow_setP h hc n x
  | _ => exact h

theorem regsNow_setPc (h : RegsNow s u c k r) (hc : s.cur = .slot c k) (pc : Word) :
    RegsNow s (u.setPc pc) c k { r with pc := pc } := by
  unfold State.setPc
  have := regsNow_setRegs h hc { u.regs with pc := pc }
  rw [regsNow_regs h hc] at this ⊢
  exact this

theorem regsNow_setDue (h : RegsNow s u c k r) (hc : s.cur = .slot c k) (code : Byte) (a : Option After) :
    RegsNow s (u.setDue code a) c k r := by
  have hu := regsNow_cur h hc
  unfold State.setDue
  simp only [hu]
  have hs := h.slot
  refine ⟨onlySlot_trans h.only (onlySlot_setSlot u c k _), ?_, ?_⟩
  · rw [slot_setSlot_same]; unfold Slot.due; split_ifs <;> exact h.chunk
  · rw [slot_setSlot_same]; unfold Slot.due; split_ifs
    · rw [hs]
    · exact hs

theorem regsNow_hint (h : RegsNow s u c k r) (hc : s.cur = .slot c k) (opc : Nat) (f : Fields) :
    RegsNow s (u.hint opc f) c k r := by
  unfold State.hint
  extract_lets one m
  split_ifs
  · exact h
  · have := regsNow_chunk h hc
    exact regsNow_setChunk h hc _ ⟨this.wr, this.solo, this.len, this.effects⟩

/-- Slots that stand alike show the same memory bytes. -/
theorem seen_of (hc : s.cur = .slot c k) (hu : u.cur = .slot c k) (hm : u.mem = s.mem) (h : Stands (s.slot c k) (u.slot c k)) (pa : Nat) :
    u.seenByte pa = s.seenByte pa := by
  have e := h.seen pa
  unfold State.seenByte State.waitingBytes
  simp only [hc, hu, chunk_slot s c k hc, chunk_slot u c k hu, hm, e]

/-- Counting after register writes is the end of the instruction. -/
theorem ended_counted (h : RegsNow s u c k r) (hc : s.cur = .slot c k) (cb : Bool) : Ended s (u.counted c k cb) c k r := by
  have hu := regsNow_cur h hc
  have h1 := only_counted u c k cb
  refine ⟨onlySlot_trans h.only h1.1, ?_, ?_, ?_⟩
  · rw [h1.2, h.slot]
  · intro hs
    rw [regs_counted u c k cb (by rw [h.chunk.solo]; exact hs), h.slot]
  · intro hs pa
    have h2 := stood_counted u c k cb (by rw [h.chunk.solo]; exact hs)
    have hm : u.mem = s.mem := by rw [h.only.rest]
    have hm' : (u.counted c k cb).mem = u.mem := by rw [h2.only.rest]
    have hc' : (u.counted c k cb).cur = .slot c k := by rw [onlySlot_cur h2.only, hu]
    rw [seen_of hu hc' hm' h2.stands pa]
    have hw : (u.slot c k).waiting = (s.slot c k).waiting := by rw [h.slot]
    unfold State.seenByte State.waitingBytes
    simp only [hc, hu, chunk_slot s c k hc, chunk_slot u c k hu, hm, h.chunk.wr, hw]

theorem ended_done (h : RegsNow s u c k r) (hc : s.cur = .slot c k) (opc : Nat) (i : Instr) (f : Fields) :
    Ended s (concludeSlot c k opc i f (.done u)) c k r.advance := by
  have h1 := regsNow_hint h hc opc f
  have h2 := regsNow_setRegs h1 hc (u.hint opc f).regs.advance
  rw [regsNow_regs h1 hc] at h2
  have e : concludeSlot c k opc i f (.done u) = ((u.hint opc f).setRegs (u.hint opc f).regs.advance).counted c k f.cb := rfl
  rw [e, regsNow_regs h1 hc]
  exact ended_counted h2 hc f.cb

theorem ended_jump (h : RegsNow s u c k r) (hc : s.cur = .slot c k) (opc : Nat) (i : Instr) (f : Fields) (pc : Word) :
    Ended s (concludeSlot c k opc i f (.jump u pc)) c k { r with pc := pc } :=
  ended_counted (regsNow_setPc (regsNow_hint h hc opc f) hc pc) hc f.cb

theorem ended_step (h : RegsNow s u c k r) (hc : s.cur = .slot c k) (opc : Nat) (i : Instr) (f : Fields) :
    Ended s (concludeSlot c k opc i f (.step u)) c k r :=
  ended_counted h hc false

end regs

/-- An instruction that issues does what its body says. -/
theorem issue_body {i : Instr} {f : Fields} {lanes : Nat} {s : State} {c : CoreId} {k : SlotId} (h : Issues i f lanes s c k)
    (body : State → Eff) : issue i f lanes s body = .next (concludeSlot c k (opcOf i) i f (body s)) := by
  unfold issue
  have hp : (privileged (opcOf i) && !s.priv) = false := by
    cases hq : privileged (opcOf i)
    · rfl
    · simp [h.level hq]
  simp [h.cur, h.guard, h.free, hp]

/-- An instruction whose guard is false in all its lanes is only passed over. -/
theorem issue_masked {i : Instr} {f : Fields} {lanes : Nat} {s : State} {c : CoreId} {k : SlotId} (hc : s.cur = .slot c k)
    (hp : privileged (opcOf i) = true → s.priv = true) (hg : s.anyLane f lanes = false) (body : State → Eff) :
    issue i f lanes s body = .next (concludeSlot c k (opcOf i) i { f with lr1 := false, lr2 := false } (.done s)) := by
  unfold issue
  have hp' : (privileged (opcOf i) && !s.priv) = false := by
    cases hq : privileged (opcOf i)
    · rfl
    · simp [hp hq]
  simp [hc, hg, hp']

/-- An instruction that issues and whose body completes after register writes only. -/
theorem gives_done {i : Instr} {f : Fields} {lanes : Nat} {s u : State} {c : CoreId} {k : SlotId} {r : Regs} {body : State → Eff}
    (h : Issues i f lanes s c k) (e : exec i s = issue i f lanes s body) (hb : body s = .done u) (hu : RegsNow s u c k r) :
    Gives i s c k r.advance :=
  ⟨_, by rw [e, issue_body h, hb], ended_done hu h.cur _ _ _⟩

theorem gives_jump {i : Instr} {f : Fields} {lanes : Nat} {s u : State} {c : CoreId} {k : SlotId} {r : Regs} {body : State → Eff}
    {pc : Word} (h : Issues i f lanes s c k) (e : exec i s = issue i f lanes s body) (hb : body s = .jump u pc)
    (hu : RegsNow s u c k r) : Gives i s c k { r with pc := pc } :=
  ⟨_, by rw [e, issue_body h, hb], ended_jump hu h.cur _ _ _ pc⟩

/-- The same for a scalar instruction. -/
theorem scalar_done {i : Instr} {f : Fields} {s u : State} {c : CoreId} {k : SlotId} {r : Regs} {body : State → Eff}
    (h : Issues i f 1 s c k) (e : exec i s = scalar i f s body) (hb : body s = .done u) (hu : RegsNow s u c k r) :
    Gives i s c k r.advance := gives_done h e hb hu

theorem scalar_jump {i : Instr} {f : Fields} {s u : State} {c : CoreId} {k : SlotId} {r : Regs} {body : State → Eff}
    {pc : Word} (h : Issues i f 1 s c k) (e : exec i s = scalar i f s body) (hb : body s = .jump u pc)
    (hu : RegsNow s u c k r) : Gives i s c k { r with pc := pc } := gives_jump h e hb hu

/-- An instruction that only writes its destination. -/
theorem gives_dst {i : Instr} {f : Fields} {s : State} {c : CoreId} {k : SlotId} {x : State → Word}
    (h : Issues i f 1 s c k) (e : exec i s = scalar i f s (toDst f x)) : Gives i s c k (s.regs.putDst f.dst (x s)).advance :=
  scalar_done h e rfl (regsNow_setDst (regsNow_refl h.cur) h.cur _ _)

end Sys2Proof.Machine
end

