-- ==== Sys2Proof/Laws/Memory.lean ====
section
/-! SUPPORT. Every memory operation keeps the canonical form; a byte read after a write. -/

namespace Sys2Proof.Machine

/-- The canonical form as a property of the list: no zero byte, addresses strictly rising. -/
theorem mem_wf_iff (m : Mem) : Mem.wf m = true ↔ (∀ e ∈ m, e.2 ≠ 0) ∧ m.Pairwise (fun a b => a.1 < b.1) := by
  induction m with
  | nil => simp [Mem.wf]
  | cons e m ih =>
    obtain ⟨a, x⟩ := e
    cases m with
    | nil => simp [Mem.wf]
    | cons e' m =>
      obtain ⟨b, y⟩ := e'
      simp only [Mem.wf, Bool.and_eq_true, ih, List.pairwise_cons, List.mem_cons, decide_eq_true_eq, bne_iff_ne, ne_eq]
      constructor
      · rintro ⟨⟨h1, h2⟩, h3, h4, h5⟩
        refine ⟨?_, ?_, h4, h5⟩
        · rintro e (rfl | rfl | he)
          · exact h1
          · exact h3 _ (by simp)
          · exact h3 _ (by simp [he])
        · rintro e (rfl | he)
          · exact h2
          · exact lt_trans h2 (h4 _ he)
      · rintro ⟨h1, h2, h4, h5⟩
        exact ⟨⟨h1 (a, x) (by simp), h2 (b, y) (by simp)⟩, fun e he => h1 e (by simp only [he, or_true]), h4, h5⟩

theorem wf_nil : Mem.wf [] = true := rfl

theorem setByte_mem (m : Mem) (a : Nat) (x : Byte) (e : Host.Cell) (h : e ∈ Mem.setByte m a x) : (e = (a, x) ∧ x ≠ 0) ∨ e ∈ m := by
  induction m with
  | nil =>
    simp only [Mem.setByte] at h
    split_ifs at h with hx
    · simp at h
    · simp only [List.mem_singleton] at h; exact .inl ⟨h, hx⟩
  | cons f m ih =>
    obtain ⟨b, y⟩ := f
    simp only [Mem.setByte] at h
    split_ifs at h <;> simp only [List.mem_cons] at h ⊢
    · exact .inr (.inr h)
    · rcases h with h | h
      · exact .inl ⟨h, ‹_›⟩
      · exact .inr (.inr h)
    · exact .inr h
    · rcases h with h | h
      · exact .inl ⟨h, ‹_›⟩
      · exact .inr h
    · rcases h with h | h
      · exact .inr (.inl h)
      · rcases ih h with h | h
        · exact .inl h
        · exact .inr (.inr h)

theorem wf_setByte (m : Mem) (a : Nat) (x : Byte) (h : Mem.wf m = true) : Mem.wf (Mem.setByte m a x) = true := by
  rw [mem_wf_iff] at h ⊢
  refine ⟨?_, ?_⟩
  · intro e he
    rcases setByte_mem m a x e he with ⟨rfl, hx⟩ | he
    · exact hx
    · exact h.1 e he
  · obtain ⟨-, h⟩ := h
    induction m with
    | nil => simp only [Mem.setByte]; split_ifs <;> simp
    | cons f m ih =>
      obtain ⟨b, y⟩ := f
      rw [List.pairwise_cons] at h
      simp only [Mem.setByte]
      split_ifs with h1 h2 h3 h4
      · exact h.2
      · subst h1; exact List.pairwise_cons.2 h
      · exact List.pairwise_cons.2 h
      · refine List.pairwise_cons.2 ⟨?_, List.pairwise_cons.2 h⟩
        intro e he
        rcases List.mem_cons.1 he with rfl | he
        · exact h3
        · exact lt_trans h3 (h.1 e he)
      · refine List.pairwise_cons.2 ⟨?_, ih h.2⟩
        intro e he
        rcases setByte_mem m a x e he with ⟨rfl, -⟩ | he
        · exact lt_of_le_of_ne (not_lt.1 h3) (Ne.symm h1)
        · exact h.1 e he

theorem wf_setBytes (bs : List Byte) (m : Mem) (a : Nat) (h : Mem.wf m = true) : Mem.wf (Mem.setBytes m a bs) = true := by
  induction bs generalizing m a with
  | nil => exact h
  | cons x xs ih => exact ih _ _ (wf_setByte m a x h)

theorem wf_setNat (m : Mem) (a n x : Nat) (h : Mem.wf m = true) : Mem.wf (Mem.setNat m a n x) = true := wf_setBytes _ _ _ h

theorem wf_setCells (cells : List (Nat × Byte)) (m : Mem) (h : Mem.wf m = true) :
    Mem.wf (cells.foldl (fun m e => m.setByte e.1 e.2) m) = true := by
  induction cells generalizing m with
  | nil => exact h
  | cons x xs ih => exact ih _ (wf_setByte m x.1 x.2 h)

theorem wf_slice (m : Mem) (a n : Nat) (h : Mem.wf m = true) : Mem.wf (Mem.slice m a n) = true := by
  rw [mem_wf_iff] at h ⊢
  unfold Mem.slice
  refine ⟨?_, ?_⟩
  · intro e he
    obtain ⟨f, hf, hfe⟩ := List.mem_filterMap.1 he
    split_ifs at hfe
    obtain rfl := Option.some.inj hfe
    exact h.1 f hf
  · rw [List.pairwise_filterMap]
    refine h.2.imp ?_
    intro x y hxy b hb b' hb'
    split_ifs at hb hb' with h1 h2
    obtain rfl := Option.some.inj hb
    obtain rfl := Option.some.inj hb'
    simp only; omega

theorem wf_splice (m : Mem) (a n : Nat) (img : Mem) (h : Mem.wf m = true) (hi : Mem.wf img = true) :
    Mem.wf (Mem.splice m a n img) = true := by
  rw [mem_wf_iff] at h hi ⊢
  unfold Mem.splice
  refine ⟨?_, ?_⟩
  · intro e he
    simp only [List.mem_append, List.mem_filter, List.mem_filterMap] at he
    rcases he with (he | ⟨f, hf, hfe⟩) | he
    · exact h.1 e he.1
    · split_ifs at hfe
      obtain rfl := Option.some.inj hfe
      exact hi.1 f hf
    · exact h.1 e he.1
  · rw [List.pairwise_append, List.pairwise_append]
    refine ⟨⟨h.2.filter _, ?_, ?_⟩, h.2.filter _, ?_⟩
    · rw [List.pairwise_filterMap]
      refine hi.2.imp ?_
      intro x y hxy b hb b' hb'
      split_ifs at hb hb' with h1 h2
      obtain rfl := Option.some.inj hb
      obtain rfl := Option.some.inj hb'
      simp only; omega
    · intro x hx y hy
      simp only [List.mem_filter, List.mem_filterMap, decide_eq_true_eq] at hx hy
      obtain ⟨f, hf, hfe⟩ := hy
      split_ifs at hfe with h1
      obtain rfl := Option.some.inj hfe
      simp only; omega
    · intro x hx y hy
      simp only [List.mem_append, List.mem_filter, List.mem_filterMap, decide_eq_true_eq] at hx hy
      rcases hx with hx | ⟨f, hf, hfe⟩
      · omega
      · split_ifs at hfe with h1
        obtain rfl := Option.some.inj hfe
        simp only; omega

theorem wf_undoLs (js : List (Nat × BitVec 512)) (ls : Mem) (h : Mem.wf ls = true) : Mem.wf (undoLs ls js) = true := by
  induction js generalizing ls with
  | nil => exact h
  | cons e js ih =>
    obtain ⟨g, old⟩ := e
    rw [undoLs]
    exact ih _ (wf_setBytes _ _ _ h)

/-- A byte below every listed address reads as zero. -/
theorem byte_below (m : Mem) (a : Nat) (h : ∀ e ∈ m, a < e.1) : Mem.byte m a = 0 := by
  cases m with
  | nil => rfl
  | cons e m =>
    obtain ⟨b, y⟩ := e
    have := h (b, y) (by simp)
    simp only at this
    simp [Mem.byte, this, show a ≠ b by omega]

/-- A byte written reads back. -/
theorem byte_setByte_same (m : Mem) (a : Nat) (x : Byte) (h : Mem.wf m = true) : Mem.byte (Mem.setByte m a x) a = x := by
  rw [mem_wf_iff] at h
  obtain ⟨-, h⟩ := h
  induction m with
  | nil => simp only [Mem.setByte]; split_ifs with hx <;> simp [Mem.byte, hx]
  | cons f m ih =>
    obtain ⟨b, y⟩ := f
    rw [List.pairwise_cons] at h
    simp only [Mem.setByte]
    split_ifs with h1 h2 h3 h4
    · subst h1; rw [byte_below m a (fun e he => h.1 e he), h2]
    · simp [Mem.byte]
    · simp [Mem.byte, h1, h3, h4]
    · simp [Mem.byte]
    · simp [Mem.byte, h1, h3, ih h.2]

/-- A write leaves every other byte alone. -/
theorem byte_setByte_ne (m : Mem) (a b : Nat) (x : Byte) (h : Mem.wf m = true) (hab : b ≠ a) :
    Mem.byte (Mem.setByte m a x) b = Mem.byte m b := by
  rw [mem_wf_iff] at h
  obtain ⟨-, h⟩ := h
  induction m with
  | nil => simp only [Mem.setByte]; split_ifs <;> simp [Mem.byte, hab]
  | cons f m ih =>
    obtain ⟨c, y⟩ := f
    rw [List.pairwise_cons] at h
    simp only [Mem.setByte]
    split_ifs with h1 h2 h3 h4
    · subst h1
      by_cases hb : b < a
      · rw [byte_below m b (fun e he => lt_trans hb (h.1 e he))]; simp [Mem.byte, hab, hb]
      · simp [Mem.byte, hab, hb]
    · subst h1; simp [Mem.byte, hab]
    · rfl
    · by_cases hb : b < a
      · have : b < c := by omega
        simp [Mem.byte, hab, hb, this, show b ≠ c by omega]
      · simp [Mem.byte, hab, hb]
    · simp only [Mem.byte, ih h.2]

theorem byte_setBytes_out (bs : List Byte) (m : Mem) (a b : Nat) (h : Mem.wf m = true) (hb : b < a ∨ a + bs.length ≤ b) :
    Mem.byte (Mem.setBytes m a bs) b = Mem.byte m b := by
  induction bs generalizing m a with
  | nil => rfl
  | cons x xs ih =>
    simp only [List.length_cons] at hb
    rw [Mem.setBytes, ih _ _ (wf_setByte m a x h) (by omega), byte_setByte_ne m a b x h (by omega)]

theorem byte_setBytes_in (bs : List Byte) (m : Mem) (a i : Nat) (h : Mem.wf m = true) (hi : i < bs.length) :
    Mem.byte (Mem.setBytes m a bs) (a + i) = bs[i] := by
  induction bs generalizing m a i with
  | nil => simp at hi
  | cons x xs ih =>
    cases i with
    | zero =>
      rw [Mem.setBytes, byte_setBytes_out xs _ _ _ (wf_setByte m a x h) (by omega)]
      simpa using byte_setByte_same m a x h
    | succ i =>
      have := ih (Mem.setByte m a x) (a + 1) i (wf_setByte m a x h) (by simpa using hi)
      rw [Mem.setBytes, show a + (i + 1) = a + 1 + i by omega, this]
      simp

/-- The bytes written read back. -/
theorem bytes_setBytes (bs : List Byte) (m : Mem) (a : Nat) (h : Mem.wf m = true) :
    Mem.bytes (Mem.setBytes m a bs) a bs.length = bs := by
  refine List.ext_getElem (by simp [Mem.bytes]) ?_
  intro i h1 h2
  simp [Mem.bytes, byte_setBytes_in bs m a i h h2]

/-- Bytes outside those written read as before. -/
theorem bytes_setBytes_out (bs : List Byte) (m : Mem) (a b n : Nat) (h : Mem.wf m = true) (hb : b + n ≤ a ∨ a + bs.length ≤ b) :
    Mem.bytes (Mem.setBytes m a bs) b n = Mem.bytes m b n := by
  refine List.map_congr_left ?_
  intro i hi
  have := List.mem_range.1 hi
  exact byte_setBytes_out bs m a (b + i) h (by omega)

/-- The bytes of a number make the number again. -/
theorem leNat_leBytes (n x : Nat) (h : x < 256 ^ n) : leNat (leBytes n x) = x := by
  induction n generalizing x with
  | zero => simp at h; simp [leNat, leBytes, h]
  | succ n ih =>
    have h' : x / 256 < 256 ^ n := by
      rw [Nat.div_lt_iff_lt_mul (by norm_num)]; rwa [pow_succ] at h
    simp only [leBytes, leNat, ih _ h', BitVec.toNat_ofNat]
    omega

@[simp] theorem leBytes_length (n x : Nat) : (leBytes n x).length = n := by
  induction n generalizing x with
  | zero => rfl
  | succ n ih => simp [leBytes, ih]

/-- A value written to memory reads back. -/
theorem nat_setNat (m : Mem) (a n x : Nat) (h : Mem.wf m = true) (hx : x < 256 ^ n) : Mem.nat (Mem.setNat m a n x) a n = x := by
  have := bytes_setBytes (leBytes n x) m a h
  rw [leBytes_length] at this
  rw [Mem.nat, Mem.setNat, this, leNat_leBytes n x hx]

/-- A speculative byte set reads back, and others as before. -/
theorem specByte_setSpec (m : List Host.Cell) (a b : Nat) (x : Byte) :
    specByte (setSpec m a x) b = if b = a then some x else specByte m b := by
  induction m with
  | nil => by_cases h : b = a <;> simp [setSpec, specByte, h]
  | cons e m ih =>
    obtain ⟨c, y⟩ := e
    simp only [setSpec]
    split_ifs with h1 h2 h3' h3 h3
    · subst h1; simp [specByte, h2]
    · subst h1; simp [specByte, h2]
    · simp [specByte, h3]
    · by_cases hb : b < a
      · simp [specByte, h3, hb, show b ≠ c by omega, show b < c by omega]
      · simp [specByte, h3, hb]
    · subst h3; simp [specByte, h1, h3', ih]
    · simp [specByte, ih, h3]

theorem specByte_setSpecs (bs : List Byte) (m : List Host.Cell) (a b : Nat) :
    specByte (setSpecs m a bs) b = if h : a ≤ b ∧ b < a + bs.length then some (bs[b - a]'(by omega)) else specByte m b := by
  induction bs generalizing m a with
  | nil => simp [setSpecs]
  | cons x xs ih =>
    rw [setSpecs, ih, specByte_setSpec]
    by_cases h0 : b = a
    · subst h0
      simp
    · by_cases h1 : a + 1 ≤ b ∧ b < a + 1 + xs.length
      · have h2 : a ≤ b ∧ b < a + (x :: xs).length := by simp only [List.length_cons]; omega
        rw [dif_pos h1, dif_pos h2]
        obtain ⟨i, rfl⟩ : ∃ i, b = a + 1 + i := ⟨b - (a + 1), by omega⟩
        have e : a + 1 + i - a = i + 1 := by omega
        simp [e]
      · have h2 : ¬ (a ≤ b ∧ b < a + (x :: xs).length) := by simp only [List.length_cons]; omega
        rw [dif_neg h1, dif_neg h2, if_neg h0]

end Sys2Proof.Machine
end

