-- ==== Sys2Proof/Laws/Access.lean ====
section
/-! SUPPORT. What accesses leave alone: translation, marks, conflicts, loads and stores (OwnKept of Safety.lean). -/

namespace Sys2Proof.Machine

variable {s t u : State} {c : CoreId} {k : SlotId}

theorem own_refl (s : State) (c : CoreId) (k : SlotId) : OwnKept s s c k := ⟨rfl, rfl, rfl, rfl, rfl, rfl, rfl⟩

theorem own_trans (h : OwnKept s t c k) (h' : OwnKept t u c k) : OwnKept s u c k := by
  obtain ⟨h1, h2, h3, h4, h5, h6, h7⟩ := h
  obtain ⟨k1, k2, k3, k4, k5, k6, k7⟩ := h'
  exact ⟨k1.trans h1, k2.trans h2, by rw [k3, h3], k4.trans h4, k5.trans h5, k6.trans h6, k7.trans h7⟩

/-- A state that keeps the agent, memory and the slot. -/
theorem own_of_slot (hc : t.cur = s.cur) (hm : t.mem = s.mem) (hs : t.slot c k = s.slot c k) : OwnKept s t c k :=
  ⟨hc, hm, by rw [hs], by rw [hs], by rw [hs], by rw [hs], by rw [hs]⟩

theorem own_setChunk (hc : s.cur = .slot c k) (x : Chunk) (h1 : x.wr = s.chunk.wr) (h2 : x.solo = s.chunk.solo)
    (h3 : x.len = s.chunk.len) (h4 : x.effects = s.chunk.effects) : OwnKept s (s.setChunk x) c k := by
  rw [chunk_slot s c k hc] at h1 h2 h3 h4
  rw [setChunk_slot s c k hc]
  refine ⟨rfl, rfl, ?_, ?_, ?_, ?_, ?_⟩ <;> simp [h1, h2, h3, h4]

theorem own_choose (s : State) (n : Nat) : OwnKept s (s.choose n).2 c k :=
  own_of_slot (by unfold State.choose; split <;> rfl) (by simp) (by simp)

theorem own_tlbAdd (s : State) (ps : List TlbPlace) (n : CtxId) (va : Word) (l : Leaf) : OwnKept s (s.tlbAdd ps n va l) c k :=
  own_of_slot rfl rfl rfl

theorem own_lookup (s : State) (n : CtxId) (root va : Word) : OwnKept s (s.lookup n root va).2 c k := by
  unfold State.lookup
  extract_lets hits
  split
  rename_i m s1 heq
  have h1 : OwnKept s s1 c k := by
    split_ifs at heq
    · cases heq; exact own_refl s c k
    · have := own_choose (c := c) (k := k) s (hits.length + 1); rw [heq] at this; exact this
  split
  · exact own_trans h1 (own_tlbAdd _ _ _ _ _)
  · split
    · dsimp only; split_ifs
      · exact h1
      · exact own_trans h1 (own_tlbAdd _ _ _ _ _)
    · exact h1

theorem own_noteTlb (hc : s.cur = .slot c k) (va : Word) (l : Leaf) : OwnKept s (s.noteTlb va l) c k :=
  own_setChunk hc _ rfl rfl rfl rfl

/-- Res.andThen that answers. -/
theorem andThen_ok {α β : Type} {r : Res α} {f : α → State → Res β} {y : β × State} (h : r.andThen f = .ok y) :
    ∃ x s', r = .ok (x, s') ∧ f x s' = .ok y := by
  unfold Res.andThen at h
  split at h
  · exact ⟨_, _, rfl, h⟩
  · cases h

/-- Where an access lies is found from the window, or by a lookup whose leaf is noted. -/
theorem locate_ok {va : Word} {n : Nat} {kd : Kind} {l : Loc} (h : s.locate va n kd = .ok (l, t)) :
    t = s ∨ ∃ lf, t = ((s.lookup s.curCtx s.curPtroot va).2).noteTlb va lf := by
  unfold State.locate at h
  obtain ⟨x, s1, h1, h⟩ := andThen_ok h
  simp only [Except.ok.injEq, Prod.mk.injEq] at h
  rw [← h.2]
  unfold State.locateLeaf at h1
  dsimp only at h1
  by_cases hw : (inWindow va && inWindow (va + BitVec.ofNat 64 (n - 1))) = true
  · rw [if_pos hw] at h1; cases h1; exact .inl rfl
  rw [if_neg hw] at h1
  by_cases hb : (inWindow va || inWindow (va + BitVec.ofNat 64 (n - 1)) || badVa va || badVa (va + BitVec.ofNat 64 (n - 1))) = true
  · rw [if_pos hb] at h1; cases h1
  · rw [if_neg hb] at h1
    generalize State.lookup s s.curCtx s.curPtroot va = x at h1 ⊢
    obtain ⟨⟨w, walked⟩, s2⟩ := x
    dsimp only at h1
    split at h1
    · cases h1
    · cases h1
    · split at h1
      · cases h1
      · cases h1
      · simp only [Except.ok.injEq, Prod.mk.injEq] at h1
        exact .inr ⟨_, h1.2.symm⟩

/-- Where an access lies is found without a change to the slot's own state. -/
theorem own_locate (hc : s.cur = .slot c k) {va : Word} {n : Nat} {kd : Kind} {l : Loc} (h : s.locate va n kd = .ok (l, t)) :
    OwnKept s t c k := by
  obtain rfl | ⟨lf, rfl⟩ := locate_ok h
  · exact own_refl _ c k
  · have h1 := own_lookup (c := c) (k := k) s s.curCtx s.curPtroot va
    exact own_trans h1 (own_noteTlb (by rw [h1.cur, hc]) va lf)

/-- The agent, committed memory and the slot are as before, and what the other slots' squashes never reach. -/
structure Kept (s t : State) (c : CoreId) (k : SlotId) : Prop where
  cur : t.cur = s.cur
  mem : t.mem = s.mem
  slot : t.slot c k = s.slot c k
  journals : t.journals = s.journals

theorem kept_refl (s : State) (c : CoreId) (k : SlotId) : Kept s s c k := ⟨rfl, rfl, rfl, rfl⟩
theorem kept_trans (h : Kept s t c k) (h' : Kept t u c k) : Kept s u c k :=
  ⟨h'.cur.trans h.cur, h'.mem.trans h.mem, h'.slot.trans h.slot, h'.journals.trans h.journals⟩
theorem own_kept (h : Kept s t c k) : OwnKept s t c k := own_of_slot h.cur h.mem h.slot

section squash

theorem kept_unreserve (s : State) (l : List Deferred) (c : CoreId) (k : SlotId) : Kept s (s.unreserve l) c k := by
  unfold State.unreserve
  induction l generalizing s with
  | nil => exact kept_refl s c k
  | cons d l ih =>
    rw [List.foldl_cons]
    refine kept_trans ?_ (ih _)
    cases d <;> exact ⟨rfl, rfl, rfl, rfl⟩

theorem kept_postEvent (s : State) (a : Agent) (i : Instr) : Kept s (s.postEvent a i) c k := ⟨by simp, by simp, by simp, by simp⟩
theorem kept_postTurn (s : State) (c' : CoreId) (k' : SlotId) : Kept s (s.postTurn c' k') c k := ⟨by simp, by simp, by simp, by simp⟩
theorem kept_postOnce (s : State) (a : Agent) (i : Instr) : Kept s (s.postOnce a i) c k := by
  unfold State.postOnce; split_ifs
  · exact kept_refl s c k
  · exact kept_postEvent s a i

theorem kept_withCaches (s u : State) : Kept s (s.withCaches u) c k := ⟨rfl, rfl, rfl, rfl⟩

theorem kept_dropSpeculative (s : State) (c' : CoreId) (l : List Chunk) : Kept s (s.dropSpeculative c' l) c k := kept_withCaches _ _

theorem kept_askToken (s : State) (r : Request) : Kept s (s.askToken r) c k := by
  unfold State.askToken; split_ifs
  · exact kept_refl s c k
  · exact kept_trans (t := { s with tokenQ := s.tokenQ ++ [r] }) ⟨rfl, rfl, rfl, rfl⟩ (kept_postEvent _ _ _)

theorem slot_core_undo (x : Core) (w : Chunk) : (x.undo w).slots = x.slots := by
  unfold Core.undo
  dsimp only
  generalize w.shadows = l
  have : ∀ (l : List Shadow) (y : Core), (l.foldl (fun x sh => { x with
    tiles := x.tiles.set sh.tile.toNat sh.old sh.tile.isLt
    mprog := x.mprog.set sh.tile.toNat sh.mprog sh.tile.isLt }) y).slots = y.slots := by
    intro l; induction l with
    | nil => intro y; rfl
    | cons a l ih => intro y; rw [List.foldl_cons, ih]
  rw [this]

/-- A squash of another slot leaves this one alone. -/
theorem kept_squashSlot (s : State) (c' : CoreId) (k' : SlotId) (whole : Bool) (h : (c', k') ≠ (c, k)) :
    Kept s (s.squashSlot c' k' whole) c k := by
  unfold State.squashSlot
  extract_lets y x eff n eff2 lost
  split
  rename_i x' chk waiting effects requests heq
  have hx : x'.slots = (s.core c').slots := by
    have h0 : x.slots = (s.core c').slots := slot_core_undo _ _
    revert heq
    split
    · split_ifs
      · intro e; simp only [Prod.mk.injEq] at e; rw [← e.1, slot_core_undo, h0]
      · intro e; simp only [Prod.mk.injEq] at e; rw [← e.1, h0]
      · intro e; simp only [Prod.mk.injEq] at e; rw [← e.1, h0]
    · intro e; simp only [Prod.mk.injEq] at e; rw [← e.1, h0]
  extract_lets y2 _ s0 s1 s2 s3
  have hck : ∀ (u : State) (y : Slot), Kept u (u.setSlot c' k' y) c k := fun u y => ⟨rfl, rfl, slot_setSlot_ne _ _ _ _ _ _ (fun e => h e.symm), rfl⟩
  have h0 : Kept s s0 c k := by
    refine kept_trans ?_ (kept_unreserve (s.setCore c' (x'.setSlot k' y2)) effects c k) |> fun h => ⟨h.cur, h.mem, h.slot, h.journals⟩
    refine ⟨rfl, rfl, ?_, rfl⟩
    by_cases hcc : c' = c
    · subst hcc
      simp only [State.slot, core_setCore_same, Core.setSlot, Core.slot, hx]
      rw [tab_look_put_ne _ _ _ _ _ (by intro e; exact h (by rw [BitVec.eq_of_toNat_eq e.symm]))]
    · simp only [State.slot]
      rw [core_setCore_ne _ _ _ _ (fun e => hcc e.symm)]
  have h1 : Kept s s1 c k := kept_trans h0 (kept_dropSpeculative _ _ _)
  have h2 : Kept s s2 c k := by
    show Kept s (if n = 8 then s1.askToken (.slot c' k') else s1) c k
    split_ifs
    · exact kept_trans h1 (kept_askToken _ _)
    · exact h1
  have h3 : Kept s s3 c k := by
    show Kept s (if n = 64 then s2.postEvent (.slot c' k') .livelockWatchdog else s2) c k
    split_ifs
    · exact kept_trans h2 (kept_postEvent _ _ _)
    · exact h2
  split_ifs
  · exact kept_trans h3 (kept_postTurn _ _ _)
  · exact kept_trans h3 (kept_trans (hck _ _) (kept_postOnce _ _ _))

/-- A conflict that the slot wins leaves its own state alone. -/
theorem own_contend (s : State) (test : Chunk → Bool) (h : (s.contend c k test).2 = true) : OwnKept s (s.contend c k test).1 c k := by
  unfold State.contend at h ⊢
  extract_lets mine rivals at h ⊢
  by_cases hr : (rivals.any fun r => s.older c r.1 k r.2.2 mine) = true
  · rw [if_pos hr] at h; cases h
  · rw [if_neg hr]
    have hk : ∀ r ∈ rivals, r.1 ≠ k := by
      intro r hr
      simp only [rivals, List.mem_filterMap] at hr
      obtain ⟨e, -, he⟩ := hr
      split_ifs at he with h0
      split at he
      · simp only [Option.some.injEq] at he; rw [← he]; exact h0
      · cases he
    clear hr h
    have all : ∀ (l : List (SlotId × Bool × Nat)), (∀ r ∈ l, r.1 ≠ k) → ∀ u,
        Kept u (l.foldl (fun s (k', whole, _) => s.squashSlot c k' whole) u) c k := by
      intro l
      induction l with
      | nil => intro _ u; exact kept_refl u c k
      | cons r l ih =>
        intro hl u
        rw [List.foldl_cons]
        exact kept_trans (kept_squashSlot u c r.1 r.2.1 (fun e => hl r (by simp) (Prod.ext_iff.1 e).2)) (ih (fun r hr => hl r (by simp [hr])) _)
    exact own_kept (all rivals hk s)

theorem kept_squashEngine (s : State) (e : EngineId) : Kept s (s.squashEngine e) c k := by
  unfold State.squashEngine
  extract_lets x n x2 y s2 s3 s4
  have h2 : Kept s s2 c k := ⟨rfl, rfl, rfl, rfl⟩
  have h3 : Kept s s3 c k := by
    show Kept s (if n = 8 then s2.askToken (.engine e) else s2) c k
    split_ifs
    · exact kept_trans h2 (kept_askToken _ _)
    · exact h2
  have h4 : Kept s s4 c k := by
    show Kept s (if n = 64 then s3.postEvent (.engine e) .engineWatchdog else s3) c k
    split_ifs
    · exact kept_trans h3 (kept_postEvent _ _ _)
    · exact h3
  refine kept_trans h4 ?_
  exact ⟨by simp, by simp, by simp [State.slot, State.core], by simp⟩

/-- A fold of steps that each keep the slot, as long as they may rely on the slot being the one they began with. -/
theorem kept_foldl {α : Type} (f : State → α → State) (l : List α) (s : State)
    (hf : ∀ u a, u.slot c k = s.slot c k → Kept u (f u a) c k) : Kept s (l.foldl f s) c k := by
  have : ∀ (l : List α) (u : State), u.slot c k = s.slot c k → Kept u (l.foldl f u) c k := by
    intro l
    induction l with
    | nil => intro u _; exact kept_refl u c k
    | cons a l ih =>
      intro u hu
      rw [List.foldl_cons]
      have h1 := hf u a hu
      exact kept_trans h1 (ih _ (h1.slot.trans hu))
  exact this l s rfl

/-- Squashing by a test that does not pick the slot's own chunks leaves it alone. -/
theorem kept_squashWhere (s : State) (test : CoreId → Chunk → Bool) (etest : Chunk → Bool) (pass : List Request)
    (h : .slot c k ∈ pass ∨ (s.slot c k).struck (test c) = none) : Kept s (s.squashWhere test etest pass) c k := by
  unfold State.squashWhere
  extract_lets s1
  have h1 : Kept s s1 c k := by
    refine kept_foldl _ _ s ?_
    intro u a hu
    obtain ⟨c', k'⟩ := a
    dsimp only
    by_cases hp : Request.slot c' k' ∈ pass
    · rw [if_pos hp]; exact kept_refl u c k
    · rw [if_neg hp]
      by_cases hck : (c', k') = (c, k)
      · obtain ⟨rfl, rfl⟩ := Prod.ext_iff.1 hck
        rcases h with h | h
        · exact absurd h hp
        · rw [hu, h]; exact kept_refl u c' k'
      · cases (u.slot c' k').struck (test c') with
        | none => exact kept_refl u c k
        | some w => exact kept_squashSlot u c' k' w hck
  refine kept_trans h1 (kept_foldl _ _ s1 ?_)
  intro u e _
  split_ifs
  · exact kept_refl u c k
  · exact kept_squashEngine u e
  · exact kept_refl u c k

theorem kept_wakeLines (s : State) (lines : List Nat) : Kept s (s.wakeLines lines) c k := by
  unfold State.wakeLines
  refine kept_foldl _ _ s ?_
  intro u a _
  obtain ⟨c', k'⟩ := a
  dsimp only
  split
  · split_ifs
    · exact kept_postOnce _ _ _
    · exact kept_refl u c k
  · split_ifs
    · exact kept_postOnce _ _ _
    · exact kept_refl u c k
  · exact kept_refl u c k

theorem kept_snoopHost (s : State) (lines : List Nat) : Kept s (s.snoopHost lines) c k := by
  unfold State.snoopHost
  extract_lets mine
  refine kept_trans (t := { s with host := { s.host with
    shared := s.host.shared.filter fun n => !mine.contains n, snooped := mine.foldl insertOnce s.host.snooped } }) ⟨rfl, rfl, rfl, rfl⟩ ?_
  exact kept_foldl _ _ _ fun u a _ => ⟨rfl, rfl, rfl, rfl⟩

/-- A list delivered leaves a slot alone whose chunks it does not hit. -/
theorem kept_deliver (s : State) (lines : List Nat) (keep : Option CoreId) (pass : List Request)
    (h : .slot c k ∈ pass ∨ (s.slot c k).struck (s.listHits lines c) = none) : Kept s (s.deliver lines keep pass) c k := by
  unfold State.deliver
  split_ifs
  · exact kept_refl s c k
  · exact kept_trans (kept_trans (kept_trans (kept_squashWhere s _ _ pass h) (kept_withCaches _ _)) (kept_wakeLines _ _)) (kept_snoopHost _ _)

/-- A write of committed memory from outside leaves a slot alone whose chunks its lines do not hit; a fenced stack takes no byte of it. -/
theorem commitWrite_ok (s : State) (pa : Nat) (bs : List Byte) (holder : Option CoreId)
    (h : (s.slot c k).struck ((s.commitBytes pa bs holder).listHits (linesOf pa bs.length) c) = none) :
    (s.commitWrite pa bs holder).cur = s.cur
      ∧ (s.commitWrite pa bs holder).mem = (if (s.stack (stackOf pa)).st = .fenced then s.mem else s.mem.setBytes pa bs)
      ∧ (s.commitWrite pa bs holder).slot c k = s.slot c k ∧ (s.commitWrite pa bs holder).journals = s.journals := by
  unfold State.commitWrite
  split_ifs
  · exact ⟨rfl, rfl, rfl, rfl⟩
  · have := kept_deliver (c := c) (k := k) (s.commitBytes pa bs holder) (linesOf pa bs.length) holder [] (.inr h)
    exact ⟨this.cur, this.mem, this.slot, this.journals⟩

end squash

theorem own_contendCur (hc : s.cur = .slot c k) {test : Chunk → Bool} {x : Unit} (h : s.contendCur test = .ok (x, t)) : OwnKept s t c k := by
  have e : s.contendCur test = if (s.contend c k test).2 then .ok ((), (s.contend c k test).1) else .error (.left (s.contend c k test).1) := by
    unfold State.contendCur; simp only [hc]
  rw [e] at h
  by_cases hw : (s.contend c k test).2 = true
  · rw [if_pos hw] at h
    simp only [Except.ok.injEq, Prod.mk.injEq, true_and] at h
    rw [← h]
    exact own_contend s test hw
  · rw [if_neg hw] at h; cases h

theorem own_reachMem {va : Word} {pa : Nat} {x : Unit} (h : s.reachMem va pa = .ok (x, t)) : t = s := by
  unfold State.reachMem at h
  split at h
  · extract_lets way at h
    split_ifs at h
    simpa using h.symm
  · cases h
  · cases h

/-- The bytes that an agent sees depend on its own chunks and committed memory only. -/
theorem seen_own (hc : s.cur = .slot c k) (h : OwnKept s t c k) (pa : Nat) : t.seenByte pa = s.seenByte pa := by
  have hc' : t.cur = .slot c k := by rw [h.cur, hc]
  unfold State.seenByte State.waitingBytes
  simp only [hc, hc', chunk_slot s c k hc, chunk_slot t c k hc', h.mem]
  rw [h.bytes.1, show (t.slot c k).waiting = (s.slot c k).waiting by rw [h.slot]]

theorem regs_own (hc : s.cur = .slot c k) (h : OwnKept s t c k) : t.regs = s.regs := by
  rw [regs_slot s c k hc, regs_slot t c k (by rw [h.cur, hc]), h.slot]

/-- Lines that pass through the caches change nothing else. -/
theorem cacheLines_eq (s : State) (l : List Nat) : ∃ u, s.cacheLines l = s.withCaches u := by
  unfold State.cacheLines
  split
  · exact ⟨_, rfl⟩
  · exact ⟨_, rfl⟩
  · exact ⟨s, rfl⟩

theorem own_cacheLines (s : State) (l : List Nat) : OwnKept s (s.cacheLines l) c k := by
  obtain ⟨u, hu⟩ := cacheLines_eq s l
  rw [hu]; exact own_of_slot rfl rfl rfl

theorem chunk_cacheLines (s : State) (l : List Nat) : (s.cacheLines l).chunk = s.chunk := by
  obtain ⟨u, hu⟩ := cacheLines_eq s l
  rw [hu]; rfl

theorem own_noteRead (hc : s.cur = .slot c k) (l : List Nat) : OwnKept s (s.noteRead l) c k := by
  have h := own_cacheLines (c := c) (k := k) s l
  refine own_trans h (own_setChunk (by rw [h.cur, hc]) _ ?_ ?_ ?_ ?_) <;> rw [chunk_cacheLines]

theorem own_noteWatched (hc : s.cur = .slot c k) (l : List Nat) : OwnKept s (s.noteWatched l) c k := by
  have h := own_cacheLines (c := c) (k := k) s l
  refine own_trans h (own_setChunk (by rw [h.cur, hc]) _ ?_ ?_ ?_ ?_) <;> rw [chunk_cacheLines]


/-- A read of local memory gives the bytes seen and keeps the slot's own state. -/
theorem readMem_ok (hc : s.cur = .slot c k) {va : Word} {pa n : Nat} {w : Bool} {bs : List Byte} (h : s.readMem va pa n w = .ok (bs, t)) :
    bs = (List.range n).map (fun j => s.seenByte (pa + j)) ∧ OwnKept s t c k := by
  unfold State.readMem at h
  extract_lets lines at h
  obtain ⟨_, s1, h1, h⟩ := andThen_ok h
  have e1 := own_reachMem h1
  rw [e1] at h
  clear e1 h1 s1
  by_cases ha : s.chunk.atomicOn lines = true
  · rw [if_pos ha] at h; cases h
  rw [if_neg ha] at h
  obtain ⟨_, s2, h2, h⟩ := andThen_ok h
  have o2 := own_contendCur hc h2
  have hc2 : s2.cur = .slot c k := by rw [o2.cur, hc]
  split at h
  · cases h
  · simp only [Except.ok.injEq, Prod.mk.injEq] at h
    obtain ⟨e, e'⟩ := h
    refine ⟨?_, ?_⟩
    · rw [← e]; exact List.map_congr_left fun j _ => seen_own hc o2 _
    · rw [← e']
      split_ifs
      · exact own_trans o2 (own_noteWatched hc2 _)
      · exact own_trans o2 (own_noteRead hc2 _)

/-- A held-back write of local memory: its bytes in the open chunk, nothing committed. -/
theorem writeMem_ok (hc : s.cur = .slot c k) (hs : s.chunk.solo = false) {va : Word} {pa : Nat} {bs : List Byte}
    (h : s.writeMem va pa bs = .ok ((), t)) :
    ∃ s1, OwnKept s s1 c k ∧ t.cur = s.cur ∧ t.mem = s.mem ∧ t.slot c k = { s.slot c k with chunk := t.chunk } ∧ t.chunk.wr = setSpecs s.chunk.wr pa bs
      ∧ t.chunk.solo = false := by
  unfold State.writeMem at h
  extract_lets lines at h
  obtain ⟨_, s1, h1, h⟩ := andThen_ok h
  have e1 := own_reachMem h1
  rw [e1] at h
  clear e1 h1 s1
  rw [if_neg (by rw [hs]; simp)] at h
  by_cases ha : s.chunk.atomicOn lines = true
  · rw [if_pos ha] at h; cases h
  rw [if_neg ha] at h
  by_cases hro : (!s.roomCur pa bs.length) = true
  · rw [if_pos hro] at h; cases h
  rw [if_neg hro] at h
  obtain ⟨_, s2, h2, h⟩ := andThen_ok h
  have o2 := own_contendCur hc h2
  have hc2 : s2.cur = .slot c k := by rw [o2.cur, hc]
  simp only [Except.ok.injEq, Prod.mk.injEq, true_and] at h
  have hch : s2.chunk.wr = s.chunk.wr ∧ s2.chunk.solo = s.chunk.solo := by
    rw [chunk_slot s2 c k hc2, chunk_slot s c k hc]; exact ⟨o2.bytes.1, o2.bytes.2.1⟩
  obtain ⟨u, hu⟩ := cacheLines_eq s2 lines
  rw [hu] at h
  have hcu : (s2.withCaches u).cur = .slot c k := hc2
  have ht : t.cur = .slot c k := by rw [← h, setChunk_slot _ c k hcu]; exact hc2
  have hsl : t.slot c k = { (s2.withCaches u).slot c k with chunk := t.chunk } := by
    rw [chunk_slot t c k ht, ← h, setChunk_slot _ c k hcu, slot_setSlot_same]
  refine ⟨s2, o2, ?_, ?_, ?_, ?_, ?_⟩
  · rw [ht, hc]
  · rw [← h, setChunk_slot _ c k hcu]; exact o2.mem
  · rw [hsl, show (s2.withCaches u).slot c k = s2.slot c k from rfl, o2.slot]
  · rw [chunk_slot t c k ht, ← h, setChunk_slot _ c k hcu, slot_setSlot_same]; simp only [hch.1]
  · rw [chunk_slot t c k ht, ← h, setChunk_slot _ c k hcu, slot_setSlot_same]; simp only [hch.2, hs]

/-- The states differ at most in the tape, the cached translations and the cores. -/
def Looked (s t : State) : Prop := t = { s with tape := t.tape, tlb := t.tlb, cores := t.cores }

theorem looked_trans (h : Looked s t) (h' : Looked t u) : Looked s u := by unfold Looked at *; rw [h', h]

theorem looked_choose (s : State) (n : Nat) : Looked s (s.choose n).2 := by unfold Looked State.choose; split <;> rfl

theorem looked_lookup (s : State) (n : CtxId) (root va : Word) : Looked s (s.lookup n root va).2 := by
  unfold State.lookup
  extract_lets hits
  split
  rename_i m s1 heq
  have h1 : Looked s s1 := by
    split_ifs at heq
    · cases heq; rfl
    · have := looked_choose s (hits.length + 1); rw [heq] at this; exact this
  split
  · exact looked_trans h1 rfl
  · split
    · dsimp only; split_ifs
      · exact h1
      · exact looked_trans h1 rfl
    · exact h1

/-- Finding where an access lies changes nothing but cached translations, choices used up and the slot's notes. -/
theorem looked_locate (hc : s.cur = .slot c k) {va : Word} {n : Nat} {kd : Kind} {l : Loc} (h : s.locate va n kd = .ok (l, t)) :
    Looked s t := by
  obtain rfl | ⟨lf, rfl⟩ := locate_ok h
  · rfl
  · have h1 := looked_lookup s s.curCtx s.curPtroot va
    have hc1 : ((s.lookup s.curCtx s.curPtroot va).2).cur = .slot c k := by rw [h1]; exact hc
    refine looked_trans h1 ?_
    unfold State.noteTlb
    dsimp only
    rw [setChunk_slot _ c k hc1]; rfl

/-- The same for an access that must lie in the package. -/
theorem looked_inside (hc : s.cur = .slot c k) {va : Word} {n : Nat} {kd : Kind} {l : Loc} (h : s.locateInside va n kd = .ok (l, t)) :
    Looked s t ∧ OwnKept s t c k := by
  unfold State.locateInside at h
  obtain ⟨l1, s1, h1, h⟩ := andThen_ok h
  have o := own_locate hc h1
  have o' := looked_locate hc h1
  cases l1 with
  | ls c' off => dsimp only at h; cases h; exact ⟨o', o⟩
  | mem pa =>
    dsimp only at h
    obtain ⟨_, s2, h2, h⟩ := andThen_ok h
    have := own_reachMem h2
    rw [this] at h
    cases h; exact ⟨o', o⟩
  | _ => dsimp only at h; cases h

end Sys2Proof.Machine
end

