-- ==== Sys2Proof/Laws/Arms.lean ====
section
/-! SUPPORT. Each arm of exec is its meaning. -/

namespace Sys2Proof.Machine

theorem arm_nop (f : Fields) (s : State) : exec (.nop f) s = execNop f s := rfl
theorem arm_bra (f : Fields) (s : State) : exec (.bra f) s = execBra f s := rfl
theorem arm_call (f : Fields) (s : State) : exec (.call f) s = execCall f s := rfl
theorem arm_jmp (f : Fields) (s : State) : exec (.jmp f) s = execJmp f s := rfl
theorem arm_callr (f : Fields) (s : State) : exec (.callr f) s = execCallr f s := rfl
theorem arm_ret (f : Fields) (s : State) : exec (.ret f) s = execRet f s := rfl
theorem arm_loopI (f : Fields) (s : State) : exec (.loopI f) s = execLoopI f s := rfl
theorem arm_loopx (f : Fields) (s : State) : exec (.loopx f) s = execLoopx f s := rfl
theorem arm_halt (f : Fields) (s : State) : exec (.halt f) s = execHalt f s := rfl
theorem arm_yield (f : Fields) (s : State) : exec (.yield f) s = execYield f s := rfl
theorem arm_cut (f : Fields) (s : State) : exec (.cut f) s = execCut f s := rfl
theorem arm_waitv (f : Fields) (s : State) : exec (.waitv f) s = execWaitv f s := rfl
theorem arm_waitd (f : Fields) (s : State) : exec (.waitd f) s = execWaitd f s := rfl
theorem arm_trapI (f : Fields) (s : State) : exec (.trapI f) s = execTrapI f s := rfl
theorem arm_syscall (f : Fields) (s : State) : exec (.syscall f) s = execSyscall f s := rfl
theorem arm_eret (f : Fields) (s : State) : exec (.eret f) s = execEret f s := rfl
theorem arm_csrr (f : Fields) (s : State) : exec (.csrr f) s = execCsrr f s := rfl
theorem arm_csrw (f : Fields) (s : State) : exec (.csrw f) s = execCsrw f s := rfl
theorem arm_csrxSwp (f : Fields) (s : State) : exec (.csrxSwp f) s = execCsrxSwp f s := rfl
theorem arm_csrxSet (f : Fields) (s : State) : exec (.csrxSet f) s = execCsrxSet f s := rfl
theorem arm_csrxClr (f : Fields) (s : State) : exec (.csrxClr f) s = execCsrxClr f s := rfl
theorem arm_iflush (f : Fields) (s : State) : exec (.iflush f) s = execIflush f s := rfl
theorem arm_barset (f : Fields) (s : State) : exec (.barset f) s = execBarset f s := rfl
theorem arm_bararr (f : Fields) (s : State) : exec (.bararr f) s = execBararr f s := rfl
theorem arm_barwait (f : Fields) (s : State) : exec (.barwait f) s = execBarwait f s := rfl
theorem arm_launch (f : Fields) (s : State) : exec (.launch f) s = execLaunch f s := rfl
theorem arm_preack (f : Fields) (s : State) : exec (.preack f) s = execPreack f s := rfl
theorem arm_probe (f : Fields) (s : State) : exec (.probe f) s = execProbe f s := rfl
theorem arm_add (f : Fields) (s : State) : exec (.add f) s = execAdd f s := rfl
theorem arm_sub (f : Fields) (s : State) : exec (.sub f) s = execSub f s := rfl
theorem arm_mul (f : Fields) (s : State) : exec (.mul f) s = execMul f s := rfl
theorem arm_mulh (f : Fields) (s : State) : exec (.mulh f) s = execMulh f s := rfl
theorem arm_div (f : Fields) (s : State) : exec (.div f) s = execDiv f s := rfl
theorem arm_rem (f : Fields) (s : State) : exec (.rem f) s = execRem f s := rfl
theorem arm_andI (f : Fields) (s : State) : exec (.andI f) s = execAndI f s := rfl
theorem arm_orI (f : Fields) (s : State) : exec (.orI f) s = execOrI f s := rfl
theorem arm_xorI (f : Fields) (s : State) : exec (.xorI f) s = execXorI f s := rfl
theorem arm_andn (f : Fields) (s : State) : exec (.andn f) s = execAndn f s := rfl
theorem arm_orn (f : Fields) (s : State) : exec (.orn f) s = execOrn f s := rfl
theorem arm_shl (f : Fields) (s : State) : exec (.shl f) s = execShl f s := rfl
theorem arm_shr (f : Fields) (s : State) : exec (.shr f) s = execShr f s := rfl
theorem arm_sar (f : Fields) (s : State) : exec (.sar f) s = execSar f s := rfl
theorem arm_rol (f : Fields) (s : State) : exec (.rol f) s = execRol f s := rfl
theorem arm_minI (f : Fields) (s : State) : exec (.minI f) s = execMinI f s := rfl
theorem arm_maxI (f : Fields) (s : State) : exec (.maxI f) s = execMaxI f s := rfl
theorem arm_absI (f : Fields) (s : State) : exec (.absI f) s = execAbsI f s := rfl
theorem arm_negI (f : Fields) (s : State) : exec (.negI f) s = execNegI f s := rfl
theorem arm_clz (f : Fields) (s : State) : exec (.clz f) s = execClz f s := rfl
theorem arm_ctz (f : Fields) (s : State) : exec (.ctz f) s = execCtz f s := rfl
theorem arm_popc (f : Fields) (s : State) : exec (.popc f) s = execPopc f s := rfl
theorem arm_brev (f : Fields) (s : State) : exec (.brev f) s = execBrev f s := rfl
theorem arm_bfx (f : Fields) (s : State) : exec (.bfx f) s = execBfx f s := rfl
theorem arm_bfi (f : Fields) (s : State) : exec (.bfi f) s = execBfi f s := rfl
theorem arm_ext (f : Fields) (s : State) : exec (.ext f) s = execExt f s := rfl
theorem arm_cmp (f : Fields) (s : State) : exec (.cmp f) s = execCmp f s := rfl
theorem arm_sel (f : Fields) (s : State) : exec (.sel f) s = execSel f s := rfl
theorem arm_mov (f : Fields) (s : State) : exec (.mov f) s = execMov f s := rfl
theorem arm_movi (f : Fields) (s : State) : exec (.movi f) s = execMovi f s := rfl
theorem arm_movh (f : Fields) (s : State) : exec (.movh f) s = execMovh f s := rfl
theorem arm_lea (f : Fields) (s : State) : exec (.lea f) s = execLea f s := rfl
theorem arm_plog (f : Fields) (s : State) : exec (.plog f) s = execPlog f s := rfl
theorem arm_pset (f : Fields) (s : State) : exec (.pset f) s = execPset f s := rfl
theorem arm_pget (f : Fields) (s : State) : exec (.pget f) s = execPget f s := rfl
theorem arm_pcnt (f : Fields) (s : State) : exec (.pcnt f) s = execPcnt f s := rfl
theorem arm_amov (f : Fields) (s : State) : exec (.amov f) s = execAmov f s := rfl
theorem arm_mulw (f : Fields) (s : State) : exec (.mulw f) s = execMulw f s := rfl
theorem arm_madd (f : Fields) (s : State) : exec (.madd f) s = execMadd f s := rfl
theorem arm_shlf (f : Fields) (s : State) : exec (.shlf f) s = execShlf f s := rfl
theorem arm_bswap (f : Fields) (s : State) : exec (.bswap f) s = execBswap f s := rfl
theorem arm_fadd (f : Fields) (s : State) : exec (.fadd f) s = execFadd f s := rfl
theorem arm_fsub (f : Fields) (s : State) : exec (.fsub f) s = execFsub f s := rfl
theorem arm_fmul (f : Fields) (s : State) : exec (.fmul f) s = execFmul f s := rfl
theorem arm_ffma (f : Fields) (s : State) : exec (.ffma f) s = execFfma f s := rfl
theorem arm_fdiv (f : Fields) (s : State) : exec (.fdiv f) s = execFdiv f s := rfl
theorem arm_fsqrt (f : Fields) (s : State) : exec (.fsqrt f) s = execFsqrt f s := rfl
theorem arm_fmin (f : Fields) (s : State) : exec (.fmin f) s = execFmin f s := rfl
theorem arm_fmax (f : Fields) (s : State) : exec (.fmax f) s = execFmax f s := rfl
theorem arm_fcmp (f : Fields) (s : State) : exec (.fcmp f) s = execFcmp f s := rfl
theorem arm_fcvt (f : Fields) (s : State) : exec (.fcvt f) s = execFcvt f s := rfl
theorem arm_fcvi (f : Fields) (s : State) : exec (.fcvi f) s = execFcvi f s := rfl
theorem arm_icvf (f : Fields) (s : State) : exec (.icvf f) s = execIcvf f s := rfl
theorem arm_fclass (f : Fields) (s : State) : exec (.fclass f) s = execFclass f s := rfl
theorem arm_fsgn (f : Fields) (s : State) : exec (.fsgn f) s = execFsgn f s := rfl
theorem arm_frnd (f : Fields) (s : State) : exec (.frnd f) s = execFrnd f s := rfl
theorem arm_fscale (f : Fields) (s : State) : exec (.fscale f) s = execFscale f s := rfl
theorem arm_ld (f : Fields) (s : State) : exec (.ld f) s = execLd f s := rfl
theorem arm_st (f : Fields) (s : State) : exec (.st f) s = execSt f s := rfl
theorem arm_lda (f : Fields) (s : State) : exec (.lda f) s = execLda f s := rfl
theorem arm_pref (f : Fields) (s : State) : exec (.pref f) s = execPref f s := rfl
theorem arm_lsr (f : Fields) (s : State) : exec (.lsr f) s = execLsr f s := rfl
theorem arm_lsw (f : Fields) (s : State) : exec (.lsw f) s = execLsw f s := rfl
theorem arm_lsadd (f : Fields) (s : State) : exec (.lsadd f) s = execLsadd f s := rfl
theorem arm_amsg (f : Fields) (s : State) : exec (.amsg f) s = execAmsg f s := rfl
theorem arm_aadd (f : Fields) (s : State) : exec (.aadd f) s = execAadd f s := rfl
theorem arm_aand (f : Fields) (s : State) : exec (.aand f) s = execAand f s := rfl
theorem arm_aor (f : Fields) (s : State) : exec (.aor f) s = execAor f s := rfl
theorem arm_axor (f : Fields) (s : State) : exec (.axor f) s = execAxor f s := rfl
theorem arm_amin (f : Fields) (s : State) : exec (.amin f) s = execAmin f s := rfl
theorem arm_amax (f : Fields) (s : State) : exec (.amax f) s = execAmax f s := rfl
theorem arm_axchg (f : Fields) (s : State) : exec (.axchg f) s = execAxchg f s := rfl
theorem arm_acas (f : Fields) (s : State) : exec (.acas f) s = execAcas f s := rfl
theorem arm_acas2 (f : Fields) (s : State) : exec (.acas2 f) s = execAcas2 f s := rfl
theorem arm_fence (f : Fields) (s : State) : exec (.fence f) s = execFence f s := rfl
theorem arm_fenceSys (f : Fields) (s : State) : exec (.fenceSys f) s = execFenceSys f s := rfl
theorem arm_cflush (f : Fields) (s : State) : exec (.cflush f) s = execCflush f s := rfl
theorem arm_cinv (f : Fields) (s : State) : exec (.cinv f) s = execCinv f s := rfl
theorem arm_cwb (f : Fields) (s : State) : exec (.cwb f) s = execCwb f s := rfl
theorem arm_ld2 (f : Fields) (s : State) : exec (.ld2 f) s = execLd2 f s := rfl
theorem arm_st2 (f : Fields) (s : State) : exec (.st2 f) s = execSt2 f s := rfl
theorem arm_vmov (f : Fields) (s : State) : exec (.vmov f) s = execVmov f s := rfl
theorem arm_vbcast (f : Fields) (s : State) : exec (.vbcast f) s = execVbcast f s := rfl
theorem arm_vadd (f : Fields) (s : State) : exec (.vadd f) s = execVadd f s := rfl
theorem arm_vsub (f : Fields) (s : State) : exec (.vsub f) s = execVsub f s := rfl
theorem arm_vmul (f : Fields) (s : State) : exec (.vmul f) s = execVmul f s := rfl
theorem arm_vfma (f : Fields) (s : State) : exec (.vfma f) s = execVfma f s := rfl
theorem arm_vmin (f : Fields) (s : State) : exec (.vmin f) s = execVmin f s := rfl
theorem arm_vmax (f : Fields) (s : State) : exec (.vmax f) s = execVmax f s := rfl
theorem arm_vabs (f : Fields) (s : State) : exec (.vabs f) s = execVabs f s := rfl
theorem arm_vneg (f : Fields) (s : State) : exec (.vneg f) s = execVneg f s := rfl
theorem arm_vand (f : Fields) (s : State) : exec (.vand f) s = execVand f s := rfl
theorem arm_vor (f : Fields) (s : State) : exec (.vor f) s = execVor f s := rfl
theorem arm_vxor (f : Fields) (s : State) : exec (.vxor f) s = execVxor f s := rfl
theorem arm_vshl (f : Fields) (s : State) : exec (.vshl f) s = execVshl f s := rfl
theorem arm_vshr (f : Fields) (s : State) : exec (.vshr f) s = execVshr f s := rfl
theorem arm_vsar (f : Fields) (s : State) : exec (.vsar f) s = execVsar f s := rfl
theorem arm_vcmp (f : Fields) (s : State) : exec (.vcmp f) s = execVcmp f s := rfl
theorem arm_vsel (f : Fields) (s : State) : exec (.vsel f) s = execVsel f s := rfl
theorem arm_vcvt (f : Fields) (s : State) : exec (.vcvt f) s = execVcvt f s := rfl
theorem arm_vshuf (f : Fields) (s : State) : exec (.vshuf f) s = execVshuf f s := rfl
theorem arm_vslide (f : Fields) (s : State) : exec (.vslide f) s = execVslide f s := rfl
theorem arm_vred (f : Fields) (s : State) : exec (.vred f) s = execVred f s := rfl
theorem arm_vld (f : Fields) (s : State) : exec (.vld f) s = execVld f s := rfl
theorem arm_vst (f : Fields) (s : State) : exec (.vst f) s = execVst f s := rfl
theorem arm_vgath (f : Fields) (s : State) : exec (.vgath f) s = execVgath f s := rfl
theorem arm_vscat (f : Fields) (s : State) : exec (.vscat f) s = execVscat f s := rfl
theorem arm_vdiv (f : Fields) (s : State) : exec (.vdiv f) s = execVdiv f s := rfl
theorem arm_vsqrt (f : Fields) (s : State) : exec (.vsqrt f) s = execVsqrt f s := rfl
theorem arm_vext (f : Fields) (s : State) : exec (.vext f) s = execVext f s := rfl
theorem arm_vins (f : Fields) (s : State) : exec (.vins f) s = execVins f s := rfl
theorem arm_viota (f : Fields) (s : State) : exec (.viota f) s = execViota f s := rfl
theorem arm_fset (f : Fields) (s : State) : exec (.fset f) s = execFset f s := rfl
theorem arm_fget (f : Fields) (s : State) : exec (.fget f) s = execFget f s := rfl
theorem arm_fadj (f : Fields) (s : State) : exec (.fadj f) s = execFadj f s := rfl
theorem arm_vplane (f : Fields) (s : State) : exec (.vplane f) s = execVplane f s := rfl
theorem arm_vunpl (f : Fields) (s : State) : exec (.vunpl f) s = execVunpl f s := rfl
theorem arm_sfx (f : Fields) (s : State) : exec (.sfx f) s = execSfx f s := rfl
theorem arm_rngx (f : Fields) (s : State) : exec (.rngx f) s = execRngx f s := rfl
theorem arm_rngf (f : Fields) (s : State) : exec (.rngf f) s = execRngf f s := rfl
theorem arm_vmulh (f : Fields) (s : State) : exec (.vmulh f) s = execVmulh f s := rfl
theorem arm_vpopc (f : Fields) (s : State) : exec (.vpopc f) s = execVpopc f s := rfl
theorem arm_vdot (f : Fields) (s : State) : exec (.vdot f) s = execVdot f s := rfl
theorem arm_vcomp (f : Fields) (s : State) : exec (.vcomp f) s = execVcomp f s := rfl
theorem arm_mzero (f : Fields) (s : State) : exec (.mzero f) s = execMzero f s := rfl
theorem arm_mma (f : Fields) (s : State) : exec (.mma f) s = execMma f s := rfl
theorem arm_mld (f : Fields) (s : State) : exec (.mld f) s = execMld f s := rfl
theorem arm_mst (f : Fields) (s : State) : exec (.mst f) s = execMst f s := rfl
theorem arm_mmov (f : Fields) (s : State) : exec (.mmov f) s = execMmov f s := rfl
theorem arm_xclr (f : Fields) (s : State) : exec (.xclr f) s = execXclr f s := rfl
theorem arm_xacc (f : Fields) (s : State) : exec (.xacc f) s = execXacc f s := rfl
theorem arm_xadd (f : Fields) (s : State) : exec (.xadd f) s = execXadd f s := rfl
theorem arm_xrnd (f : Fields) (s : State) : exec (.xrnd f) s = execXrnd f s := rfl
theorem arm_xget (f : Fields) (s : State) : exec (.xget f) s = execXget f s := rfl
theorem arm_mscl (f : Fields) (s : State) : exec (.mscl f) s = execMscl f s := rfl
theorem arm_capnew (f : Fields) (s : State) : exec (.capnew f) s = execCapnew f s := rfl
theorem arm_capsend (f : Fields) (s : State) : exec (.capsend f) s = execCapsend f s := rfl
theorem arm_caphead (f : Fields) (s : State) : exec (.caphead f) s = execCaphead f s := rfl
theorem arm_cappush (f : Fields) (s : State) : exec (.cappush f) s = execCappush f s := rfl
theorem arm_cappop (f : Fields) (s : State) : exec (.cappop f) s = execCappop f s := rfl
theorem arm_capset (f : Fields) (s : State) : exec (.capset f) s = execCapset f s := rfl
theorem arm_capsplit (f : Fields) (s : State) : exec (.capsplit f) s = execCapsplit f s := rfl
theorem arm_capend (f : Fields) (s : State) : exec (.capend f) s = execCapend f s := rfl
theorem arm_capnext (f : Fields) (s : State) : exec (.capnext f) s = execCapnext f s := rfl
theorem arm_capplace (f : Fields) (s : State) : exec (.capplace f) s = execCapplace f s := rfl
theorem arm_capinj (f : Fields) (s : State) : exec (.capinj f) s = execCapinj f s := rfl
theorem arm_capget (f : Fields) (s : State) : exec (.capget f) s = execCapget f s := rfl
theorem arm_capkey (f : Fields) (s : State) : exec (.capkey f) s = execCapkey f s := rfl
theorem arm_xcopy (f : Fields) (s : State) : exec (.xcopy f) s = execXcopy f s := rfl
theorem arm_xfill (f : Fields) (s : State) : exec (.xfill f) s = execXfill f s := rfl
theorem arm_xgath (f : Fields) (s : State) : exec (.xgath f) s = execXgath f s := rfl
theorem arm_xscat (f : Fields) (s : State) : exec (.xscat f) s = execXscat f s := rfl
theorem arm_xcmpr (f : Fields) (s : State) : exec (.xcmpr f) s = execXcmpr f s := rfl
theorem arm_xdcmp (f : Fields) (s : State) : exec (.xdcmp f) s = execXdcmp f s := rfl
theorem arm_hartXcopy (f : Fields) (s : State) : exec (.hartXcopy f) s = execHartXcopy f s := rfl
theorem arm_hartXfill (f : Fields) (s : State) : exec (.hartXfill f) s = execHartXfill f s := rfl
theorem arm_hartXcmpr (f : Fields) (s : State) : exec (.hartXcmpr f) s = execHartXcmpr f s := rfl
theorem arm_hartXdcmp (f : Fields) (s : State) : exec (.hartXdcmp f) s = execHartXdcmp f s := rfl
theorem arm_hartHalt (f : Fields) (s : State) : exec (.hartHalt f) s = execHartHalt f s := rfl
theorem arm_arrset (f : Fields) (s : State) : exec (.arrset f) s = execArrset f s := rfl
theorem arm_await (f : Fields) (s : State) : exec (.await f) s = execAwait f s := rfl
theorem arm_equery (f : Fields) (s : State) : exec (.equery f) s = execEquery f s := rfl
theorem arm_eload (f : Fields) (s : State) : exec (.eload f) s = execEload f s := rfl
theorem arm_tlbinvVa (f : Fields) (s : State) : exec (.tlbinvVa f) s = execTlbinvVa f s := rfl
theorem arm_tlbinvCtx (f : Fields) (s : State) : exec (.tlbinvCtx f) s = execTlbinvCtx f s := rfl
theorem arm_tlbinvAll (f : Fields) (s : State) : exec (.tlbinvAll f) s = execTlbinvAll f s := rfl
theorem arm_decant (f : Fields) (s : State) : exec (.decant f) s = execDecant f s := rfl
theorem arm_stkq (f : Fields) (s : State) : exec (.stkq f) s = execStkq f s := rfl
theorem arm_slotctlRd (f : Fields) (s : State) : exec (.slotctlRd f) s = execSlotctlRd f s := rfl
theorem arm_slotctlStop (f : Fields) (s : State) : exec (.slotctlStop f) s = execSlotctlStop f s := rfl
theorem arm_hostint (f : Fields) (s : State) : exec (.hostint f) s = execHostint f s := rfl
theorem arm_ckptqTest (f : Fields) (s : State) : exec (.ckptqTest f) s = execCkptqTest f s := rfl
theorem arm_ckptqTake (f : Fields) (s : State) : exec (.ckptqTake f) s = execCkptqTake f s := rfl
theorem arm_jrnlOff (f : Fields) (s : State) : exec (.jrnlOff f) s = execJrnlOff f s := rfl
theorem arm_jrnlRec (f : Fields) (s : State) : exec (.jrnlRec f) s = execJrnlRec f s := rfl
theorem arm_jrnlRpl (f : Fields) (s : State) : exec (.jrnlRpl f) s = execJrnlRpl f s := rfl
theorem arm_jrnlStat (f : Fields) (s : State) : exec (.jrnlStat f) s = execJrnlStat f s := rfl
theorem arm_faultqPop (f : Fields) (s : State) : exec (.faultqPop f) s = execFaultqPop f s := rfl
theorem arm_faultqCnt (f : Fields) (s : State) : exec (.faultqCnt f) s = execFaultqCnt f s := rfl
theorem arm_resume (f : Fields) (s : State) : exec (.resume f) s = execResume f s := rfl
theorem arm_resumeFail (f : Fields) (s : State) : exec (.resumeFail f) s = execResumeFail f s := rfl
theorem arm_queueTailDoorbell (tail : BitVec 32) (s : State) : exec (.queueTailDoorbell tail) s = execQueueTailDoorbell tail s := rfl
theorem arm_slotTableWrite (entry : BitVec 128) (s : State) : exec (.slotTableWrite entry) s = execSlotTableWrite entry s := rfl
theorem arm_barrierRowToken (b : BitVec 3) (shape : BitVec 6) (s : State) : exec (.barrierRowToken b shape) s = execBarrierRowToken b shape s := rfl
theorem arm_barrierColumnToken (b : BitVec 3) (shape : BitVec 6) (s : State) : exec (.barrierColumnToken b shape) s = execBarrierColumnToken b shape s := rfl
theorem arm_barrierReleaseToken (b : BitVec 3) (shape : BitVec 6) (s : State) : exec (.barrierReleaseToken b shape) s = execBarrierReleaseToken b shape s := rfl
theorem arm_pkgBarrierArrivalMsg (group : BitVec 16) (b : BitVec 3) (gen : BitVec 8) (s : State) : exec (.pkgBarrierArrivalMsg group b gen) s = execPkgBarrierArrivalMsg group b gen s := rfl
theorem arm_pkgBarrierReleaseMsg (group : BitVec 16) (b : BitVec 3) (gen : BitVec 8) (s : State) : exec (.pkgBarrierReleaseMsg group b gen) s = execPkgBarrierReleaseMsg group b gen s := rfl
theorem arm_postedWriteCompletion (status : BitVec 3) (s : State) : exec (.postedWriteCompletion status) s = execPostedWriteCompletion status s := rfl
theorem arm_ldaDataReturn (g : BitVec 5) (s : State) : exec (.ldaDataReturn g) s = execLdaDataReturn g s := rfl
theorem arm_capsuleSpillTimeout (id : Nat) (s : State) : exec (.capsuleSpillTimeout id) s = execCapsuleSpillTimeout id s := rfl
theorem arm_softErrorUncorrectable (place : ErrorPlace) (s : State) : exec (.softErrorUncorrectable place) s = execSoftErrorUncorrectable place s := rfl
theorem arm_deadDieTimeout (sender : TowerId) (s : State) : exec (.deadDieTimeout sender) s = execDeadDieTimeout sender s := rfl
theorem arm_hostMemoryAccess (write : Bool) (pa : BitVec 40) (len : Nat) (data : List Byte) (s : State) : exec (.hostMemoryAccess write pa len data) s = execHostMemoryAccess write pa len data s := rfl
theorem arm_hostSnoop (hpa : BitVec 49) (data : List Byte) (s : State) : exec (.hostSnoop hpa data) s = execHostSnoop hpa data s := rfl
theorem arm_msixPendingSend (v : BitVec 11) (s : State) : exec (.msixPendingSend v) s = execMsixPendingSend v s := rfl
theorem arm_ouvkenFlitReceive (flit : Flit) (s : State) : exec (.ouvkenFlitReceive flit) s = execOuvkenFlitReceive flit s := rfl
theorem arm_peerAccessRequest (src : BitVec 8) (pa : BitVec 40) (op : PeerOp) (s : State) : exec (.peerAccessRequest src pa op) s = execPeerAccessRequest src pa op s := rfl
theorem arm_diepartWrite (x : Word) (s : State) : exec (.diepartWrite x) s = execDiepartWrite x s := rfl
theorem arm_alarmWrite (byHost : Bool) (x : Word) (s : State) : exec (.alarmWrite byHost x) s = execAlarmWrite byHost x s := rfl
theorem arm_monstatWrite (byHost : Bool) (hi : Bool) (x : Word) (s : State) : exec (.monstatWrite byHost hi x) s = execMonstatWrite byHost hi x s := rfl
theorem arm_registerWrite (byHost : Bool) (off : BitVec 28) (x : Word) (s : State) : exec (.registerWrite byHost off x) s = execRegisterWrite byHost off x s := rfl
theorem arm_securityAlarm (cause : BitVec 2) (s : State) : exec (.securityAlarm cause) s = execSecurityAlarm cause s := rfl
theorem arm_getCertificate (off : Nat) (len : Nat) (s : State) : exec (.getCertificate off len) s = execGetCertificate off len s := rfl
theorem arm_challenge (nonce : BitVec 256) (s : State) : exec (.challenge nonce) s = execChallenge nonce s := rfl
theorem arm_getMeasurements (index : BitVec 8) (s : State) : exec (.getMeasurements index) s = execGetMeasurements index s := rfl
theorem arm_unassignedOpcode (w : BitVec 96) (s : State) : exec (.unassignedOpcode w) s = execUnassignedOpcode w s := rfl
theorem arm_cmdNop (s : State) : exec .cmdNop s = execCmdNop s := rfl
theorem arm_cmdLaunch (s : State) : exec .cmdLaunch s = execCmdLaunch s := rfl
theorem arm_cmdWait (s : State) : exec .cmdWait s = execCmdWait s := rfl
theorem arm_cmdSignal (s : State) : exec .cmdSignal s = execCmdSignal s := rfl
theorem arm_cmdBadOperation (s : State) : exec .cmdBadOperation s = execCmdBadOperation s := rfl
theorem arm_launchPlacement (s : State) : exec .launchPlacement s = execLaunchPlacement s := rfl
theorem arm_gangPlacement (s : State) : exec .gangPlacement s = execGangPlacement s := rfl
theorem arm_rebindByWeight (s : State) : exec .rebindByWeight s = execRebindByWeight s := rfl
theorem arm_slotDispatch (s : State) : exec .slotDispatch s = execSlotDispatch s := rfl
theorem arm_launchCompletion (s : State) : exec .launchCompletion s = execLaunchCompletion s := rfl
theorem arm_commitGrant (s : State) : exec .commitGrant s = execCommitGrant s := rfl
theorem arm_priorityTokenGrant (s : State) : exec .priorityTokenGrant s = execPriorityTokenGrant s := rfl
theorem arm_livelockWatchdog (s : State) : exec .livelockWatchdog s = execLivelockWatchdog s := rfl
theorem arm_trapEntry (s : State) : exec .trapEntry s = execTrapEntry s := rfl
theorem arm_edgeAccess (s : State) : exec .edgeAccess s = execEdgeAccess s := rfl
theorem arm_soloStep (s : State) : exec .soloStep s = execSoloStep s := rfl
theorem arm_edgeCompletionTimeout (s : State) : exec .edgeCompletionTimeout s = execEdgeCompletionTimeout s := rfl
theorem arm_waitvWake (s : State) : exec .waitvWake s = execWaitvWake s := rfl
theorem arm_waitvTimeout (s : State) : exec .waitvTimeout s = execWaitvTimeout s := rfl
theorem arm_awaitWake (s : State) : exec .awaitWake s = execAwaitWake s := rfl
theorem arm_yieldExpiry (s : State) : exec .yieldExpiry s = execYieldExpiry s := rfl
theorem arm_capsuleArrival (s : State) : exec .capsuleArrival s = execCapsuleArrival s := rfl
theorem arm_bayRefill (s : State) : exec .bayRefill s = execBayRefill s := rfl
theorem arm_capsuleVisitStart (s : State) : exec .capsuleVisitStart s = execCapsuleVisitStart s := rfl
theorem arm_capsuleVisitStrand (s : State) : exec .capsuleVisitStrand s = execCapsuleVisitStrand s := rfl
theorem arm_activeMessageArrival (s : State) : exec .activeMessageArrival s = execActiveMessageArrival s := rfl
theorem arm_messageHandlerStart (s : State) : exec .messageHandlerStart s = execMessageHandlerStart s := rfl
theorem arm_lsrRequestService (s : State) : exec .lsrRequestService s = execLsrRequestService s := rfl
theorem arm_faultRecordDeferredWrite (s : State) : exec .faultRecordDeferredWrite s = execFaultRecordDeferredWrite s := rfl
theorem arm_rangeFlushWalk (s : State) : exec .rangeFlushWalk s = execRangeFlushWalk s := rfl
theorem arm_tlbInvalidationComplete (s : State) : exec .tlbInvalidationComplete s = execTlbInvalidationComplete s := rfl
theorem arm_engineCommandStart (s : State) : exec .engineCommandStart s = execEngineCommandStart s := rfl
theorem arm_engineWatchdog (s : State) : exec .engineWatchdog s = execEngineWatchdog s := rfl
theorem arm_eloadRegionLoad (s : State) : exec .eloadRegionLoad s = execEloadRegionLoad s := rfl
theorem arm_preemption (s : State) : exec .preemption s = execPreemption s := rfl
theorem arm_preemptionTimeout (s : State) : exec .preemptionTimeout s = execPreemptionTimeout s := rfl
theorem arm_contextResume (s : State) : exec .contextResume s = execContextResume s := rfl
theorem arm_softErrorCorrected (s : State) : exec .softErrorCorrected s = execSoftErrorCorrected s := rfl
theorem arm_decantDrain (s : State) : exec .decantDrain s = execDecantDrain s := rfl
theorem arm_decantWriteTimeout (s : State) : exec .decantWriteTimeout s = execDecantWriteTimeout s := rfl
theorem arm_decantClaimTimeout (s : State) : exec .decantClaimTimeout s = execDecantClaimTimeout s := rfl
theorem arm_linkSleep (s : State) : exec .linkSleep s = execLinkSleep s := rfl
theorem arm_linkWake (s : State) : exec .linkWake s = execLinkWake s := rfl
theorem arm_linkWakeRetry (s : State) : exec .linkWakeRetry s = execLinkWakeRetry s := rfl
theorem arm_retentionSleepEntry (s : State) : exec .retentionSleepEntry s = execRetentionSleepEntry s := rfl
theorem arm_retentionWake (s : State) : exec .retentionWake s = execRetentionWake s := rfl
theorem arm_hdmBackInvalidateTimeout (s : State) : exec .hdmBackInvalidateTimeout s = execHdmBackInvalidateTimeout s := rfl
theorem arm_ouvkenPortDown (s : State) : exec .ouvkenPortDown s = execOuvkenPortDown s := rfl
theorem arm_peerResponseTimeout (s : State) : exec .peerResponseTimeout s = execPeerResponseTimeout s := rfl
theorem arm_powerGood (s : State) : exec .powerGood s = execPowerGood s := rfl
theorem arm_packageReset (s : State) : exec .packageReset s = execPackageReset s := rfl
theorem arm_railCurrentClamp (s : State) : exec .railCurrentClamp s = execRailCurrentClamp s := rfl
theorem arm_thermalThrottle (s : State) : exec .thermalThrottle s = execThermalThrottle s := rfl
theorem arm_thermalTrip (s : State) : exec .thermalTrip s = execThermalTrip s := rfl
theorem arm_getVersion (s : State) : exec .getVersion s = execGetVersion s := rfl
theorem arm_getCapabilities (s : State) : exec .getCapabilities s = execGetCapabilities s := rfl
theorem arm_negotiateAlgorithms (s : State) : exec .negotiateAlgorithms s = execNegotiateAlgorithms s := rfl
theorem arm_getDigests (s : State) : exec .getDigests s = execGetDigests s := rfl
theorem arm_hostPortLinkDown (s : State) : exec .hostPortLinkDown s = execHostPortLinkDown s := rfl
theorem arm_monstatVminRead (s : State) : exec .monstatVminRead s = execMonstatVminRead s := rfl
theorem arm_memoryFirewallBlock (s : State) : exec .memoryFirewallBlock s = execMemoryFirewallBlock s := rfl

end Sys2Proof.Machine
end

