-- ==== Sys2Proof/Laws/PerInstr.lean ====
section
/-! SUPPORT. Each instruction is read back from its opcode and its fields (03_encoding_and_opcode_map.md R66, R71, R84): a statement of the instruction as syntax, one lemma per constructor. -/

/-- The decoder's choice among the rows of an opcode gives the instruction back from its own opcode and fields, on the kind of agent that runs it. -/
def Sys2Proof.Laws.ReadsBack.Statement (i : Sys2Proof.Instr) : Prop :=
  ∀ (opc : Nat) (f : Sys2Proof.Fields), i.head = some (opc, f) → i.modAgrees = true →
    (if i.hartOnly then Sys2Proof.ofOpcodeHart opc f else Sys2Proof.ofOpcode opc f) = some i

namespace Sys2Proof

theorem Laws.ReadsBack.nop (f : Fields) : Laws.ReadsBack.Statement (.nop f) := by intro opc f h _; cases h; rfl
theorem Laws.ReadsBack.bra (f : Fields) : Laws.ReadsBack.Statement (.bra f) := by intro opc f h _; cases h; rfl
theorem Laws.ReadsBack.call (f : Fields) : Laws.ReadsBack.Statement (.call f) := by intro opc f h _; cases h; rfl
theorem Laws.ReadsBack.jmp (f : Fields) : Laws.ReadsBack.Statement (.jmp f) := by intro opc f h _; cases h; rfl
theorem Laws.ReadsBack.callr (f : Fields) : Laws.ReadsBack.Statement (.callr f) := by intro opc f h _; cases h; rfl
theorem Laws.ReadsBack.ret (f : Fields) : Laws.ReadsBack.Statement (.ret f) := by intro opc f h _; cases h; rfl
theorem Laws.ReadsBack.loopI (f : Fields) : Laws.ReadsBack.Statement (.loopI f) := by intro opc f h _; cases h; rfl
theorem Laws.ReadsBack.loopx (f : Fields) : Laws.ReadsBack.Statement (.loopx f) := by intro opc f h _; cases h; rfl
theorem Laws.ReadsBack.halt (f : Fields) : Laws.ReadsBack.Statement (.halt f) := by intro opc f h _; cases h; rfl
theorem Laws.ReadsBack.yield (f : Fields) : Laws.ReadsBack.Statement (.yield f) := by intro opc f h _; cases h; rfl
theorem Laws.ReadsBack.cut (f : Fields) : Laws.ReadsBack.Statement (.cut f) := by intro opc f h _; cases h; rfl
theorem Laws.ReadsBack.waitv (f : Fields) : Laws.ReadsBack.Statement (.waitv f) := by intro opc f h _; cases h; rfl
theorem Laws.ReadsBack.waitd (f : Fields) : Laws.ReadsBack.Statement (.waitd f) := by intro opc f h _; cases h; rfl
theorem Laws.ReadsBack.trapI (f : Fields) : Laws.ReadsBack.Statement (.trapI f) := by intro opc f h _; cases h; rfl
theorem Laws.ReadsBack.syscall (f : Fields) : Laws.ReadsBack.Statement (.syscall f) := by intro opc f h _; cases h; rfl
theorem Laws.ReadsBack.eret (f : Fields) : Laws.ReadsBack.Statement (.eret f) := by intro opc f h _; cases h; rfl
theorem Laws.ReadsBack.csrr (f : Fields) : Laws.ReadsBack.Statement (.csrr f) := by intro opc f h _; cases h; rfl
theorem Laws.ReadsBack.csrw (f : Fields) : Laws.ReadsBack.Statement (.csrw f) := by intro opc f h _; cases h; rfl
theorem Laws.ReadsBack.csrxSwp (f : Fields) : Laws.ReadsBack.Statement (.csrxSwp f) := by intro opc f h m; cases h; replace m := eq_of_beq m; exact (if_neg Bool.false_ne_true).trans (if_pos m)
theorem Laws.ReadsBack.csrxSet (f : Fields) : Laws.ReadsBack.Statement (.csrxSet f) := by intro opc f h m; cases h; replace m := eq_of_beq m; exact (if_neg Bool.false_ne_true).trans ((if_neg (by rw [m]; decide : ¬ f.mod = 0)).trans (if_pos m))
theorem Laws.ReadsBack.csrxClr (f : Fields) : Laws.ReadsBack.Statement (.csrxClr f) := by intro opc f h m; cases h; replace m := eq_of_beq m; exact (if_neg Bool.false_ne_true).trans ((if_neg (by rw [m]; decide : ¬ f.mod = 0)).trans ((if_neg (by rw [m]; decide : ¬ f.mod = 1)).trans (if_pos m)))
theorem Laws.ReadsBack.iflush (f : Fields) : Laws.ReadsBack.Statement (.iflush f) := by intro opc f h _; cases h; rfl
theorem Laws.ReadsBack.barset (f : Fields) : Laws.ReadsBack.Statement (.barset f) := by intro opc f h _; cases h; rfl
theorem Laws.ReadsBack.bararr (f : Fields) : Laws.ReadsBack.Statement (.bararr f) := by intro opc f h _; cases h; rfl
theorem Laws.ReadsBack.barwait (f : Fields) : Laws.ReadsBack.Statement (.barwait f) := by intro opc f h _; cases h; rfl
theorem Laws.ReadsBack.launch (f : Fields) : Laws.ReadsBack.Statement (.launch f) := by intro opc f h _; cases h; rfl
theorem Laws.ReadsBack.preack (f : Fields) : Laws.ReadsBack.Statement (.preack f) := by intro opc f h _; cases h; rfl
theorem Laws.ReadsBack.probe (f : Fields) : Laws.ReadsBack.Statement (.probe f) := by intro opc f h _; cases h; rfl
theorem Laws.ReadsBack.add (f : Fields) : Laws.ReadsBack.Statement (.add f) := by intro opc f h _; cases h; rfl
theorem Laws.ReadsBack.sub (f : Fields) : Laws.ReadsBack.Statement (.sub f) := by intro opc f h _; cases h; rfl
theorem Laws.ReadsBack.mul (f : Fields) : Laws.ReadsBack.Statement (.mul f) := by intro opc f h _; cases h; rfl
theorem Laws.ReadsBack.mulh (f : Fields) : Laws.ReadsBack.Statement (.mulh f) := by intro opc f h _; cases h; rfl
theorem Laws.ReadsBack.div (f : Fields) : Laws.ReadsBack.Statement (.div f) := by intro opc f h _; cases h; rfl
theorem Laws.ReadsBack.rem (f : Fields) : Laws.ReadsBack.Statement (.rem f) := by intro opc f h _; cases h; rfl
theorem Laws.ReadsBack.andI (f : Fields) : Laws.ReadsBack.Statement (.andI f) := by intro opc f h _; cases h; rfl
theorem Laws.ReadsBack.orI (f : Fields) : Laws.ReadsBack.Statement (.orI f) := by intro opc f h _; cases h; rfl
theorem Laws.ReadsBack.xorI (f : Fields) : Laws.ReadsBack.Statement (.xorI f) := by intro opc f h _; cases h; rfl
theorem Laws.ReadsBack.andn (f : Fields) : Laws.ReadsBack.Statement (.andn f) := by intro opc f h _; cases h; rfl
theorem Laws.ReadsBack.orn (f : Fields) : Laws.ReadsBack.Statement (.orn f) := by intro opc f h _; cases h; rfl
theorem Laws.ReadsBack.shl (f : Fields) : Laws.ReadsBack.Statement (.shl f) := by intro opc f h _; cases h; rfl
theorem Laws.ReadsBack.shr (f : Fields) : Laws.ReadsBack.Statement (.shr f) := by intro opc f h _; cases h; rfl
theorem Laws.ReadsBack.sar (f : Fields) : Laws.ReadsBack.Statement (.sar f) := by intro opc f h _; cases h; rfl
theorem Laws.ReadsBack.rol (f : Fields) : Laws.ReadsBack.Statement (.rol f) := by intro opc f h _; cases h; rfl
theorem Laws.ReadsBack.minI (f : Fields) : Laws.ReadsBack.Statement (.minI f) := by intro opc f h _; cases h; rfl
theorem Laws.ReadsBack.maxI (f : Fields) : Laws.ReadsBack.Statement (.maxI f) := by intro opc f h _; cases h; rfl
theorem Laws.ReadsBack.absI (f : Fields) : Laws.ReadsBack.Statement (.absI f) := by intro opc f h _; cases h; rfl
theorem Laws.ReadsBack.negI (f : Fields) : Laws.ReadsBack.Statement (.negI f) := by intro opc f h _; cases h; rfl
theorem Laws.ReadsBack.clz (f : Fields) : Laws.ReadsBack.Statement (.clz f) := by intro opc f h _; cases h; rfl
theorem Laws.ReadsBack.ctz (f : Fields) : Laws.ReadsBack.Statement (.ctz f) := by intro opc f h _; cases h; rfl
theorem Laws.ReadsBack.popc (f : Fields) : Laws.ReadsBack.Statement (.popc f) := by intro opc f h _; cases h; rfl
theorem Laws.ReadsBack.brev (f : Fields) : Laws.ReadsBack.Statement (.brev f) := by intro opc f h _; cases h; rfl
theorem Laws.ReadsBack.bfx (f : Fields) : Laws.ReadsBack.Statement (.bfx f) := by intro opc f h _; cases h; rfl
theorem Laws.ReadsBack.bfi (f : Fields) : Laws.ReadsBack.Statement (.bfi f) := by intro opc f h _; cases h; rfl
theorem Laws.ReadsBack.ext (f : Fields) : Laws.ReadsBack.Statement (.ext f) := by intro opc f h _; cases h; rfl
theorem Laws.ReadsBack.cmp (f : Fields) : Laws.ReadsBack.Statement (.cmp f) := by intro opc f h _; cases h; rfl
theorem Laws.ReadsBack.sel (f : Fields) : Laws.ReadsBack.Statement (.sel f) := by intro opc f h _; cases h; rfl
theorem Laws.ReadsBack.mov (f : Fields) : Laws.ReadsBack.Statement (.mov f) := by intro opc f h _; cases h; rfl
theorem Laws.ReadsBack.movi (f : Fields) : Laws.ReadsBack.Statement (.movi f) := by intro opc f h _; cases h; rfl
theorem Laws.ReadsBack.movh (f : Fields) : Laws.ReadsBack.Statement (.movh f) := by intro opc f h _; cases h; rfl
theorem Laws.ReadsBack.lea (f : Fields) : Laws.ReadsBack.Statement (.lea f) := by intro opc f h _; cases h; rfl
theorem Laws.ReadsBack.plog (f : Fields) : Laws.ReadsBack.Statement (.plog f) := by intro opc f h _; cases h; rfl
theorem Laws.ReadsBack.pset (f : Fields) : Laws.ReadsBack.Statement (.pset f) := by intro opc f h _; cases h; rfl
theorem Laws.ReadsBack.pget (f : Fields) : Laws.ReadsBack.Statement (.pget f) := by intro opc f h _; cases h; rfl
theorem Laws.ReadsBack.pcnt (f : Fields) : Laws.ReadsBack.Statement (.pcnt f) := by intro opc f h _; cases h; rfl
theorem Laws.ReadsBack.amov (f : Fields) : Laws.ReadsBack.Statement (.amov f) := by intro opc f h _; cases h; rfl
theorem Laws.ReadsBack.mulw (f : Fields) : Laws.ReadsBack.Statement (.mulw f) := by intro opc f h _; cases h; rfl
theorem Laws.ReadsBack.madd (f : Fields) : Laws.ReadsBack.Statement (.madd f) := by intro opc f h _; cases h; rfl
theorem Laws.ReadsBack.shlf (f : Fields) : Laws.ReadsBack.Statement (.shlf f) := by intro opc f h _; cases h; rfl
theorem Laws.ReadsBack.bswap (f : Fields) : Laws.ReadsBack.Statement (.bswap f) := by intro opc f h _; cases h; rfl
theorem Laws.ReadsBack.fadd (f : Fields) : Laws.ReadsBack.Statement (.fadd f) := by intro opc f h _; cases h; rfl
theorem Laws.ReadsBack.fsub (f : Fields) : Laws.ReadsBack.Statement (.fsub f) := by intro opc f h _; cases h; rfl
theorem Laws.ReadsBack.fmul (f : Fields) : Laws.ReadsBack.Statement (.fmul f) := by intro opc f h _; cases h; rfl
theorem Laws.ReadsBack.ffma (f : Fields) : Laws.ReadsBack.Statement (.ffma f) := by intro opc f h _; cases h; rfl
theorem Laws.ReadsBack.fdiv (f : Fields) : Laws.ReadsBack.Statement (.fdiv f) := by intro opc f h _; cases h; rfl
theorem Laws.ReadsBack.fsqrt (f : Fields) : Laws.ReadsBack.Statement (.fsqrt f) := by intro opc f h _; cases h; rfl
theorem Laws.ReadsBack.fmin (f : Fields) : Laws.ReadsBack.Statement (.fmin f) := by intro opc f h _; cases h; rfl
theorem Laws.ReadsBack.fmax (f : Fields) : Laws.ReadsBack.Statement (.fmax f) := by intro opc f h _; cases h; rfl
theorem Laws.ReadsBack.fcmp (f : Fields) : Laws.ReadsBack.Statement (.fcmp f) := by intro opc f h _; cases h; rfl
theorem Laws.ReadsBack.fcvt (f : Fields) : Laws.ReadsBack.Statement (.fcvt f) := by intro opc f h _; cases h; rfl
theorem Laws.ReadsBack.fcvi (f : Fields) : Laws.ReadsBack.Statement (.fcvi f) := by intro opc f h _; cases h; rfl
theorem Laws.ReadsBack.icvf (f : Fields) : Laws.ReadsBack.Statement (.icvf f) := by intro opc f h _; cases h; rfl
theorem Laws.ReadsBack.fclass (f : Fields) : Laws.ReadsBack.Statement (.fclass f) := by intro opc f h _; cases h; rfl
theorem Laws.ReadsBack.fsgn (f : Fields) : Laws.ReadsBack.Statement (.fsgn f) := by intro opc f h _; cases h; rfl
theorem Laws.ReadsBack.frnd (f : Fields) : Laws.ReadsBack.Statement (.frnd f) := by intro opc f h _; cases h; rfl
theorem Laws.ReadsBack.fscale (f : Fields) : Laws.ReadsBack.Statement (.fscale f) := by intro opc f h _; cases h; rfl
theorem Laws.ReadsBack.ld (f : Fields) : Laws.ReadsBack.Statement (.ld f) := by intro opc f h _; cases h; rfl
theorem Laws.ReadsBack.st (f : Fields) : Laws.ReadsBack.Statement (.st f) := by intro opc f h _; cases h; rfl
theorem Laws.ReadsBack.lda (f : Fields) : Laws.ReadsBack.Statement (.lda f) := by intro opc f h _; cases h; rfl
theorem Laws.ReadsBack.pref (f : Fields) : Laws.ReadsBack.Statement (.pref f) := by intro opc f h _; cases h; rfl
theorem Laws.ReadsBack.lsr (f : Fields) : Laws.ReadsBack.Statement (.lsr f) := by intro opc f h _; cases h; rfl
theorem Laws.ReadsBack.lsw (f : Fields) : Laws.ReadsBack.Statement (.lsw f) := by intro opc f h _; cases h; rfl
theorem Laws.ReadsBack.lsadd (f : Fields) : Laws.ReadsBack.Statement (.lsadd f) := by intro opc f h _; cases h; rfl
theorem Laws.ReadsBack.amsg (f : Fields) : Laws.ReadsBack.Statement (.amsg f) := by intro opc f h _; cases h; rfl
theorem Laws.ReadsBack.aadd (f : Fields) : Laws.ReadsBack.Statement (.aadd f) := by intro opc f h _; cases h; rfl
theorem Laws.ReadsBack.aand (f : Fields) : Laws.ReadsBack.Statement (.aand f) := by intro opc f h _; cases h; rfl
theorem Laws.ReadsBack.aor (f : Fields) : Laws.ReadsBack.Statement (.aor f) := by intro opc f h _; cases h; rfl
theorem Laws.ReadsBack.axor (f : Fields) : Laws.ReadsBack.Statement (.axor f) := by intro opc f h _; cases h; rfl
theorem Laws.ReadsBack.amin (f : Fields) : Laws.ReadsBack.Statement (.amin f) := by intro opc f h _; cases h; rfl
theorem Laws.ReadsBack.amax (f : Fields) : Laws.ReadsBack.Statement (.amax f) := by intro opc f h _; cases h; rfl
theorem Laws.ReadsBack.axchg (f : Fields) : Laws.ReadsBack.Statement (.axchg f) := by intro opc f h _; cases h; rfl
theorem Laws.ReadsBack.acas (f : Fields) : Laws.ReadsBack.Statement (.acas f) := by intro opc f h _; cases h; rfl
theorem Laws.ReadsBack.acas2 (f : Fields) : Laws.ReadsBack.Statement (.acas2 f) := by intro opc f h _; cases h; rfl
theorem Laws.ReadsBack.fence (f : Fields) : Laws.ReadsBack.Statement (.fence f) := by intro opc f h m; cases h; exact (if_neg Bool.false_ne_true).trans (if_neg (by simpa [Instr.modAgrees] using m : ¬ f.mod.getLsbD 3 = true))
theorem Laws.ReadsBack.fenceSys (f : Fields) : Laws.ReadsBack.Statement (.fenceSys f) := by intro opc f h m; cases h; exact if_pos m
theorem Laws.ReadsBack.cflush (f : Fields) : Laws.ReadsBack.Statement (.cflush f) := by intro opc f h _; cases h; rfl
theorem Laws.ReadsBack.cinv (f : Fields) : Laws.ReadsBack.Statement (.cinv f) := by intro opc f h _; cases h; rfl
theorem Laws.ReadsBack.cwb (f : Fields) : Laws.ReadsBack.Statement (.cwb f) := by intro opc f h _; cases h; rfl
theorem Laws.ReadsBack.ld2 (f : Fields) : Laws.ReadsBack.Statement (.ld2 f) := by intro opc f h _; cases h; rfl
theorem Laws.ReadsBack.st2 (f : Fields) : Laws.ReadsBack.Statement (.st2 f) := by intro opc f h _; cases h; rfl
theorem Laws.ReadsBack.vmov (f : Fields) : Laws.ReadsBack.Statement (.vmov f) := by intro opc f h _; cases h; rfl
theorem Laws.ReadsBack.vbcast (f : Fields) : Laws.ReadsBack.Statement (.vbcast f) := by intro opc f h _; cases h; rfl
theorem Laws.ReadsBack.vadd (f : Fields) : Laws.ReadsBack.Statement (.vadd f) := by intro opc f h _; cases h; rfl
theorem Laws.ReadsBack.vsub (f : Fields) : Laws.ReadsBack.Statement (.vsub f) := by intro opc f h _; cases h; rfl
theorem Laws.ReadsBack.vmul (f : Fields) : Laws.ReadsBack.Statement (.vmul f) := by intro opc f h _; cases h; rfl
theorem Laws.ReadsBack.vfma (f : Fields) : Laws.ReadsBack.Statement (.vfma f) := by intro opc f h _; cases h; rfl
theorem Laws.ReadsBack.vmin (f : Fields) : Laws.ReadsBack.Statement (.vmin f) := by intro opc f h _; cases h; rfl
theorem Laws.ReadsBack.vmax (f : Fields) : Laws.ReadsBack.Statement (.vmax f) := by intro opc f h _; cases h; rfl
theorem Laws.ReadsBack.vabs (f : Fields) : Laws.ReadsBack.Statement (.vabs f) := by intro opc f h _; cases h; rfl
theorem Laws.ReadsBack.vneg (f : Fields) : Laws.ReadsBack.Statement (.vneg f) := by intro opc f h _; cases h; rfl
theorem Laws.ReadsBack.vand (f : Fields) : Laws.ReadsBack.Statement (.vand f) := by intro opc f h _; cases h; rfl
theorem Laws.ReadsBack.vor (f : Fields) : Laws.ReadsBack.Statement (.vor f) := by intro opc f h _; cases h; rfl
theorem Laws.ReadsBack.vxor (f : Fields) : Laws.ReadsBack.Statement (.vxor f) := by intro opc f h _; cases h; rfl
theorem Laws.ReadsBack.vshl (f : Fields) : Laws.ReadsBack.Statement (.vshl f) := by intro opc f h _; cases h; rfl
theorem Laws.ReadsBack.vshr (f : Fields) : Laws.ReadsBack.Statement (.vshr f) := by intro opc f h _; cases h; rfl
theorem Laws.ReadsBack.vsar (f : Fields) : Laws.ReadsBack.Statement (.vsar f) := by intro opc f h _; cases h; rfl
theorem Laws.ReadsBack.vcmp (f : Fields) : Laws.ReadsBack.Statement (.vcmp f) := by intro opc f h _; cases h; rfl
theorem Laws.ReadsBack.vsel (f : Fields) : Laws.ReadsBack.Statement (.vsel f) := by intro opc f h _; cases h; rfl
theorem Laws.ReadsBack.vcvt (f : Fields) : Laws.ReadsBack.Statement (.vcvt f) := by intro opc f h _; cases h; rfl
theorem Laws.ReadsBack.vshuf (f : Fields) : Laws.ReadsBack.Statement (.vshuf f) := by intro opc f h _; cases h; rfl
theorem Laws.ReadsBack.vslide (f : Fields) : Laws.ReadsBack.Statement (.vslide f) := by intro opc f h _; cases h; rfl
theorem Laws.ReadsBack.vred (f : Fields) : Laws.ReadsBack.Statement (.vred f) := by intro opc f h _; cases h; rfl
theorem Laws.ReadsBack.vld (f : Fields) : Laws.ReadsBack.Statement (.vld f) := by intro opc f h _; cases h; rfl
theorem Laws.ReadsBack.vst (f : Fields) : Laws.ReadsBack.Statement (.vst f) := by intro opc f h _; cases h; rfl
theorem Laws.ReadsBack.vgath (f : Fields) : Laws.ReadsBack.Statement (.vgath f) := by intro opc f h _; cases h; rfl
theorem Laws.ReadsBack.vscat (f : Fields) : Laws.ReadsBack.Statement (.vscat f) := by intro opc f h _; cases h; rfl
theorem Laws.ReadsBack.vdiv (f : Fields) : Laws.ReadsBack.Statement (.vdiv f) := by intro opc f h _; cases h; rfl
theorem Laws.ReadsBack.vsqrt (f : Fields) : Laws.ReadsBack.Statement (.vsqrt f) := by intro opc f h _; cases h; rfl
theorem Laws.ReadsBack.vext (f : Fields) : Laws.ReadsBack.Statement (.vext f) := by intro opc f h _; cases h; rfl
theorem Laws.ReadsBack.vins (f : Fields) : Laws.ReadsBack.Statement (.vins f) := by intro opc f h _; cases h; rfl
theorem Laws.ReadsBack.viota (f : Fields) : Laws.ReadsBack.Statement (.viota f) := by intro opc f h _; cases h; rfl
theorem Laws.ReadsBack.fset (f : Fields) : Laws.ReadsBack.Statement (.fset f) := by intro opc f h _; cases h; rfl
theorem Laws.ReadsBack.fget (f : Fields) : Laws.ReadsBack.Statement (.fget f) := by intro opc f h _; cases h; rfl
theorem Laws.ReadsBack.fadj (f : Fields) : Laws.ReadsBack.Statement (.fadj f) := by intro opc f h _; cases h; rfl
theorem Laws.ReadsBack.vplane (f : Fields) : Laws.ReadsBack.Statement (.vplane f) := by intro opc f h _; cases h; rfl
theorem Laws.ReadsBack.vunpl (f : Fields) : Laws.ReadsBack.Statement (.vunpl f) := by intro opc f h _; cases h; rfl
theorem Laws.ReadsBack.sfx (f : Fields) : Laws.ReadsBack.Statement (.sfx f) := by intro opc f h _; cases h; rfl
theorem Laws.ReadsBack.rngx (f : Fields) : Laws.ReadsBack.Statement (.rngx f) := by intro opc f h _; cases h; rfl
theorem Laws.ReadsBack.rngf (f : Fields) : Laws.ReadsBack.Statement (.rngf f) := by intro opc f h _; cases h; rfl
theorem Laws.ReadsBack.vmulh (f : Fields) : Laws.ReadsBack.Statement (.vmulh f) := by intro opc f h _; cases h; rfl
theorem Laws.ReadsBack.vpopc (f : Fields) : Laws.ReadsBack.Statement (.vpopc f) := by intro opc f h _; cases h; rfl
theorem Laws.ReadsBack.vdot (f : Fields) : Laws.ReadsBack.Statement (.vdot f) := by intro opc f h _; cases h; rfl
theorem Laws.ReadsBack.vcomp (f : Fields) : Laws.ReadsBack.Statement (.vcomp f) := by intro opc f h _; cases h; rfl
theorem Laws.ReadsBack.mzero (f : Fields) : Laws.ReadsBack.Statement (.mzero f) := by intro opc f h _; cases h; rfl
theorem Laws.ReadsBack.mma (f : Fields) : Laws.ReadsBack.Statement (.mma f) := by intro opc f h _; cases h; rfl
theorem Laws.ReadsBack.mld (f : Fields) : Laws.ReadsBack.Statement (.mld f) := by intro opc f h _; cases h; rfl
theorem Laws.ReadsBack.mst (f : Fields) : Laws.ReadsBack.Statement (.mst f) := by intro opc f h _; cases h; rfl
theorem Laws.ReadsBack.mmov (f : Fields) : Laws.ReadsBack.Statement (.mmov f) := by intro opc f h _; cases h; rfl
theorem Laws.ReadsBack.xclr (f : Fields) : Laws.ReadsBack.Statement (.xclr f) := by intro opc f h _; cases h; rfl
theorem Laws.ReadsBack.xacc (f : Fields) : Laws.ReadsBack.Statement (.xacc f) := by intro opc f h _; cases h; rfl
theorem Laws.ReadsBack.xadd (f : Fields) : Laws.ReadsBack.Statement (.xadd f) := by intro opc f h _; cases h; rfl
theorem Laws.ReadsBack.xrnd (f : Fields) : Laws.ReadsBack.Statement (.xrnd f) := by intro opc f h _; cases h; rfl
theorem Laws.ReadsBack.xget (f : Fields) : Laws.ReadsBack.Statement (.xget f) := by intro opc f h _; cases h; rfl
theorem Laws.ReadsBack.mscl (f : Fields) : Laws.ReadsBack.Statement (.mscl f) := by intro opc f h _; cases h; rfl
theorem Laws.ReadsBack.capnew (f : Fields) : Laws.ReadsBack.Statement (.capnew f) := by intro opc f h _; cases h; rfl
theorem Laws.ReadsBack.capsend (f : Fields) : Laws.ReadsBack.Statement (.capsend f) := by intro opc f h _; cases h; rfl
theorem Laws.ReadsBack.caphead (f : Fields) : Laws.ReadsBack.Statement (.caphead f) := by intro opc f h _; cases h; rfl
theorem Laws.ReadsBack.cappush (f : Fields) : Laws.ReadsBack.Statement (.cappush f) := by intro opc f h _; cases h; rfl
theorem Laws.ReadsBack.cappop (f : Fields) : Laws.ReadsBack.Statement (.cappop f) := by intro opc f h _; cases h; rfl
theorem Laws.ReadsBack.capset (f : Fields) : Laws.ReadsBack.Statement (.capset f) := by intro opc f h _; cases h; rfl
theorem Laws.ReadsBack.capsplit (f : Fields) : Laws.ReadsBack.Statement (.capsplit f) := by intro opc f h _; cases h; rfl
theorem Laws.ReadsBack.capend (f : Fields) : Laws.ReadsBack.Statement (.capend f) := by intro opc f h _; cases h; rfl
theorem Laws.ReadsBack.capnext (f : Fields) : Laws.ReadsBack.Statement (.capnext f) := by intro opc f h _; cases h; rfl
theorem Laws.ReadsBack.capplace (f : Fields) : Laws.ReadsBack.Statement (.capplace f) := by intro opc f h _; cases h; rfl
theorem Laws.ReadsBack.capinj (f : Fields) : Laws.ReadsBack.Statement (.capinj f) := by intro opc f h _; cases h; rfl
theorem Laws.ReadsBack.capget (f : Fields) : Laws.ReadsBack.Statement (.capget f) := by intro opc f h _; cases h; rfl
theorem Laws.ReadsBack.capkey (f : Fields) : Laws.ReadsBack.Statement (.capkey f) := by intro opc f h _; cases h; rfl
theorem Laws.ReadsBack.xcopy (f : Fields) : Laws.ReadsBack.Statement (.xcopy f) := by intro opc f h _; cases h; rfl
theorem Laws.ReadsBack.xfill (f : Fields) : Laws.ReadsBack.Statement (.xfill f) := by intro opc f h _; cases h; rfl
theorem Laws.ReadsBack.xgath (f : Fields) : Laws.ReadsBack.Statement (.xgath f) := by intro opc f h _; cases h; rfl
theorem Laws.ReadsBack.xscat (f : Fields) : Laws.ReadsBack.Statement (.xscat f) := by intro opc f h _; cases h; rfl
theorem Laws.ReadsBack.xcmpr (f : Fields) : Laws.ReadsBack.Statement (.xcmpr f) := by intro opc f h _; cases h; rfl
theorem Laws.ReadsBack.xdcmp (f : Fields) : Laws.ReadsBack.Statement (.xdcmp f) := by intro opc f h _; cases h; rfl
theorem Laws.ReadsBack.hartXcopy (f : Fields) : Laws.ReadsBack.Statement (.hartXcopy f) := by intro opc f h _; cases h; rfl
theorem Laws.ReadsBack.hartXfill (f : Fields) : Laws.ReadsBack.Statement (.hartXfill f) := by intro opc f h _; cases h; rfl
theorem Laws.ReadsBack.hartXcmpr (f : Fields) : Laws.ReadsBack.Statement (.hartXcmpr f) := by intro opc f h _; cases h; rfl
theorem Laws.ReadsBack.hartXdcmp (f : Fields) : Laws.ReadsBack.Statement (.hartXdcmp f) := by intro opc f h _; cases h; rfl
theorem Laws.ReadsBack.hartHalt (f : Fields) : Laws.ReadsBack.Statement (.hartHalt f) := by intro opc f h _; cases h; rfl
theorem Laws.ReadsBack.arrset (f : Fields) : Laws.ReadsBack.Statement (.arrset f) := by intro opc f h _; cases h; rfl
theorem Laws.ReadsBack.await (f : Fields) : Laws.ReadsBack.Statement (.await f) := by intro opc f h _; cases h; rfl
theorem Laws.ReadsBack.equery (f : Fields) : Laws.ReadsBack.Statement (.equery f) := by intro opc f h _; cases h; rfl
theorem Laws.ReadsBack.eload (f : Fields) : Laws.ReadsBack.Statement (.eload f) := by intro opc f h _; cases h; rfl
theorem Laws.ReadsBack.tlbinvVa (f : Fields) : Laws.ReadsBack.Statement (.tlbinvVa f) := by intro opc f h m; cases h; replace m := eq_of_beq m; exact (if_neg Bool.false_ne_true).trans (if_pos m)
theorem Laws.ReadsBack.tlbinvCtx (f : Fields) : Laws.ReadsBack.Statement (.tlbinvCtx f) := by intro opc f h m; cases h; replace m := eq_of_beq m; exact (if_neg Bool.false_ne_true).trans ((if_neg (by rw [m]; decide : ¬ f.mod = 0)).trans (if_pos m))
theorem Laws.ReadsBack.tlbinvAll (f : Fields) : Laws.ReadsBack.Statement (.tlbinvAll f) := by intro opc f h m; cases h; replace m := eq_of_beq m; exact (if_neg Bool.false_ne_true).trans ((if_neg (by rw [m]; decide : ¬ f.mod = 0)).trans ((if_neg (by rw [m]; decide : ¬ f.mod = 1)).trans (if_pos m)))
theorem Laws.ReadsBack.decant (f : Fields) : Laws.ReadsBack.Statement (.decant f) := by intro opc f h _; cases h; rfl
theorem Laws.ReadsBack.stkq (f : Fields) : Laws.ReadsBack.Statement (.stkq f) := by intro opc f h _; cases h; rfl
theorem Laws.ReadsBack.slotctlRd (f : Fields) : Laws.ReadsBack.Statement (.slotctlRd f) := by intro opc f h m; cases h; replace m := eq_of_beq m; exact (if_neg Bool.false_ne_true).trans (if_pos m)
theorem Laws.ReadsBack.slotctlStop (f : Fields) : Laws.ReadsBack.Statement (.slotctlStop f) := by intro opc f h m; cases h; replace m := eq_of_beq m; exact (if_neg Bool.false_ne_true).trans ((if_neg (by rw [m]; decide : ¬ f.mod = 0)).trans (if_pos m))
theorem Laws.ReadsBack.hostint (f : Fields) : Laws.ReadsBack.Statement (.hostint f) := by intro opc f h _; cases h; rfl
theorem Laws.ReadsBack.ckptqTest (f : Fields) : Laws.ReadsBack.Statement (.ckptqTest f) := by intro opc f h m; cases h; replace m := eq_of_beq m; exact (if_neg Bool.false_ne_true).trans (if_pos m)
theorem Laws.ReadsBack.ckptqTake (f : Fields) : Laws.ReadsBack.Statement (.ckptqTake f) := by intro opc f h m; cases h; replace m := eq_of_beq m; exact (if_neg Bool.false_ne_true).trans ((if_neg (by rw [m]; decide : ¬ f.mod = 0)).trans (if_pos m))
theorem Laws.ReadsBack.jrnlOff (f : Fields) : Laws.ReadsBack.Statement (.jrnlOff f) := by intro opc f h m; cases h; replace m := eq_of_beq m; exact (if_neg Bool.false_ne_true).trans (if_pos m)
theorem Laws.ReadsBack.jrnlRec (f : Fields) : Laws.ReadsBack.Statement (.jrnlRec f) := by intro opc f h m; cases h; replace m := eq_of_beq m; exact (if_neg Bool.false_ne_true).trans ((if_neg (by rw [m]; decide : ¬ f.mod = 0)).trans (if_pos m))
theorem Laws.ReadsBack.jrnlRpl (f : Fields) : Laws.ReadsBack.Statement (.jrnlRpl f) := by intro opc f h m; cases h; replace m := eq_of_beq m; exact (if_neg Bool.false_ne_true).trans ((if_neg (by rw [m]; decide : ¬ f.mod = 0)).trans ((if_neg (by rw [m]; decide : ¬ f.mod = 1)).trans (if_pos m)))
theorem Laws.ReadsBack.jrnlStat (f : Fields) : Laws.ReadsBack.Statement (.jrnlStat f) := by intro opc f h m; cases h; replace m := eq_of_beq m; exact (if_neg Bool.false_ne_true).trans ((if_neg (by rw [m]; decide : ¬ f.mod = 0)).trans ((if_neg (by rw [m]; decide : ¬ f.mod = 1)).trans ((if_neg (by rw [m]; decide : ¬ f.mod = 2)).trans (if_pos m))))
theorem Laws.ReadsBack.faultqPop (f : Fields) : Laws.ReadsBack.Statement (.faultqPop f) := by intro opc f h m; cases h; replace m := eq_of_beq m; exact (if_neg Bool.false_ne_true).trans (if_pos m)
theorem Laws.ReadsBack.faultqCnt (f : Fields) : Laws.ReadsBack.Statement (.faultqCnt f) := by intro opc f h m; cases h; replace m := eq_of_beq m; exact (if_neg Bool.false_ne_true).trans ((if_neg (by rw [m]; decide : ¬ f.mod = 0)).trans (if_pos m))
theorem Laws.ReadsBack.resume (f : Fields) : Laws.ReadsBack.Statement (.resume f) := by intro opc f h m; cases h; replace m := eq_of_beq m; exact (if_neg Bool.false_ne_true).trans (if_pos m)
theorem Laws.ReadsBack.resumeFail (f : Fields) : Laws.ReadsBack.Statement (.resumeFail f) := by intro opc f h m; cases h; replace m := eq_of_beq m; exact (if_neg Bool.false_ne_true).trans ((if_neg (by rw [m]; decide : ¬ f.mod = 0)).trans (if_pos m))
theorem Laws.ReadsBack.queueTailDoorbell (tail : BitVec 32) : Laws.ReadsBack.Statement (.queueTailDoorbell tail) := by intro opc f h _; cases h
theorem Laws.ReadsBack.cmdNop : Laws.ReadsBack.Statement .cmdNop := by intro opc f h _; cases h
theorem Laws.ReadsBack.cmdLaunch : Laws.ReadsBack.Statement .cmdLaunch := by intro opc f h _; cases h
theorem Laws.ReadsBack.cmdWait : Laws.ReadsBack.Statement .cmdWait := by intro opc f h _; cases h
theorem Laws.ReadsBack.cmdSignal : Laws.ReadsBack.Statement .cmdSignal := by intro opc f h _; cases h
theorem Laws.ReadsBack.cmdBadOperation : Laws.ReadsBack.Statement .cmdBadOperation := by intro opc f h _; cases h
theorem Laws.ReadsBack.launchPlacement : Laws.ReadsBack.Statement .launchPlacement := by intro opc f h _; cases h
theorem Laws.ReadsBack.gangPlacement : Laws.ReadsBack.Statement .gangPlacement := by intro opc f h _; cases h
theorem Laws.ReadsBack.rebindByWeight : Laws.ReadsBack.Statement .rebindByWeight := by intro opc f h _; cases h
theorem Laws.ReadsBack.slotTableWrite (entry : BitVec 128) : Laws.ReadsBack.Statement (.slotTableWrite entry) := by intro opc f h _; cases h
theorem Laws.ReadsBack.slotDispatch : Laws.ReadsBack.Statement .slotDispatch := by intro opc f h _; cases h
theorem Laws.ReadsBack.launchCompletion : Laws.ReadsBack.Statement .launchCompletion := by intro opc f h _; cases h
theorem Laws.ReadsBack.barrierRowToken (b : BitVec 3) (shape : BitVec 6) : Laws.ReadsBack.Statement (.barrierRowToken b shape) := by intro opc f h _; cases h
theorem Laws.ReadsBack.barrierColumnToken (b : BitVec 3) (shape : BitVec 6) : Laws.ReadsBack.Statement (.barrierColumnToken b shape) := by intro opc f h _; cases h
theorem Laws.ReadsBack.barrierReleaseToken (b : BitVec 3) (shape : BitVec 6) : Laws.ReadsBack.Statement (.barrierReleaseToken b shape) := by intro opc f h _; cases h
theorem Laws.ReadsBack.pkgBarrierArrivalMsg (group : BitVec 16) (b : BitVec 3) (gen : BitVec 8) : Laws.ReadsBack.Statement (.pkgBarrierArrivalMsg group b gen) := by intro opc f h _; cases h
theorem Laws.ReadsBack.pkgBarrierReleaseMsg (group : BitVec 16) (b : BitVec 3) (gen : BitVec 8) : Laws.ReadsBack.Statement (.pkgBarrierReleaseMsg group b gen) := by intro opc f h _; cases h
theorem Laws.ReadsBack.commitGrant : Laws.ReadsBack.Statement .commitGrant := by intro opc f h _; cases h
theorem Laws.ReadsBack.priorityTokenGrant : Laws.ReadsBack.Statement .priorityTokenGrant := by intro opc f h _; cases h
theorem Laws.ReadsBack.livelockWatchdog : Laws.ReadsBack.Statement .livelockWatchdog := by intro opc f h _; cases h
theorem Laws.ReadsBack.trapEntry : Laws.ReadsBack.Statement .trapEntry := by intro opc f h _; cases h
theorem Laws.ReadsBack.edgeAccess : Laws.ReadsBack.Statement .edgeAccess := by intro opc f h _; cases h
theorem Laws.ReadsBack.soloStep : Laws.ReadsBack.Statement .soloStep := by intro opc f h _; cases h
theorem Laws.ReadsBack.postedWriteCompletion (status : BitVec 3) : Laws.ReadsBack.Statement (.postedWriteCompletion status) := by intro opc f h _; cases h
theorem Laws.ReadsBack.edgeCompletionTimeout : Laws.ReadsBack.Statement .edgeCompletionTimeout := by intro opc f h _; cases h
theorem Laws.ReadsBack.ldaDataReturn (g : BitVec 5) : Laws.ReadsBack.Statement (.ldaDataReturn g) := by intro opc f h _; cases h
theorem Laws.ReadsBack.waitvWake : Laws.ReadsBack.Statement .waitvWake := by intro opc f h _; cases h
theorem Laws.ReadsBack.waitvTimeout : Laws.ReadsBack.Statement .waitvTimeout := by intro opc f h _; cases h
theorem Laws.ReadsBack.awaitWake : Laws.ReadsBack.Statement .awaitWake := by intro opc f h _; cases h
theorem Laws.ReadsBack.yieldExpiry : Laws.ReadsBack.Statement .yieldExpiry := by intro opc f h _; cases h
theorem Laws.ReadsBack.capsuleArrival : Laws.ReadsBack.Statement .capsuleArrival := by intro opc f h _; cases h
theorem Laws.ReadsBack.capsuleSpillTimeout (id : Nat) : Laws.ReadsBack.Statement (.capsuleSpillTimeout id) := by intro opc f h _; cases h
theorem Laws.ReadsBack.bayRefill : Laws.ReadsBack.Statement .bayRefill := by intro opc f h _; cases h
theorem Laws.ReadsBack.capsuleVisitStart : Laws.ReadsBack.Statement .capsuleVisitStart := by intro opc f h _; cases h
theorem Laws.ReadsBack.capsuleVisitStrand : Laws.ReadsBack.Statement .capsuleVisitStrand := by intro opc f h _; cases h
theorem Laws.ReadsBack.activeMessageArrival : Laws.ReadsBack.Statement .activeMessageArrival := by intro opc f h _; cases h
theorem Laws.ReadsBack.messageHandlerStart : Laws.ReadsBack.Statement .messageHandlerStart := by intro opc f h _; cases h
theorem Laws.ReadsBack.lsrRequestService : Laws.ReadsBack.Statement .lsrRequestService := by intro opc f h _; cases h
theorem Laws.ReadsBack.faultRecordDeferredWrite : Laws.ReadsBack.Statement .faultRecordDeferredWrite := by intro opc f h _; cases h
theorem Laws.ReadsBack.rangeFlushWalk : Laws.ReadsBack.Statement .rangeFlushWalk := by intro opc f h _; cases h
theorem Laws.ReadsBack.tlbInvalidationComplete : Laws.ReadsBack.Statement .tlbInvalidationComplete := by intro opc f h _; cases h
theorem Laws.ReadsBack.engineCommandStart : Laws.ReadsBack.Statement .engineCommandStart := by intro opc f h _; cases h
theorem Laws.ReadsBack.engineWatchdog : Laws.ReadsBack.Statement .engineWatchdog := by intro opc f h _; cases h
theorem Laws.ReadsBack.eloadRegionLoad : Laws.ReadsBack.Statement .eloadRegionLoad := by intro opc f h _; cases h
theorem Laws.ReadsBack.preemption : Laws.ReadsBack.Statement .preemption := by intro opc f h _; cases h
theorem Laws.ReadsBack.preemptionTimeout : Laws.ReadsBack.Statement .preemptionTimeout := by intro opc f h _; cases h
theorem Laws.ReadsBack.contextResume : Laws.ReadsBack.Statement .contextResume := by intro opc f h _; cases h
theorem Laws.ReadsBack.softErrorCorrected : Laws.ReadsBack.Statement .softErrorCorrected := by intro opc f h _; cases h
theorem Laws.ReadsBack.softErrorUncorrectable (place : ErrorPlace) : Laws.ReadsBack.Statement (.softErrorUncorrectable place) := by intro opc f h _; cases h
theorem Laws.ReadsBack.decantDrain : Laws.ReadsBack.Statement .decantDrain := by intro opc f h _; cases h
theorem Laws.ReadsBack.decantWriteTimeout : Laws.ReadsBack.Statement .decantWriteTimeout := by intro opc f h _; cases h
theorem Laws.ReadsBack.decantClaimTimeout : Laws.ReadsBack.Statement .decantClaimTimeout := by intro opc f h _; cases h
theorem Laws.ReadsBack.deadDieTimeout (sender : TowerId) : Laws.ReadsBack.Statement (.deadDieTimeout sender) := by intro opc f h _; cases h
theorem Laws.ReadsBack.linkSleep : Laws.ReadsBack.Statement .linkSleep := by intro opc f h _; cases h
theorem Laws.ReadsBack.linkWake : Laws.ReadsBack.Statement .linkWake := by intro opc f h _; cases h
theorem Laws.ReadsBack.linkWakeRetry : Laws.ReadsBack.Statement .linkWakeRetry := by intro opc f h _; cases h
theorem Laws.ReadsBack.retentionSleepEntry : Laws.ReadsBack.Statement .retentionSleepEntry := by intro opc f h _; cases h
theorem Laws.ReadsBack.retentionWake : Laws.ReadsBack.Statement .retentionWake := by intro opc f h _; cases h
theorem Laws.ReadsBack.hostMemoryAccess (write : Bool) (pa : BitVec 40) (len : Nat) (data : List Byte) : Laws.ReadsBack.Statement (.hostMemoryAccess write pa len data) := by intro opc f h _; cases h
theorem Laws.ReadsBack.hdmBackInvalidateTimeout : Laws.ReadsBack.Statement .hdmBackInvalidateTimeout := by intro opc f h _; cases h
theorem Laws.ReadsBack.hostSnoop (hpa : BitVec 49) (data : List Byte) : Laws.ReadsBack.Statement (.hostSnoop hpa data) := by intro opc f h _; cases h
theorem Laws.ReadsBack.msixPendingSend (v : BitVec 11) : Laws.ReadsBack.Statement (.msixPendingSend v) := by intro opc f h _; cases h
theorem Laws.ReadsBack.ouvkenFlitReceive (flit : Flit) : Laws.ReadsBack.Statement (.ouvkenFlitReceive flit) := by intro opc f h _; cases h
theorem Laws.ReadsBack.ouvkenPortDown : Laws.ReadsBack.Statement .ouvkenPortDown := by intro opc f h _; cases h
theorem Laws.ReadsBack.peerAccessRequest (src : BitVec 8) (pa : BitVec 40) (op : PeerOp) : Laws.ReadsBack.Statement (.peerAccessRequest src pa op) := by intro opc f h _; cases h
theorem Laws.ReadsBack.peerResponseTimeout : Laws.ReadsBack.Statement .peerResponseTimeout := by intro opc f h _; cases h
theorem Laws.ReadsBack.diepartWrite (x : Word) : Laws.ReadsBack.Statement (.diepartWrite x) := by intro opc f h _; cases h
theorem Laws.ReadsBack.alarmWrite (byHost : Bool) (x : Word) : Laws.ReadsBack.Statement (.alarmWrite byHost x) := by intro opc f h _; cases h
theorem Laws.ReadsBack.monstatWrite (byHost : Bool) (hi : Bool) (x : Word) : Laws.ReadsBack.Statement (.monstatWrite byHost hi x) := by intro opc f h _; cases h
theorem Laws.ReadsBack.registerWrite (byHost : Bool) (off : BitVec 28) (x : Word) : Laws.ReadsBack.Statement (.registerWrite byHost off x) := by intro opc f h _; cases h
theorem Laws.ReadsBack.powerGood : Laws.ReadsBack.Statement .powerGood := by intro opc f h _; cases h
theorem Laws.ReadsBack.packageReset : Laws.ReadsBack.Statement .packageReset := by intro opc f h _; cases h
theorem Laws.ReadsBack.railCurrentClamp : Laws.ReadsBack.Statement .railCurrentClamp := by intro opc f h _; cases h
theorem Laws.ReadsBack.thermalThrottle : Laws.ReadsBack.Statement .thermalThrottle := by intro opc f h _; cases h
theorem Laws.ReadsBack.thermalTrip : Laws.ReadsBack.Statement .thermalTrip := by intro opc f h _; cases h
theorem Laws.ReadsBack.securityAlarm (cause : BitVec 2) : Laws.ReadsBack.Statement (.securityAlarm cause) := by intro opc f h _; cases h
theorem Laws.ReadsBack.getVersion : Laws.ReadsBack.Statement .getVersion := by intro opc f h _; cases h
theorem Laws.ReadsBack.getCapabilities : Laws.ReadsBack.Statement .getCapabilities := by intro opc f h _; cases h
theorem Laws.ReadsBack.negotiateAlgorithms : Laws.ReadsBack.Statement .negotiateAlgorithms := by intro opc f h _; cases h
theorem Laws.ReadsBack.getDigests : Laws.ReadsBack.Statement .getDigests := by intro opc f h _; cases h
theorem Laws.ReadsBack.getCertificate (off : Nat) (len : Nat) : Laws.ReadsBack.Statement (.getCertificate off len) := by intro opc f h _; cases h
theorem Laws.ReadsBack.challenge (nonce : BitVec 256) : Laws.ReadsBack.Statement (.challenge nonce) := by intro opc f h _; cases h
theorem Laws.ReadsBack.getMeasurements (index : BitVec 8) : Laws.ReadsBack.Statement (.getMeasurements index) := by intro opc f h _; cases h
theorem Laws.ReadsBack.unassignedOpcode (w : BitVec 96) : Laws.ReadsBack.Statement (.unassignedOpcode w) := by intro opc f h _; cases h
theorem Laws.ReadsBack.hostPortLinkDown : Laws.ReadsBack.Statement .hostPortLinkDown := by intro opc f h _; cases h
theorem Laws.ReadsBack.monstatVminRead : Laws.ReadsBack.Statement .monstatVminRead := by intro opc f h _; cases h
theorem Laws.ReadsBack.memoryFirewallBlock : Laws.ReadsBack.Statement .memoryFirewallBlock := by intro opc f h _; cases h

end Sys2Proof
end

