-- ==== Sys2Proof/Tests/Slice0.lean ====
section
/-! SUPPORT. Tests of the model: words written out from the encodings of 03_encoding_and_opcode_map.md, ill-formed terms, single steps with results worked out from the rules, and, for each statement, states and operands that meet its hypotheses. -/

open Sys2Proof Sys2Proof.Machine

set_option Elab.async false

namespace Sys2Proof.Tests

/-- The word of the three stored words, the first at the lowest address (R66). -/
def word (a b c : BitVec 32) : BitVec 96 := c ++ b ++ a

/-- Fields with no hint and the guard P7. -/
def op (m : BitVec 4) (d a b : Operand) : Fields := ⟨false, 7, false, false, false, false, m, d, a, b⟩

/-- The same with a guard and its negation. -/
def opIf (neg : Bool) (g : BitVec 3) (m : BitVec 4) (d a b : Operand) : Fields := ⟨neg, g, false, false, false, false, m, d, a, b⟩

-- Decoding. The words of ADD and FADD stand in 03 (Worked encodings); the others are written out from R66 to R71 and the opcode map.

theorem test_decode_add : decodeSlot (word 0x0580000C 0x00040000 0x20380200)
    = .ok (.add ⟨false, 3, true, false, false, false, 2, .g 4, .g 5, .imm 12⟩) := by decide
theorem test_decode_fadd : decodeSlot (word 0x03000004 0x00020000 0x50700600) = .ok (.fadd (op 6 (.g 2) (.g 3) (.g 4))) := by decide
theorem test_decode_control :
    decodeSlot (word 0 0 0x00700000) = .ok (.nop (op 0 .none .none .none))
      ∧ decodeSlot (word 0x02800006 0x00008000 0x06700100) = .ok (.loopI (op 1 .none (.imm 2) (.imm 6)))
      ∧ decodeSlot (word 0 0 0x0A700000) = .ok (.cut (op 0 .none .none .none))
      ∧ decodeSlot (word 0x00000005 0x00046800 0x0B700100) = .ok (.waitv (op 1 (.g 4) (.mem 2 .offset 0) (.g 5)))
      ∧ decodeSlot (word 0x42000000 0x00008000 0x0D700000) = .ok (.trapI (op 0 .none (.imm 0x42) .none))
      ∧ decodeSlot (word 0x04000000 0 0x0E700000) = .ok (.syscall (op 0 .none (.g 4) .none))
      ∧ decodeSlot (word 0 0 0x0F700000) = .ok (.eret (op 0 .none .none .none))
      ∧ decodeSlot (word 0x21000000 0x0014E000 0x10700000) = .ok (.csrr (op 0 (.g 20) (.csr 0x21) .none))
      ∧ decodeSlot (word 0x12000000 0x00028000 0x147000EC) = .ok (.barset (op 0 (.bar 2) (.imm 0x12) .none))
      ∧ decodeSlot (word 0x02000000 0x0004EC00 0x15700100) = .ok (.bararr (op 1 (.g 4) (.bar 2) .none))
      ∧ decodeSlot (word 0x02000004 0x0000EC00 0x16700000) = .ok (.barwait (op 0 .none (.bar 2) (.g 4)))
      ∧ decodeSlot (word 0 0 0x18700000) = .ok (.preack (op 0 .none .none .none)) := by decide
theorem test_decode_integer :
    decodeSlot (word 0x04800000 0x00910000 0x3A700240) = .ok (.cmp (op 2 (.pp 1 2 2) (.g 4) (.imm 0)))
      ∧ decodeSlot (word 0x04000005 0x00030000 0x46700700) = .ok (.madd (op 7 (.g 3) (.g 4) (.g 5))) := by decide
theorem test_decode_memory :
    decodeSlot (word 0xF8000000 0x000468FF 0x60700300) = .ok (.ld (op 3 (.g 4) (.mem 2 .offset 0xFFF8) .none))
      ∧ decodeSlot (word 0x08000006 0x00006400 0x68700300) = .ok (.aadd (op 3 .none (.mem 1 .offset 8) (.g 6)))
      ∧ decodeSlot (word 0x00000008 0x00046C00 0x70700C00) = .ok (.acas2 (op 12 (.g 4) (.mem 3 .offset 0) (.g 8)))
      ∧ decodeSlot (word 0x06000000 0x00040000 0x64700200) = .ok (.lsr (op 2 (.g 4) (.g 6) .none))
      ∧ decodeSlot (word 0x08800005 0x00030000 0x67700100) = .ok (.amsg (op 1 (.g 3) (.g 8) (.imm 5)))
      ∧ decodeSlot (word 0x00000009 0x00006800 0x72700000) = .ok (.cflush (op 0 .none (.mem 2 .offset 0) (.g 9))) := by decide
theorem test_decode_vector :
    decodeSlot (word 0x02200003 0x00012000 0x82700220) = .ok (.vadd (op 2 (.v 1) (.v 2) (.v 3)))
      ∧ decodeSlot (word 0x059FFFFF 0x00042000 0x94200620) = .ok (.vslide ⟨false, 2, false, false, false, false, 6, .v 4, .v 5, .imm 0x1FFFFF⟩) := by decide
theorem test_decode_matrix :
    decodeSlot (word 0x04C00005 0x0001C000 0xB17000E4) = .ok (.mma (op 0 (.tile 1) (.f 4) (.f 5)))
      ∧ decodeSlot (word 0x07000000 0x00030000 0xB67001E8) = .ok (.xacc (op 1 (.abs 3) (.g 7) .none)) := by decide
theorem test_decode_capsule :
    decodeSlot (word 0x02000008 0 0xC3700000) = .ok (.cappush (op 0 .none (.g 2) (.g 8)))
      ∧ decodeSlot (word 0x09800006 0x00040000 0xCC700000) = .ok (.capkey (op 0 (.g 4) (.g 9) (.imm 6))) := by decide
theorem test_decode_engine :
    decodeSlot (word 0x00800080 0x00006400 0xD0700000) = .ok (.xcopy (op 0 .none (.mem 1 .offset 0) (.imm 0x80)))
      ∧ decodeSlot (word 0x00000005 0x00046800 0xD5700000) = .ok (.await (op 0 (.g 4) (.mem 2 .offset 0) (.g 5)))
      ∧ decodeHart (word 0x00800040 0x00006700 0xD0700064) = .ok (.hartXcopy (op 0 (.mem 1 .offset 0) (.mem 1 .postInc 0) (.imm 0x40)))
      ∧ decodeHart (word 0 0 0x08700000) = .ok (.hartHalt (op 0 .none .none .none)) := by decide
theorem test_decode_system :
    decodeSlot (word 0x04000005 0 0xE0700000) = .ok (.tlbinvVa (op 0 .none (.g 4) (.g 5)))
      ∧ decodeSlot (word 0x09800001 0x00048000 0xE1700000) = .ok (.decant (op 0 (.g 4) (.imm 9) (.imm 1)))
      ∧ decodeSlot (word 0x06000000 0x00050000 0xE2700000) = .ok (.stkq (op 0 (.g 5) (.g 6) .none))
      ∧ decodeSlot (word 0x04000000 0 0xE4700000) = .ok (.hostint (op 0 .none (.g 4) .none))
      ∧ decodeSlot (word 0x05000000 0x00008000 0xE4700000) = .ok (.hostint (op 0 .none (.imm 5) .none))
      ∧ decodeSlot (word 0x00000007 0x00046800 0xE5700100) = .ok (.ckptqTake (op 1 (.g 4) (.mem 2 .offset 0) (.g 7)))
      ∧ decodeSlot (word 0x00800001 0x00046800 0xE7700000) = .ok (.faultqPop (op 0 (.g 4) (.mem 2 .offset 0) (.imm 1)))
      ∧ decodeSlot (word 0x06000000 0 0xE8700100) = .ok (.resumeFail (op 1 .none (.g 6) .none)) := by decide

/-- The checks of R75 in their order: the FADD word with bit 77 set, with OPC 0x4A, with a reserved MOD of NOP, with an operand of another class, with a reserved payload bit; MN (class 5) in no field. -/
theorem test_decode_rejects :
    decodeSlot (word 0x03000004 0x00020000 0x50702600) = .error .reservedBits
      ∧ decodeSlot (word 0x03000004 0x00020000 0x4A700600) = .ok (.unassignedOpcode (word 0x03000004 0x00020000 0x4A700600))
      ∧ decodeSlot (word 0 0 0x00700100) = .error .badMod
      ∧ decodeSlot (word 0x03000004 0x00020000 0x50700620) = .error (.badField 0)
      ∧ decodeSlot (word 0x03000004 0x00022000 0x50700600) = .error (.badField 1)
      ∧ decodeSlot (word 0x03000024 0x00020000 0x50700600) = .error (.badField 2)
      ∧ decodeSlot (word 0x05A00001 0x00040000 0x20380200) = .error (.badField 2) := by decide

/-- The table's numbering: bit 0 is the lowest bit of the first word. -/
theorem test_table_word : decodeTableWord 96 0x20380200000400000580000C
    = some (.add ⟨false, 3, true, false, false, false, 2, .g 4, .g 5, .imm 12⟩)
    ∧ encode (.add ⟨false, 3, true, false, false, false, 2, .g 4, .g 5, .imm 12⟩) = some 0x20380200000400000580000C := by decide

-- WellFormed refuses: a MOD value, an operand of another class in each field, a used field left out, an odd pair, a compare that names one
-- register twice, a condition that the compare does not take, mode 11 with a displacement, an immediate out of its range.

theorem test_wf_accepts : (Instr.add (op 2 (.g 4) (.g 5) (.imm 12))).wf = true ∧ (Instr.cmp (op 2 (.pp 7 7 0) (.g 1) (.g 2))).wf = true := by decide
theorem test_wf_refuses :
    (Instr.nop (op 1 .none .none .none)).wf = false ∧ (Instr.ld (op 7 (.g 1) (.mem 0 .offset 0) .none)).wf = false
      ∧ (Instr.add (op 2 (.v 4) (.g 5) (.imm 12))).wf = false ∧ (Instr.add (op 2 (.g 4) (.f 5) (.imm 12))).wf = false
      ∧ (Instr.add (op 2 (.g 4) (.g 5) (.bar 1))).wf = false ∧ (Instr.add (op 2 (.g 4) (.g 5) .none)).wf = false
      ∧ (Instr.nop (op 0 (.g 0) .none .none)).wf = false ∧ (Instr.ld2 (op 0 (.g 3) (.mem 0 .offset 0) .none)).wf = false
      ∧ (Instr.cmp (op 2 (.pp 3 3 0) (.g 1) (.g 2))).wf = false ∧ (Instr.cmp (op 2 (.pp 1 2 8) (.g 1) (.g 2))).wf = false
      ∧ (Instr.fcmp (op 2 (.pp 1 2 6) (.g 1) (.g 2))).wf = false ∧ (Instr.ld (op 3 (.g 1) (.mem 0 .postInc 8) .none)).wf = false
      ∧ (Instr.lea (op 0 (.a 1) (.mem 0 .postInc 0) (.g 1))).wf = false ∧ (Instr.vadd (op 2 (.v 1) (.f 2) (.v 3))).wf = false := by decide

-- A machine with one running launch slot: slot 0 of core 0 at 0x10000 in context 0, the lowest GiB mapped to itself with W, X and U.

def base : State := { State.reset.placeSlotCode [] with agenda := [], cur := .slot 0 0 }
/-- The same with other registers, or with another slot. -/
def withRegs (r : Regs → Regs) : State := base.setSlot 0 0 { base.slot 0 0 with regs := r (base.slot 0 0).regs }
def withSlot (y : Slot → Slot) : State := base.setSlot 0 0 (y (base.slot 0 0))
/-- G registers from a list. -/
def putGs (r : Regs) (l : List (BitVec 5 × Word)) : Regs := l.foldl (fun r x => r.putG x.1 x.2) r
def withGs (l : List (BitVec 5 × Word)) : State := withRegs fun r => putGs r l

/-- The state after a next state, and its slot and registers. -/
def out (o : Host.Outcome State Fault Refusal) : State := match o with
  | .next t => t
  | _ => State.reset
def outSlot (o : Host.Outcome State Fault Refusal) : Slot := (out o).slot 0 0
def outG (o : Host.Outcome State Fault Refusal) (n : BitVec 5) : Word := (outSlot o).regs.g.get n.toFin
def isNext (o : Host.Outcome State Fault Refusal) : Bool := match o with
  | .next _ => true
  | _ => false

-- Single steps. The results are worked out by hand from the rule named.

/-- R96: I32 wraps, then extends its sign; R23: the pc goes on by 12. -/
theorem test_add_wraps : let o := exec (.add (op 2 (.g 4) (.g 5) (.imm 1))) (withGs [(5, 0x7FFFFFFF)])
    outG o 4 = 0xFFFFFFFF80000000 ∧ (outSlot o).regs.pc = 0x1000C := by decide +kernel
/-- R36: with .S the sum is clamped to the type. -/
theorem test_add_saturates : outG (exec (.add (op 10 (.g 4) (.g 5) (.imm 1))) (withGs [(5, 0x7FFFFFFF)])) 4 = 0x7FFFFFFF := by decide +kernel
theorem test_sub_unsigned : outG (exec (.sub (op 4 (.g 4) (.g 5) (.imm 3))) (withGs [(5, 1)])) 4 = 0xFE := by decide +kernel
theorem test_mulh : outG (exec (.mulh (op 7 (.g 4) (.g 5) (.g 5))) (withGs [(5, 0xFFFFFFFFFFFFFFFF)])) 4 = 0xFFFFFFFFFFFFFFFE := by decide +kernel
/-- R37: a zero divisor gives all ones and sets IDZ, bit 5 of FPSR; REM leaves the dividend. -/
theorem test_div_by_zero : let o := exec (.div (op 3 (.g 4) (.g 5) (.imm 0))) (withGs [(5, 7)])
    outG o 4 = 0xFFFFFFFFFFFFFFFF ∧ (outSlot o).regs.fpsr = 0x20 := by decide +kernel
theorem test_rem_sign : outG (exec (.rem (op 3 (.g 4) (.g 5) (.imm 3))) (withGs [(5, 0xFFFFFFFFFFFFFFF9)])) 4 = 0xFFFFFFFFFFFFFFFF := by decide +kernel
theorem test_shl_full : outG (exec (.shl (op 7 (.g 4) (.g 5) (.imm 64))) (withGs [(5, 3)])) 4 = 0 := by decide +kernel
theorem test_sar_full : outG (exec (.sar (op 0 (.g 4) (.g 5) (.imm 9))) (withGs [(5, 0x80)])) 4 = 0xFFFFFFFFFFFFFFFF := by decide +kernel
theorem test_rol_byte : outG (exec (.rol (op 4 (.g 4) (.g 5) (.imm 9))) (withGs [(5, 0x81)])) 4 = 0x03 := by decide +kernel
theorem test_clz_zero : outG (exec (.clz (op 5 (.g 4) (.g 5) .none)) (withGs [])) 4 = 16 := by decide +kernel
theorem test_bfx_signed : outG (exec (.bfx (op 3 (.g 4) (.g 5) (.imm 0xC4))) (withGs [(5, 0x80)])) 4 = 0xFFFFFFFFFFFFFFF8 := by decide +kernel
theorem test_mulw_pair : let o := exec (.mulw (op 3 (.g 4) (.g 6) (.g 7))) (withGs [(6, 0xFFFFFFFFFFFFFFFF), (7, 2)])
    outG o 4 = 0xFFFFFFFFFFFFFFFE ∧ outG o 5 = 0xFFFFFFFFFFFFFFFF := by decide +kernel
/-- R102, R12: the mask of the condition and its complement; P7 discards. -/
theorem test_cmp_signed : let o := exec (.cmp (op 3 (.pp 1 7 2) (.g 5) (.imm 0))) (withGs [(5, 0xFFFFFFFFFFFFFFFF)])
    (outSlot o).regs.p[1] = 0xFFFFFFFFFFFFFFFF ∧ (outSlot o).regs.p[0] = 0 := by decide +kernel
theorem test_movh : outG (exec (.movh (op 0 (.g 4) (.imm 0x1234) .none)) (withGs [(4, 0xAAAABBBBCCCCDDDD)])) 4 = 0x1234BBBBCCCCDDDD := by decide +kernel
/-- R25: a false guard changes nothing but the pc. -/
theorem test_guard_false : let o := exec (.movi (opIf true 7 0 (.g 4) (.half 0) (.half 5))) (withGs [(4, 9)])
    outG o 4 = 9 ∧ (outSlot o).regs.pc = 0x1000C := by decide +kernel
/-- R89: the target counts words of 4 bytes from the branch. -/
theorem test_call : let o := exec (.call (op 0 .none (.imm 0x1FFFFF) .none)) base
    (outSlot o).regs.pc = 0xFFFC ∧ outG o 31 = 0x1000C := by decide +kernel
/-- R23, R90: a misaligned target is a fault at the transfer, with cause 0x04; with no handler the launch is aborted (R334). -/
theorem test_jmp_misaligned : let o := exec (.jmp (op 0 .none (.g 5) .none)) (withRegs fun r => { r.putG 5 0x1002 with trapvec := 0x2000 })
    (outSlot o).regs.pc = 0x2000 ∧ (outSlot o).regs.trapcause = 0x04 ∧ (outSlot o).regs.trapaddr = 0x1002 ∧ (outSlot o).regs.trappc = 0x10000
      ∧ (outSlot o).regs.priv = true ∧ (outSlot o).regs.inh = true := by decide +kernel
/-- R94: a loop whose last turn has come falls through its end. -/
theorem test_loop_ends : let r : Regs := (outSlot (exec (.nop (op 0 .none .none .none)) (withRegs fun r =>
      { r with lact := 1, le := r.le.set 0 0x10000, lb := r.lb.set 0 0x8000, lc := r.lc.set 0 1 }))).regs
    r.pc = 0x1000C ∧ r.lact = 0 ∧ r.lc[0] = 0 := by decide +kernel
/-- R42, R43, R109: 1.5 + 2.25 = 3.75; 1 / 0 is an infinity with DZ (bit 3); an enabled DZ traps with cause 0x0D and writes nothing. -/
theorem test_fadd : outG (exec (.fadd (op 2 (.g 4) (.g 5) (.g 6))) (withGs [(5, 0x3FC00000), (6, 0x40100000)])) 4 = 0x40700000 := by decide +kernel
theorem test_fdiv_traps : let s (en : BitVec 13) := withRegs fun r => { r.putG 5 0x3F800000 with trapvec := 0x2000, fpsr := en }
    outG (exec (.fdiv (op 2 (.g 4) (.g 5) (.g 6))) (s 0)) 4 = 0x7F800000
      ∧ (outSlot (exec (.fdiv (op 2 (.g 4) (.g 5) (.g 6))) (s 0))).regs.fpsr = 8
      ∧ (outSlot (exec (.fdiv (op 2 (.g 4) (.g 5) (.g 6))) (s 0x800))).regs.trapcause = 0x0D
      ∧ outG (exec (.fdiv (op 2 (.g 4) (.g 5) (.g 6))) (s 0x800)) 4 = 0 := by decide +kernel
/-- R47: out of range gives the limit of the type with NV (bit 4). -/
theorem test_fcvi_clamps : let o := exec (.fcvi (op 2 (.g 4) (.g 5) (.imm 0))) (withGs [(5, 0x43800000)])
    outG o 4 = 127 ∧ (outSlot o).regs.fpsr = 0x10 := by decide +kernel
/-- R115: LD of a signed byte; R216: a store is seen by the slot's own load and commits nothing. -/
theorem test_st_ld : let s := out (exec (.st (op 0 (.mem 1 .offset 4) (.g 5) .none)) (withRegs fun r => (r.putG 5 0x80).putA 1 0x9000))
    s.mem = base.mem ∧ outG (exec (.ld (op 8 (.g 4) (.mem 1 .offset 4) .none)) s) 4 = 0xFFFFFFFFFFFFFF80 := by decide +kernel
/-- R28: a misaligned access is a fault with the address in TRAPADDR. -/
theorem test_ld_misaligned : let o := exec (.ld (op 2 (.g 4) (.mem 1 .offset 2) .none)) (withRegs fun r => { r.putA 1 0x9000 with trapvec := 0x2000 })
    (outSlot o).regs.trapcause = 0x04 ∧ (outSlot o).regs.trapaddr = 0x9002 := by decide +kernel
/-- R27: the window of the local store. -/
theorem test_ls_store : let s := out (exec (.st (op 1 (.mem 1 .postInc 0) (.g 5) .none))
      (withRegs fun r => (r.putG 5 0xABCD).putA 1 (BitVec.ofNat 64 (windowBase + 0x40))))
    (s.core 0).ls = [⟨0x40, 0xCD⟩, ⟨0x41, 0xAB⟩] ∧ (s.slot 0 0).regs.a[1] = BitVec.ofNat 64 (windowBase + 0x42) := by decide +kernel
/-- R235: a deferred atomic waits for the grant. -/
theorem test_aadd_deferred : let s := out (exec (.aadd (op 3 .none (.mem 1 .offset 0) (.g 6))) (withRegs fun r => (r.putG 6 5).putA 1 0x9000))
    s.mem = base.mem ∧ (s.slot 0 0).chunk.effects = [.atomic 0x68 3 0x9000 5] := by decide +kernel
/-- R234: ACAS that returns compares with the destination's value and swaps at once. -/
theorem test_acas : let s := { (withRegs fun r => (putGs r [(4, 0), (6, 7)]).putA 1 0x9000) with cur := .slot 0 0 }
    let t := out (exec (.acas (op 7 (.g 4) (.mem 1 .offset 0) (.g 6))) s)
    t.mem.nat 0x9000 8 = 7 ∧ (t.slot 0 0).regs.g[4] = 0 := by decide +kernel
/-- R95: a privileged CSR at user level, and one that no chapter assigns. -/
theorem test_csrr_traps : let s := withRegs fun r => { r with trapvec := 0x2000 }
    let o := exec (.csrr (op 0 (.g 4) (.csr 0x100) .none)) s
    let p := exec (.csrr (op 0 (.g 4) (.csr 0x0FF) .none)) s
    (outSlot o).regs.trapcause = 0x03 ∧ (outSlot o).regs.trapinfo = 1 ∧ (outSlot p).regs.trapcause = 0x01 ∧ (outSlot p).regs.trapinfo = 0x12 := by decide +kernel
/-- R224: CHUNKCFG.TARGET is clamped. -/
theorem test_csrw_target : (outSlot (exec (.csrw (op 0 (.csr 0x020) (.imm 3) .none)) base)).regs.target = 16 := by decide +kernel
/-- R337: SYSCALL completes, cuts with code 0x09, and its trap waits for the grant. -/
theorem test_syscall : let y := outSlot (exec (.syscall (op 0 .none (.imm 5) .none)) base)
    y.cut = 0x09 ∧ y.park = .grant (.trap { cause := 0x0F, info := 5 }) ∧ y.waiting.isSome = true ∧ y.regs.pc = 0x1000C := by decide +kernel
/-- R338: ERET. -/
theorem test_eret : let r := (outSlot (exec (.eret (op 0 .none .none .none)) (withRegs fun r =>
      { r with priv := true, inh := true, trappc := 0x5000 }))).regs
    r.pc = 0x5000 ∧ r.priv = false ∧ r.inh = false := by decide +kernel
/-- R140: each lane of 16 bits on its own; the guard keeps lane 0. -/
theorem test_vadd_lanes : let s := withRegs fun r => (((r.putV 2 0x00020001FFFF).putV 3 0x000100010001).putV 1 0x1111).putP 2 0xFFFFFFFE
    ((outSlot (exec (.vadd (opIf false 2 1 (.v 1) (.v 2) (.v 3))) s)).regs.v[1]).extractLsb' 0 48 = 0x000300021111#48 := by decide +kernel
/-- R145: a sum over the lanes of I8, all of them 1. -/
theorem test_vred : outG (exec (.vred (op 0 (.g 4) (.v 2) (.imm 0))) (withRegs fun r => r.putV 2 (BitVec.ofNat 512 ((2 ^ 512 - 1) / 255)))) 4 = 64 := by decide +kernel
/-- R61, R62: an Absolute record of the integer 3 is 3 × 2^149 with COUNT 1, and rounds to 3.0. -/
theorem test_absolute : absValue (absOf 2 3) = 3 * 2 ^ 149 ∧ (absRound f32 0 (absOf 2 3)).1 = 0x40400000 := by decide +kernel
/-- R248, R269: CAPKEY of 1 is the top bits of the constant. -/
theorem test_capkey : outG (exec (.capkey (op 0 (.g 4) (.g 9) (.imm 8))) (withGs [(9, 1)])) 4 = 0x9F := by decide +kernel
/-- R208: YIELD parks for the turns asked: the slot's next turn is in the rotation after them. -/
theorem test_yield : (outSlot (exec (.yield (op 0 .none (.imm 3) .none)) base)).park = .yield 4 := by decide +kernel
/-- R376: STKQ of stack 1 after reset: OWNED by the die of port 0. -/
theorem test_stkq : (BitVec.extractLsb' 0 16 (outG (exec (.stkq (op 0 (.g 5) (.imm 1) .none)) base) 5))
    = (stackDie1 1 ++ stackDie0 1 ++ 0#2 ++ 0#1 ++ stackDie0 1 ++ 1#4 : BitVec 16) := by decide +kernel
/-- R341, R340: a record at PROD 2 of a queue with LOGN 4. -/
theorem test_fault_record : let s := { base with faultqs := [(1, { base := 0x100000, en := true, prod := 2 })] }
    let t := s.report 1 { cause := 0x07, sub := 3, kind := 1, core := 5, slot := 9, va := 0x1234, pc := 0x88 }
    let r := t.mem.nat (0x100000 + 128) 64
    (t.faultq 1).prod = 3 ∧ r % 256 = 0x07 ∧ r / 2 ^ 8 % 256 = 3 ∧ r / 2 ^ 16 % 16 = 1 ∧ r / 2 ^ 24 % 1024 = 5 ∧ r / 2 ^ 320 % 2 ^ 32 = 2 := by decide +kernel
/-- R191, R192: NOP at HEAD of a ring ends with STATUS 01 at byte 1, and HEAD goes on. -/
theorem test_cmd_nop : let s := { base with cur := .queue 0 0, ctxs := [(0, { ptroot := 0x40000 })], queues := [(0, { base := 0x20000, en := true, tail := 1, busy := true })] }
    let t := out (exec .cmdNop s)
    (t.queue 0 0).head = 1 ∧ t.mem.nat 0x20000 2 = 0x0100 := by decide +kernel
/-- A step of the whole machine runs the word that stands at the pc: ADD on a slot, a 64-byte XCOPY on an engine hart. -/
theorem test_step : let t := out (step (State.reset.withFetchWord 96 0x2070020000040000_05800007))
    (t.slot 0 0).regs.pc = 0x1000C ∧ (t.slot 0 0).regs.g[4] = 7 := by decide +kernel
theorem test_step_hart : (((out (step (base.withFetchWord 96 0xD07000640000670000800040))).engine 0).regs.pc) = 0x100C := by decide +kernel

-- Witnesses. For each statement: operands and a state that meet its hypotheses, clause by clause.

/-- The hypotheses of Issues at slot 0 of core 0, as a Bool. -/
def issues (i : Instr) (f : Fields) (lanes : Nat) (s : State) : Bool :=
  s.cur == .slot 0 0 && (!privileged (opcOf i) || s.priv) && s.anyLane f lanes && !(s.slot 0 0).pending (gUsed (opcOf i) f)
theorem issues_sound {i : Instr} {f : Fields} {n : Nat} {s : State} (h : issues i f n s = true) : Issues i f n s 0 0 := by
  simp only [issues, Bool.and_eq_true, Bool.or_eq_true, beq_iff_eq, Bool.not_eq_true'] at h
  obtain ⟨⟨⟨hc, hp⟩, hg⟩, hf⟩ := h
  exact ⟨hc, fun h => hp.resolve_left (by simp [h]), hg, hf⟩

/-- The result of an access, and the state after it. -/
def okay {α : Type} (r : Res α) : Bool := match r with
  | .ok _ => true
  | .error _ => false
/-- The access gives a result and a state that meet a test. -/
def okThat {α : Type} (r : Res α) (p : α → State → Bool) : Bool := match r with
  | .ok (x, t) => p x t
  | .error _ => false
def okState {α : Type} (r : Res α) : State := match r with
  | .ok (_, t) => t
  | .error _ => State.reset

/-- Two G registers and an immediate; three G registers. -/
def fi : Fields := op 3 (.g 4) (.g 5) (.imm 12)
def fg : Fields := op 3 (.g 4) (.g 6) (.g 8)
/-- Supervisor level. -/
def super : State := withRegs fun r => { r with priv := true }

theorem witness_ArithmeticResults : ∀ i ∈ [Instr.add fi, .sub fi, .mul fi, .mulh fi, .minI fi, .maxI fi, .absI fi, .negI fi, .madd fg],
    issues i fi 1 base = true := by decide +kernel
/-- A waiting chunk that has written a byte, of slot 0, and of slots 0 and 1 with other lines; the same where the links sleep. -/
def waiting (s : State) (k : SlotId) (pa : Nat) : State :=
  { s.setSlot 0 k { s.slot 0 0 with waiting := some { ({} : Chunk) with wr := [⟨pa, 7⟩], len := 1 } } with cur := .none, requests := s.requests ++ [.slot 0 k] }
def waits : State := waiting base 0 0x9000
def waitsTwo : State := waiting waits 1 (2 ^ 36)
theorem witness_DivisionResults : issues (.div fi) fi 1 base = true ∧ issues (.rem fi) fi 1 base = true
    ∧ base.operand fi fi.src2 ≠ 0 ∧ base.operand fg fg.src2 = 0 := by decide +kernel
/-- Amounts 64 (both clauses of SHL), 63 and 64 of 64 bits (SAR). -/
theorem witness_BitwiseAndShiftResults : (∀ i ∈ [Instr.andI fg, .orI fg, .xorI fg, .andn fg, .orn fg, .shl fg, .shr fg, .sar fg, .rol fg, .shlf fg], issues i fg 1 base = true)
    ∧ ((withGs [(8, 64)]).src fg.src2).toNat = 64 ∧ ((withGs [(8, 63)]).src fg.src2).toNat < tyWidth (modTy fg.mod) := by decide +kernel
theorem witness_BitFieldResults : (∀ i ∈ [Instr.clz fi, .ctz fi, .popc fi, .brev fi, .bswap fi, .bfx fi, .bfi fi, .ext fi], issues i fi 1 base = true)
    ∧ (base.src fi.src1).toNat % 2 ^ 64 = 0
    ∧ ((withGs [(5, 2 ^ 63)]).src fi.src1).toNat.testBit 63 = true ∧ ((withGs [(5, 1)]).src fi.src1).toNat.testBit 0 = true := by decide +kernel
theorem witness_WideProduct : issues (.mulh fg) fg 1 base = true ∧ issues (.mulw fg) fg 1 base = true ∧ tyWidth (modTy fg.mod) = 64 ∧ tyWidth (modTy (op 2 (.g 4) (.g 6) (.g 8)).mod) ≠ 64 := by decide +kernel
theorem witness_CompareResults : (∀ cond : BitVec 4, issues (.cmp (op 3 (.pp 1 2 cond) (.g 5) (.g 6))) (op 3 (.pp 1 2 cond) (.g 5) (.g 6)) 1 base = true)
    ∧ issues (.sel (op 9 (.g 4) (.g 5) (.imm 1))) (op 9 (.g 4) (.g 5) (.imm 1)) 1 base = true := by decide +kernel
theorem witness_MoveAndPredicateResults : (∀ i ∈ [Instr.mov fi, .amov fi, .movi (op 0 (.g 4) (.half 1) (.half 2)), .movh fi, .pset (op 0 (.p 1) (.g 4) .none),
      .pget (op 0 (.g 4) (.p 7) .none), .pcnt (op 0 (.g 4) (.p 3) .none), .lea (op 2 (.g 4) (.mem 1 .offset 8) (.g 5)), .lea (op 2 (.a 1) (.mem 1 .postAdd 8) (.g 5)), .lea (op 2 (.a 1) (.mem 1 .preSub 8) (.g 5)),
      .plog (op 0 (.p 1) (.p 2) (.imm 0x796))], issues i ((i.head.map (·.2)).getD fi) 1 base = true) := by decide +kernel
theorem witness_ControlTransfers : (∀ i ∈ [Instr.nop fi, .bra fi, .call fi, .jmp fi, .callr fi, .ret fi], issues i fi 1 base = true)
    ∧ ((withGs [(5, 0x2000)]).src fi.src1).extractLsb' 0 2 = 0 ∧ ((withGs [(5, 0x2002)]).src fi.src1).extractLsb' 0 2 ≠ 0 := by decide +kernel
/-- Counts 0 and 1; level 3 inactive and active; a loop end of no level, of level 1 with more turns, of level 1 alone in its last turn. -/
theorem witness_LoopInstructions : let l : Fields := op 3 .none (.g 5) (.imm 4)
    issues (.loopI l) l 1 base = true ∧ issues (.loopx l) l 1 base = true
      ∧ (base.src l.src1).setWidth 32 = 0#32 ∧ ((withGs [(5, 1)]).src l.src1).setWidth 32 = 1#32
      ∧ base.regs.lact.getLsbD 3 = false ∧ (withRegs fun r => { r with lact := 8 }).regs.lact.getLsbD 3 = true
      ∧ (let r : Regs := { lact := 6, le := (Vector.replicate 4 4).set 1 0x10, pc := 0x10, lc := Vector.replicate 4 2 }
        r.lact.getLsbD 1 = true ∧ r.le[1] = r.pc ∧ r.le[0] ≠ r.pc ∧ r.lc[1] ≠ 1 ∧ r.le[2] ≠ r.pc ∧ r.le[3] ≠ r.pc
          ∧ (Vector.replicate 4 1 : Vector (BitVec 32) 4)[1] = 1) := by decide +kernel
theorem witness_FalseGuardHasNoEffect : base.cur = .slot 0 0 ∧ (base.guardMask (opIf true 7 0 .none .none .none)).getLsbD 0 = false := by decide +kernel
theorem witness_UserLevelTraps : base.cur = .slot 0 0 ∧ base.regs.priv = false := by decide +kernel
theorem witness_FaultIsTaken : base.showProgress 0 0 none = (base, true)
    ∧ (∀ p ∈ [(⟨none, 5⟩ : Progress), ⟨some 1, 5⟩, ⟨some 3, 5⟩], (base.showProgress 0 0 (some p)).2 = true) ∧
    (let y := (withRegs fun r => { r with trapvec := 0x2000 }).slot 0 0;
      y.chunk.len = 0 ∧ y.waiting = none ∧ y.strands { cause := 4 } = false ∧ y.regs.trapvec ≠ 0 ∧ y.regs.inh = false)
    ∧ (let y := (withSlot fun y => { y with chunk := { y.chunk with len := 1 } }).slot 0 0;
      y.chunk.len ≠ 0 ∧ y.waiting = none ∧ y.dZero = true ∧ y.strands { cause := 4 } = false) := by decide +kernel
/-- A supervisor's slot with TRAPPC, AWR and a result that has arrived; and one whose trap is due, with a handler and INH. -/
def trapped (pc : Word) (awr : Bool) (a : Option Word) : State := withSlot fun y =>
  { y with arrived := a, regs := { y.regs with priv := true, trappc := pc, awr := awr } }
def dueTrap (v : Word) (inh : Bool) : State := withSlot fun y =>
  { y with park := .trap { cause := 0x0E }, regs := { y.regs with trapvec := v, inh := inh } }
def fe : Fields := op 0 .none .none .none
theorem witness_ReturnFromTrap : ∀ s ∈ [trapped 0x5000 false none, trapped 0x5000 true (some 7), trapped 0x5000 true none, trapped 0x5002 false none],
    issues (.eret fe) fe 1 s = true ∧ (s.ctx s.curCtx).tilesWait = [] ∧ s.chunk.solo = false := by decide +kernel
theorem witness_TrapEntryEvent : ∀ s ∈ [dueTrap 0x2000 false, dueTrap 0 false, dueTrap 0x2000 true],
    s.cur = .slot 0 0 ∧ (s.slot 0 0).park = .trap { cause := 0x0E } := by decide +kernel
theorem witness_RoundingIsCorrect : (2 : Int) ≤ 2 ∧ (0 : Int) < 1 ∧ roundAt 0 false 3 false 0 1 = (2, false) ∧ roundAt 0 false 5 false 0 1 = (2, false) := by decide +kernel
/-- With no flag enabled no result traps; with all of them enabled 1 / 0 does. -/
theorem witness_FloatResults : let f := op 2 (.g 4) (.g 5) (.g 6)
    (∀ i ∈ [Instr.fadd f, .fsub f, .fmul f, .fdiv f, .ffma f, .fsqrt f, .fmin f, .fmax f, .frnd f, .fscale f], issues i f 1 base = true)
      ∧ (∀ i ∈ [Instr.fcvt (op 2 (.g 4) (.g 5) (.imm 3)), .icvf (op 2 (.g 4) (.g 5) (.imm 3))], issues i (op 2 (.g 4) (.g 5) (.imm 3)) 1 base = true)
      ∧ base.regs.fpsr.extractLsb' 8 5 &&& (fpDiv f32 0 0x3F800000 0).2 = 0
      ∧ (0x1F00#13).extractLsb' 8 5 &&& (fpDiv f32 0 0x3F800000 0).2 ≠ 0 := by decide +kernel
theorem witness_FloatCompareAndConvert : let f := op 2 (.pp 1 2 9) (.g 5) (.g 6)
    let g := op 2 (.g 4) (.g 5) (.imm 3)
    issues (.fcmp f) f 1 base = true ∧ (∀ i ∈ [Instr.fcvi g, .fclass g, .fsgn g], issues i g 1 base = true)
      ∧ base.regs.fpsr.extractLsb' 8 5 &&& (fpToInt f32 0 3 0).2 = 0 ∧ base.regs.fpsr.extractLsb' 8 5 &&& (fpCond f32 9 0 0).2 = 0 := by decide +kernel
/-- The last number at user level, the first above it, and one that no chapter assigns. -/
theorem witness_CsrReads : let f (n : BitVec 12) := op 0 (.g 4) (.csr n) .none
    (∀ n ∈ [0x061, 0x0FF, 0x100, 0x111], issues (.csrr (f n)) (f n) 1 base = true ∧ issues (.csrr (f n)) (f n) 1 super = true)
      ∧ (super.csrVal 0x100).isSome = true ∧ base.csrVal 0x0FF = none ∧ base.regs.priv = false ∧ super.regs.priv = true := by decide +kernel
theorem witness_CsrValues : base.cur = .slot 0 0 ∧ super.cur = .slot 0 0 := by decide +kernel
theorem witness_CsrWrites : let w := op 0 (.csr 0x020) (.g 5) .none
    let x := op 0 (.g 4) (.csr 0x100) (.g 5)
    issues (.csrw w) w 1 base = true ∧ (base.csrVal 0x020).isSome = true ∧ base.regs.priv = false ∧ super.isAlone = true ∧ super.regs.priv = true
      ∧ (∀ i ∈ [Instr.csrxSwp x, .csrxSet x, .csrxClr x], issues i x 1 super = true) ∧ (super.csrVal 0x100).isSome = true := by decide +kernel
theorem witness_InstructionsThatCut : let f := op 0 .none (.imm 1) .none
    (∀ i ∈ [Instr.cut f, .halt f, .trapI f, .syscall f], issues i f 1 base = true) ∧ (base.slot 0 0).dZero = true ∧ (base.slot 0 0).waiting = none
      ∧ (base.slot 0 0).cutDue = none ∧ (base.slot 0 0).park = .ready ∧ base.chunk.solo = false ∧ base.regs.vis = false
      ∧ (base.slot 0 0).awaiting = none ∧ ((withSlot fun y => { y with awaiting := some 3 }).slot 0 0).awaiting = some 3 := by decide +kernel

/-- A1 at an address of ordinary memory, and at one of the local store. -/
def memState : State := withRegs fun r => r.putA 1 0x9000
def lsState : State := withRegs fun r => r.putA 1 (BitVec.ofNat 64 windowBase)
/-- The last aligned doubleword of the local store. -/
def lsEnd : State := withRegs fun r => r.putA 1 (BitVec.ofNat 64 (windowBase + 0x7FFF8))
def ml : Fields := op 3 (.g 4) (.mem 1 .offset 0) .none
def ms : Fields := op 3 (.mem 1 .postInc 0) (.g 6) .none

theorem witness_LoadAndStoreResults :
    (∀ s ∈ [memState, lsState], okay (s.load (s.addrOf ml.src1 8) 8 8) = true ∧ (okState (s.load (s.addrOf ml.src1 8) 8 8)).cur = s.cur
      ∧ okay (s.store (s.addrOf ms.dst 8) (leBytes 8 5) 8) = true ∧ (okState (s.store (s.addrOf ms.dst 8) (leBytes 8 5) 8)).regs = s.regs
      ∧ okay (s.load (s.addrOf ml.src1 16) 16 16) = true ∧ okay (s.store (s.addrOf ms.dst 16) (leBytes 16 5) 16) = true
      ∧ issues (.ld ml) ml 1 s = true ∧ issues (.st ms) ms 1 s = true ∧ issues (.ld2 ml) ml 1 s = true ∧ issues (.st2 ms) ms 1 s = true
      ∧ issues (.pref ml) ml 1 s = true) := by decide +kernel
theorem witness_AsynchronousLoads : let f := op 3 (.g 4) (.mem 1 .offset 0) (.dep 3)
    issues (.lda f) f 1 memState = true ∧ memState.regs.d.get 3 ≠ 255 ∧ okay (memState.load 0x9000 8 8) = true
      ∧ (okState (memState.load 0x9000 8 8)).chunk.solo = false
      ∧ ((out (exec (.lda f) memState)).slot 0 0).ldas.find? (fun l => l.g == 4) = some ⟨4, 3, 0⟩ := by decide +kernel
theorem witness_MemoryAccessFrame : memState.chunk.solo = false ∧ memState.cur = .slot 0 0
    ∧ okThat (memState.locate 0x9000 8 .read) (fun l _ => l == .mem 0x9000) = true ∧ okay (memState.load 0x9000 8 8) = true
    ∧ okThat (memState.locate 0x9000 8 .write) (fun l _ => l == .mem 0x9000) = true ∧ okay (memState.store 0x9000 (leBytes 8 5) 8) = true := by decide +kernel
theorem witness_LocalStoreAccess : (lsEnd.core 0).ls.wf = true ∧ 0x7FFF8 % accSize ml.mod = 0 ∧ 0x7FFF8 + accSize ml.mod = 0x80000 ∧ accConv ml.mod = none
    ∧ (lsEnd.slot 0 0).chunk.updateOn 0 (linesOf 0x7FFF8 8) = false ∧ (lsEnd.core 0).undoCount + 8 ≤ 204 ∧ (lsEnd.core 0).lsPoison = []
    ∧ lsEnd.addrOf ml.src1 8 = BitVec.ofNat 64 (windowBase + 0x7FFF8) ∧ issues (.ld ml) ml 1 lsEnd = true ∧ issues (.st ms) ms 1 lsEnd = true
    ∧ (∀ e ∈ (lsEnd.core 0).slots, e.1 ≠ 0 → e.2.chunk = {} ∧ e.2.waiting = none) := by decide +kernel
/-- Deferred atomics in memory and in the own local store. -/
theorem witness_DeferredAtomics : let f := op 3 .none (.mem 1 .offset 0) (.g 6)
    (∀ i ∈ [Instr.aadd f, .aand f, .aor f, .axor f, .amin f, .amax f, .axchg f, .acas f], issues i f 1 memState = true ∧ issues i f 1 lsState = true)
      ∧ okThat (memState.locateInside 0x9000 8 .write) (fun l t => l == .mem 0x9000 && t.chunk.deferredCount < 64) = true
      ∧ okThat (lsState.locateInside (BitVec.ofNat 64 windowBase) 8 .write) (fun l t => l == .ls 0 0 && t.chunk.deferredCount < 64
        && !t.chunk.remoteOn 0 [0] && (t.core 0).slots.all fun e => e.1 == 0 || (decide (e.2.chunk = {}) && e.2.waiting.isNone)) = true := by decide +kernel
theorem witness_ReturningAtomics : let f := op 7 (.g 4) (.mem 1 .offset 0) (.g 6)
    let g := op 4 (.g 4) (.mem 1 .offset 0) (.g 6)
    (∀ i ∈ [Instr.aadd f, .aand f, .aor f, .axor f, .amin f, .amax f, .axchg f, .acas f], issues i f 1 memState = true)
      ∧ issues (.acas2 g) g 1 memState = true ∧ memState.isAlone = true
      ∧ okThat (memState.locateInside 0x9000 16 .write) (fun l t => l == .mem 0x9000 && !t.tokenBars (linesOf 0x9000 16)
        && (t.poisoned (linesOf 0x9000 16)).isNone && !(memState.slot 0 0).chunk.hit (linesOf 0x9000 16)
        && !(t.journal t.curCtx).rec_ && !(t.journal t.curCtx).rpl) = true := by decide +kernel
theorem witness_Fences : let f := op 0 .none .none .none
    let s (p : Posted) : State := { base.setSlot 0 0 { base.slot 0 0 with posted := p } with answer := some 0 }
    (∀ p ∈ [({} : Posted), { count := 1 }, { count := 1, err := 5 }], issues (.fence f) f 1 (s p) = true ∧ issues (.fenceSys f) f 1 (s p) = true
      ∧ (s p).isAlone = true ∧ (s p).host.up = true ∧ ((s p).slot 0 0).posted = p) := by decide +kernel
/-- A value that differs, an equal one with a time-out, and a slot that waits. -/
theorem witness_WaitsOnMemory : let f := op 1 (.g 4) (.mem 1 .offset 0) (.g 6)
    let s : State := withRegs fun r => { (r.putA 1 0x9000).putG 6 1 with waittmo := 5 }
    let t := withRegs fun r => { r.putA 1 0x9000 with waittmo := 5 }
    issues (.waitv f) f 1 s = true ∧ s.isAlone = true
      ∧ okThat ((s.setChunk { s.chunk with solo := true }).locateInside 0x9000 8 .read) (fun l u => l == .mem 0x9000
        && (u.poisoned (linesOf 0x9000 8)).isNone) = true
      ∧ s.mem.nat 0x9000 8 ≠ (s.src f.src2).toNat ∧ t.mem.nat 0x9000 8 = (t.src f.src2).toNat
      ∧ (let w := out (exec (.waitv f) t)
        (w.slot 0 0).park = .waitv 4 false 0x9000 8 (some 5) ∧ (w.core 0).asleep = false ∧ w.poisoned (linesOf 0x9000 8) = none
          ∧ w.reach (dieOf 0) (stackOf 0x9000) = .yes ∧ 5 ≤ ({ w with rot := 5 } : State).rot) := by decide +kernel

/-- The launch of slot 0 with another descriptor. -/
def withDesc (d : BitVec 1024 → BitVec 1024) (s : State) : State :=
  { s with launches := [(1, { wordLaunch with desc := d wordLaunch.desc, population := 1 })] }
def setBit (d : BitVec 1024) (n : Nat) : BitVec 1024 := setField d n 1 1

/-- A supervisor's JRNL with its buffer of one page at 0x9000: idle, while recording, and with the header of a recording of context 0 there. -/
def jb : Fields := op 1 .none (.mem 1 .offset 0) (.imm 1)
def jState (m : Mem) (j : Journal) : State := { (withRegs fun r => { r.putA 1 0x9000 with priv := true }) with mem := m, journals := [(0, j)] }
def jIdle : State := jState base.mem {}
theorem witness_JournalInstructions : jIdle.isAlone = true ∧ issues (.jrnlStat (op 3 (.g 4) .none .none)) (op 3 (.g 4) .none .none) 1 jIdle = true
    ∧ issues (.jrnlOff fe) fe 1 jIdle = true ∧ issues (.jrnlOff fe) fe 1 (jState base.mem { rec_ := true, frames := [0x9000] }) = true
    ∧ ((jState base.mem { rec_ := true, frames := [0x9000] }).slot 0 0).chunk.hit (linesOf 0x9000 64) = false
    ∧ issues (.jrnlRec jb) jb 1 jIdle = true ∧ (jIdle.journal 0).rec_ = false ∧ (jIdle.journal 0).rpl = false
    ∧ okThat (jIdle.journalBuffer jb .write) (fun l _ => l == [0x9000] && !jIdle.chunk.solo) = true
    ∧ issues (.jrnlRpl jb) jb 1 jIdle = true ∧ (jIdle.mem.nat 0x9000 64).testBit 63 = false
    ∧ okThat (jIdle.journalBuffer jb .read) (fun l t => l == [0x9000] && (t.poisoned (linesOf 0x9000 64)).isNone) = true
    ∧ (let h := (jState (base.mem.setNat 0x9000 8 (2 ^ 63 + 2)) {}).mem.nat 0x9000 64
      h.testBit 63 = true ∧ h / 2 ^ 32 % 4096 = 0 ∧ h % 2 ^ 32 ≤ (4096 - 64) / 16)
    ∧ (jIdle.slot 0 0).dZero = true ∧ (jIdle.slot 0 0).cutDue = none ∧ (jIdle.slot 0 0).park = .ready ∧ (jIdle.addrOf jb.src1 8).toNat % 4096 = 0
    ∧ ((withRegs fun r => r.putA 1 0x9008).addrOf jb.src1 8).toNat % 4096 ≠ 0 ∧ (jIdle.src (.imm 0)).toNat = 0
    ∧ (let s := jState base.mem { rec_ := true, frames := [0x9000] }
      (s.journal (entryCtx (s.slot 0 0).entry)).rec_ = true ∧ (s.stack (stackOf ((s.journal 0).at 0))).st ≠ .fenced ∧ (jIdle.journal 0).rec_ = false) := by decide +kernel

/-- A gang of one core and one slot, with barrier 2 not set, set, arrived at, and its generation awaited. -/
def gang (v : Barrier) : State :=
  let s := withDesc (setBit · 146) base
  s.setCore 0 { s.core 0 with bars := (s.core 0).bars.set 2 v }
theorem witness_BarrierInstructions : let b := op 0 (.bar 2) (.imm 0) .none
    let a := op 1 (.g 4) (.bar 2) .none
    let w := op 0 .none (.bar 2) (.imm 0)
    let s := gang {}
    let v := gang { valid := true }
    issues (.barset b) b 1 s = true ∧ (s.launch s.curSeq).isSome = true ∧ s.spans 0 2 = false ∧ (s.bar 0 2).arrv = 0 ∧ (s.core 0).tokens = []
      ∧ (∀ d ∈ s.launch s.curSeq, descGang d.desc = true ∧ descLw d.desc = 0 ∧ descLh d.desc = 0 ∧ descCtx d.desc = 0)
      ∧ (s.src b.src1).toNat < 64 ∧ ¬ (s.src (.imm 1)).toNat % 8 = 0 ∧ issues (.barset (op 0 (.bar 2) (.imm 1) .none)) (op 0 (.bar 2) (.imm 1) .none) 1 s = true
      ∧ (gang { arrv := 1 }).bar 0 2 ≠ (s.bar 0 2)
      ∧ issues (.bararr a) a 1 s = true ∧ (s.bar 0 2).valid = false ∧ issues (.bararr a) a 1 v = true ∧ (v.bar 0 2).valid = true ∧ v.isAlone = true
      ∧ (v.slot 0 0).barred = none ∧ issues (.barwait w) w 1 v = true ∧ (v.bar 0 2).gen = 0 ∧ ((gang { valid := true, gen := 255 }).bar 0 2).gen ≠ 0
      ∧ (let u := v.setSlot 0 0 { v.slot 0 0 with barred := some (0, 2, 0) }
        (u.slot 0 0).barred = some ((u.slot 0 0).seq, 2, 0) ∧ (u.bar 0 2).valid = true ∧ u.isAlone = true) := by decide +kernel

/-- A token for a shape that matches, and for one that does not; the master of group 7 with one member, and with two. -/
def member (n : BitVec 9) : State := { gang { valid := true, niGen := 4 } with cur := .none, pkgBars := [(0, { group := 7, npkg := n, bmask := 4 })] }
theorem witness_BarrierMessages : let s := { gang { valid := true, lw := 3 } with cur := .core 0 }
    s.cur = .core 0 ∧ (s.bar 0 2).valid = true ∧ (s.bar 0 2).lh.toNat * 8 + (s.bar 0 2).lw.toNat = (3 : BitVec 6).toNat ∧ (s.gangOn 0).isSome = true
      ∧ (s.core 0).asleep = false ∧ (s.bar 0 2).lh.toNat * 8 + (s.bar 0 2).lw.toNat ≠ (4 : BitVec 6).toNat
      ∧ (∀ n ∈ [(1 : BitVec 9), 2], (member n).cur = .none ∧ (member n).groupRec 7 2 = some (0, { group := 7, npkg := n, bmask := 4 }) ∧ (member n).pkg = 0
        ∧ (member n).pkgCount = [])
      ∧ (member 1).launches.length = 1 ∧ (∀ e ∈ (member 1).launches, descCtx e.2.desc = 0 ∧ descGang e.2.desc = true ∧ e.2.completed = false ∧ e.2.at 0 0 = 0)
      ∧ (∀ k : BitVec 2, s.linksUp (pathOf (s.tokenFrom 0 k 2) 0) = true)
      ∧ (let far := { gang {} with cur := .core 15, linksAsleep := 1 };
        far.linksUp (pathOf (far.tokenFrom 15 0 2) 15) = false)
      ∧ (let saved : State := { member 1 with cores := [], launches := [(1, { wordLaunch with desc := setBit wordLaunch.desc 146, preempted := true })] };
        (saved.gangOn 0).isNone = true)
      ∧ ((member 1).bar 0 2).niGen = 4 ∧ ((member 1).bar 0 2).valid = true ∧ ((member 1).gangOn 0).isSome = true ∧ ((member 1).core 0).asleep = false := by decide +kernel

/-- A ring with room and a full one of context 0; one of another context. -/
def ringOf (z : Queue) : State := { (withRegs fun r => { r.putA 1 0x9000 with d := Vector.replicate 4 3, priv := true }) with queues := [(5, z)] }
theorem witness_CooperationInstructions : let l := op 0 .none (.mem 1 .offset 0) (.imm 5)
    let w := op 0 .none (.dep 3) (.imm 3)
    let r := op 0 (.g 4) (.imm 1) .none
    issues (.yield fi) fi 1 base = true ∧ (let y := out (exec (.yield (op 0 .none (.imm 0) .none)) base)
        (y.slot 0 0).park = .yield 2 ∧ { y with rot := 2 }.cur = .slot 0 0)
      ∧ issues (.waitd w) w 1 (ringOf {}) = true ∧ ((ringOf {}).regs.d.get 3).toNat = ((ringOf {}).src w.src2).toNat
      ∧ ((ringOf {}).src (.imm 2)).toNat < ((ringOf {}).regs.d.get 3).toNat
      ∧ issues (.launch l) l 1 (ringOf {}) = true ∧ ((ringOf {}).addrOf l.src1 8).toNat % 128 = 0 ∧ ((ringOf {}).queue 0 5).ctx = (ringOf {}).curCtx
      ∧ ¬ 2 ^ max 4 ((ringOf {}).queue 0 5).logn.toNat ≤ 0 ∧ ((ringOf { tail := 16 }).queue 0 5).tail.toNat = 2 ^ 4
      ∧ ((ringOf { ctx := 1 }).queue 0 5).ctx ≠ (ringOf {}).curCtx
      ∧ issues (.slotctlRd r) r 1 (ringOf {}) = true ∧ issues (.slotctlStop r) r 1 (ringOf {}) = true
      ∧ entryState ((ringOf {}).slot 0 1).entry ≠ 3 ∧ entryCtx ((ringOf {}).slot 0 1).entry = (ringOf {}).curCtx
      ∧ (let s := (ringOf {}).setSlot 0 1 { (ringOf {}).slot 0 0 with chunk := { ({} : Chunk) with len := 1 } };
        entryState (s.slot 0 1).entry = 3 ∧ (s.slot 0 1).stopping = false ∧ (s.slot 0 1).alone = false ∧ entryCapr (s.slot 0 1).entry = false
          ∧ entryMsgr (s.slot 0 1).entry = false ∧ entryCtx (s.slot 0 1).entry = s.curCtx)
      ∧ (let s := (ringOf {}).setSlot 0 1 ((ringOf {}).slot 0 0);
        entryState (s.slot 0 1).entry = 3 ∧ (s.slot 0 1).alone = true ∧ (s.slot 0 1).stopping = false ∧ (s.slot 0 0).stopDone = false ∧ s.chunk.solo = false)
      ∧ ((withSlot fun y => { y with stopDone := true }).slot 0 0).stopDone = true
      ∧ (let w := withSlot fun y => { y with park := .yield 4 }; (w.slot 0 0).park = .yield 4 ∧ 4 ≤ ({ w with rot := 4 } : State).rot)
      ∧ (let s := (ringOf {}).setSlot 0 14 { (ringOf {}).slot 0 0 with entry := mkEntry stBound true false 0 0 1 0 1 0 };
        entryCapr (s.slot 0 14).entry = true ∧ entryState (s.slot 0 14).entry ≠ 0 ∧ entryCtx (s.slot 0 14).entry ≠ s.curCtx) := by decide +kernel

/-- PROBE: in the window, at a bad address, of a page that is absent, held and mapped. -/
def probeAt (a : Word) (m : Mem → Mem) : State := { (withRegs fun r => r.putA 1 a) with mem := m base.mem }
def pf : Fields := op 0 (.g 4) (.mem 1 .offset 0) .none
theorem witness_FlushAndProbe : issues (.iflush fe) fe 1 base = true ∧ base.isAlone = true ∧ issues (.probe pf) pf 1 (probeAt 0x9000 id) = true
    ∧ inWindow ((probeAt (BitVec.ofNat 64 windowBase) id).addrOf pf.src1 8) = true
    ∧ inWindow (0xFFFFFFFFFFFFFFF8 : Word) = false ∧ badVa (0xFFFFFFFFFFFFFFF8 : Word) = true ∧ inWindow (0x9000 : Word) = false ∧ badVa (0x9000 : Word) = false
    ∧ (probeAt 0x9000 id).tlbHits 0 0x9000 = [] ∧ (probeAt 0x9000 id).walkStop 0 base.curPtroot 0x9000 = none
    ∧ (({ base with stks := [(0, { st := .fenced })] } : State).walkStop 0 base.curPtroot 0x9000 == some (0, .reject)) = true
    ∧ (match base.walkTop (towerOfDie base.curDie) base.curPtroot 0x9000 with | .leaf _ => true | _ => false) = true
    ∧ (match base.walkTop (towerOfDie base.curDie) base.curPtroot 0x8000000000 with | .absent _ _ _ => true | _ => false) = true
    ∧ (match ({ base with mem := base.mem.setNat 0x40000 8 2 } : State).walkTop (towerOfDie base.curDie) base.curPtroot 0x9000 with | .held _ _ => true | _ => false) = true := by
  decide +kernel

/-- A launch with message slots; words inside and outside its rectangle of one core. -/
def msgState (w : Word) : State := withDesc (setBit · 145) (withGs [(5, w)])
/-- A chunk that holds 64 deferred updates. -/
def fullChunk : State := withDesc (setBit · 145) (withSlot fun y =>
  { y with regs := putGs y.regs [(5, 8)], chunk := { y.chunk with len := 3, effects := List.replicate 64 (.lsw 0 8 0 1) } })
theorem witness_RemoteInstructions : let f := op 3 (.g 4) (.g 5) (.imm 1)
    let s := msgState 8
    let o := msgState 0x100000000
    (∀ i ∈ [Instr.lsw f, .lsadd f, .lsr f, .amsg f], issues i f 1 s = true ∧ issues i f 1 o = true) ∧ s.isAlone = true ∧ s.chunk.deferredCount < 64
      ∧ s.src f.src1 &&& remoteBad = 0 ∧ descW s.curLaunch.desc = 1 ∧ descH s.curLaunch.desc = 1 ∧ descMsg s.curLaunch.desc = true
      ∧ (s.src f.src1).toNat % 2 ^ 19 % 8 = 0 ∧ entryMsgr (s.slot 0 0).entry = false
      ∧ ¬ (o.src f.src1).toNat / 2 ^ 32 % 32 < descW o.curLaunch.desc ∧ s.src (.imm 0) &&& messageBad = 0 ∧ descMsg base.curLaunch.desc = false
      ∧ 64 ≤ fullChunk.chunk.deferredCount ∧ (fullChunk.slot 0 0).canCut = true ∧ (∀ i ∈ [Instr.lsw f, .lsadd f, .amsg f], issues i f 1 fullChunk = true)
      ∧ ((withSlot fun y => { y with park := .remote 4 }).slot 0 0).park = .remote 4 ∧ base.chunk.deadSet = 0 := by decide +kernel

/-- An active message and an LSR request on their way, and at the head of the queue of a core whose message slot is idle. -/
def amsg0 : Msg := { id := 3, lsr := false, src := 0, srcSlot := 0, dst := 0, seq := 1, pc := 0x8000, arg := 5, ret := some 4 }
def lsr0 : Msg := { amsg0 with lsr := true, pc := 0x40, arg := 1 }
def msgReady (m : Msg) : State :=
  let s := withDesc (setBit · 145) base
  let s := s.setSlot 0 0 { s.slot 0 0 with park := .remote 4 }
  let s := s.setSlot 0 15 { s.slot 0 15 with entry := mkEntry stBound false true 0 0 0 0 1 0 }
  { s.setCore 0 { s.core 0 with msgs := [m] } with cur := .core 0, flying := [(3, m)] }
theorem witness_MessageEvents : let s := { msgReady amsg0 with cur := .item 3 }
    s.cur = .item 3 ∧ s.flying.find 3 = some amsg0 ∧ (s.launch 1).isSome = true ∧ (s.core 0).asleep = false ∧ (s.core 0).msgs.length < 32
      ∧ (((msgReady amsg0).messageIdle 0).map (·.1)) = some amsg0 ∧ (((msgReady lsr0).messageIdle 0).map (·.1)) = some lsr0
      ∧ entrySeq ((msgReady lsr0).slot 0 0).entry = lsr0.seq ∧ ((msgReady lsr0).slot 0 0).park = .remote 4
      ∧ (∀ e ∈ ((msgReady lsr0).core 0).slots, e.2.chunk = {} ∧ e.2.waiting = none) ∧ ((msgReady lsr0).core 0).lsPoison = []
      ∧ s.linksUp (pathOf amsg0.src amsg0.dst) = true ∧ (∀ e ∈ s.flying, ¬ e.1 < 3)
      ∧ (({ s with linksAsleep := 1 } : State).linksUp (pathOf 0 16) = false ∧ (0 : BitVec 4) ∈ pathOf 0 16)
      ∧ 32 ≤ (List.replicate 32 amsg0).length
      ∧ (let g := (msgReady lsr0).setSlot 0 15 { (msgReady lsr0).slot 0 15 with park := .read lsr0 7 };
        (g.slot 0 15).park = .read lsr0 7 ∧ (g.launch 1).map (·.aborted) = some false ∧ entrySeq (g.slot 0 0).entry = lsr0.seq ∧ (g.slot 0 0).chunk.deadSet = 0) := by decide +kernel

/-- A step of a walk through an entry with every permission. -/
theorem walksDown (s : State) (va : Word) (root lvl table t : Nat) (h : s.WalksTo va root (lvl + 1) table true true true)
    (ok : (let e := s.entryAt va (lvl + 1) table
      isLocal table && e.getLsbD 0 && e.extractLsb' 52 12 == 0 && !e.getLsbD 5 && fieldNat e 6 46 * 64 % 4096 == 0 && fieldNat e 6 46 * 64 == t
        && e.getLsbD 2 && e.getLsbD 3 && e.getLsbD 4) = true) : s.WalksTo va root lvl t true true true := by
  simp only [Bool.and_eq_true, beq_iff_eq, Bool.not_eq_true'] at ok
  obtain ⟨⟨⟨⟨⟨⟨⟨⟨hl, h0⟩, hz⟩, h5⟩, ha⟩, rfl⟩, h2⟩, h3⟩, h4⟩ := ok
  have := State.WalksTo.down lvl table true true true _ h hl rfl h0 hz h5 ha
  rwa [h2, h3, h4] at this
/-- The page table of base with another entry at its third level; with one of 4 KiB pages below it, sixteen of which are alike. -/
def leafAt (e : Nat) : State := { base with mem := base.mem.setNat 0x42000 8 e }
def deep : State :=
  let m := (base.mem.setNat 0x42000 8 0x4301D).setNat 0x43000 8 0x4401D
  { base with mem := (List.range 16).foldl (fun m j => m.setNat (0x44000 + 8 * j) 8 (2 ^ 53 + 2 ^ 52 + 0x1D)) m }
/-- Entries: absent, held, a reserved bit, contiguous above level 0, a table, a table marked RP, leaves, a leaf of a replicated page. -/
def someEntries : List Nat := [0, 2, 2 ^ 63 + 1, 2 ^ 53 + 1, 0x4301D, 0x4303D, 2 ^ 52 + 0x1D, 2 ^ 52 + 0x10001D, 2 ^ 52 + 0x903D]
def replicas (a b : Nat) : State := { base with mem := base.mem.setNat 0x9000 16 (a + 2 ^ 64 * b) }
theorem witness_AddressTranslation : (∀ e ∈ someEntries, (leafAt e).WalksTo 0 0x40000 2 0x42000 true true true ∧ (leafAt e).entryAt 0 2 0x42000 = BitVec.ofNat 64 e)
    ∧ deep.WalksTo 0x3000 0x40000 0 0x44000 true true true ∧ isLocal 0x44000 = true
    ∧ (∀ j < 16, BitVec.ofNat 64 (deep.mem.nat (0x44000 + 8 * (fieldNat (0x3000#64) 12 9 / 16 * 16 + j)) 8) = deep.entryAt 0x3000 0 0x44000)
    ∧ base.chooseCopy 0 0x9000 30 = none ∧ (replicas (2 ^ 30 + 1) (2 ^ 31 + 4097)).chooseCopy 0 0x9000 30 = none
    ∧ (replicas (2 ^ 36 + 1) (2 ^ 30 + 1)).chooseCopy 0 0x9000 30 = some (2 ^ 30) ∧ (replicas (2 ^ 41 + 1) (2 ^ 36 + 1)).chooseCopy 0 0x9000 30 = some (2 ^ 36)
    ∧ (replicas (2 ^ 41 + 1) 0).chooseCopy 0 0x9000 30 = some (2 ^ 41)
    ∧ (match base.walkTop 0 0x40000 0x9000 with | .leaf l => l.w && l.x && l.u && !l.rp && l.frame == 0 && l.size == 30 | _ => false) = true
    ∧ (match (leafAt (2 ^ 52 + 1)).walkTop 0 0x40000 0x9000 with | .leaf l => !l.u && !l.w && !l.x | _ => false) = true
    ∧ (match (leafAt (2 ^ 52 + 2 ^ 48 + 0x1D)).walkTop 0 0x40000 0x9000 with | .leaf l => l.frame / 2 ^ 40 == 0x100 | _ => false) = true
    ∧ (match { replicas (2 ^ 30 + 1) 0 with mem := (replicas (2 ^ 30 + 1) 0).mem.setNat 0x42000 8 (2 ^ 52 + 0x903D) }.walkTop 0 0x40000 0x9000 with | .leaf l => l.rp && l.frame == 2 ^ 30 | _ => false) = true
    ∧ base.tlbHits 0 0x9000 = [] ∧ base.walkStop base.curDie 0x40000 0x9000 = none ∧ base.tlbPlaces.length = 3 := by
  refine ⟨fun e he => ?_, ?_, ?_, ?_, ?_, ?_, ?_, ?_, ?_, ?_, ?_, ?_, ?_, ?_, ?_, ?_⟩
  · have h : ∀ e ∈ someEntries, (leafAt e).entryAt 0 4 0x40000 = 0x4101D ∧ (leafAt e).entryAt 0 3 0x41000 = 0x4201D ∧ (leafAt e).entryAt 0 2 0x42000 = BitVec.ofNat 64 e := by
      decide +kernel
    obtain ⟨h1, h2, h3⟩ := h e he
    exact ⟨walksDown _ _ _ 2 0x41000 _ (walksDown _ _ _ 3 0x40000 _ .top (by rw [h1]; decide)) (by rw [h2]; decide), h3⟩
  · exact walksDown _ _ _ 0 0x43000 _ (walksDown _ _ _ 1 0x42000 _ (walksDown _ _ _ 2 0x41000 _ (walksDown _ _ _ 3 0x40000 _ .top
      (by decide +kernel)) (by decide +kernel)) (by decide +kernel)) (by decide +kernel)
  all_goals decide +kernel
/-- A range of 0, of 1, of 64 MiB bytes, one byte more, and one past the end. -/
theorem witness_CacheInstructions : let f := op 0 .none (.mem 1 .offset 0) (.g 6)
    let s (n : Word) : State := withRegs fun r => { (r.putA 1 0x9000).putG 6 n with priv := true }
    (∀ i ∈ [Instr.cflush f, .cinv f, .cwb f, .tlbinvVa f, .tlbinvCtx f, .tlbinvAll f], issues i f 1 (s 1) = true)
      ∧ ((s 0).src f.src2).toNat = 0 ∧ ((s (2 ^ 26)).src f.src2).toNat = 2 ^ 26 ∧ 2 ^ 26 < ((s (2 ^ 26 + 1)).src f.src2).toNat
      ∧ 2 ^ 64 < ((withRegs fun r => r.putA 1 0xFFFFFFFFFFFFFFFF).addrOf f.src1 8).toNat + 2 ∧ okay ((s 1).rangeLines 0x9000 1) = true := by decide +kernel

/-- A range inside the page at 0x9000. -/
theorem witness_maps : base.maps 0x9000 4096 .read 0x9000 where
  size := by decide
  outside := by decide +kernel
  cold := by decide +kernel
  way := by decide +kernel
  leaf := by
    have h : (match base.walkTop (towerOfDie base.curDie) base.curPtroot 0x9000 with
        | .leaf l => !l.rp && checkLeaf l 0x9000 .read base.isUser true == .ok 0x9000 l
        | _ => false) = true := by decide +kernel
    split at h
    · next l hl => exact ⟨l, hl, by simpa using h⟩
    · cases h
  region := by decide +kernel
def flushing (f : Flush) : State := { base with flushes := [f], dirty := [(9, ⟨5, none, none⟩)], tape := [] }
theorem witness_CacheEvents : (∀ f ∈ [(⟨0, 0, 0, [9]⟩ : Flush), ⟨0, 0, 1, [9]⟩, ⟨0, 0, 2, []⟩], (flushing f).flushes = [f] ∧ (flushing f).cur = .slot 0 0)
    ∧ ((flushing ⟨0, 0, 0, [9]⟩).stack (stackOf (64 * 9))).st = .owned ∧ (flushing ⟨0, 0, 1, [9]⟩).dirty.find 9 = some ⟨5, none, none⟩
    ∧ (flushing ⟨0, 0, 1, [9]⟩).mem.nat (64 * 9) 64 ≠ 5 ∧ (flushing ⟨0, 0, 1, [9]⟩).tokenBars [9] = false
    ∧ (let s := { base with cur := .item 2, pendings := [(2, .tlb 0 0 1 0 0)] };
      s.pendings.find 2 = some (.tlb 0 0 1 0 0) ∧ s.token = none)
    ∧ (∀ st ∈ [StackState.pouring, .claiming, .fenced], ({ flushing ⟨0, 0, 0, [9]⟩ with stks := [(0, { st := st })] } : State).stack (stackOf (64 * 9)) = { st := st })
    ∧ ({ flushing ⟨0, 0, 1, [9]⟩ with dirty := [(9, ⟨0, none, none⟩)] } : State).mem.nat (64 * 9) 64 = 0 ∧ ({ flushing ⟨0, 0, 1, [9]⟩ with dirty := [] } : State).dirty.find 9 = none
    ∧ ({ waits with token := some (.slot 0 0), dir := [(0x240, { sharers := [0] })] } : State).tokenBars [0x240] = true := by decide +kernel

/-- Vector operands; each guard lane true; SFX; a lane kind within its limits and one outside. -/
def vf : Fields := op 2 (.v 1) (.v 2) (.v 3)
theorem witness_LaneResults : (∀ row ∈ base.laneTable vf, issues row.instr vf (512 / row.lane.e) base = true)
    ∧ (∃ row ∈ base.laneTable vf, row.limit = true) ∧ (∃ row ∈ (withRegs fun r => { r with vkind := 1 }).laneTable (op 6 (.v 1) (.v 2) (.v 3)), row.limit = false)
    ∧ issues (.sfx (op 2 (.v 1) (.v 2) (.imm 1))) (op 2 (.v 1) (.v 2) (.imm 1)) 16 base = true := by decide +kernel
theorem witness_LaneMoves : let g := op 2 (.v 1) (.g 4) (.imm 3)
    (∀ i ∈ [Instr.vbcast g, .vins g, .viota g, .rngf g], issues i g 16 base = true)
      ∧ (∀ i ∈ [Instr.vsel (op 2 (.v 1) (.v 2) (.p 1)), .vcomp (op 2 (.v 1) (.v 2) (.p 1))], issues i (op 2 (.v 1) (.v 2) (.p 1)) 16 base = true)
      ∧ (∀ i ∈ [Instr.vshuf vf, .vslide vf, .vdot vf], issues i vf 16 base = true)
      ∧ (∀ i ∈ [Instr.vcvt (op 0 (.v 1) (.v 2) (.imm 0x10)), .vunpl (op 0 (.v 1) (.v 2) (.imm 0x88))], issues i (op 0 (.v 1) (.v 2) (.imm 0x88)) 64 base = true)
      ∧ tyWidth (modTy 1) ≤ 16 ∧ cvtWidth (cvtSrc (.imm 0x10)) ≤ cvtWidth (cvtDst (.imm 0x10)) ∧ cvtWidth (cvtDst (.imm 1)) < cvtWidth (cvtSrc (.imm 1)) := by decide +kernel
theorem witness_LaneSummaries : let c := op 2 (.pp 1 2 2) (.v 2) (.v 3)
    issues (.vcmp c) c 16 base = true ∧ condLimit (base.kindLane 2) 2 = true ∧ base.regs.fpsr.extractLsb' 8 5 = 0
      ∧ (∀ i ∈ [Instr.vext fi, .rngx fi, .rngf fi], issues i fi 1 base = true) ∧ issues (.vred (op 2 (.g 4) (.v 2) (.imm 2))) (op 2 (.g 4) (.v 2) (.imm 2)) 16 base = true
      ∧ issues (.vplane (op 0 (.v 1) (.v 2) (.imm 8))) (op 0 (.v 1) (.v 2) (.imm 8)) 64 base = true
      ∧ issues (.rngx (op 0 (.v 1) (.v 2) (.g 4))) (op 0 (.v 1) (.v 2) (.g 4)) 4 base = true
      ∧ (base.guardMask fi).getLsbD 0 = true ∧ (base.guardMask (opIf true 7 0 .none .none .none)).getLsbD 0 = false := by decide +kernel
/-- Nothing hinders a slot's accesses to its local store. -/
theorem calmOf (s : State) (n : Nat) (h : (s.cur == .slot 0 0 && !s.chunk.solo && (s.core 0).slots.all (fun e => e.1 == 0 || (decide (e.2.chunk = {}) && e.2.waiting.isNone))
    && (s.core 0).lsPoison.isEmpty && decide ((s.core 0).undoCount + n ≤ 204) && (s.core 0).ls.wf && (s.slot 0 0).chunk.effects.isEmpty && (s.slot 0 0).chunk.lsA.isEmpty) = true) :
    s.calm 0 0 n := by
  simp only [Bool.and_eq_true, beq_iff_eq, Bool.not_eq_true', List.all_eq_true, Bool.or_eq_true, decide_eq_true_eq, List.isEmpty_iff, Option.isNone_iff_eq_none] at h
  obtain ⟨⟨⟨⟨⟨⟨⟨h1, h2⟩, h3⟩, h4⟩, h5⟩, h6⟩, h7⟩, h8⟩ := h
  exact ⟨h1, h2, fun e he hk => (h3 e he).resolve_left hk, fun gs => by rw [Chunk.updateOn, Chunk.remoteOn, h7, h8]; simp, h4, h5, h6⟩
/-- The last row of the local store, and an index vector of zeros. -/
def rowState : State := withRegs fun r => r.putA 1 (BitVec.ofNat 64 (windowBase + 0x7FFC0))
theorem witness_VectorMemoryInTheLocalStore : rowState.calm 0 0 64 ∧ crossesWindow (rowState.addrOf (.mem 1 .offset 0) 64) = false
    ∧ (∀ j < 16, rowState.addrOf (.mem 1 .offset 0) 64 + BitVec.ofNat 64 (j * 4) = BitVec.ofNat 64 (windowBase + (0x7FFC0 + 4 * j))
      ∧ (0x7FFC0 + 4 * j) % 4 = 0 ∧ 0x7FFC0 + 4 * j + 4 ≤ 0x80000) ∧ BitVec.ofNat 32 (rowState.laneSrc (.v 2) 32 3) = 0 :=
  ⟨calmOf _ _ (by decide +kernel), by decide +kernel, by decide +kernel, by decide +kernel⟩
/-- A row that is aligned, one that is not, and one that crosses the end of the window. -/
theorem witness_VectorMemory : let l := op 2 (.v 1) (.mem 1 .offset 0) .none
    let t := op 2 (.mem 1 .offset 0) (.v 1) .none
    let g := op 2 (.v 1) (.mem 1 .offset 0) (.v 2)
    let c := op 2 (.mem 1 .offset 0) (.v 2) (.v 1)
    issues (.vld l) l 16 memState = true ∧ issues (.vst t) t 16 memState = true ∧ issues (.vgath g) g 16 memState = true ∧ issues (.vscat c) c 16 memState = true
      ∧ (0x9000 : Word).toNat % 4 = 0 ∧ crossesWindow 0x9000 = false ∧ (0x9002 : Word).toNat % 4 ≠ 0 ∧ crossesWindow (BitVec.ofNat 64 (windowBase + 0x7FFC4)) = true
      ∧ okay (memState.loadLanes [(0, 0x9000), (1, 0x9004)] 4) = true ∧ okay (memState.storeLanes [(0, 0x9000), (1, 0x9004)] 4 fun j => j) = true := by decide +kernel

/-- A form record in the local store: base, format, extents 0 and 1; and one of block numbers with 8 planes and its scales. -/
def form (base fmt e0 e1 : Nat) : VWord :=
  BitVec.ofNat 512 (base + 2 ^ 128 * e0 + 2 ^ 160 * e1 + 2 ^ 192 + 2 ^ 224 + 2 ^ 256 + 2 ^ 288 * e0 + 2 ^ 384 * fmt + 2 ^ 400)
def blockForm (base e0 e1 : Nat) : VWord := form base 0x20 e0 e1 ||| BitVec.ofNat 512 (2 ^ 64 * 0x70000 + 2 ^ 392 * 8 + 2 ^ 402)
/-- The forms F1 to F3. -/
def formState (a b d : VWord) : State :=
  withRegs fun r => { r with forms := ((r.forms.set 1 (some d)).set 2 (some a)).set 3 (some b), vkind := 1 }
def ff : Fields := op 2 (.f 1) (.f 2) (.f 3)
def formRow (n : Nat) : LaneRow := ((formState 0 0 0).laneTable ff).getD n { instr := .vadd ff, lane := .fp 2, op := fun x _ _ => (x, 0) }

/-- The forms of an element-wise VADD: its first checks, its steps, whether its destination is empty, whether its first step succeeds. -/
def formFacts (s : State) : Option (Option Nat × Nat × Bool × Bool) := match s.formsOf [ff.dst, ff.src1, ff.src2] with
  | .ok (rs, t) =>
    let row := formRow 0
    let r := wiseRun 0x82 ff row.lane row.old (fun _ => row.op) rs
    if t.cur == s.cur then some ((formChecks rs (wiseFmt 0x82 row.lane row.exact rs) (sameExt rs)).or r.check, r.total, formEmpty r.dst,
      okThat (s.takeWatches ((r.srcs.filter fun x => !formLsp x && !formEmpty x).map footprint)) fun _ s1 => okThat (r.effect 0 1 s1) fun _ s2 => s2.cur == s.cur)
    else none
  | .error _ => none
/-- A1 at a local-store offset that holds a record, and one that holds zeros. -/
def lsForm (a : Word) : State :=
  let s := withRegs fun r => { r.putA 1 a with forms := r.forms.set 1 (some (form 0x40000 0x12 16 1)) }
  s.setCore 0 { s.core 0 with ls := Mem.setBytes [] 0x100 (leBytes 64 (form 0x40000 0x12 16 1).toNat) }

def fset : Fields := op 0 (.f 2) (.mem 1 .offset 0) .none
/-- No record; unequal extents; one step; two steps; an empty destination. -/
theorem witness_FormInstructions :
    issues (.vadd ff) ff 16 base = true ∧ base.regs.forms.get 1 = none ∧ (formRow 0).limit = true ∧ (formRow 0).instr = .vadd ff
      ∧ (formFacts (formState (form 0x40000 0x12 16 1) (form 0x41000 0x12 8 1) (form 0x42000 0x12 16 1))).bind (·.1) = some 4
      ∧ formFacts (formState (form 0x40000 0x12 16 1) (form 0x41000 0x12 16 1) (form 0x42000 0x12 16 1)) = some (none, 1, false, true)
      ∧ formFacts (formState (form 0x40000 0x12 32 1) (form 0x41000 0x12 32 1) (form 0x42000 0x12 32 1)) = some (none, 2, false, true)
      ∧ (formFacts (formState (form 0x40000 0x12 0 1) (form 0x41000 0x12 0 1) (form 0x42000 0x12 0 1))).map (·.2.2.1) = some true
      ∧ ((((formState (form 0x40000 0x12 16 1) (form 0x41000 0x12 16 1) (form 0x42000 0x12 16 1)).laneTable { ff with mod := 6 }).any fun row => !row.limit) = true
        ∧ base.anyElem ff (form 0x42000 0x12 16 1) 16 = true ∧ base.anyElem ff (form 0x42000 0x12 0 1) 16 = false)
      ∧ (let r := op 2 (.f 1) (.f 2) (.imm 0)
        issues (.vred r) r 16 base = true ∧ issues (.sfx r) r 16 base = true ∧ issues (.vcvt (op 0 (.f 1) (.f 2) (.imm 0x10))) (op 0 (.f 1) (.f 2) (.imm 0x10)) 32 base = true)
      ∧ issues (.fset fset) fset 1 (lsForm 0x100) = true ∧ (lsForm 0x100).addrOf fset.src1 64 = 0x100
      ∧ okThat ((lsForm 0x100).readLs 0 0x100 64) (fun bs t => t.cur == .slot 0 0 && formCheck (BitVec.ofNat 512 (leNat bs)) == none) = true
      ∧ okThat ((lsForm 0x200).readLs 0 0x200 64) (fun bs t => t.cur == .slot 0 0 && formCheck (BitVec.ofNat 512 (leNat bs)) == some 1) = true
      ∧ issues (.fget (op 0 (.g 4) (.f 1) (.imm 7))) (op 0 (.g 4) (.f 1) (.imm 7)) 1 (lsForm 0x100) = true
      ∧ issues (.fget (op 0 (.mem 1 .offset 0) (.f 1) .none)) (op 0 (.mem 1 .offset 0) (.f 1) .none) 1 (lsForm 0x200) = true
      ∧ okThat ((lsForm 0x200).writeLs 0 0x200 (leBytes 64 5)) (fun _ t => t.cur == (lsForm 0x200).cur) = true
      ∧ issues (.fadj (op 1 (.f 1) (.imm 3) .none)) (op 1 (.f 1) (.imm 3) .none) 1 (lsForm 0x100) = true
      ∧ (lsForm 0x100).regs.forms.get 1 = some (form 0x40000 0x12 16 1)
      ∧ formCheck (adjust (form 0x40000 0x12 16 1) 2 3) = none ∧ formCheck (adjust (form 0x40000 0x12 16 1) 0 3) = some 5 := by decide +kernel

/-- Tiles and forms for the matrix unit; MPROG of T1 as another slot left it. -/
def mForms (l : List (BitVec 5 × VWord)) : State := withRegs fun r =>
  { (r.putA 1 0x100000) with forms := l.foldl (fun v x => v.set x.1.toNat (some x.2) x.1.isLt) r.forms }
def mma1 : State := mForms [(4, blockForm 0x40000 1 1), (5, blockForm 0x42000 1 1)]
def mma2 : State := mForms [(4, blockForm 0x40000 64 1), (5, blockForm 0x42000 64 1)]
def tf : State := mForms [(4, form 0x40000 0x12 2 2), (5, form 0x42000 0x12 64 1)]
def busyTile : State := mma1.setCore 0 { mma1.core 0 with mprog := (mma1.core 0).mprog.set 1 (mkProg 1 0xB1 3) }
def fmma : Fields := op 0 (.tile 1) (.f 4) (.f 5)
def fmld : Fields := op 0 (.tile 1) (.f 4) .none
def fmst : Fields := op 0 (.f 4) (.tile 1) .none
def ftile : Fields := op 0 (.tile 1) (.mem 1 .offset 0) .none
def fimg : Fields := op 0 (.mem 1 .offset 0) (.tile 1) .none

theorem witness_MatrixForms : issues (.mma fmma) fmma 1 mma1 = true ∧ issues (.mld fmld) fmld 1 tf = true ∧ issues (.mst fmst) fmst 1 tf = true
    ∧ matrixCheck [blockForm 0 1 1, blockForm 0 1 1] true (mmaExt [blockForm 0 1 1, blockForm 0 1 1]) = none
    ∧ matrixCheck [form 0 1 1 1] (tileFmt (form 0 1 1 1)) (tileExt (form 0 1 1 1)) = some (some 2)
    ∧ matrixCheck [form 0 0x12 0 1] (tileFmt (form 0 0x12 0 1)) (tileExt (form 0 0x12 0 1)) = some none
    ∧ matrixCheck [form 0 0x12 64 64] (tileFmt (form 0 0x12 64 64)) (tileExt (form 0 0x12 64 64)) = none
    ∧ matrixCheck [form 0 0x12 65 1] (tileFmt (form 0 0x12 65 1)) (tileExt (form 0 0x12 65 1)) = some (some 3)
    ∧ matrixCheck [form 0 0x12 64 1] true (msclExt [form 0 0x12 64 1]) = none := by decide +kernel
/-- The last step of one and the first of two; a tile that another slot is using. -/
theorem witness_MatrixInstructions :
    okThat (mma1.formsOf [.f 4, .f 5]) (fun rs t => rs == [blockForm 0x40000 1 1, blockForm 0x42000 1 1] && t.cur == .slot 0 0) = true
      ∧ ((mma1.core 0).progs 1).any (fun v => progBusy v && progSlot v != 0) = false ∧ progBusy ((mma1.core 0).mprogOf 1) = false
      ∧ ((busyTile.core 0).progs 1).any (fun v => progBusy v && progSlot v != 0) = true
      ∧ okThat (mma1.takeWatches (matrixRegions (blockForm 0x40000 1 1) ++ matrixRegions (blockForm 0x42000 1 1))) (fun _ s1 =>
        okThat (tileRun [1] 1 (mmaStep 1 (blockForm 0x40000 1 1) (blockForm 0x42000 1 1) 0) s1) fun _ s2 => s2.cur == .slot 0 0) = true
      ∧ (formE (blockForm 0x40000 1 1) 0 + 31) / 32 = 1 ∧ (formE (blockForm 0x40000 64 1) 0 + 31) / 32 = 2
      ∧ okThat (tf.takeWatches (matrixRegions (form 0x40000 0x12 2 2))) (fun _ s1 =>
        okThat (tileRun [] 1 (mldStep 1 (form 0x40000 0x12 2 2) 0) s1) fun _ s2 => s2.cur == .slot 0 0) = true
      ∧ okThat (tf.takeWatches []) (fun _ s1 => okThat (tileRun [1] 1 (mstStep 1 (form 0x40000 0x12 2 2) 0 1) s1) fun _ s2 => s2.cur == .slot 0 0) = true
      ∧ okThat (tf.touchTile 1 true) (fun _ t => t.cur == .slot 0 0) = true := by decide +kernel
theorem witness_MatrixMoves : issues (.mmov (op 0 (.tile 1) (.tile 2) .none)) (op 0 (.tile 1) (.tile 2) .none) 1 tf = true
    ∧ issues (.mmov ftile) ftile 1 tf = true ∧ issues (.mmov fimg) fimg 1 tf = true ∧ issues (.mzero (op 0 (.tile 1) .none .none)) (op 0 (.tile 1) .none .none) 1 tf = true
    ∧ issues (.mscl (op 0 (.tile 1) .none (.f 5))) (op 0 (.tile 1) .none (.f 5)) 1 tf = true
    ∧ okThat (tf.takeWatches (imageRegion (tf.addrOf ftile.src1 16384))) (fun _ s1 =>
      okThat (tileRun [] 1 (imageLoad 1 (tf.addrOf ftile.src1 16384) 0) s1) fun _ s2 => s2.cur == .slot 0 0) = true
    ∧ okThat (tileRun [1] 1 (imageStore 1 (tf.addrOf fimg.dst 16384) 0) tf) (fun _ s2 => s2.cur == .slot 0 0) = true
    ∧ okThat (tf.writeTile 1 (mapTile (tf.tileOf 1) fun i j => if i = 63 ∧ j = 63 then some (7, 0) else none)) (fun _ t => t.cur == .slot 0 0) = true := by decide +kernel

/-- Operands in the local store: the forms of mma1 and tf, and an image that ends with the store. -/
def imgState : State := withRegs fun r => r.putA 1 (BitVec.ofNat 64 (windowBase + 0x7C000))
theorem witness_MatrixInTheLocalStore : mma1.calm 0 0 128 ∧ tf.calm 0 0 128 ∧ imgState.calm 0 0 128
    ∧ (imgState.addrOf ftile.src1 16384 = BitVec.ofNat 64 (windowBase + 0x7C000) ∧ 0x7C000 % 64 = 0 ∧ 0x7C000 + 16384 ≤ 0x80000)
    ∧ ([blockForm 0x40000 1 1, blockForm 0x42000 1 1].all fun r => formLsp r && formSls r && formE r 1 == 1 && formPr r == 8 && formScale r == 0x70000
      && formOff r 0 0 0 0 == 0) = true ∧ formAddr (blockForm 0x40000 1 1) 0 0 0 0 = 0x40000 ∧ formAddr (blockForm 0x42000 1 1) 0 0 0 0 = 0x42000
    ∧ (let r := form 0x40000 0x12 2 2; formLsp r = true ∧ formFmt r = 0x12 ∧ formE r 1 = 2 ∧ formAddr r 0 1 0 0 = 0x40008 ∧ formAddr r 1 1 0 0 = 0x4000C)
    ∧ base.regs.fpsr.extractLsb' 8 5 = 0 ∧ issues (.mscl (op 0 (.tile 1) (.tile 2) (.g 4))) (op 0 (.tile 1) (.tile 2) (.g 4)) 1 tf = true :=
  ⟨calmOf _ _ (by decide +kernel), calmOf _ _ (by decide +kernel), calmOf _ _ (by decide +kernel), by decide +kernel, by decide +kernel, by decide +kernel, by decide +kernel,
    by decide +kernel, by decide +kernel, by decide +kernel⟩

/-- Absolute X3 at the default XBASE; a form of F32 with one group and with two. -/
def xs : State := mForms [(4, form 0x40000 0x12 16 1), (5, form 0x40000 0x12 32 1)]
theorem witness_Accumulators : let g := op 2 (.abs 3) (.g 4) .none
    let v := op 0 (.abs 3) (.v 4) .none
    let d := op 2 (.g 4) (.abs 3) .none
    let m := op 0 (.abs 3) (.mem 1 .offset 0) .none
    unpack f32 0x3F800000 = .fin false 0x800000 (-23) ∧ xs.cur = .slot 0 0 ∧ xs.chunk.deltas.find (xs.absOff g.dst) = none ∧ xs.chunk.deltas.length < 4
      ∧ okThat (xs.addDelta (xs.absOff g.dst) (absOf 2 5)) (fun _ t => t.cur == .slot 0 0) = true
      ∧ issues (.xclr g) g 1 xs = true ∧ okThat (xs.writeLs 0 (xs.absOff g.dst) (leBytes 64 0)) (fun _ t => t.cur == .slot 0 0) = true
      ∧ issues (.xacc g) g 1 xs = true ∧ issues (.xacc v) v 16 xs = true ∧ issues (.xacc (op 0 (.abs 3) (.f 4) .none)) (op 0 (.abs 3) (.f 4) .none) 16 xs = true
      ∧ matrixCheck [form 0x40000 0x12 16 1] (formFmt (form 0x40000 0x12 16 1) == absFmt 0) true = none
      ∧ matrixCheck [form 0x40000 0x12 0 1] (formFmt (form 0x40000 0x12 0 1) == absFmt 0) true = some none
      ∧ matrixCheck [form 0x40000 0x12 16 1] (formFmt (form 0x40000 0x12 16 1) == absFmt 1) true = some (some 2)
      ∧ formSteps (form 0x40000 0x12 16 1) 16 = 1 ∧ formSteps (form 0x40000 0x12 32 1) 16 = 2 ∧ xs.vprogStep 0xB6 = 0
      ∧ okThat (xs.takeWatches []) (fun _ s1 => okThat (xaccRun (op 0 (.abs 3) (.f 4) .none) (form 0x40000 0x12 16 1) 16 1 0 s1) fun _ s2 => s2.cur == .slot 0 0) = true
      ∧ okThat (xs.readLs 0 (xs.absOff d.src1) 64) (fun _ t => t.cur == .slot 0 0) = true
      ∧ (∀ i ∈ [Instr.xrnd d, .xget d], issues i d 1 xs = true) ∧ issues (.xadd (op 0 (.abs 3) (.abs 4) .none)) (op 0 (.abs 3) (.abs 4) .none) 1 xs = true
      ∧ issues (.xadd m) m 1 xs = true ∧ okThat (xs.recordAddr m.src1 .read) (fun w t => t.cur == .slot 0 0 && okay (t.readRecord w)) = true
      ∧ issues (.xget (op 0 (.mem 1 .offset 0) (.abs 3) .none)) (op 0 (.mem 1 .offset 0) (.abs 3) .none) 1 xs = true
      ∧ okThat (xs.recordAddr m.src1 .write) (fun w t => okThat (t.writeElem w (leBytes 64 5)) fun _ u => u.cur == .slot 0 0) = true := by decide +kernel

theorem witness_AccumulatorsInTheLocalStore : xs.calm 0 0 1 ∧ rowState.calm 0 0 1 ∧ rowState.addrOf (.mem 1 .offset 0) 64 = BitVec.ofNat 64 (windowBase + 0x7FFC0)
    ∧ 0x7FFC0 % 64 = 0 ∧ 0x7FFC0 < 0x80000 ∧ xs.soleChunk 0 0 ∧ xs.chunk.remoteOn 0 [xs.absOff (.abs 3) / 64] = false
    ∧ xs.regs.fpsr.extractLsb' 8 5 &&& (absRound f32 0 0).2 = 0 ∧ issues (.xrnd (op 2 (.g 4) (.abs 3) .none)) (op 2 (.g 4) (.abs 3) .none) 1 xs = true :=
  ⟨calmOf _ _ (by decide +kernel), calmOf _ _ (by decide +kernel), by decide +kernel, by decide, by decide,
    (calmOf xs 1 (by decide +kernel)).sole, by decide +kernel, by decide +kernel, by decide +kernel⟩

/-- A launch with capsules: LSLO 0, 512 KiB, an overflow area of 16 KiB at 0x200000, a stranded list at 0x300000. -/
def capDesc (d : BitVec 1024) : BitVec 1024 := setField (setField (setField (setBit d 144) 384 64 0x200000) 448 32 4) 512 64 0x300000
/-- A header with two entries, the first not reached yet, and an image. -/
def header (ilen head fcode : Nat) : BitVec 512 := BitVec.ofNat 512 (7 + 2 ^ 80 * ilen + 2 ^ 88 * head + 2 ^ 104 * fcode + 2 ^ 192)
def image (h : BitVec 512) : Mem := Mem.setBytes [] 0 (leBytes 64 h.toNat)
/-- Slot 0 with a staging area at 0x10000 that holds an image, G2 naming it, G6 another area; and the capsule slot in its visit to bay 0. -/
def staged (h : BitVec 512) : State :=
  let s := withDesc capDesc (withRegs fun r => putGs r [(2, 0x10000), (6, 0x20000)])
  s.setCore 0 { s.core 0 with ls := Mem.setBytes [] 0x10000 (leBytes 64 h.toNat) }
def visiting (h : BitVec 512) : State :=
  let s := staged h
  let s := s.setCore 0 { s.core 0 with ls := image h, bays := (s.core 0).bays.set 0 { st := .visit, seq := 1 } }
  s.setSlot 0 0 { s.slot 0 0 with
    entry := mkEntry stRun true false 0 0 0 0 1 0x10000, regs := { (s.slot 0 0).regs with vis := true } }
def fcap : Fields := op 0 (.g 4) (.g 2) (.g 6)
def f15 : Fields := op 15 .none (.g 2) (.g 8)
def st1 : State := staged (header 2 0 0)
def vi1 : State := visiting (header 2 0 0)

theorem witness_CapsuleAreas : st1.liveBay 0x10000 = false ∧ st1.curLaunch.staging 0x10000 = true ∧ st1.curLaunch.staging 0x84C0 = false
    ∧ vi1.liveBay 0 = true ∧ st1.curLaunch.capsOk = true ∧ base.curLaunch.capsOk = false ∧ (st1.src fcap.src1).toNat = 0x10000 ∧ (st1.src fcap.src2).toNat = 0x20000
    ∧ ¬ (0x20000 < 0x10000 + capBytes ∧ 0x10000 < 0x20000 + capBytes) ∧ (0x10040 < 0x10000 + capBytes ∧ 0x10000 < 0x10040 + capBytes)
    ∧ capMalformed (header 2 0 0) = false ∧ capMalformed (header 17 0 0) = true ∧ capFcode (header 2 0 0x40) ≠ 0 ∧ capIlen (header 16 0 0) = 16 ∧ capIlen (header 0 0 0) = 0
    ∧ st1.spillWaits 1 = false ∧ st1.inVisit = false ∧ vi1.inVisit = true := by decide +kernel
theorem witness_CapsuleInstructions : (∀ i ∈ [Instr.capnew fcap, .cappush fcap, .caphead fcap, .cappop fcap, .capset fcap, .capsplit fcap, .capsend fcap, .capinj fcap,
      .capplace fcap, .capkey fcap, .capget fcap], issues i fcap 1 st1 = true)
    ∧ okThat (st1.writeHeader 0x10000 (header 0 0 0)) (fun _ t => t.cur == .slot 0 0) = true
    ∧ okThat (st1.itinerary 0x10000) (fun x t => x == (header 2 0 0, 0)
      && okThat (pushRun 0x10000 x.1 5 t) (fun _ u => u.cur == .slot 0 0) && okThat (headRun 0x10000 x.1 x.2 5 t) (fun _ u => u.cur == .slot 0 0)
      && okThat (t.readEntry 0x10000 1) (fun _ u => okThat (popRun 0x10000 x.1 u) fun _ v => v.cur == .slot 0 0)
      && okThat (t.writeEntry 0x10000 1 5) fun _ u => u.cur == .slot 0 0) = true
    ∧ okThat (st1.readHeader 0x10000) (fun x t => x == header 2 0 0 && t.cur == .slot 0 0
      && okThat (splitRun 0x20000 0x10000 x 0 (splitHeader x 0 3 0 0) t) fun _ u => u.cur == .slot 0 0) = true
    ∧ okThat (st1.soloGate 0x08) (fun _ t => okThat (t.listRead 0x300000 64) fun bs _ => bs.length == 64) = true := by decide +kernel
/-- The staging area and the live bay in a calm store; no stranded list; a slot that awaits a remote result in its visit. -/
def unlisted : State := withDesc (fun d => setField (capDesc d) 512 64 0) st1
theorem witness_CapsulesInTheLocalStore : st1.calm 0 0 134 ∧ vi1.calm 0 0 134 ∧ unlisted.calm 0 0 134 ∧ capMalformed (header 2 0 0) = false ∧ capIlen (header 2 0 0) = 2
    ∧ capHead (header 2 0 0) + 1 < 2 ∧ descStrand unlisted.curLaunch.desc = 0 ∧ unlisted.isAlone = true ∧ unlisted.curLaunch.staging 0x10000 = true
    ∧ issues (.capget (op 0 (.g 4) (.g 2) .none)) (op 0 (.g 4) (.g 2) .none) 1 unlisted = true
    ∧ (let w := vi1.setSlot 0 0 { vi1.slot 0 0 with awaiting := some 3 }; (w.slot 0 0).awaiting = some 3 ∧ w.inVisit = true ∧ w.chunk.solo = false) :=
  ⟨calmOf _ _ (by decide +kernel), calmOf _ _ (by decide +kernel), calmOf _ _ (by decide +kernel), by decide +kernel, by decide +kernel, by decide +kernel, by decide +kernel,
    by decide +kernel, by decide +kernel, by decide +kernel, by decide +kernel⟩
theorem witness_CapsuleVisit : (∀ i ∈ [Instr.capend fe, .capnext (op 1 .none (.imm 15) .none)], issues i fe 1 vi1 = true) ∧ (vi1.slot 0 0).dZero = true
    ∧ (vi1.slot 0 0).waiting = none ∧ (vi1.slot 0 0).cutDue = none ∧ (vi1.slot 0 0).park = .ready ∧ (vi1.slot 0 0).chunk.solo = false ∧ (vi1.slot 0 0).awaiting = none
    ∧ okThat (vi1.readHeader 0) (fun x t => capHead x + 1 == 1 && t.cur == .slot 0 0) = true
    ∧ (st1.resolve st1.curLaunch 0 0 5 0 = .core 0) ∧ (∃ e, st1.resolve st1.curLaunch 0 1 5 0 = .fail e) := by
  refine ⟨?_, ?_, ?_, ?_, ?_, ?_, ?_, ?_, ?_, ⟨0x40, ?_⟩⟩ <;> decide +kernel

/-- A capsule on its way to core 0, in its input buffer since rotation 0, and with its strand held; bays of core 0; the idle capsule slot. -/
def flyer (w : CapWhere) : Capsule := { img := image (header 2 0 0), seq := 1, core := 0, at_ := w, order := 0 }
def capState (w : CapWhere) : State :=
  let s := withDesc capDesc base
  let s := s.setSlot 0 14 { s.slot 0 14 with entry := mkEntry stBound true false 0 0 0 0 1 0 }
  { s with cur := .item 9, capsules := [(9, flyer w)], rot := 128, mem := s.mem.setNat 0x300008 4 2 }
def landed : State :=
  let s := capState .flying
  { s.setCore 0 { s.core 0 with ls := image (header 2 0 0), bays := (s.core 0).bays.set 0 { st := .landed, seq := 1 } } with cur := .core 0 }
def niOk (x : NiPages) (p : List (Nat × Nat) → Bool) : Bool := match x with
  | .ok ps => p ps
  | _ => false
theorem witness_CapsuleEvents : let s := capState .flying
    let b := { capState (.buffered 0) with cur := .core 0 }
    s.capsules.find 9 = some (flyer .flying) ∧ (s.launch 1).isSome = true ∧ s.tape = [] ∧ (s.core 0).asleep = false ∧ s.mayLand 0 true = [] ∧ s.mayLand 0 false = [] ∧ s.linksUp (pathOf (flyer .flying).from_ (flyer .flying).core) = true
      ∧ (s.core 0).freeBays = [0, 1, 2, 3] ∧ s.tokenBarsLs 0 (linesOf 0 (0x140 + capPayload (imgHeader (flyer .flying).img))) = false
      ∧ (b.nextLanding 0).map (·.1) = some 9 ∧ b.spillWaits 1 = false ∧ ({ b with rot := 127 } : State).rot < 0 + 128 ∧ 0 + 128 ≤ b.rot
      ∧ ((b.launch 1).any fun l => niOk (b.niPages 0 l (overflowAt l (b.freeOverflow 1 l)) 8576 .write) fun ps => !b.tokenBars (niLines ps)) = true
      ∧ ((landed.launchOf 0 14).bind fun l => landed.nextVisit 0 l) = some 0 ∧ entryCapr (landed.slot 0 14).entry = true ∧ (landed.slot 0 14).starting = none ∧ entryState (landed.slot 0 14).entry = 2
      ∧ (let z := landed.setSlot 0 14 { landed.slot 0 14 with starting := some { regs := {} } };
        (z.launch (entrySeq (z.slot 0 14).entry)).map (·.aborted) = some false ∧ (z.slot 0 14).starting.isSome = true)
      ∧ (let v := { (vi1.setSlot 0 0 { vi1.slot 0 0 with park := .strand { cause := 7 } }) with capsules := [(9, flyer .flying)] };
        (v.slot 0 0).park = .strand { cause := 7 } ∧ (v.launchOf 0 0).isSome = true ∧ v.capsules.find 9 = some (flyer .flying))
      ∧ (let h := capState (.strandHeld none 0x40 0 0 0)
        (h.launch 1).any fun l => niOk (h.niPages 0 l (descStrand l.desc) 64 .write) fun ps =>
          leNat (h.niRead ps) / 2 ^ 64 % 2 ^ 32 == 2 && !h.tokenBars (niLines ps)) = true := by decide +kernel

/-- Engines: a kick with room and one at a full queue; arrival words; queries; an ELOAD from the local store and one from memory. -/
def fk : Fields := op 0 .none (.mem 1 .offset 0) (.g 6)
def kickState (n : Nat) : State := (withRegs fun r => r.putA 1 0x9000).setEngine 0 { ({} : Engine) with reserved := n }
def eq1 : State := withGs [(5, 127), (6, 128), (7, 192)]
theorem witness_EngineInstructions : let w := op 0 (.g 4) (.mem 1 .offset 0) (.g 6)
    (∀ i ∈ [Instr.xcopy fk, .xfill fk, .xgath fk, .xscat fk, .xcmpr fk, .xdcmp fk], issues i fk 1 (kickState 0) = true)
      ∧ okThat ((kickState 0).load 0x9000 64 64) (fun bs t => bs.length == 64 && t.cur == .slot 0 0 && !t.chunk.solo && (t.engine (t.engineOf 0)).reserved == 0) = true
      ∧ 16 ≤ ((kickState 16).engine ((kickState 16).engineOf 0)).reserved ∧ 256 ≤ (256 : Word).toNat
      ∧ issues (.arrset (op 0 (.mem 1 .offset 0) (.g 4) .none)) (op 0 (.mem 1 .offset 0) (.g 4) .none) 1 memState = true
      ∧ okThat (memState.store 0x9000 (leBytes 6 0) 1) (fun _ t => okThat (t.store 0x9008 (leBytes 8 5) 8) fun _ u => u.cur == .slot 0 0) = true
      ∧ issues (.await w) w 1 memState = true ∧ memState.isAlone = true
      ∧ okThat ((memState.setChunk { memState.chunk with solo := true }).waitValue 0x9000 16) (fun x t => x.1 == .mem 0x9000 && t.cur == .slot 0 0) = true
      ∧ (∀ a ∈ [(5 : BitVec 5), 6, 7], issues (.equery (op 0 (.g 4) (.g a) .none)) (op 0 (.g 4) (.g a) .none) 1 eq1 = true)
      ∧ (eq1.src (.g 5)).toNat < 128 ∧ (eq1.src (.g 6)).toNat / 64 = 2 ∧ (eq1.src (.g 7)).toNat / 64 = 3 ∧ (eq1.engine 127).queue.length < 32 := by decide +kernel
def el : State := withRegs fun r => { (r.putA 1 0x9000).putA 2 (BitVec.ofNat 64 windowBase) with priv := true }
theorem witness_Eload : let f := op 0 (.g 4) (.mem 1 .offset 0) (.imm 63)
    let g := op 0 (.g 4) (.mem 2 .offset 0) (.imm 0)
    issues (.eload f) f 1 el = true ∧ issues (.eload g) g 1 el = true ∧ okThat (el.locateReach 0x9000 4096 .read) (fun l t => l == .mem 0x9000 && t.isAlone) = true
      ∧ okThat (el.locateReach (BitVec.ofNat 64 windowBase) 4096 .read) (fun l t => l == .ls 0 0 && t.isAlone) = true ∧ 64 ≤ (64 : Word).toNat := by decide +kernel

/-- A record and an arrival word in the local store, and a region's bytes there. -/
def lsKick : State := (withRegs fun r => { r.putA 1 (BitVec.ofNat 64 (windowBase + 0x7F000)) with priv := true }).setEngine 0 {}
theorem witness_EngineInstructionsInTheLocalStore : let w := op 0 (.g 4) (.mem 1 .offset 0) (.g 6)
    lsKick.calm 0 0 16 ∧ (∀ i ∈ [Instr.xcopy fk, .xfill fk, .xgath fk, .xscat fk, .xcmpr fk, .xdcmp fk, .await w, .eload (op 0 (.g 4) (.mem 1 .offset 0) (.imm 63))],
      issues i ((i.head.map (·.2)).getD fk) 1 lsKick = true)
    ∧ (∀ n ∈ [16, 64, 4096], lsKick.addrOf fk.src1 n = BitVec.ofNat 64 (windowBase + 0x7F000) ∧ 0x7F000 % n = 0 ∧ 0x7F000 + n ≤ 0x80000)
    ∧ (lsKick.engine (lsKick.engineOf 0)).queue.length + (lsKick.engine (lsKick.engineOf 0)).reserved < 16 ∧ lsKick.isAlone = true
    ∧ leNat (lsKick.committedLs 0 0x7F000 8) / 2 ^ 48 ≠ (5 : Word).toNat % 2 ^ 16 :=
  ⟨calmOf _ _ (by decide +kernel), by decide +kernel, by decide +kernel, by decide +kernel, by decide +kernel, by decide +kernel⟩

/-- Engine 0 running a command of context 0: blocks at 0x9000 and 0xA000, no dictionary. -/
def eng : State :=
  let s := { base with cur := .engine 0 }
  s.setEngine 0 { ({} : Engine) with cmd := some placeCmd, regs := (({ pc := 0x1000 } : Regs).putA 1 0x9000).putA 2 0xA000 }
def fe1 : Fields := op 0 (.mem 2 .offset 0) (.mem 1 .postInc 0) (.imm 64)
theorem witness_EngineSteps : eng.cur = .engine 0 ∧ eng.anyLane fe1 1 = true ∧ (eng.src fe1.src2).toNat = 64 ∧ (eng.engine 0).waiting = false ∧ (eng.engine 0).park.isHeld = false
    ∧ okThat (eng.bulkMove 0x9000 0xA000 64 (copyOrder 0x9000 0xA000 false)) (fun _ t => t.cur == .engine 0) = true
    ∧ okThat (eng.bulkStore 0xA000 (fillBytes 0xA000 5 64)) (fun _ t => t.cur == .engine 0) = true
    ∧ okThat (eng.bulkLoad 0x9000 64) (fun b t => okThat (t.encodeBlock 0 b) fun o u => okThat (u.bulkStore 0xA000 o) fun _ v => v.cur == .engine 0) = true
    ∧ okThat (eng.decodeBlock 0 0x9000) (fun x t => x.2 == 1 && okThat (t.bulkStore 0xA000 x.1) fun _ v => v.cur == .engine 0) = true := by decide +kernel
theorem witness_EngineEvents : let q : Cmd := { rec_ := placeCmd }
    let s := { base.setEngine 0 { ({} : Engine) with queue := [q] } with cur := .engine 0 }
    (s.engine 0).cmd = none ∧ (s.engine 0).queue = [q] ∧ (s.estore (engineTower 0)).loads = [] ∧ ((s.estore (engineTower 0)).program (cmdProg q.rec_)).isSome = true
      ∧ (let t := (withSlot fun y => { y with park := .eload 1 3 (.mem 0x9000) 0x9000 4 }).setEstore 1 { ({} : EStore) with loads := [(3, 0, 0)] };
        (t.slot 0 0).park = .eload 1 3 (.mem 0x9000) 0x9000 4 ∧ ((t.estore 1).loads.find? fun l => l.1 == 3) = some (3, 0, 0) ∧ t.regionUsers 1 3 = 0
          ∧ okThat (t.eloadBytes (.mem 0x9000) 0x9000) (fun bs u => bs.length == 4096 && u.cur == t.cur) = true)
      ∧ (let a := withSlot fun y => { y with park := .await 4 false 0x9000 none };
        (a.slot 0 0).park = .await 4 false 0x9000 none ∧ (a.core 0).asleep = false ∧ a.poisoned (linesOf 0x9000 16) = none ∧ a.reach 0 (stackOf 0x9000) = .yes) := by decide +kernel

/-- A supervisor with A1 at 0x9000 in a context that may Decant; stacks as they are after reset. -/
def sys : State := { (withRegs fun r => { r.putA 1 0x9000 with priv := true }) with ctxs := [(0, { dcnt := true })] }
def fsys : Fields := op 0 (.g 4) (.mem 1 .offset 0) (.imm 3)
theorem witness_Decant : let f := op 0 (.g 4) (.imm 1) (.imm 0)
    issues (.decant f) f 1 sys = true ∧ sys.src f.src1 = BitVec.setWidth 64 (1 : BitVec 4) ∧ (sys.ctx sys.curCtx).dcnt = true ∧ (super.ctx super.curCtx).dcnt = false
      ∧ sys.isAlone = true ∧ (∃ e : DieId, e = (sys.stack 1).owner 1) ∧ (∃ e : DieId, e ≠ (sys.stack 1).owner 1 ∧ (e = stackDie0 1 ∨ e = stackDie1 1)
        ∧ (sys.die e).part = 0 ∧ (sys.die ((sys.stack 1).owner 1)).part = 0) ∧ (∃ e : DieId, e ≠ (sys.stack 1).owner 1 ∧ ¬ (e = stackDie0 1 ∨ e = stackDie1 1))
      ∧ (sys.stack 1).st ≠ .claiming ∧ issues (.stkq f) f 1 sys = true ∧ 16 ≤ (16 : Word).toNat ∧ 8 ≤ (8 : Word).toNat := by decide +kernel
/-- CKPTQ with the masks 65535 and 65536: its core is quiescent but for a pending request. -/
theorem witness_Ckptq : let c := op 1 (.g 4) (.mem 1 .offset 0) (.imm 3)
    let t := op 0 (.g 4) .none (.imm 3)
    issues (.ckptqTest t) t 1 sys = true ∧ issues (.ckptqTake c) c 1 sys = true ∧ sys.isAlone = true
      ∧ okThat (sys.locateReach 0x9000 64 .write) (fun l s1 => l == .mem 0x9000 && s1.isAlone && !s1.chunk.solo && (s1.stack (stackOf 0x9000)).st == .owned
        && whyBits (s1.quiescence 0 0 0) == 0 && !s1.maskBusy 3 && !s1.tokenBars [0x240] && !(s1.slot 0 0).chunk.hit (linesOf 0x9000 64)) = true
      ∧ (let q := { sys with requests := [.slot 0 1], stks := [(0, { st := .pouring })] }.setSlot 0 1 { sys.slot 0 0 with waiting := some {} };
        whyBits (q.quiescence 0 0 0) ≠ 0 ∧ q.maskBusy 1 = true) := by decide +kernel
theorem witness_SystemInstructions : let s := { sys with faultqs := [(3, { base := 0x20000, en := true, prod := 1 })] }
    issues (.faultqPop fsys) fsys 1 s = true ∧ issues (.faultqCnt fsys) fsys 1 s = true ∧ (s.src fsys.src2) = BitVec.setWidth 64 (3 : TowerId)
      ∧ (s.faultq 3).prod ≠ (s.faultq 3).cons ∧ (sys.faultq 3).prod = (sys.faultq 3).cons
      ∧ okThat ((s.setChunk { s.chunk with solo := true }).locateInside 0x9000 64 .write) (fun l t => l == .mem 0x9000 && !t.tokenBars (linesOf 0x9000 64)
        && !(t.slot 0 0).chunk.hit (linesOf 0x9000 64) && (t.stack (stackOf 0x9000)).st == .owned) = true
      ∧ ({ s with poison := [(((s.faultq 3).slotAt 0) / 64, 2)] } : State).poison.find ((s.faultq 3).slotAt (s.faultq 3).cons / 64) = some 2 ∧ s.host.posted = []
      ∧ (∀ i ∈ [Instr.resume (op 0 .none (.g 4) .none), .resumeFail (op 0 .none (.g 4) .none), .hostint (op 0 .none (.g 4) .none)], issues i (op 0 .none (.g 4) .none) 1 s = true)
      ∧ s.host.fmask = false ∧ ({ ({} : HostPort) with enabled := true, msix := [(0, 5)] }.entry 0).getLsbD 96 = false ∧ (({} : HostPort).entry 0).getLsbD 96 = true
      ∧ (let p := withRegs fun r => { r with priv := true, trapcause := 0x12 };
        issues (.preack fe) fe 1 p = true ∧ p.regs.trapcause = 0x12 ∧ p.regs.trapinfo.getLsbD 0 = false ∧ (p.slot 0 0).dZero = true ∧ p.isAlone = true)
      ∧ issues (.preack fe) fe 1 s = true ∧ s.regs.trapcause ≠ 0x12 := by decide +kernel
def stackAt (x : Stack) : State := { base with cur := .stack 2, stks := [(1, { st := .pouring, order := 1 }), (2, x)] }
theorem witness_StackLinkAndSleepEvents : (stackAt { st := .pouring, order := 0 }).cur = .stack 2 ∧ ((stackAt { st := .pouring, order := 0 }).stack 2).st = .pouring
    ∧ (stackAt { st := .pouring, order := 0 }).pourWaits 2 = false
    ∧ (stackAt { st := .claiming, by_ := some (0, 0), step := 7 }).stack 2 = { st := .claiming, by_ := some (0, 0), step := 7 }
    ∧ (∀ n ∈ [3, 4, 5, 6], ((stackAt { st := .pouring, order := 0, step := n }).stack 2).step = n)
    ∧ (let s := stackAt { st := .pouring, order := 2, step := 3 }
      { s with stks := [(0, { st := .pouring, order := 1, step := 3 }), (2, s.stack 2)] }.pourWaits 2 = true)
    ∧ (stackAt { st := .pouring, step := 3 }).linksAsleep = 0 ∧ (stackAt { st := .pouring, step := 3 }).recallCores 2 = []
    ∧ (let s := { stackAt { st := .pouring, step := 3 } with dir := [(2 ^ 31, { sharers := [0] })] };
      s.recallCores 2 = [0] ∧ (s.die (dieOf 0)).alive = true ∧ ({ s with dies := [(0, { alive := false })] } : State).recallCores 2 = [0]
        ∧ (({ s with dies := [(0, { alive := false })] } : State).die (dieOf 0)).alive = false)
    ∧ ((withSlot fun y => { y with park := .decant 2 4 }).slot 0 0).park = .decant 2 4 ∧ (base.slot 0 0).chunk.solo = false
    ∧ { base with cur := .die 3 }.cur = .die 3 ∧ { base with cur := .link 9 }.cur = .link 9 ∧ base.linksAsleep.getLsbD 9 = false
    ∧ ({ base with linksAsleep := 0x200, linksWaking := 0x200 } : State).linksAsleep.getLsbD 9 = true ∧ base.linksWaking.getLsbD 9 = false
    ∧ { State.reset with cur := .core 5 }.cur = .core 5 ∧ ({ State.reset with cur := .core 5 }).mayRest 5 = true ∧ base.mayRest 0 = false := by decide +kernel

/-- A queue of context 0 with its ring at 0x20000 and the record at HEAD; the launch descriptor at 0x21000. -/
def nose (op arg : Nat) (m : Mem → Mem) : State := { base with
  cur := .queue 0 0, ctxs := [(0, { ptroot := 0x40000 })], launches := [(1, { wordLaunch with completed := true })]
  queues := [(0, { base := 0x20000, en := true, tail := 1, busy := true })], mem := m ((base.mem.setNat 0x20000 8 op).setNat 0x20008 8 arg) }
def descMem (m : Mem) : Mem := m.setNat 0x21000 128 wordLaunch.desc.toNat
theorem witness_LaunchCommands : let s := nose 1 0x21000 descMem
    let y := s.queue 0 0
    s.cur = .queue 0 0 ∧ y.en = true ∧ y.head ≠ y.tail ∧ s.svc.halted = false ∧ s.ctxStopped y.ctx = false ∧ y.busy = true
      ∧ s.noseAt 0 y.ctx (y.slotAt y.head) false = .at_ (.mem 0x20000) ∧ s.noseAt 0 y.ctx (y.slotAt y.head) true = .at_ (.mem 0x20000) ∧ s.tokenBars (linesOf 0x20000 32) = false
      ∧ y.taking = none ∧ (0x21000 : Nat) % 128 = 0 ∧ s.noseAt 0 y.ctx 0x21000 false = .at_ (.mem 0x21000)
      ∧ s.checkDescriptor (BitVec.ofNat 1024 (s.mem.nat 0x21000 128)) y.ctx = 1 ∧ s.checkDescriptor 0 y.ctx = 2 ∧ (s.launch 1).isSome = true
      ∧ (s.lastSeq - 1).toNat < 2 ^ 31 ∧ ¬ (s.lastSeq - 2).toNat < 2 ^ 31 ∧ (∀ e ∈ s.launches, e.2.completed = true)
      ∧ s.noseAt 0 y.ctx 0x22000 true = .at_ (.mem 0x22000) ∧ s.noseAt 0 y.ctx 0x8000000000 true = .fail
      ∧ ({ s with svc := { s.svc with halted := true } } : State).svc.halted = true
      ∧ (let v := s.commitWrite 0x22000 (leBytes 8 5) none; v.noseAt 0 y.ctx (y.slotAt y.head) true = .at_ (.mem 0x20000) ∧ v.tokenBars (linesOf 0x20000 32) = false)
      ∧ (s.launch 1).map (·.allBound) = some true ∧ ((base.launch 1).map (·.completed)) = some false := by decide +kernel
/-- A ring in a coherent host window: the third-level entry maps the lowest GiB there. -/
theorem witness_HostRing : let s := { nose 0 0 id with mem := base.mem.setNat 0x42000 8 (2 ^ 52 + 2 ^ 50 + 0x1D) }
    s.noseAt 0 0 0x20000 true = .at_ (.host true (2 ^ 50 % 2 ^ 49 + 0x20000)) ∧ s.hostMem.byte 0x20000 = 0 ∧ (s.queue 0 0).busy = true
      ∧ ({ nose 0 0 id with stks := [(0, { st := .pouring })] } : State).noseAt 0 0 0x20000 true = .wait
      ∧ (let t := { nose 0 0 id with token := some (.slot 0 0), dir := [(0x800, { sharers := [0] })] }
        (t.setSlot 0 0 { base.slot 0 0 with waiting := some { ({} : Chunk) with wr := [⟨0x20000, 7⟩], len := 1 } }).tokenBars (linesOf 0x20000 32) = true) := by decide +kernel
/-- A launch that is to be placed, one that waits for another, and one that may be bound at a free slot of core 0. -/
def toPlace (d : BitVec 1024 → BitVec 1024) : State :=
  { State.reset with cur := .launch 2, lastSeq := 2, launches := [(1, { wordLaunch with origin := none }), (2, { wordLaunch with desc := d wordLaunch.desc, origin := none })] }
def toBind : State := { base with cur := .core 0, launches := [(1, wordLaunch), (2, { wordLaunch with unbound := [(0, 0)], allBound := false })] }
def bound : State := withSlot fun y => { y with entry := mkEntry stBound false false 0 0 0 0 1 0x10000 }
theorem witness_LaunchEvents : (toPlace id).cur = .launch 2 ∧ (toPlace id).origins (wordLaunch.desc) ≠ [] ∧ (toPlace id).ctxStopped 0 = false
    ∧ ((toPlace id).launch 2).map (fun l => (l.origin, l.completed, l.aborted, descAftv l.desc)) = some (none, false, false, false)
    ∧ ((toPlace fun d => setField (setBit d 736) 704 32 1).launch 2).map (fun l => descAftv l.desc && !(toPlace id).launchOver (descAfter l.desc)) = some true
    ∧ toBind.cur = .core 0 ∧ toBind.contenders 0 = [(0, 0)] ∧ (toBind.weigh 0 [(0, 0)]).1 = some (0, 0)
    ∧ base.cur = .slot 0 0 ∧ (base.slot 0 0).isRun = true ∧ (base.slot 0 1).isRun = false
    ∧ (bound.slot 0 0).starting = none ∧ (∀ e ∈ (bound.core 0).slots, e.1 = 0) ∧ bound.cores.keys = [0] ∧ (base.slot 0 0).dispatches = false
    ∧ (let z := withSlot fun y => { y with entry := mkEntry stBound true false 0 0 0 0 1 0, starting := some { regs := {} } };
      (z.slot 0 0).starting.isSome = true ∧ entryState (z.slot 0 0).entry = 2 ∧ (z.slot 0 0).entryNext = none)
    ∧ (let z := withSlot fun y => { y with entry := 0, entryNext := some (mkEntry stBound false false 0 0 0 0 1 0x10000) };
      (z.slot 0 0).isRun = false ∧ z.imageBarred 0 1 = false)
    ∧ bound.cur = .slot 0 0 ∧ (bound.slot 0 0).entryNext = none ∧ entryState (bound.slot 0 0).entry = 2 ∧ entryCapr (bound.slot 0 0).entry = false
    ∧ (bound.launch (entrySeq (bound.slot 0 0).entry)).map (·.aborted) = some false
    ∧ (let z := withSlot fun y => { y with entry := 0, entryNext := some (mkEntry 1 false false 0 0 0 0 1 0) };
      (z.slot 0 0).isRun = false ∧ (z.slot 0 0).entryNext = some (mkEntry 1 false false 0 0 0 0 1 0) ∧ entryState (mkEntry 1 false false 0 0 0 0 1 0) ≠ 2)
    ∧ (let l := { wordLaunch with done := [(0, 0)] }
      let z : State := { base with cur := .launch 1, launches := [(1, l)] }
      z.cur = .launch 1 ∧ z.launch 1 = some l ∧ l.drops = 0 ∧ l.completed = false ∧ z.mayComplete 1 l = true ∧ base.mayComplete 1 wordLaunch = false
        ∧ (z.journal 0).rec_ = false ∧ descCompl l.desc = 0) := by decide +kernel
/-- The same with a completion word at 0x22000. -/
theorem witness_CompletionWord : let l : Launch := { wordLaunch with done := [(0, 0)], desc := setField wordLaunch.desc 640 64 0x22000 }
    let z : State := { base with cur := .launch 1, launches := [(1, l)], ctxs := [(0, { ptroot := 0x40000 })] }
    descCompl l.desc ≠ 0 ∧ z.mayComplete 1 l = true ∧ z.noseAt l.t (descCtx l.desc) (descCompl l.desc) true = .at_ (.mem 0x22000)
      ∧ z.tokenBars (linesOf 0x22000 8) = false := by decide +kernel

def bidOf (s : State) : Option Bid := s.nextBid.1
theorem witness_Grants : waits.cur = .none ∧ (bidOf waits).map (·.req) = some (.slot 0 0) ∧ (∀ r ∈ waits.requests, (waits.requestChunk r).isSome = true)
    ∧ (bidOf waits).map (fun b => b.chunk.effects.length + b.chunk.len) = some 1 ∧ (bidOf waits).map (fun b => waits.linksUp b.way) = some true
    ∧ (bidOf { waits with linksAsleep := 0x100 }).map (fun b => waits.linksUp b.way && !({ waits with linksAsleep := 0x100 } : State).linksUp b.way) = some true
    ∧ (bidOf { waits with arbHeld := [([.top 0, .heart 0, .base], [9])] }).isNone = true
    ∧ (waits.journal 0).rec_ = false ∧ (waits.journal 0).rpl = false ∧ (waits.slot 0 0).chunk.behind { ({} : Chunk) with wr := [⟨0x9000, 7⟩], len := 1 } = false
    ∧ (waits.slot 0 0).isRun = true ∧ (waits.slot 0 0).park = .ready ∧ (bidOf { waits with token := some (.slot 0 0) }).map (·.req) = some (.slot 0 0)
    ∧ (bidOf { waitsTwo with tape := [1] }).map (·.req) = some (.slot 0 1) ∧ (bidOf waitsTwo).map (·.req) = some (.slot 0 0)
    ∧ ({ base with cur := .none } : State).requests = []
    ∧ ({ waits with tokenQ := [.slot 0 0] } : State).tokenQ = [.slot 0 0] ∧ waits.token = none := by decide +kernel
def savedSlot : SavedSlot := ⟨(0, 0), 1, 0, true, 0, 0, false, 0, 0, 0, 0, none, {}, 1⟩
/-- The save of launch 2, of one core. -/
def savedOne : Save :=
  { launches := [2], cores := [(2, ⟨0, 0, [], [], Vector.replicate 8 {}, Vector.replicate 4 {}, [], [], 0, none, none, []⟩)], rings := [], outboxes := [], cmds := [] }
/-- Pre-emption of context 0 under way since rotation 0. -/
def preempts (s : State) : State := { s with cur := .ctx 0, ctxs := [(0, { save := 0x50000, preempting := some 0 })] }
theorem witness_GrantAndPreemptionEvents :
    (let w := withSlot fun y => { y with sqc := 64, regs := { y.regs with trapvec := 0x2000 } };
      (w.slot 0 0).isRun = true ∧ 64 ≤ (w.slot 0 0).sqc.toNat ∧ (w.slot 0 0).alone = true ∧ (w.slot 0 0).strands { cause := 0x10, info := 64 } = false
        ∧ (w.slot 0 0).regs.trapvec ≠ 0 ∧ (w.slot 0 0).regs.inh = false)
    ∧ (base.slot 0 0).sqc.toNat < 64 ∧ (base.slot 0 0).held false = none ∧ (base.slot 0 0).held true = none ∧ (performer (.fenceSys fe)).isSome = true ∧ (performer (.add fi)).isNone = true
    ∧ isNext (exec (.fenceSys fe) { (withSlot fun y => { y with park := .ready }) with answer := some 3 }) = true
    ∧ (base.saves.find 0) = none ∧ (base.ctx 0).preempting = none ∧ base.saveBlockOk 0 = false ∧ (base.launch 1).map (fun l => (l.origin.isSome && l.hasSlots, l.completed || l.aborted)) = some (true, false)
    ∧ (let p := preempts base;
      p.saveBlockOk 0 = true ∧ p.preemptReady 0 = false ∧ (p.truncateAll 0).preemptReady 0 = false ∧ (p.ctx 0).preempting = some 0 ∧ p.untold 0 = [(0, 0)]
        ∧ p.rot < 0 + 2 ^ 18 ∧ 0 + 2 ^ 18 ≤ ({ p with rot := 2 ^ 18 } : State).rot ∧ p.acknowledged 0 = false)
    ∧ (let p := preempts State.reset; p.preemptReady 0 = true ∧ p.saveBlockOk 0 = true ∧ p.acknowledged 0 = true ∧ p.untold 0 = [] ∧ p.token = none)
    ∧ (let p := (preempts base).setCore 0 { base.core 0 with imaged := [1] };
      let p := p.setSlot 0 0 { base.slot 0 0 with tiles := some true, park := .preacked };
      p.untold 0 = [] ∧ p.preemptReady 0 = true ∧ (p.toSave 0).map (·.1) = [1] ∧ (∀ e ∈ p.toSave 0, p.touched e.1 e.2 = [0]))
    ∧ ({ preempts State.reset with ctxs := [(0, { preempting := some 0 })] } : State).saveBlockOk 0 = false
    ∧ (let v : Save := { launches := [], cores := [], rings := [], outboxes := [], cmds := [] };
      ({ base with saves := [(0, v)] } : State).saves.find 0 = some v ∧ base.savedLaunches v = [])
    ∧ (let l := { wordLaunch with desc := setField (setBit wordLaunch.desc 144) 192 12 1 };
      (({ base with cur := .ctx 1, agenda := [.turn 0 0] } : State).resumeAll 1 savedOne [(2, l)] []).isNone = true ∧ Pick.timed (.turn 0 0) = false)
    ∧ (let l := { wordLaunch with preempted := true }; l.completed = false ∧ l.aborted = false ∧ l.origin.isSome = true ∧ descCtx l.desc = 0)
    ∧ (base.slot 0 0).regs.inh = false ∧ (base.slot 0 0).park = .ready
    ∧ (let y := base.slot 0 0; y.chunk.len = 0 ∧ y.waiting = none ∧ y.awaiting = none ∧ y.strands { cause := 0x12, info := 0 } = false
      ∧ base.tilesTaken 0 0 = false ∧ base.lowerPending 0 0 = false)
    ∧ (base.setSlot 0 1 { base.slot 0 0 with tiles := some true }).tilesTaken 0 0 = true
    ∧ (base.slot 0 1).isRun = false ∧ savedSlot.run = true := by decide +kernel

/-- Queues disabled, full and open; kinds 0 and 1; host and peer accesses at stacks OWNED, FENCED and POURING; registers of each kind. -/
theorem witness_HostAndLinkEvents : let q : FaultQ := { base := 0x20000, en := true, prod := 1 }
    let s : State := { base with cur := .tower 1, faultqs := [(1, q), (2, { q with prod := 16 })] }
    (s.faultq 1).en = true ∧ (s.faultq 1).isFull = false ∧ (s.faultq 2).isFull = true ∧ (s.faultq 0).en = false ∧ s.tokenBars (linesOf (q.slotAt q.prod) 64) = false
      ∧ (s.stack (stackOf (q.slotAt q.prod))).st ≠ .fenced ∧ (s.faultq 1).wait = [] ∧ ({ q with wait := [5] } : FaultQ).wait = [5]
      ∧ base.host.snooped = [] ∧ ({ snooped := [9] } : HostPort).snooped ≠ [] ∧ (base.slot 0 0).posted.count = 0
      ∧ ((withSlot fun y => { y with posted := { count := 1, open_ := 1 } }).slot 0 0).posted.count ≠ 0
      ∧ base.dieBusy 0 = true ∧ base.dieBusy 1 = false ∧ (base.slot 0 0).waiting = none ∧ (waits.slot 0 0).waiting ≠ none
      ∧ ((withSlot fun y => { y with chunk := { y.chunk with opened := true, shadows := [⟨1, [], 0⟩] } }).slot 0 0).chunk.opened = true
      ∧ base.svc.tripped = false ∧ base.host.up = true ∧ 6 ≤ base.svc.boot ∧ ({ boot := 2 } : Service).boot < 3
      ∧ base.portReach 0 = .yes ∧ ({ base with stks := [(0, { st := .fenced })] } : State).portReach 0 = .reject
      ∧ ({ base with stks := [(0, { st := .pouring })] } : State).portReach 0 = .park ∧ base.tokenBars (linesOf 0x9000 8) = false ∧ base.poisoned (linesOf 0x9000 8) = none
      ∧ ({ base with poison := [(0x240, 2)] } : State).poisoned (linesOf 0x9000 8) ≠ none
      ∧ ({ waits with token := some (.slot 0 0), dir := [(0x240, { sharers := [0] })] } : State).tokenBars (linesOf 0x9000 8) = true
      ∧ (0x9000 % 64 + 64 ≤ 64) ∧ 64 < 0x9001 % 64 + 64 ∧ base.host.pending.getLsbD 5 = false ∧ base.host.posted = []
      ∧ ({ pending := 32 } : HostPort).pending.getLsbD 5 = true ∧ (({ msix := [(5, 7)] } : HostPort).entry 5).getLsbD 96 = false
      ∧ regAt 0x1000000 = .queue 0 0 0 ∧ regAt 0x1000008 = .queue 0 0 1 ∧ regAt 0x1000010 = .queue 0 0 2 ∧ regAt 0x2000000 = .faultq 0 0 ∧ regAt 0x3000000 = .ctx 0 0
      ∧ regAt 0x3000008 = .ctx 0 1 ∧ regAt 0x3000010 = .ctx 0 2 ∧ regAt 0x5000040 = .stack 1 ∧ regAt 0x6000000 = .pkgbar 0 ∧ regAt 0x7000008 = .route 1
      ∧ regAt 0x7000800 = .port 0 ∧ regAt 0x9008000 = .pba 0 ∧ regAt 0xA000000 = .monstat 0 false ∧ regAt 0xA000400 = .alarm ∧ regAt 0 = .none
      ∧ (base.queue 0 0).en = false ∧ ({ en := true } : Queue).en = true ∧ (base.ports.look {} 3).up = true ∧ ({ asked := true, fails := 15 } : OPort).fails + 1 = 16 ∧ base.pkg = 0
      ∧ ({ base with routes := [(7, (5, true))] } : State).routes.look (0, false) 7 = (5, true) ∧ base.routes.look (0, false) 7 = (0, false) := by decide +kernel
/-- An SPDM exchange that has agreed its algorithms; erased keys; each step of bring-up; a trip, with nothing and with a turn on the agenda. -/
theorem witness_ServiceEvents : ({ base with cur := .none } : State).svc.erased = false ∧ State.reset.tape = [] ∧ State.reset.agenda = []
    ∧ (let v : Service := { spdm := { version := true, caps := true, algs := true } }; v.spdm.version = true ∧ v.spdm.caps = true ∧ v.spdm.algs = true)
    ∧ ({ ({} : Service) with erased := true }).erased = true ∧ ({ ({} : Service) with pol := 1 }).pol.toNat = 1 ∧ ({ base with cur := .die 7 } : State).cur = .die 7
    ∧ (∀ n ∈ [1, 2, 3, 4, 5, 6], let s : State := { State.reset with svc := { boot := n } }; s.svc.boot = n ∧ s.svc.tripped = false)
    ∧ (let s : State := { base with svc := { tripped := true }, agenda := [.turn 0 0] }; s.svc.tripped = true ∧ s.agenda = .turn 0 0 :: [])
    ∧ (base.launch 1).map (·.completed) = some false := by decide +kernel
theorem witness_RoundTrip : (Instr.add fi).wf = true ∧ encode (.add fi) = some (wordOf 0x20 fi) ∧ (Instr.add fi).hartOnly = false
    ∧ (Instr.hartXcopy fe1).wf = true ∧ (Instr.hartXcopy fe1).hartOnly = true ∧ (encode (.hartXcopy fe1)).isSome = true := by decide +kernel
/-- A turn of a running slot at a word that decodes, and at one that does not; an engine's turn; an event. -/
def turnAt (w : Nat) : State := State.reset.withFetchWord 96 w
def opened (s : State) : State := (s.setSlot 0 0 (s.slot 0 0)).openChunk 0 0
theorem witness_StepRunsDecoded : let s := turnAt 0x2070020000040000_05800007
    s.agenda = [.turn 0 0] ∧ s.svc.tripped = false ∧ (s.slot 0 0).isRun = true ∧ (s.slot 0 0).park = .ready ∧ (s.slot 0 0).cutDue = none ∧ (s.slot 0 0).stopping = false
      ∧ (s.slot 0 0).preempt = false ∧ (s.slot 0 0).sqc.toNat < 64
      ∧ okThat (opened { s with cur := .slot 0 0 }).fetch (fun w _ => w == 0x2070020000040000_05800007) = true
      ∧ okThat (opened { turnAt 0x007000010000000000000000 with cur := .slot 0 0 }).fetch (fun w _ => w == 0x007000010000000000000000) = true
      ∧ decodeSlot 0x007000010000000000000000 = .error (.badField 0)
      ∧ okThat ({ s with cur := .slot 0 0 } : State).fetch (fun _ _ => true) = true ∧ inWindow 0x10000 = false
      ∧ okThat (({ s with cur := .slot 0 0 } : State).locate 0x10000 4 .fetch) (fun l t => l == .mem 0x10000 && okThat (t.reachMem 0x10000 0x10000) fun _ u =>
        (u.poisoned [0x10000 / 64]).isNone && u.codeCopies (0x10000 / 64) == []) = true
      ∧ (let e := turnAt 0xD07000640000670000800040
        e.agenda = [.eturn 0] ∧ (e.engine 0).cmd = some placeCmd ∧ (e.engine 0).park = .ready ∧ (e.engine 0).waiting = false ∧ (e.engine 0).std = false
          ∧ (e.engine 0).regions ≠ 0 ∧ okThat (({ e with agenda := [], cur := .engine 0 } : State).openEngine 0 placeCmd) (fun _ t =>
            t.regs.pc == 0x1000 && okThat (t.storeRead 0x1000 12) fun bs _ => (decodeHart (wordOfBytes bs)).isOk) = true) := by decide +kernel
end Sys2Proof.Tests
end

section
/-! What CSR accesses of a slot do (01_thread_state.md R30, 04_scalar_and_control.md R95): O18, O19, O20. -/

namespace Sys2Proof.Machine

section csr
variable {s u : State} {c : CoreId} {k : SlotId} {r : Regs} {n : Nat} {x : Word}

/-- A CSR number that is allowed at the slot's level and assigned by a chapter is read. -/
theorem csrRead_of_val (h : n < 0x100 ∨ s.regs.priv = true) (hx : s.csrVal n = some x) : s.csrRead n = .ok (x, s) := by
  unfold State.csrRead
  rw [if_neg (by rintro ⟨h1, h2⟩; exact h2 (h.resolve_left (by omega)) ), hx]

/-- Numbers from 0x100 trap at user level, whether assigned or not. -/
theorem csrRead_of_user (h : 0x100 ≤ n) (hp : s.regs.priv = false) : s.csrRead n = .error (.trap s { cause := 0x03, info := 1 }) := by
  unfold State.csrRead
  rw [if_pos ⟨h, by simp [State.priv, hp]⟩]

/-- A number that no chapter assigns is an Illegal Encoding. -/
theorem csrRead_of_none (h : n < 0x100 ∨ s.regs.priv = true) (hx : s.csrVal n = none) :
    s.csrRead n = .error (.trap s (illegal 0x12 0 0)) := by
  unfold State.csrRead
  rw [if_neg (by rintro ⟨h1, h2⟩; exact h2 (h.resolve_left (by omega)) ), hx]

/-- A number outside MPROG0 to MPROG3 names slot registers, and a write sets them. -/
theorem csrWrite_of_slot (h : ¬ (0x050 ≤ n ∧ n ≤ 0x053)) (x : Word) :
    s.csrWrite n x = .ok ((), s.setRegs (s.regs.csrSet n x)) := by
  unfold State.csrWrite
  split
  case h_5 => rfl
  all_goals omega

/-- The body of CSRR on a slot. -/
theorem exec_csrr (f : Fields) (h : Issues (.csrr f) f 1 s c k) :
    exec (.csrr f) s = .next (concludeSlot c k (opcOf (.csrr f)) (.csrr f) f
      ((s.csrRead (csrNum f.src1)).fin fun x s => .done (s.setG (gNum f.dst) x))) := by
  rw [arm_csrr, execCsrr, scalar, issue_body h]
  simp only [h.cur]

end csr

/-- Settles O18: CSRR gives the value, or the trap, that the checks of the number say. -/
theorem csrReads : Obligations.CsrReads := by
  intro f s c k d n hd hs h
  have hn : csrNum f.src1 = n.toNat := by rw [hs]; rfl
  have hg : gNum f.dst = d := by rw [hd]; rfl
  have he := exec_csrr f h
  rw [hn, hg] at he
  refine ⟨fun x hx hl => ?_, fun hl hp => ?_, fun hx hl => ?_⟩
  · rw [csrRead_of_val hl hx] at he
    exact ⟨_, he, ended_done (regsNow_setG (regsNow_refl h.cur) h.cur d x) h.cur _ _ _⟩
  · rw [csrRead_of_user hl hp] at he
    exact he
  · rw [csrRead_of_none hl hx] at he
    exact he

/-- From 0x111 on no chapter assigns a number. -/
theorem csrVal_unassigned (s : State) {n : Nat} (h : 0x111 ≤ n) : s.csrVal n = none := by
  unfold State.csrVal
  split
  case h_49 => rfl
  all_goals omega

/-- Settles O19: each number is one case of the reader, at the registers of the executing slot; from 0x111 on there is none. -/
theorem csrValues : Obligations.CsrValues := by
  intro s c k hc r
  have hr : s.regs = r := regs_slot s c k hc
  have hp : s.csrVal 0x110 = some (BitVec.ofNat 64 (bit s.regs.priv)) := rfl
  clear_value r
  subst hr
  refine ⟨rfl, rfl, fun n => ?_, rfl, rfl, rfl, rfl, rfl, rfl, ?_, fun n hn => csrVal_unassigned s hn⟩
  · fin_cases n <;> exact ⟨rfl, rfl, rfl, rfl, rfl⟩
  · rw [hp]
    cases s.regs.priv <;> rfl

section csrw
variable {s u : State} {c : CoreId} {k : SlotId} {r : Regs}

/-- The registers after a write of a CSR: with INH clear no pre-emption is noted as waiting for it. -/
def Regs.csrAfter (r : Regs) (n : Nat) (x : Word) : Regs :=
  let q := r.csrSet n x
  { q with ppend := q.inh && q.ppend }

theorem regsNow_inhCleared (h : RegsNow s u c k r) (hc : s.cur = .slot c k) :
    RegsNow s u.inhCleared c k { r with ppend := r.inh && r.ppend } := by
  unfold State.inhCleared
  rw [regsNow_regs h hc]
  by_cases hi : r.inh = true
  · rw [if_pos hi, hi, Bool.true_and, ← hi]
    exact h
  · simpa [hi] using regsNow_setRegs h hc { r with ppend := false }

/-- A write of a CSR and what its level makes of INH, on the slot's registers. -/
theorem regsNow_csrSet (hc : s.cur = .slot c k) (n : Nat) (x : Word) :
    RegsNow s (s.setRegs (s.regs.csrSet n x)).inhCleared c k (s.regs.csrAfter n x) :=
  regsNow_inhCleared (regsNow_setRegs (regsNow_refl hc) hc _) hc

/-- At user level, or alone at supervisor level, a CSR write completes as its body does, but for a cut that falls due. -/
theorem csrSerial_done (hc : s.cur = .slot c k) (ha : s.regs.priv = true → s.isAlone = true) {body : State → Eff}
    (hb : body s = .done u) (hu : RegsNow s u c k r) : ∃ v, s.csrSerial body = .done v ∧ RegsNow s v c k r := by
  unfold State.csrSerial
  by_cases hp : s.regs.priv = true
  · refine ⟨u.setDue 0x0E none, ?_, regsNow_setDue hu hc _ _⟩
    simp [State.priv, hp, State.ownChunk, State.beginsChunk, ha hp, hb, Eff.due]
  · exact ⟨u, by simp [State.priv, hp, hb], hu⟩

/-- CSRX of a readable CSR outside MPROG: the CSR takes the operation's value and the destination the old one. -/
theorem gives_csrExchange {i : Instr} {f : Fields} {n : BitVec 12} {old : Word} {d : BitVec 5} {op : Word → Word → Word}
    (he : exec i s = csrExchange i f s op) (hv : s.csrVal n.toNat = some old) (hn : ¬ (0x050 ≤ n.toNat ∧ n.toNat ≤ 0x053))
    (hl : s.regs.priv = false → n.toNat < 0x100) (ha : s.regs.priv = true → s.isAlone = true)
    (hd : f.dst = .g d) (hs : f.src1 = .csr n) (h : Issues i f 1 s c k) :
    Gives i s c k ((s.regs.csrAfter n.toNat (op old (s.src f.src2))).putG d old).advance := by
  have hr : s.csrRead n.toNat = .ok (old, s) := csrRead_of_val (by cases hp : s.regs.priv <;> simp_all) hv
  obtain ⟨v, hv, hr'⟩ := csrSerial_done (u := ((s.setRegs (s.regs.csrSet n.toNat (op old (s.src f.src2)))).inhCleared).setG d old)
    (body := fun s => (s.csrWrite n.toNat (op old (s.src f.src2))).fin fun _ s => .done (s.inhCleared.setG d old)) h.cur ha
    (by rw [csrWrite_of_slot hn]; rfl) (regsNow_setG (regsNow_csrSet h.cur _ _) h.cur d old)
  refine scalar_done h he ?_ hr'
  simp only [hd, hs, csrNum, gNum, hr, Res.fin]
  exact hv

/-- CSRW of a readable CSR outside MPROG. -/
theorem gives_csrw {f : Fields} {n : BitVec 12} {old : Word}
    (hv : s.csrVal n.toNat = some old) (hn : ¬ (0x050 ≤ n.toNat ∧ n.toNat ≤ 0x053))
    (hl : s.regs.priv = false → n.toNat < 0x100) (ha : s.regs.priv = true → s.isAlone = true)
    (hd : f.dst = .csr n) (h : Issues (.csrw f) f 1 s c k) :
    Gives (.csrw f) s c k (s.regs.csrAfter n.toNat (s.src f.src1)).advance := by
  have hr : s.csrRead n.toNat = .ok (old, s) := csrRead_of_val (by cases hp : s.regs.priv <;> simp_all) hv
  obtain ⟨v, hv, hr'⟩ := csrSerial_done (u := (s.setRegs (s.regs.csrSet n.toNat (s.src f.src1))).inhCleared)
    (body := fun s => (s.csrWrite n.toNat (s.src f.src1)).fin fun _ s => .done s.inhCleared) h.cur ha
    (by rw [csrWrite_of_slot hn]; rfl) (regsNow_csrSet h.cur _ _)
  refine scalar_done h (arm_csrw f s) ?_ hr'
  simp only [hd, csrNum, hr, Res.fin]
  exact hv

/-- TARGET is clamped to 16 to 4,096 (R30). -/
theorem clampTarget_setWidth (x : Word) : clampTarget (x.setWidth 13)
    = if x.toNat % 8192 < 16 then 16 else if 4096 < x.toNat % 8192 then 4096 else x.setWidth 13 := by
  unfold clampTarget
  rw [BitVec.toNat_setWidth]

end csrw

/-- Settles O20: one law of CSRW and one of CSRX for its three operations; the written fields are read off from the writer. -/
theorem csrWrites : Obligations.CsrWrites := by
  intro f s c k n old hv hn hl ha after x y
  refine ⟨fun hd h => gives_csrw hv hn hl ha hd h, fun d hd hs => ⟨?_, ?_, ?_⟩, rfl, ?_, rfl, rfl, rfl, rfl, rfl⟩
  · exact fun h => gives_csrExchange (op := fun _ x => x) (arm_csrxSwp f s) hv hn hl ha hd hs h
  · exact fun h => gives_csrExchange (op := fun o x => o ||| x) (arm_csrxSet f s) hv hn hl ha hd hs h
  · exact fun h => gives_csrExchange (op := fun o x => o &&& ~~~x) (arm_csrxClr f s) hv hn hl ha hd hs h
  · exact congrArg (fun v => { s.regs with target := v, targetNew := true }) (clampTarget_setWidth x)

end Sys2Proof.Machine
end

section
/-! A false guard (01_thread_state.md R25): O10. -/

namespace Sys2Proof.Machine

section guard
variable {i : Instr} {f : Fields} {s : State} {c : CoreId} {k : SlotId}

/-- The instruction issues as a scalar one, at every level: its guard is bit 0 of its predicate (R25, R329). -/
def ScalarIssue (i : Instr) (f : Fields) (s : State) : Prop :=
  privileged (opcOf i) = false ∧ ∃ body, exec i s = scalar i f s body

theorem scalarIssue_atomicOp (hp : privileged (opcOf i) = false) (h : exec i s = atomicOp i f s) : ScalarIssue i f s := ⟨hp, _, h⟩

theorem scalarIssue_capSendOp {inj : Bool} (hp : privileged (opcOf i) = false) (h : exec i s = capSendOp i f s inj) :
    ScalarIssue i f s := ⟨hp, _, h⟩

theorem scalarIssue_itineraryOp {body : Nat → BitVec 512 → Nat → State → Eff} (hp : privileged (opcOf i) = false)
    (h : exec i s = itineraryOp i f s body) : ScalarIssue i f s := ⟨hp, _, h⟩

theorem scalarIssue_kickOp {prog : Nat} (hp : privileged (opcOf i) = false) (h : exec i s = kickOp i f s prog) :
    ScalarIssue i f s := ⟨hp, _, h⟩

/-- The one lane of a scalar instruction is bit 0 of its guard. -/
theorem anyLane_one (s : State) (f : Fields) : s.anyLane f 1 = (s.guardMask f).getLsbD 0 := by
  simp only [State.anyLane, fieldNat, BitVec.getLsbD, Nat.testBit_zero, Nat.shiftRight_zero, pow_one]
  rcases Nat.mod_two_eq_zero_or_one (s.guardMask f).toNat with h | h <;> simp [h]

/-- A scalar instruction whose guard is false is only passed over. -/
theorem gives_masked (hi : ScalarIssue i f s) (hc : s.cur = .slot c k) (hg : (s.guardMask f).getLsbD 0 = false) :
    Gives i s c k s.regs.advance := by
  obtain ⟨hp, body, he⟩ := hi
  have hl : privileged (opcOf i) = true → s.priv = true := by simp [hp]
  exact ⟨_, he.trans (issue_masked hc hl ((anyLane_one s f).trans hg) body), ended_done (regsNow_refl hc) hc _ _ _⟩

end guard

/-- Settles O10: each of the listed instructions issues as a scalar one, so a false guard keeps it from its body. -/
theorem falseGuardHasNoEffect : Obligations.FalseGuardHasNoEffect := by
  intro f s c k i hi hc hg
  refine gives_masked ?_ hc hg
  revert i
  exact List.forall_iff_forall_mem.1
    ⟨⟨rfl, _, arm_add f s⟩, ⟨rfl, _, arm_sub f s⟩, ⟨rfl, _, arm_mul f s⟩, ⟨rfl, _, arm_div f s⟩, ⟨rfl, _, arm_shl f s⟩,
      ⟨rfl, _, arm_cmp f s⟩, ⟨rfl, _, arm_sel f s⟩, ⟨rfl, _, arm_mov f s⟩, ⟨rfl, _, arm_lea f s⟩, ⟨rfl, _, arm_plog f s⟩,
      ⟨rfl, _, arm_bra f s⟩, ⟨rfl, _, arm_call f s⟩, ⟨rfl, _, arm_callr f s⟩, ⟨rfl, _, arm_loopI f s⟩, ⟨rfl, _, arm_halt f s⟩,
      ⟨rfl, _, arm_yield f s⟩, ⟨rfl, _, arm_cut f s⟩, ⟨rfl, _, arm_trapI f s⟩, ⟨rfl, _, arm_syscall f s⟩, ⟨rfl, _, arm_csrr f s⟩,
      ⟨rfl, _, arm_csrw f s⟩, ⟨rfl, _, arm_fadd f s⟩, ⟨rfl, _, arm_fdiv f s⟩, ⟨rfl, _, arm_fcmp f s⟩, ⟨rfl, _, arm_ld f s⟩,
      ⟨rfl, _, arm_st f s⟩, ⟨rfl, _, arm_lda f s⟩, ⟨rfl, _, arm_st2 f s⟩, scalarIssue_atomicOp rfl (arm_aadd f s),
      scalarIssue_atomicOp rfl (arm_acas f s), ⟨rfl, _, arm_fence f s⟩, ⟨rfl, _, arm_fenceSys f s⟩, ⟨rfl, _, arm_bararr f s⟩,
      ⟨rfl, _, arm_barwait f s⟩, ⟨rfl, _, arm_launch f s⟩, ⟨rfl, _, arm_lsw f s⟩, ⟨rfl, _, arm_amsg f s⟩, ⟨rfl, _, arm_mma f s⟩,
      ⟨rfl, _, arm_mst f s⟩, scalarIssue_capSendOp rfl (arm_capsend f s), scalarIssue_itineraryOp rfl (arm_cappush f s),
      scalarIssue_kickOp rfl (arm_xcopy f s), ⟨rfl, _, arm_await f s⟩, ⟨rfl, _, arm_stkq f s⟩⟩

end Sys2Proof.Machine
end

section
/-! The package after reset (01_thread_state.md R19, 19_service_and_limits.md R414): O58. -/

namespace Sys2Proof.Machine

/-- After reset memory has its canonical form. -/
theorem reset_memWf : State.reset.MemWf := by
  refine ⟨rfl, rfl, rfl, ?_, ?_, ?_, ?_⟩ <;> exact List.forall_mem_nil _

/-- The words of a command queue's control block after reset: disabled, with WEIGHT and CLASS 1 (R190). -/
theorem reset_queueReg (t : TowerId) (q : QueueId) : State.reset.regRead (.queue t q 0) = 0
    ∧ State.reset.regRead (.queue t q 1) = 0x01010000 ∧ State.reset.regRead (.queue t q 2) = 0
    ∧ State.reset.regRead (.queue t q 3) = 0 := by
  have h1 : (0#20 ++ 0#12 ++ 0#6 ++ 1#2 ++ 1#8 ++ 0#7 ++ BitVec.ofBool false ++ 0#4 ++ 0#4 : BitVec 64) = 0x01010000 := by decide
  have h2 : (0#32 ++ 0#32 : BitVec 64) = 0 := by decide
  exact ⟨rfl, h1, h2, h2⟩

/-- The words of a fault queue's control block after reset: disabled, of sixteen records (R341). -/
theorem reset_faultqReg (t : TowerId) : State.reset.regRead (.faultq t 0) = 0 ∧ State.reset.regRead (.faultq t 1) = 4
    ∧ State.reset.regRead (.faultq t 2) = 0 ∧ State.reset.regRead (.faultq t 3) = 0 := by
  have h1 : (0#54 ++ BitVec.ofBool false ++ BitVec.ofBool false ++ 0#4 ++ 4#4 : BitVec 64) = 4 := by decide
  have h2 : (0#32 ++ 0#32 : BitVec 64) = 0 := by decide
  exact ⟨rfl, h1, h2, rfl⟩

/-- Every word of a context's record reads as zero after reset (R350, R368). -/
theorem reset_ctxReg (n : CtxId) (w : Nat) : State.reset.regRead (.ctx n w) = 0 := by
  have h1 : (0#60 ++ BitVec.ofBool false ++ 0#3 : BitVec 64) = 0 := by decide
  match w with
  | 1 => exact h1
  | 0 | 2 | _ + 3 => rfl

/-- Every package barrier record is zero after reset (R403). -/
theorem reset_pkgbarReg (n : CtxId) : State.reset.regRead (.pkgbar n) = 0 := by
  have h : (0#16 ++ 0#8 ++ 0#7 ++ 0#9 ++ 0#8 ++ 0#16 : BitVec 64) = 0 := by decide
  exact h

/-- Every route is invalid after reset (R401). -/
theorem reset_routeReg (p : Byte) : State.reset.regRead (.route p) = 0 := by
  have h : (0#59 ++ BitVec.ofBool false ++ 0#4 : BitVec 64) = 0 := by decide
  exact h

/-- No MSI-X vector is pending after reset (R399). -/
theorem reset_pbaReg (n : Nat) : State.reset.regRead (.pba n) = 0 := BitVec.extractLsb'_zero

/-- The owner register of a stack after reset: OWNED by the die of its port 0, with both dies of its wiring (R365, R366). -/
theorem reset_stackReg (m : StackId) :
    State.reset.regRead (.stack m) = (0#41 ++ stackDie1 m ++ 0#1 ++ stackDie0 m ++ 0#16 : BitVec 64) := by
  revert m
  decide

/-- The MONSTAT words of a die after reset: zero but for THROT, which is 800 (R416). -/
theorem reset_monstat : ({} : Die).monLo = 0 ∧ ({} : Die).monHi = 800 := by decide

/-- With nothing on the agenda and no slot bound, a step is a passing rotation (R184). -/
theorem reset_step : step State.reset = .next { State.reset with rot := 1 } := rfl

/-- A slot after reset: unbound, its chunk empty, its registers at their reset values (R19, R30). -/
theorem reset_slot (c : CoreId) (k : SlotId) : State.reset.slot c k = {} := rfl

/-- Settles O58: every table is empty, so every register is the default that its reader gives. -/
theorem resetState : Obligations.ResetState := by
  refine ⟨reset_memWf, fun _ => rfl, fun _ _ => rfl, rfl, rfl, reset_queueReg, reset_faultqReg,
    reset_ctxReg, fun _ => rfl, reset_pkgbarReg, reset_routeReg, reset_pbaReg, by decide, reset_stackReg, fun _ => reset_monstat,
    fun c k => ?_, fun _ _ => Vector.getElem_replicate _, fun _ => ⟨rfl, rfl⟩, rfl, rfl, rfl, rfl, rfl, rfl, rfl, reset_step⟩
  rw [reset_slot]
  exact ⟨rfl, rfl, rfl, rfl, fun _ => Vector.getElem_replicate _, rfl, rfl, rfl, rfl, rfl⟩

end Sys2Proof.Machine
end

section
/-! Bytes of little-endian numbers (00_scope.md R3). -/

namespace Sys2Proof.Machine

theorem leNat_lt (bs : List Byte) : leNat bs < 256 ^ bs.length := by
  induction bs with
  | nil => simp [leNat]
  | cons b bs ih =>
    have hb := b.isLt
    simp only [leNat, List.length_cons, pow_succ]
    omega

/-- The number of n bytes fits in 8 n bits. -/
theorem toNat_ofNat_leNat (bs : List Byte) (w : Nat) (h : 8 * bs.length = w) : (BitVec.ofNat w (leNat bs)).toNat = leNat bs := by
  subst h
  rw [BitVec.toNat_ofNat, Nat.mod_eq_of_lt]
  rw [pow_mul]
  exact leNat_lt bs

theorem leNat_div (bs : List Byte) (k : Nat) : leNat bs / 256 ^ k = leNat (bs.drop k) := by
  induction k generalizing bs with
  | zero => simp
  | succ k ih =>
    cases bs with
    | nil => simp [leNat]
    | cons b bs =>
      have hb := b.isLt
      rw [pow_succ', ← Nat.div_div_eq_div_mul, List.drop_succ_cons, ← ih, leNat]
      congr 1
      omega

theorem leBytes_leNat (bs : List Byte) (n : Nat) (h : n ≤ bs.length) : leBytes n (leNat bs) = bs.take n := by
  induction n generalizing bs with
  | zero => simp [leBytes]
  | succ n ih =>
    cases bs with
    | nil => simp at h
    | cons b bs =>
      have hb := b.isLt
      have hd : leNat (b :: bs) / 256 = leNat bs := by simpa using leNat_div (b :: bs) 1
      have hm : BitVec.ofNat 8 (leNat (b :: bs)) = b := by
        apply BitVec.eq_of_toNat_eq
        simp only [leNat, BitVec.toNat_ofNat]
        omega
      rw [leBytes, hd, hm, ih bs (by simpa using h), List.take_succ_cons]

theorem leBytes_getElem (n x j : Nat) (h : j < (leBytes n x).length) : (leBytes n x)[j] = BitVec.ofNat 8 (x / 256 ^ j) := by
  induction n generalizing x j with
  | zero => simp [leBytes] at h
  | succ n ih =>
    cases j with
    | zero => simp [leBytes]
    | succ j =>
      simp only [leBytes, List.getElem_cons_succ]
      rw [ih, pow_succ', Nat.div_div_eq_div_mul]

/-- The lowest n bytes of a number are those of its remainder. -/
theorem leBytes_mod (n x : Nat) : leBytes n (x % 256 ^ n) = leBytes n x := by
  refine List.ext_getElem (by simp) fun j h1 h2 => ?_
  rw [leBytes_getElem, leBytes_getElem]
  apply BitVec.eq_of_toNat_eq
  have hj : j < n := by simpa using h2
  obtain ⟨d, rfl⟩ := Nat.exists_eq_add_of_lt hj
  simp only [BitVec.toNat_ofNat]
  rw [show j + d + 1 = j + (d + 1) by ring, pow_add, Nat.mod_mul_right_div_self, pow_succ]
  exact Nat.mod_mod_of_dvd _ (Dvd.intro_left _ rfl)

/-- Bytes of a part of memory, taken out of a longer part. -/
theorem bytes_part (m : Mem) (a n k l : Nat) (h : k + l ≤ n) : ((m.bytes a n).drop k).take l = m.bytes (a + k) l := by
  refine List.ext_getElem ?_ fun j h1 h2 => ?_
  · simp only [List.length_take, List.length_drop, Mem.bytes, List.length_map, List.length_range]
    omega
  · simp [Mem.bytes, Nat.add_assoc]

end Sys2Proof.Machine
end

section
/-! What a step runs (01_thread_state.md R21, R22, 12_memory_levels_translation.md R283): O59. -/

namespace Sys2Proof.Machine

section turn
variable {s t : State} {c : CoreId} {k : SlotId} {y : Slot} {rest : List Pick}

/-- Before a thermal trip the pick at the head of the agenda moves. -/
theorem step_pick {p : Pick} (ha : s.agenda = p :: rest) (ht : s.svc.tripped = false) :
    step s = ({ s with agenda := rest, cur := .none } : State).act p := by
  simp [step, State.next, ha, ht]

/-- A pre-emption that finds INH = 1 is noted in the slot; with none due the slot stays as it is (R346). -/
theorem notePending_eq (hp : y.preempt = true → y.regs.inh = true) :
    (s.setSlot c k { y with lastRot := s.rot }).notePending c k
      = s.setSlot c k { y with lastRot := s.rot, regs := { y.regs with ppend := y.regs.ppend || y.preempt } } := by
  unfold State.notePending
  rw [slot_setSlot_same]
  by_cases hy : y.preempt = true
  · simp [hy, hp hy, setSlot_setSlot]
  · simp [hy]

/-- Nothing stops a slot with no cut, stop or pre-emption due and no livelock to break (R22). -/
theorem beforeIssue_none (hs : s.slot c k = y) (hd : y.cutDue = none) (hst : y.stopping = false)
    (hp : y.preempt = true → y.regs.inh = true) (hq : y.sqc.toNat < 64 ∨ y.alone = false) : s.beforeIssue c k = none := by
  have h3 : (y.preempt && !y.regs.inh) = false := by
    cases h : y.preempt
    · rfl
    · simp [hp h]
  have h4 : ¬ (64 ≤ y.sqc.toNat ∧ y.alone = true) := by
    rintro ⟨h1, h2⟩
    rcases hq with hq | hq
    · omega
    · simp [h2] at hq
  simp [State.beforeIssue, hs, hd, hst, h3, h4]

/-- The state in which a slot's turn finds it: the cycle is the slot's, and the slot is the agent (R21). -/
def State.atTurn (s : State) (c : CoreId) (k : SlotId) : State :=
  { s.atSlot k ((s.slot c k).lastRot == s.rot) with cur := .slot c k }

/-- A slot that issues at its turn in a rotation: the turn and a pre-emption that waits are noted (R21, R346). -/
def Slot.atTurn (y : Slot) (rot : Nat) : Slot :=
  { y with lastRot := rot, regs := { y.regs with ppend := y.regs.ppend || y.preempt } }

/-- The turn of a running, ready slot that nothing stops is its next instruction. -/
theorem slotTurn_issues (hy : (s.atTurn c k).slot c k = y) (hr : y.isRun = true) (hk : y.park = .ready) (hd : y.cutDue = none)
    (hst : y.stopping = false) (hp : y.preempt = true → y.regs.inh = true) (hq : y.sqc.toNat < 64 ∨ y.alone = false) :
    s.slotTurn c k = ((s.atTurn c k).setSlot c k (y.atTurn (s.atTurn c k).rot)).issueNext c k := by
  unfold State.slotTurn
  extract_lets a t z u y' v
  have hz : z = y := hy
  have hu : u = t.setSlot c k { y with lastRot := t.rot } := by rw [← hz]
  have hy' : y' = { y with lastRot := t.rot } := by rw [show y' = u.slot c k from rfl, hu, slot_setSlot_same]
  have hv : v = t.setSlot c k (y.atTurn t.rot) := by rw [show v = u.notePending c k from rfl, hu, notePending_eq hp]; rfl
  have hrun : ¬ ((!y'.isRun || y'.park != .ready) = true) := by
    rw [hy', show ({ y with lastRot := t.rot } : Slot).isRun = y.isRun from rfl]
    simp [hr, hk]
  have hb : v.beforeIssue c k = none := by
    rw [hv]
    exact beforeIssue_none (slot_setSlot_same _ _ _ _) hd hst hp hq
  rw [if_neg hrun, hb]
  exact congrArg (fun v => State.issueNext v c k) hv

/-- A word that decodes is executed, whatever chunk opens for it. -/
theorem issueNext_decoded {w : BitVec 96} {i : Instr} (hf : (s.openChunk c k).fetch = .ok (w, t)) (hd : decodeSlot w = .ok i) :
    s.issueNext c k = exec i t := by
  simp only [State.issueNext, hf, hd]

/-- A word that does not decode is a trap. -/
theorem issueNext_refused {w : BitVec 96} {e : DecodeError} (hf : (s.openChunk c k).fetch = .ok (w, t)) (hd : decodeSlot w = .error e) :
    s.issueNext c k = .next (t.raise c k (decodeTrap e)) := by
  simp only [State.issueNext, hf, hd]

end turn

section code
variable {s t u : State} {va : Word} {pa : Nat}

/-- Three words make the instruction at an aligned program counter. -/
theorem fetch_words {a1 a2 a3 : List Byte} {t1 t2 t3 : State} (hp : s.regs.pc.extractLsb' 0 2 = 0)
    (h1 : s.fetchWord s.regs.pc = .ok (a1, t1)) (h2 : t1.fetchWord (s.regs.pc + 4) = .ok (a2, t2))
    (h3 : t2.fetchWord (s.regs.pc + 8) = .ok (a3, t3)) : s.fetch = .ok (wordOfBytes (a1 ++ a2 ++ a3), t3) := by
  simp only [State.fetch, hp, h1, h2, h3, Res.andThen, ne_eq, not_true_eq_false, if_false]

/-- A word of code outside the window, in a page that may be fetched and a line with no poison, is the code's word. -/
theorem fetchWord_code (hw : inWindow va = false) (hl : s.locate va 4 .fetch = .ok (.mem pa, t)) (hr : t.reachMem va pa = .ok ((), u))
    (hp : u.poisoned [pa / 64] = none) : s.fetchWord va = .ok (u.codeWord pa) := by
  simp [State.fetchWord, hw, hl, hr, hp, Res.andThen]

/-- The states differ at most in the instruction caches and the fetch buffers of slots. -/
def CodeKept (s t : State) : Prop := t = { s with icache := t.icache, cores := t.cores }

/-- A fetched line enters the instruction cache and the slot's fetch buffer, and changes nothing else. -/
theorem codeKept_fetchLine (s : State) (line : Nat) (x : BitVec 512) : CodeKept s (s.fetchLine line x) := by
  unfold State.fetchLine
  extract_lets cl full old s1
  have h1 : CodeKept s s1 := by
    show CodeKept s (if _ then _ else _)
    split_ifs <;> rfl
  split
  · unfold CodeKept at h1 ⊢
    rw [h1]
    rfl
  · exact h1

/-- The contents of a line as committed. -/
def State.lineNow (s : State) (line : Nat) : BitVec 512 := BitVec.ofNat 512 (s.mem.nat (line * 64) 64)

/-- The word of code at a place in a line's contents. -/
def wordIn (x : BitVec 512) (pa : Nat) : List Byte := leBytes 4 (fieldNat x (8 * (pa % 64)) 32)

/-- With no copy fetched earlier the word comes from committed memory. -/
theorem codeWord_fresh (h : s.codeCopies (pa / 64) = []) :
    s.codeWord pa = (wordIn (s.lineNow (pa / 64)) pa, s.fetchLine (pa / 64) (s.lineNow (pa / 64))) := by
  simp [State.codeWord, h, wordIn, State.lineNow]

/-- One of n + 1 choices is at most n. -/
theorem choose_le (s : State) (n : Nat) : (s.choose (n + 1)).1 ≤ n := by
  unfold State.choose
  split
  · exact Nat.zero_le n
  · rw [Nat.max_eq_left (Nat.le_add_left 1 n)]
    exact Nat.lt_succ_iff.1 (Nat.mod_lt _ n.succ_pos)

/-- The word comes from committed memory or from a copy fetched earlier (R283). -/
theorem codeWord_source (s : State) (pa : Nat) :
    ∃ x t, (x = s.lineNow (pa / 64) ∨ x ∈ s.codeCopies (pa / 64)) ∧ s.codeWord pa = (wordIn x pa, t) := by
  unfold State.codeWord
  extract_lets now copies
  split
  rename_i n t heq
  have hn : n ≤ copies.length := by
    split_ifs at heq
    · cases heq
      exact Nat.zero_le _
    · have := choose_le s copies.length
      rwa [heq] at this
  refine ⟨_, _, ?_, rfl⟩
  by_cases h0 : n = 0
  · exact .inl (if_pos h0)
  · have h1 : n - 1 < copies.length := by omega
    right
    rw [if_neg h0, List.getD_eq_getElem _ _ h1]
    exact List.getElem_mem h1

/-- The committed word of code is the four bytes at its address. -/
theorem wordIn_lineNow (s : State) (h : pa % 4 = 0) : wordIn (s.lineNow (pa / 64)) pa = s.mem.bytes pa 4 := by
  have hl : (s.mem.bytes (pa / 64 * 64) 64).length = 64 := by simp [Mem.bytes]
  have hx : fieldNat (s.lineNow (pa / 64)) (8 * (pa % 64)) 32
      = leNat ((s.mem.bytes (pa / 64 * 64) 64).drop (pa % 64)) % 256 ^ 4 := by
    rw [← leNat_div, fieldNat, State.lineNow, Mem.nat, toNat_ofNat_leNat _ _ (by rw [hl]), Nat.shiftRight_eq_div_pow, pow_mul]
    rfl
  rw [wordIn, hx, leBytes_mod, leBytes_leNat _ _ (by rw [List.length_drop, hl]; omega), bytes_part _ _ _ _ _ (by omega)]
  congr 1
  omega

end code

/-- The turn of an engine that runs a program of its store is the instruction at its program counter (R305, R311). -/
theorem engineTurn_decoded {s r t : State} {e : EngineId} {m : BitVec 512} {bs : List Byte} {i : Instr}
    (hm : (s.engine e).cmd = some m) (hk : (s.engine e).park = .ready) (hw : (s.engine e).waiting = false) (hst : (s.engine e).std = false)
    (hr : (s.engine e).regions ≠ 0) (ho : ({ s with cur := .engine e } : State).openEngine e m = .ok ((), r))
    (hp : r.regs.pc.toNat % 65536 % 4 = 0) (hs : r.storeRead (r.regs.pc.toNat % 65536) 12 = .ok (bs, t))
    (hd : decodeHart (wordOfBytes bs) = .ok i) : s.engineTurn e = exec i t := by
  have hn : (r.regs.pc &&& 0xFFFF).toNat = r.regs.pc.toNat % 65536 := by
    rw [BitVec.toNat_and]
    exact Nat.and_two_pow_sub_one_eq_mod _ 16
  have ha : (r.regs.pc &&& 0xFFFF).extractLsb' 0 2 = 0 := by
    apply BitVec.eq_of_toNat_eq
    rw [BitVec.extractLsb'_toNat, hn]
    simpa using hp
  have hh : r.hartNext e = exec i t := by
    unfold State.hartNext
    simp only [ha, hn, hs, hd, ne_eq, not_true_eq_false, if_false]
  have hr' : ¬ (s.engine e).regions = 0#16 := hr
  unfold State.engineTurn
  simp [hm, hk, hw, ho, hst, hr', hh]

/-- Settles O59: a turn opens the chunk, fetches and decodes, and runs what it decoded; the other picks run their own row or word. -/
theorem stepRunsDecoded : Obligations.StepRunsDecoded := by
  refine ⟨?turn, ?fetch, ?word, ?event, ?hart, ?decode⟩
  case turn =>
    intro s c k rest timed y ready ha ht hr hk hd hst hp hq
    have hstep : step s = clearAnswer ((timed.setSlot c k (y.atTurn timed.rot)).issueNext c k) := by
      rw [step_pick ha ht]
      exact congrArg clearAnswer (slotTurn_issues (y := y) rfl hr hk hd hst hp hq)
    refine ⟨fun w t i hf hi => ?_, fun w t e hf he => ?_⟩
    · rw [hstep, issueNext_decoded (s := timed.setSlot c k (y.atTurn timed.rot)) hf hi]
      cases exec i t <;> rfl
    · rw [hstep, issueNext_refused (s := timed.setSlot c k (y.atTurn timed.rot)) hf he]
      rfl
  case fetch =>
    intro s a1 a2 a3 t1 t2 t3 hp h1 h2 h3
    exact fetch_words hp h1 h2 h3
  case word =>
    intro s t u va pa hw hl hr hp h4
    rw [fetchWord_code hw hl hr hp]
    refine ⟨fun hc => ?_, ?_⟩
    · rw [codeWord_fresh hc, wordIn_lineNow u h4]
      exact ⟨_, rfl, codeKept_fetchLine u _ _⟩
    · obtain ⟨x, v, hx, he⟩ := codeWord_source u pa
      exact ⟨x, v, hx, congrArg Except.ok he⟩
  case event =>
    intro s a i rest ha ht
    rw [step_pick ha ht]
    rfl
  case hart =>
    intro s r t e rest m bs i x pc ha ht hm hk hw hst hr ho hp hs hd
    rw [step_pick ha ht]
    exact engineTurn_decoded hm hk hw hst hr ho hp hs hd
  case decode => decide

end Sys2Proof.Machine
end

section
/-! Accesses to the local store through its window (01_thread_state.md R27, 12_memory_levels_translation.md R277): O25. -/

namespace Sys2Proof.Machine

section ended
variable {s t u : State} {c : CoreId} {k : SlotId} {r : Regs}

/-- What changes in one slot leaves the core's local store alone. -/
theorem onlySlot_ls (h : OnlySlot s t c k) (c' : CoreId) : (t.core c').ls = (s.core c').ls := by
  have := congrArg Core.ls (h.cores c')
  exact this

theorem onlySlot_mem (h : OnlySlot s t c k) : t.mem = s.mem := by rw [h.rest]

/-- The registers after an instruction of a chunk that is not solo. -/
theorem ended_regs (h : Ended s t c k r) (hs : (s.slot c k).chunk.solo = false) : (t.slot c k).regs = r := by
  rw [h.slot, h.dead hs]

/-- The update of a memory operand's A register (R13). -/
theorem regsNow_update (h : RegsNow s u c k r) (hc : s.cur = .slot c k) (o : Operand) (n : Nat) :
    RegsNow s (u.update o n) c k (r.updated o n) := by
  have hr := regsNow_regs h hc
  cases o with
  | mem a m d =>
    have hg : u.getA a = r.a.get a.toFin := by rw [State.getA, hr]
    have hup (hm : m ≠ .offset) : r.updated (.mem a m d) n = r.putA a (u.memAddr a m d n).2 := by
      cases m <;> simp_all [Regs.updated, State.memAddr]
    by_cases hm : m = .offset
    · subst hm
      exact h
    · rw [hup hm, show u.update (.mem a m d) n = u.setA a (u.memAddr a m d n).2 from if_neg hm]
      exact regsNow_setA h hc a _
  | _ => exact h

end ended

/-- Flags that raise nothing leave the state as it is. -/
theorem flags_zero (s : State) : s.flags 0 = .ok ((), s) := by simp [State.flags, State.sticky, enabledFlags]

theorem accSize_dvd (m : BitVec 4) : accSize m ∣ 8 := by revert m; decide
theorem loadValue_quiet {m : BitVec 4} (h : accConv m = none) (bs : List Byte) : (loadValue m bs).2 = 0 := by
  simp only [loadValue, h]
  split_ifs <;> rfl
theorem storeBytes_plain {m : BitVec 4} (h : accConv m = none) (x : Word) : storeBytes m x = (leBytes (accSize m) x.toNat, 0) := by
  simp only [storeBytes, h]

section window
variable {s : State} {c : CoreId} {k : SlotId} {off n : Nat} {va : Word}

theorem window_toNat (h : off < 0x80000) : (BitVec.ofNat 64 (windowBase + off)).toNat = windowBase + off := by
  rw [BitVec.toNat_ofNat]
  simp only [windowBase]
  omega

/-- An access inside the window lies in the agent's local store, and nothing is translated (R27). -/
theorem locate_window (hc : s.cur = .slot c k) (hv : va = BitVec.ofNat 64 (windowBase + off)) (hn : 0 < n) (ho : off + n ≤ 0x80000) (kd : Kind) :
    s.locate va n kd = .ok (.ls c off, s) := by
  have h0 : va.toNat = windowBase + off := by rw [hv, window_toNat (by omega)]
  have h1 : (va + BitVec.ofNat 64 (n - 1)).toNat = windowBase + (off + (n - 1)) := by
    rw [BitVec.toNat_add, h0, BitVec.toNat_ofNat]
    simp only [windowBase]
    omega
  have hw : (inWindow va && inWindow (va + BitVec.ofNat 64 (n - 1))) = true := by
    simp only [inWindow, h0, h1, windowBase, windowEnd, Bool.and_eq_true, decide_eq_true_eq]
    omega
  have hcore : s.curCore = c := by simp [State.curCore, hc]
  unfold State.locate State.locateLeaf
  simp [hw, hcore, h0, Res.andThen]

/-- With no chunk of another slot on the core, a conflict test that an empty chunk does not meet finds no rival (R277). -/
theorem contend_sole (hs : s.soleChunk c k) {test : Chunk → Bool} (ht : test {} = false) : s.contend c k test = (s, true) := by
  unfold State.contend
  extract_lets mine rivals
  have hr : rivals = [] := by
    refine List.filterMap_eq_nil_iff.2 fun e he => ?_
    dsimp only
    split_ifs with hk
    · rfl
    · have hne : e.1 ≠ k.toNat := fun h => hk (by rw [h, BitVec.ofNat_toNat, BitVec.setWidth_eq])
      obtain ⟨hch, hw⟩ := hs e he hne
      have hst : e.2.struck test = none := by
        simp only [Slot.struck, hch, hw]
        rw [ht]
        rfl
      rw [hst]
  rw [hr]
  rfl

/-- The n bytes at an offset lie in at most n granules. -/
theorem linesOf_length_le (off n : Nat) : (linesOf off n).length ≤ n := by
  unfold linesOf
  split_ifs with h
  · simp [h]
  · rw [List.length_map, List.length_range]
    omega

/-- The marks of an access that nothing hinders: only the chunk notes them (R277, R279). -/
theorem touchLs_sole (hc : s.cur = .slot c k) (hs : s.soleChunk c k) (hu : (s.slot c k).chunk.updateOn c (linesOf off n) = false)
    (hr : (s.core c).undoCount + n ≤ 204) (write : Bool) :
    ∃ x, s.touchLs off n write = .ok ((), s.setChunk x) ∧ SameBytes s.chunk x := by
  have hl := linesOf_length_le off n
  have hf : (if write then (linesOf off n).filter fun g => !s.chunk.lsW.contains g else []).length ≤ n := by
    cases write
    · exact Nat.zero_le n
    · exact (List.length_filter_le _ _).trans hl
  unfold State.touchLs
  simp only [hc]
  rw [if_neg (by simp [chunk_slot s c k hc, hu]), if_neg (by simpa using (Nat.add_le_add_left hf _).trans hr), contend_sole hs]
  · exact ⟨_, rfl, rfl, rfl, rfl, rfl⟩
  · simp

end window

section access
variable {s u : State} {c : CoreId} {k : SlotId} {off n : Nat} {va : Word}

/-- A read of the local store that nothing hinders gives its bytes (R277). -/
theorem readLs_sole (hc : s.cur = .slot c k) (hs : s.soleChunk c k) (hu : (s.slot c k).chunk.updateOn c (linesOf off n) = false)
    (hr : (s.core c).undoCount + n ≤ 204) (hp : ∀ g ∈ (s.core c).lsPoison, g ∉ linesOf off n) :
    ∃ u, s.readLs c off n = .ok ((s.core c).ls.bytes off n, u) ∧ RegsNow s u c k s.regs := by
  obtain ⟨x, ht, hx⟩ := touchLs_sole hc hs hu hr false
  have hb : (s.core c).lsPoison.find? (fun g => (linesOf off n).contains g) = none := by
    simpa [List.find?_eq_none] using hp
  have h := regsNow_setChunk (regsNow_refl hc) hc x hx
  refine ⟨s.setChunk x, ?_, h⟩
  unfold State.readLs
  simp only [hc, ht, hb, Res.andThen, onlySlot_ls h.only]

/-- The package with the bytes of a core's local store replaced. -/
def State.withLs (s : State) (c : CoreId) (ls : Mem) : State := s.setCore c { s.core c with ls := ls }

theorem withLs_ls (s : State) (c : CoreId) (ls : Mem) : ((s.withLs c ls).core c).ls = ls := by
  rw [State.withLs, core_setCore_same]

theorem withLs_slot (s : State) (c : CoreId) (ls : Mem) (k : SlotId) : (s.withLs c ls).slot c k = s.slot c k := by
  rw [State.slot, State.withLs, core_setCore_same]
  rfl

/-- A write notes in the chunk the poisoned bytes that it replaces (R345). -/
def State.heals (s : State) (bad : List Nat) : State :=
  if bad.isEmpty then s else s.setChunk { s.chunk with lsHealed := bad.foldl insertOnce s.chunk.lsHealed }

theorem regsNow_heals {r : Regs} (h : RegsNow s u c k r) (hc : s.cur = .slot c k) (bad : List Nat) : RegsNow s (u.heals bad) c k r := by
  unfold State.heals
  split_ifs
  · exact h
  · have hx := regsNow_chunk h hc
    exact regsNow_setChunk h hc _ ⟨hx.wr, hx.solo, hx.len, hx.effects⟩

/-- The granules marked, the poisoned bytes among the replaced ones are noted, and the bytes are written in place. -/
theorem writeLs_touched {bs : List Byte} (hc : s.cur = .slot c k) (ht : s.touchLs off bs.length true = .ok ((), u)) :
    s.writeLs c off bs
      = let t := u.heals (((List.range bs.length).map (off + ·)).filter fun i => (u.core c).lsPoison.contains (i / 64))
        .ok ((), t.withLs c ((t.core c).ls.setBytes off bs)) := by
  unfold State.writeLs
  simp only [hc, ht, Res.andThen]
  rfl

/-- A write of the local store that nothing hinders replaces its bytes and touches no byte of memory (R277). -/
theorem writeLs_sole (hc : s.cur = .slot c k) (hs : s.soleChunk c k) {bs : List Byte}
    (hu : (s.slot c k).chunk.updateOn c (linesOf off bs.length) = false) (hr : (s.core c).undoCount + bs.length ≤ 204) :
    ∃ t, RegsNow s t c k s.regs ∧ s.writeLs c off bs = .ok ((), t.withLs c ((s.core c).ls.setBytes off bs)) := by
  obtain ⟨x, ht, hx⟩ := touchLs_sole hc hs hu hr true
  have h := regsNow_heals (regsNow_setChunk (regsNow_refl hc) hc x hx) hc
  exact ⟨_, h _, by rw [writeLs_touched hc ht, ← onlySlot_ls (h _).only]⟩

theorem window_aligned (hv : va = BitVec.ofNat 64 (windowBase + off)) (h : off < 0x80000) {m : BitVec 4} (ha : off % accSize m = 0) :
    va.toNat % accSize m = 0 := by
  have hw : accSize m ∣ windowBase := (accSize_dvd m).trans (by decide)
  rw [hv, window_toNat h]
  exact Nat.mod_eq_zero_of_dvd (Nat.dvd_add hw (Nat.dvd_of_mod_eq_zero ha))

/-- A plain LD at an aligned place of the local store that nothing hinders. -/
theorem gives_ld_local {f : Fields} {d : BitVec 5} (hd : f.dst = .g d) (hv : s.addrOf f.src1 (accSize f.mod) = BitVec.ofNat 64 (windowBase + off))
    (ha : off % accSize f.mod = 0) (ho : off + accSize f.mod ≤ 0x80000) (hconv : accConv f.mod = none) (hs : s.soleChunk c k)
    (hu : (s.slot c k).chunk.updateOn c (linesOf off (accSize f.mod)) = false) (hr : (s.core c).undoCount + accSize f.mod ≤ 204)
    (hp : ∀ g ∈ (s.core c).lsPoison, g ∉ linesOf off (accSize f.mod)) (h : Issues (.ld f) f 1 s c k) :
    Gives (.ld f) s c k ((s.regs.updated f.src1 (accSize f.mod)).putG d (loadValue f.mod ((s.core c).ls.bytes off (accSize f.mod))).1).advance := by
  have hn : 0 < accSize f.mod := Nat.pos_of_dvd_of_pos (accSize_dvd f.mod) (by decide)
  obtain ⟨u, he, hk⟩ := readLs_sole h.cur hs hu hr hp
  have hq := loadValue_quiet hconv ((s.core c).ls.bytes off (accSize f.mod))
  refine scalar_done h (arm_ld f s) ?_ (regsNow_setG (regsNow_update hk h.cur f.src1 (accSize f.mod)) h.cur d _)
  have hl : s.load (s.addrOf f.src1 (accSize f.mod)) (accSize f.mod) (accSize f.mod) = .ok ((s.core c).ls.bytes off (accSize f.mod), u) := by
    unfold State.load
    rw [if_neg (by simpa using window_aligned hv (by omega) ha), locate_window h.cur hv hn ho]
    exact he
  simp only [hl, Res.fin, hq, flags_zero, hd, gNum]

/-- A scalar instruction that completes, from a state that it has led to. -/
theorem givesFrom_done {i : Instr} {f : Fields} {t : State} {r : Regs} {body : State → Eff} (h : Issues i f 1 s c k)
    (e : exec i s = scalar i f s body) (hb : body s = .done u) (hc : t.cur = .slot c k) (hu : RegsNow t u c k r) :
    GivesFrom i s t c k r.advance :=
  ⟨_, by rw [e, scalar, issue_body h, hb], ended_done hu hc _ _ _⟩

/-- Only an engine counts the bytes that arrive. -/
theorem countArrival_slot (h : s.cur = .slot c k) (n : Nat) : s.countArrival n = s := by simp [State.countArrival, h]

/-- A plain ST whose access completes writes its bytes and updates its A register. -/
theorem givesFrom_st {f : Fields} {t : State} (h : Issues (.st f) f 1 s c k) (hconv : accConv f.mod = none) (hc : t.cur = .slot c k)
    (hs : s.store (s.addrOf f.dst (accSize f.mod)) (leBytes (accSize f.mod) (s.src f.src1).toNat) (accSize f.mod) = .ok ((), t)) :
    GivesFrom (.st f) s t c k (t.regs.updated f.dst (accSize f.mod)).advance := by
  have hu := regsNow_update (regsNow_refl hc) hc f.dst (accSize f.mod)
  refine givesFrom_done h (arm_st f s) ?_ hc hu
  have hcur : (t.update f.dst (accSize f.mod)).cur = .slot c k := regsNow_cur hu hc
  simp [storeBytes_plain hconv, hs, Res.fin, enabledFlags, State.sticky, countArrival_slot hcur]

/-- A plain ST at an aligned place of the local store that nothing hinders ends in a state whose local store holds its bytes. -/
theorem gives_st_local {f : Fields} (hv : s.addrOf f.dst (accSize f.mod) = BitVec.ofNat 64 (windowBase + off))
    (ha : off % accSize f.mod = 0) (ho : off + accSize f.mod ≤ 0x80000) (hconv : accConv f.mod = none) (hs : s.soleChunk c k)
    (hu : (s.slot c k).chunk.updateOn c (linesOf off (accSize f.mod)) = false) (hr : (s.core c).undoCount + accSize f.mod ≤ 204)
    (h : Issues (.st f) f 1 s c k) :
    ∃ t, RegsNow s t c k s.regs ∧ GivesFrom (.st f) s
      (t.withLs c ((s.core c).ls.setBytes off (leBytes (accSize f.mod) (s.src f.src1).toNat))) c k
      (s.regs.updated f.dst (accSize f.mod)).advance := by
  have hn : 0 < accSize f.mod := Nat.pos_of_dvd_of_pos (accSize_dvd f.mod) (by decide)
  have hlen := leBytes_length (accSize f.mod) (s.src f.src1).toNat
  obtain ⟨t, hk, he⟩ := writeLs_sole (off := off) h.cur hs (bs := leBytes (accSize f.mod) (s.src f.src1).toNat)
    (by rw [hlen]; exact hu) (by rw [hlen]; exact hr)
  have hl : s.store (s.addrOf f.dst (accSize f.mod)) (leBytes (accSize f.mod) (s.src f.src1).toNat) (accSize f.mod)
      = .ok ((), t.withLs c ((s.core c).ls.setBytes off (leBytes (accSize f.mod) (s.src f.src1).toNat))) := by
    unfold State.store
    rw [if_neg (by simpa using window_aligned hv (by omega) ha), hlen, locate_window h.cur hv hn ho]
    exact he
  have hc : t.cur = .slot c k := regsNow_cur hk h.cur
  have hc' : (t.withLs c ((s.core c).ls.setBytes off (leBytes (accSize f.mod) (s.src f.src1).toNat))).cur = .slot c k := hc
  have hg := givesFrom_st h hconv hc' hl
  rw [regs_slot _ c k hc', withLs_slot, ← regs_slot t c k hc, regsNow_regs hk h.cur] at hg
  exact ⟨t, hk, hg⟩

end access

/-- Settles O25: an access in the window is located without a translation, its marks go into the chunk alone, and the bytes are those of the local store. -/
theorem localStoreAccess : Obligations.LocalStoreAccess := by
  intro f s c k off n ls hwf ha ho hconv hsolo hs hu hr hp
  refine ⟨fun d hd hv h => ?_, fun hv h => ?_⟩
  · obtain ⟨t, he, hend⟩ := gives_ld_local hd hv ha ho hconv hs hu hr hp h
    rw [chunk_slot s c k h.cur] at hsolo
    exact ⟨t, he, onlySlot_ls hend.only c, onlySlot_mem hend.only, ended_regs hend hsolo⟩
  · obtain ⟨t, hk, u, he, hend⟩ := gives_st_local hv ha ho hconv hs hu hr h
    have hls : (u.core c).ls = ls.setBytes off (leBytes n (s.src f.src1).toNat) := by rw [onlySlot_ls hend.only, withLs_ls]
    have hlen := leBytes_length n (s.src f.src1).toNat
    have hsolo' : (t.slot c k).chunk.solo = false := by rw [hk.chunk.solo, ← chunk_slot s c k h.cur, hsolo]
    have hmem : (t.withLs c (ls.setBytes off (leBytes n (s.src f.src1).toNat))).mem = s.mem :=
      show t.mem = s.mem from onlySlot_mem hk.only
    refine ⟨u, he, (onlySlot_mem hend.only).trans hmem, ended_regs hend (by rw [withLs_slot, hsolo']), ?_, ?_⟩
    · intro a ha
      rw [hls, byte_setBytes_out _ _ _ _ hwf (by rwa [hlen])]
    · intro j hj
      rw [hls, byte_setBytes_in _ _ _ _ hwf (by rwa [hlen]), leBytes_getElem]

end Sys2Proof.Machine
end

section
/-! Vector instructions whose result is no lane by lane value (05_vector_forms_functions.md R142 to R154): O41. -/

namespace Sys2Proof.Machine

section folds
variable {α β γ : Type} {f : α → β → α} {g : α → γ} {l : List β} {x : β} {y : γ}

/-- What no step of a fold changes is as it was before the fold. -/
theorem foldl_keeps (h : ∀ b ∈ l, ∀ a, g (f a b) = g a) (a : α) : g (l.foldl f a) = g a := by
  induction l generalizing a with
  | nil => rfl
  | cons b l ih => rw [List.foldl_cons, ih fun b' hb => h b' (List.mem_cons_of_mem b hb), h b List.mem_cons_self]

/-- What one step of a fold sets, and no step for another element changes, is set after the fold. -/
theorem foldl_sets (hx : x ∈ l) (hs : ∀ a, g (f a x) = y) (h : ∀ b ∈ l, b ≠ x → ∀ a, g (f a b) = g a) (a : α) : g (l.foldl f a) = y := by
  induction l generalizing a with
  | nil => cases hx
  | cons b l ih =>
    have hl : ∀ b' ∈ l, b' ≠ x → ∀ a, g (f a b') = g a := fun b' hb => h b' (List.mem_cons_of_mem b hb)
    by_cases hm : x ∈ l
    · exact ih hm hl _
    · obtain rfl : x = b := (List.mem_cons.1 hx).resolve_right hm
      exact (foldl_keeps (fun b' hb => hl b' hb fun e => hm (e ▸ hb)) _).trans (hs a)

end folds

section bits

/-- A bit of a bit vector whose field is replaced. -/
theorem getLsbD_setField {w : Nat} (v : BitVec w) (lo n x : Nat) {i : Nat} (hi : i < w) :
    (setField v lo n x).getLsbD i = if lo ≤ i ∧ i < lo + n then x.testBit (i - lo) else v.getLsbD i := by
  have hlt : i - lo < w := by omega
  simp only [setField, BitVec.getLsbD_or, BitVec.getLsbD_and, BitVec.getLsbD_not, BitVec.getLsbD_shiftLeft, BitVec.getLsbD_ofNat,
    Nat.testBit_two_pow_sub_one, Nat.testBit_mod_two_pow, hi, hlt]
  by_cases hlo : i < lo
  · simp [hlo, show ¬ lo ≤ i by omega]
  · have hin : (lo ≤ i ∧ i < lo + n) ↔ i - lo < n := by omega
    by_cases hi' : i - lo < n <;> simp [hlo, hin, hi']

/-- A bit outside the field that is replaced. -/
theorem getLsbD_setField_outside {w : Nat} (v : BitVec w) {lo n i : Nat} (x : Nat) (hi : i < w) (h : i < lo ∨ lo + n ≤ i) :
    (setField v lo n x).getLsbD i = v.getLsbD i := by
  rw [getLsbD_setField v lo n x hi, if_neg (by omega)]

/-- Powers of two added for the chosen numbers below n give a number with just these bits. -/
theorem testBit_foldl_two_pow (b : Nat → Bool) (n : Nat) :
    let m := (List.range n).foldl (fun m i => if b i then m + 2 ^ i else m) 0
    m < 2 ^ n ∧ ∀ j, m.testBit j = (decide (j < n) && b j) := by
  induction n with
  | zero => simp
  | succ n ih =>
    obtain ⟨hlt, hbit⟩ := ih
    rw [List.range_succ, List.foldl_append, List.foldl_cons, List.foldl_nil]
    set m := (List.range n).foldl (fun m i => if b i then m + 2 ^ i else m) 0
    cases hb : b n
    · refine ⟨by simp [Nat.pow_succ]; omega, fun j => ?_⟩
      rcases eq_or_ne j n with rfl | hj
      · simp [hbit, hb]
      · simp [hbit, show j < n + 1 ↔ j < n by omega]
    · have hsum : m + 2 ^ n < 2 ^ (n + 1) := by omega
      refine ⟨by simpa using hsum, fun j => ?_⟩
      rw [if_pos rfl, Nat.add_comm]
      rcases lt_trichotomy j n with hj | rfl | hj
      · rw [Nat.testBit_two_pow_add_gt hj, hbit]
        simp [hj, Nat.lt_succ_of_lt hj]
      · rw [Nat.testBit_two_pow_add_eq, hbit]
        simp [hb]
      · rw [Nat.add_comm, Nat.testBit_lt_two_pow (hsum.trans_le (Nat.pow_le_pow_right (by decide) hj))]
        simp [show ¬ j < n + 1 by omega]

/-- The mask of a compare: active lanes take the condition, the others keep their bit, and bits past the lanes are clear (R142). -/
theorem getLsbD_maskUpdate (old : Word) (n : Nat) (act x : Nat → Bool) {j : Nat} (hj : j < 64) :
    (BitVec.ofNat 64 (maskUpdate old.toNat n act x)).getLsbD j = (decide (j < n) && if act j then x j else old.getLsbD j) := by
  rw [BitVec.getLsbD_ofNat, maskUpdate, (testBit_foldl_two_pow _ n).2 j, BitVec.testBit_toNat]
  simp [hj]

end bits

section flags
variable {s u : State} {c : CoreId} {k : SlotId} {r : Regs}

/-- Flags none of which is enabled do not trap (R44). -/
theorem flags_quiet {fl : Flags} (h : s.regs.fpsr.extractLsb' 8 5 &&& fl = 0) : s.flags fl = .ok ((), s.sticky fl) := by
  rw [State.flags, enabledFlags, BitVec.and_comm, h]
  rfl

theorem flagged_zero (r : Regs) : r.flagged 0 = r := by simp [Regs.flagged]

/-- Sticky flags are set in FPSR (R43). -/
theorem regsNow_sticky (h : RegsNow s u c k r) (hc : s.cur = .slot c k) (fl : Flags) : RegsNow s (u.sticky fl) c k (r.flagged fl) := by
  unfold State.sticky
  split_ifs with hz
  · rwa [hz, flagged_zero]
  · have h' := regsNow_setRegs h hc (u.regs.flagged fl)
    rwa [regsNow_regs h hc] at h' ⊢

/-- Flags change no P register. -/
theorem getP_sticky (hc : s.cur = .slot c k) (fl : Flags) (n : BitVec 3) : (s.sticky fl).getP n = s.getP n := by
  simp only [State.getP, regsNow_regs (regsNow_sticky (regsNow_refl hc) hc fl) hc]
  rfl

end flags

section lanes
variable {f : Fields} {s : State} {c : CoreId} {k : SlotId}

/-- Flags gathered over the active lanes only. -/
theorem foldl_active (act : Nat → Bool) (g : Nat → Flags) (l : List Nat) :
    l.foldl (fun a i => if act i then a ||| g i else a) 0 = (l.filter act).foldl (fun a i => a ||| g i) 0 := by
  rw [List.foldl_filter]

/-- VCMP writes the conditions and their complements into its two masks. -/
theorem gives_vcmp {pt pc : BitVec 3} {cond : BitVec 4} (hd : f.dst = .pp pt pc cond) (h : Issues (.vcmp f) f (512 / (s.kindLane f.mod).e) s c k)
    (hl : condLimit (s.kindLane f.mod) cond.toNat = true) :
    let l := s.kindLane f.mod
    let act (j : Nat) : Bool := (s.guardMask f).getLsbD j
    let r (j : Nat) : Bool × Flags := laneCond l cond.toNat (s.laneSrc f.src1 l.e j) (s.laneSrc f.src2 l.e j)
    let fl := ((List.range (512 / l.e)).filter act).foldl (fun (a : Flags) j => a ||| (r j).2) 0
    s.regs.fpsr.extractLsb' 8 5 &&& fl = 0 →
      Gives (.vcmp f) s c k (((s.regs.flagged fl).putP pt (BitVec.ofNat 64 (maskUpdate (s.getP pt).toNat (512 / l.e) act fun j => (r j).1))).putP pc
        (BitVec.ofNat 64 (maskUpdate (s.getP pc).toNat (512 / l.e) act fun j => !(r j).1))).advance := by
  intro l act r fl hq
  have hk := regsNow_sticky (regsNow_refl h.cur) h.cur fl
  refine gives_done h (arm_vcmp f s) ?_ (regsNow_setP (regsNow_setP hk h.cur pt _) h.cur pc _)
  have hf : s.flags ((List.range (512 / l.e)).foldl (fun a i => if act i then a ||| (r i).2 else a) 0) = .ok ((), s.sticky fl) := by
    rw [foldl_active]
    exact flags_quiet hq
  simp only [hd, condOf, hl]
  change Res.fin (s.flags ((List.range (512 / l.e)).foldl (fun a i => if act i then a ||| (r i).2 else a) 0)) _ = _
  rw [hf]
  simp only [Res.fin, State.setCompare, getP_sticky h.cur]
  rfl

/-- VEXT reads the selected lane where its guard bit is set. -/
theorem gives_vext {d : BitVec 5} (hd : f.dst = .g d) (h : Issues (.vext f) f (512 / tyWidth (modTy f.mod)) s c k) :
    let e := tyWidth (modTy f.mod)
    let j := (s.src f.src2).toNat % (512 / e)
    Gives (.vext f) s c k (if (s.guardMask f).getLsbD j then s.regs.putG d (extendPat (modTy f.mod) (s.laneSrc f.src1 e j)) else s.regs).advance := by
  intro e j
  have hr := regsNow_refl h.cur
  have he : exec (.vext f) s = issue (.vext f) f (512 / e) s fun t =>
      let j := (t.src f.src2).toNat % (512 / e)
      if (t.guardMask f).getLsbD j then .done (t.setG (gNum f.dst) (extendPat (modTy f.mod) (t.laneSrc f.src1 e j))) else .done t := arm_vext f s
  split_ifs with hj
  · exact gives_done h he ((if_pos hj).trans (by rw [hd]; rfl)) (regsNow_setG hr h.cur d _)
  · exact gives_done h he (if_neg hj) hr

/-- VRED writes the reduction of its active lanes. -/
theorem gives_vred {d : BitVec 5} (hd : f.dst = .g d) (h : Issues (.vred f) f (512 / (s.kindLane f.mod).e) s c k)
    (hl : (s.kindLane f.mod).flt = true → immNat f.src2 ≤ 2) :
    let l := s.kindLane f.mod
    let r := reduce l (immNat f.src2)
      ((List.range (512 / l.e)).map fun j => if (s.guardMask f).getLsbD j then some (s.laneSrc f.src1 l.e j) else none)
    s.regs.fpsr.extractLsb' 8 5 &&& r.2 = 0 →
      Gives (.vred f) s c k ((s.regs.flagged r.2).putG d (if l.flt then BitVec.ofNat 64 r.1 else extendPat l.ty r.1)).advance := by
  intro l r hq
  have hk := regsNow_sticky (regsNow_refl h.cur) h.cur r.2
  refine gives_done h (arm_vred f s) ?_ (regsNow_setG hk h.cur d _)
  have hlimit : (!(s.kindLane f.mod).flt || decide (immNat f.src2 ≤ 2)) = true := by
    cases hflt : (s.kindLane f.mod).flt
    · rfl
    · simpa using hl hflt
  simp only [hd, isForm, hlimit]
  change Res.fin (s.flags r.2) _ = _
  rw [flags_quiet hq]
  rfl

end lanes

section planes

variable {ps lo x : Nat} {act : Nat → Bool} {val : Nat → Nat}

theorem getLsbD_setField_bit (v : VWord) (lo : Nat) (b : Bool) {i : Nat} (hi : i < 512) :
    (setField v lo 1 (bit b)).getLsbD i = if i = lo then b else v.getLsbD i := by
  rw [getLsbD_setField v lo 1 _ hi]
  by_cases h : i = lo
  · subst h
    cases b <;> simp [bit]
  · rw [if_neg (by omega), if_neg h]

/-- The bits of one lane's value written into the plane words from bit lo on, the most significant plane first. -/
def planeLane (ps : Nat) (v : VWord) (lo j x : Nat) : VWord :=
  (List.range ps).foldl (fun v p => setField v (lo + 32 * p + j) 1 (bit (x.testBit (ps - 1 - p)))) v

/-- The plane words of one half of the lanes, written where a lane of it is active. -/
def planeHalf (ps : Nat) (act : Nat → Bool) (val : Nat → Nat) (v : VWord) (h : Nat) : VWord :=
  if !((List.range 32).any fun j => act (32 * h + j)) then v
  else (List.range 32).foldl (fun v j => if act (32 * h + j) then planeLane ps v (256 * h) j (val (32 * h + j)) else v)
    (setField v (256 * h + 32 * ps) (256 - 32 * ps) 0)

theorem planeLane_outside (v : VWord) {lo j i : Nat} (hi : i < 512) (h : ∀ p < ps, i ≠ lo + 32 * p + j) :
    (planeLane ps v lo j x).getLsbD i = v.getLsbD i :=
  foldl_keeps (g := fun v : VWord => v.getLsbD i) (fun p hp v => by
    simp only [getLsbD_setField_bit v _ _ hi, if_neg (h p (List.mem_range.1 hp))]) v

theorem planeLane_plane (v : VWord) {lo j p : Nat} (hp : p < ps) (hi : lo + 32 * p + j < 512) :
    (planeLane ps v lo j x).getLsbD (lo + 32 * p + j) = x.testBit (ps - 1 - p) :=
  foldl_sets (g := fun v : VWord => v.getLsbD (lo + 32 * p + j)) (List.mem_range.2 hp)
    (fun v => by simp only [getLsbD_setField_bit v _ _ hi, if_pos])
    (fun q _ hq v => by simp only [getLsbD_setField_bit v _ _ hi, if_neg (show lo + 32 * p + j ≠ lo + 32 * q + j by omega)]) v

/-- A half with no active lane stays as it is. -/
theorem planeHalf_idle (v : VWord) {h : Nat} (hn : ∀ j < 32, act (32 * h + j) = false) : planeHalf ps act val v h = v := by
  have ha : ((List.range 32).any fun j => act (32 * h + j)) = false := List.any_eq_false.2 fun j hj => by simp [hn j (List.mem_range.1 hj)]
  rw [planeHalf, ha]
  rfl

/-- A half's plane words lie in its own 256 bits. -/
theorem planeHalf_outside (hps : ps ≤ 8) (v : VWord) {h i : Nat} (hi : i < 512) (ho : i < 256 * h ∨ 256 * h + 256 ≤ i) :
    (planeHalf ps act val v h).getLsbD i = v.getLsbD i := by
  unfold planeHalf
  split_ifs
  · rfl
  · refine (foldl_keeps (g := fun v : VWord => v.getLsbD i) (fun j hj v => ?_) _).trans
      (getLsbD_setField_outside v 0 hi (by omega))
    have := List.mem_range.1 hj
    split_ifs
    · exact planeLane_outside v hi fun p hp => by omega
    · rfl

/-- An active lane's bits are in its half's plane words. -/
theorem planeHalf_plane (hps : ps ≤ 8) (v : VWord) {h j p : Nat} (hh : h < 2) (hj : j < 32) (ha : act (32 * h + j) = true) (hp : p < ps) :
    (planeHalf ps act val v h).getLsbD (256 * h + 32 * p + j) = (val (32 * h + j)).testBit (ps - 1 - p) := by
  have hi : 256 * h + 32 * p + j < 512 := by omega
  have hany : ((List.range 32).any fun j => act (32 * h + j)) = true := List.any_eq_true.2 ⟨j, List.mem_range.2 hj, ha⟩
  rw [planeHalf, hany]
  refine foldl_sets (g := fun v : VWord => v.getLsbD (256 * h + 32 * p + j)) (List.mem_range.2 hj) (fun v => ?_) (fun b hb hne v => ?_) _
  · rw [if_pos ha]
    exact planeLane_plane v hp hi
  · have := List.mem_range.1 hb
    split_ifs
    · exact planeLane_outside v hi fun q hq => by omega
    · rfl

/-- VPLANE writes the plane words of the two halves. -/
theorem gives_vplane {f : Fields} {s : State} {c : CoreId} {k : SlotId} {d : BitVec 4} (hd : f.dst = .v d) (h : Issues (.vplane f) f 64 s c k) :
    let ps := immNat f.src2 % 16
    let half := planeHalf ps (fun j => (s.guardMask f).getLsbD j)
      (fun j => planeValue ps (f.mod.getLsbD 3) (laneOf (s.getV (vNum f.src1)) 8 j))
    Gives (.vplane f) s c k (s.regs.putV d (half (half (s.getV d) 0) 1)).advance := by
  intro ps half
  exact gives_done h (arm_vplane f s) (by rw [hd]; rfl) (regsNow_setV (regsNow_refl h.cur) h.cur d _)

end planes

section counters
variable {f : Fields} {s : State} {c : CoreId} {k : SlotId}

/-- RNGX over a pair of G registers. -/
theorem gives_rngx_pair {d a : BitVec 5} (hd : f.dst = .g d) (ha : f.src1 = .g a) (h : Issues (.rngx f) f 1 s c k) :
    let r := orris (s.src f.src2) (s.getG (a + 1) ++ s.getG a : BitVec 128)
    Gives (.rngx f) s c k ((s.regs.putG d r.2).putG (d + 1) r.1).advance := by
  intro r
  have he : exec (.rngx f) s = scalar (.rngx f) f s fun t =>
      .done (t.setPair f.dst ((orris (t.src f.src2) (t.pair f.src1)).1 ++ (orris (t.src f.src2) (t.pair f.src1)).2 : BitVec 128)) := by
    rw [arm_rngx, execRngx, hd]
  refine scalar_done h he ?_ (regsNow_setG (regsNow_setG (regsNow_refl h.cur) h.cur d r.2) h.cur (d + 1) r.1)
  have hlo : (r.1 ++ r.2 : BitVec 128).extractLsb' 0 64 = r.2 := BitVec.extractLsb'_append_eq_right
  have hhi : (r.1 ++ r.2 : BitVec 128).extractLsb' 64 64 = r.1 := BitVec.extractLsb'_append_eq_left
  rw [hd, ha, State.setPair]
  change Eff.done ((s.setG d ((r.1 ++ r.2 : BitVec 128).extractLsb' 0 64)).setG (d + 1) ((r.1 ++ r.2 : BitVec 128).extractLsb' 64 64)) = _
  rw [hlo, hhi]

/-- A vector with 128-bit lane j replaced by two words. -/
def putCounter (v : VWord) (j : Nat) (r : Word × Word) : VWord := putLane (putLane v 64 (2 * j) r.2.toNat) 64 (2 * j + 1) r.1.toNat

theorem putCounter_same (v : VWord) {j : Nat} (hj : j < 4) (r : Word × Word) :
    (putCounter v j r).extractLsb' (128 * j) 128 = (r.1 ++ r.2 : BitVec 128) := by
  refine BitVec.eq_of_getLsbD_eq fun i hi => ?_
  have h512 : 128 * j + i < 512 := by omega
  rw [BitVec.getLsbD_extractLsb', putCounter, putLane, putLane, getLsbD_setField _ _ _ _ h512, getLsbD_setField _ _ _ _ h512, BitVec.getLsbD_append]
  by_cases h : i < 64
  · rw [if_neg (by omega), if_pos (by omega), BitVec.testBit_toNat, show 128 * j + i - 64 * (2 * j) = i by omega]
    simp [hi, h]
  · rw [if_pos (by omega), BitVec.testBit_toNat, show 128 * j + i - 64 * (2 * j + 1) = i - 64 by omega]
    simp [hi, h]

theorem putCounter_other (v : VWord) {j b : Nat} (hj : j < 4) (hb : b ≠ j) (r : Word × Word) :
    (putCounter v b r).extractLsb' (128 * j) 128 = v.extractLsb' (128 * j) 128 := by
  refine BitVec.eq_of_getLsbD_eq fun i hi => ?_
  have h512 : 128 * j + i < 512 := by omega
  rw [BitVec.getLsbD_extractLsb', BitVec.getLsbD_extractLsb', putCounter, putLane, putLane,
    getLsbD_setField_outside _ _ h512 (by omega), getLsbD_setField_outside _ _ h512 (by omega)]

/-- The vector that RNGX writes: the active lanes' counters encrypted. -/
def State.drawnCounters (s : State) (f : Fields) (d : BitVec 4) : VWord :=
  (s.lanesOn f 4).foldl (fun v j => putCounter v j (orris (s.src f.src2) ((s.getV (vNum f.src1)).extractLsb' (128 * j) 128))) (s.getV d)

theorem drawnCounters_lane (s : State) (f : Fields) (d : BitVec 4) {j : Nat} (hj : j < 4) :
    (s.drawnCounters f d).extractLsb' (128 * j) 128 = if (s.guardMask f).getLsbD j then
        (let r := orris (s.src f.src2) ((s.getV (vNum f.src1)).extractLsb' (128 * j) 128); (r.1 ++ r.2 : BitVec 128))
      else (s.getV d).extractLsb' (128 * j) 128 := by
  have hother (b : Nat) (hb : b ≠ j) (v : VWord) (r : Word × Word) := putCounter_other v hj hb r
  split_ifs with ha
  · exact foldl_sets (g := fun v : VWord => v.extractLsb' (128 * j) 128) (List.mem_filter.2 ⟨List.mem_range.2 hj, ha⟩)
      (fun v => putCounter_same v hj _) (fun b _ hb v => hother b hb v _) _
  · exact foldl_keeps (g := fun v : VWord => v.extractLsb' (128 * j) 128)
      (fun b hb v => hother b (fun e => ha (e ▸ (List.mem_filter.1 hb).2)) v _) _

theorem gives_rngx_vector {d : BitVec 4} (hd : f.dst = .v d) (h : Issues (.rngx f) f 4 s c k) :
    Gives (.rngx f) s c k (s.regs.putV d (s.drawnCounters f d)).advance := by
  have he : exec (.rngx f) s = issue (.rngx f) f 4 s fun t => .done (t.setV d (t.drawnCounters f d)) := by
    rw [arm_rngx, execRngx, hd]
    rfl
  exact gives_done h he rfl (regsNow_setV (regsNow_refl h.cur) h.cur d _)

theorem gives_rngf {d : BitVec 5} (hd : f.dst = .g d) (h : Issues (.rngf f) f 1 s c k) :
    Gives (.rngf f) s c k (s.regs.putG d (BitVec.ofNat 64 (drawValue (f.mod = 3) (s.src f.src1).toNat))).advance := by
  have he : exec (.rngf f) s = scalar (.rngf f) f s fun t => .done (t.setG d (BitVec.ofNat 64 (drawValue (f.mod = 3) (t.src f.src1).toNat))) := by
    rw [arm_rngf, execRngf, hd]
  exact scalar_done h he rfl (regsNow_setG (regsNow_refl h.cur) h.cur d _)

end counters

/-- Settles O41: one lemma per instruction gives the registers it writes, and the folds over lanes, planes and counters are read bit by bit. -/
theorem laneSummaries : Obligations.LaneSummaries := by
  intro f s c k l n act quiet ty e key
  refine ⟨?vcmp, ?vext, ?vred, ?vplane, ?pair, ?vector, ?draw⟩
  case vcmp =>
    intro pt pc cond hd h hl r fl hq
    exact ⟨_, _, gives_vcmp hd h hl hq, fun j hj => ⟨getLsbD_maskUpdate _ n act _ hj, getLsbD_maskUpdate _ n act _ hj⟩⟩
  case vext =>
    intro d hd h j
    have hg : Gives (.vext f) s c k (if act j then s.regs.putG d (extendPat ty (s.laneSrc f.src1 e j)) else s.regs).advance := gives_vext hd h
    exact ⟨fun ha => by rwa [if_pos ha] at hg, fun ha => by rwa [if_neg (Bool.eq_false_iff.1 ha)] at hg⟩
  case vred => exact fun d hd h hl => gives_vred hd h hl
  case vplane =>
    intro d hd h ps hps
    refine ⟨_, gives_vplane hd h, fun b hb => ?_⟩
    obtain rfl | rfl : b = 0 ∨ b = 1 := by omega
    · refine ⟨fun hn i hi => ?_, fun j p hj ha hp => ?_⟩
      · rw [planeHalf_outside hps _ (by omega) (by omega), planeHalf_idle _ hn]
      · rw [planeHalf_outside hps _ (by omega) (by omega), planeHalf_plane hps _ (by omega) hj ha hp]
    · refine ⟨fun hn i hi => ?_, fun j p hj ha hp => planeHalf_plane hps _ (by omega) hj ha hp⟩
      rw [planeHalf_idle _ hn, planeHalf_outside hps _ (by omega) (by omega)]
  case pair => exact fun d a hd ha h => gives_rngx_pair hd ha h
  case vector => exact fun d hd h => ⟨_, gives_rngx_vector hd h, fun j hj => drawnCounters_lane s f d hj⟩
  case draw => exact fun d hd h => gives_rngf hd h

end Sys2Proof.Machine
end

section
/-! Division of integers (02_number_formats.md R37): O2. -/

namespace Sys2Proof.Machine

section division
variable {s u : State} {c : CoreId} {k : SlotId} {r : Regs}

/-- A division by zero sets FPSR.IDZ of the executing slot (R37). -/
theorem regsNow_idz (h : RegsNow s u c k r) (hc : s.cur = .slot c k) : RegsNow s u.idz c k { r with fpsr := r.fpsr ||| 0x20 } := by
  have hz : u.idz = u.setRegs { u.regs with fpsr := u.regs.fpsr ||| 0x20 } := by simp only [State.idz, regsNow_cur h hc]
  rw [hz, regsNow_regs h hc]
  exact regsNow_setRegs h hc _

/-- IDZ is no operand of an instruction. -/
theorem src_idz (hc : s.cur = .slot c k) (o : Operand) : s.idz.src o = s.src o := by
  have hr := regsNow_regs (regsNow_idz (regsNow_refl hc) hc) hc
  cases o <;> simp only [State.src, State.getG, State.getA, hr]

/-- A division writes what its operation makes of the operands, and sets IDZ for a zero divisor (R37). -/
theorem gives_divide {i : Instr} {f : Fields} {op : Int → Int → Int} (h : Issues i f 1 s c k) (e : exec i s = scalar i f s (divide f op)) :
    let y := s.operand f f.src2
    let r := if y = 0 then { s.regs with fpsr := s.regs.fpsr ||| 0x20 } else s.regs
    Gives i s c k (r.putDst f.dst (extend (modTy f.mod) (modSat f.mod) (op (s.operand f f.src1) y))).advance := by
  intro y r
  have hr := regsNow_refl h.cur
  have hb : divide f op s = arith f op (if y = 0 then s.idz else s) := rfl
  by_cases hy : y = 0
  · rw [if_pos hy, arith, toDst, src_idz h.cur, src_idz h.cur] at hb
    simp only [r, if_pos hy]
    exact scalar_done h e hb (regsNow_setDst (regsNow_idz hr h.cur) h.cur _ _)
  · rw [if_neg hy] at hb
    simp only [r, if_neg hy]
    exact scalar_done h e hb (regsNow_setDst hr h.cur _ _)

end division

/-- Settles O2: DIV and REM are divisions by the quotient and the remainder of R37. -/
theorem divisionResults : Obligations.DivisionResults := by
  intro f s c k ty x y r
  exact ⟨fun h => gives_divide (op := quotient ty) h (arm_div f s), fun h => gives_divide (op := remainder) h (arm_rem f s)⟩

end Sys2Proof.Machine
end

section
/-! The rounding step (02_number_formats.md R41, R42): O15. -/

namespace Sys2Proof.Machine

section rounding
variable {e q : Int}

/-- Nothing is discarded from a multiple of 2^e with q at most e (R41). -/
theorem roundAt_of_le (mode : Nat) (neg : Bool) (m : Nat) (h : q ≤ e) : roundAt mode neg m false e q = (m * 2 ^ (e - q).toNat, true) := by
  simp [roundAt, h, Nat.shiftLeft_eq]

/-- How a discarded part compares with one half of the unit u. -/
def halfCmp (rem u : Nat) : Ordering := if 2 * rem < u then .lt else if u < 2 * rem then .gt else .eq

/-- Otherwise the kept integer is the quotient by u = 2^(q - e), one larger where the mode rounds the remainder up (R41). -/
theorem roundAt_of_lt (mode : Nat) (neg : Bool) (m : Nat) (h : e < q) :
    let u := 2 ^ (q - e).toNat
    let exact := decide (m % u = 0)
    roundAt mode neg m false e q = (if roundsUp mode neg (m / u) (halfCmp (m % u) u) exact then m / u + 1 else m / u, exact) := by
  obtain ⟨n, hn⟩ : ∃ n, (q - e).toNat = n + 1 := ⟨(q - e).toNat - 1, by omega⟩
  simp only [roundAt, if_neg (not_le.2 h), hn, Nat.add_sub_cancel]
  have hu : 2 ^ (n + 1) = 2 * 2 ^ n := Nat.pow_succ'
  by_cases hs : Nat.log2 m + 2 < n + 1
  · have hm : 2 * m < 2 ^ (n + 1) := by
      have := (Nat.lt_log2_self (n := m)).trans_le (Nat.pow_le_pow_right (n := 2) two_pos (show Nat.log2 m + 1 ≤ n by omega))
      omega
    rw [if_pos hs, Nat.mod_eq_of_lt (by omega), Nat.div_eq_of_lt (by omega), halfCmp, if_pos hm]
    simp
  · simp only [if_neg hs, halfCmp, hu, Nat.mul_lt_mul_left two_pos, Nat.shiftRight_eq_div_pow, Bool.false_eq_true, or_false,
      Bool.not_false, Bool.and_true, beq_eq_decide]

/-- To nearest, an integer is made one larger by more than half a unit, or by half a unit if it is odd (R41). -/
theorem roundsUp_nearest (neg : Bool) (d : Nat) {rem u : Nat} (hu : 0 < u) :
    roundsUp 0 neg d (halfCmp rem u) (decide (rem = 0)) = true ↔ u < 2 * rem ∨ 2 * rem = u ∧ d % 2 = 1 := by
  by_cases hz : rem = 0
  · simp only [roundsUp, hz, decide_true, if_true, Bool.false_eq_true, false_iff]
    omega
  · rcases lt_trichotomy (2 * rem) u with hc | hc | hc
    · simp [roundsUp, halfCmp, hz, hc, hc.ne, hc.le]
    · simp [roundsUp, halfCmp, hz, hc, Nat.testBit_zero]
    · simp [roundsUp, halfCmp, hz, hc, hc.not_gt]

end rounding

/-- Settles O15: the kept integer is the quotient or one more, as the mode decides from the remainder. -/
theorem roundingIsCorrect : Obligations.RoundingIsCorrect := by
  intro neg m e q
  refine ⟨fun h mode => roundAt_of_le mode neg m h, ?_⟩
  intro h u r below above
  have hr (mode : Nat) : r mode = if roundsUp mode neg (m / u) (halfCmp (m % u) u) (decide (m % u = 0)) then m / u + 1 else m / u := by
    simp only [r, roundAt_of_lt mode neg m h, u]
  have hlt : m % u < u := Nat.mod_lt _ (Nat.two_pow_pos _)
  have hm : m / u * u + m % u = m := Nat.div_add_mod' m u
  have hsucc : (m / u + 1) * u = m / u * u + u := Nat.succ_mul _ _
  have htoward (mode : Nat) (hup : ∀ d c b, roundsUp mode neg d c b = false) : below (r mode) := by
    rw [hr, hup]
    exact ⟨by simp; omega, by simp; omega⟩
  have haway (mode : Nat) (hup : ∀ d c b, roundsUp mode neg d c b = !b) : above (r mode) := by
    rw [hr, hup]
    by_cases hz : m % u = 0 <;> exact ⟨by simp [hz]; omega, by simp [hz]; omega⟩
  refine ⟨?nearest, htoward 1 fun _ _ b => by cases b <;> rfl, ?down, ?up, fun mode => by simp only [roundAt_of_lt mode neg m h, u]⟩
  case nearest =>
    have h0 := roundsUp_nearest neg (m / u) (rem := m % u) (Nat.zero_lt_of_lt hlt)
    rw [Nat.mul_assoc, hr]
    split_ifs with hup
    · have := h0.1 hup
      omega
    · have := mt h0.2 hup
      omega
  case down =>
    cases neg
    · exact htoward 2 fun _ _ b => by cases b <;> rfl
    · exact haway 2 fun _ _ b => by cases b <;> rfl
  case up =>
    cases neg
    · exact haway 3 fun _ _ b => by cases b <;> rfl
    · exact htoward 3 fun _ _ b => by cases b <;> rfl

end Sys2Proof.Machine
end

section
/-! Absolute records as numbers (02_number_formats.md R58 to R60): O45. -/

namespace Sys2Proof.Machine

section record
variable (v n : Nat) (st : BitVec 5)

/-- A field of a bit vector is a slice of its bits. -/
theorem fieldNat_eq_extract {w : Nat} (x : BitVec w) (lo len : Nat) : fieldNat x lo len = (x.extractLsb' lo len).toNat :=
  (BitVec.extractLsb'_toNat lo len x).symm

@[simp] theorem absValue_mkAbs : absValue (mkAbs v st n) = v % 2 ^ 384 := by
  have h : (mkAbs v st n).extractLsb' 0 384 = BitVec.ofNat 384 v := BitVec.extractLsb'_append_eq_right
  rw [absValue, fieldNat_eq_extract, h]
  exact BitVec.toNat_ofNat _ _

@[simp] theorem absStatus_mkAbs : absStatus (mkAbs v st n) = st :=
  (BitVec.extractLsb'_append_eq_of_le (xhi := BitVec.ofNat 64 n ++ 0#59 ++ st) (by decide : 384 ≤ 384)).trans
    BitVec.extractLsb'_append_eq_right

@[simp] theorem absCount_mkAbs : absCount (mkAbs v st n) = n % 2 ^ 64 := by
  have h : (mkAbs v st n).extractLsb' 448 64 = BitVec.ofNat 64 n :=
    (BitVec.extractLsb'_append_eq_of_le (xhi := BitVec.ofNat 64 n ++ 0#59 ++ st) (by decide : 384 ≤ 448)).trans
      ((BitVec.extractLsb'_append_eq_of_le (xhi := BitVec.ofNat 64 n ++ 0#59) (by decide : 5 ≤ 64)).trans BitVec.extractLsb'_append_eq_left)
  rw [absCount, fieldNat_eq_extract, h, BitVec.toNat_ofNat]

end record

/-- Two records may be merged into a third in either order (R60). -/
theorem absMerge_right_comm (a b d : VWord) : absMerge (absMerge a b) d = absMerge (absMerge a d) b := by
  simp only [absMerge, absValue_mkAbs, absStatus_mkAbs, absCount_mkAbs, Nat.mod_mod, Nat.mod_add_mod, Nat.add_right_comm,
    BitVec.or_assoc, BitVec.or_comm (absStatus b)]

/-- The order of additions does not matter (R60). -/
theorem foldl_absMerge_perm {l l' : List VWord} (h : l.Perm l') (a : VWord) : l.foldl absMerge a = l'.foldl absMerge a :=
  h.foldl_eq' (fun b _ d _ a => absMerge_right_comm a b d) a

/-- What a record adds is a number of multiples of 2^-149, none of it dropped, with no status set (R59). -/
structure AddsExactly (r : VWord) (x : Int) : Prop where
  value : (absValue r : Int) = x % 2 ^ 384
  status : absStatus r = 0
  count : absCount r = 1

/-- The residue that stands for a sign and a magnitude. -/
theorem signed_residue (neg : Bool) (t : Nat) {M : Nat} (hM : 0 < M) :
    (((if neg then ((M : Int) - (t % M : Nat)).toNat % M else t % M) : Nat) : Int) = (if neg then -1 else 1) * (t : Int) % M := by
  have hlt := Nat.mod_lt t hM
  cases neg
  · simp
  · have hn : ((M : Int) - (t % M : Nat)).toNat = M - t % M := by omega
    simp only [if_true, hn, neg_one_mul]
    push_cast [Nat.cast_sub hlt.le]
    have hd : (M : Int) - t % M = -t + M * (1 + t / M) := by linarith [Int.mul_ediv_add_emod t M]
    rw [hd, Int.add_mul_emod_self_left]

/-- A finite value that is a multiple of 2^-149 and lies below 2^234 adds itself (R59). -/
theorem addsExactly_finite (neg : Bool) {m w : Nat} {e : Int} (he : -149 ≤ e) (hm : m < 2 ^ w) (hw : w + (e + 149).toNat ≤ 383) :
    AddsExactly (absFinite neg m e) ((if neg then -1 else 1) * (m * 2 ^ (e + 149).toNat)) := by
  have hup : 0 ≤ e + 149 := by omega
  have ht : m * 2 ^ (e + 149).toNat < 2 ^ 383 :=
    calc m * 2 ^ (e + 149).toNat < 2 ^ w * 2 ^ (e + 149).toNat := Nat.mul_lt_mul_of_pos_right hm (Nat.two_pow_pos _)
      _ = 2 ^ (w + (e + 149).toNat) := (Nat.pow_add 2 _ _).symm
      _ ≤ 2 ^ 383 := Nat.pow_le_pow_right two_pos hw
  have hv := signed_residue neg (m * 2 ^ (e + 149).toNat) (Nat.two_pow_pos 384)
  rw [absFinite, if_pos hup, if_neg (not_le.2 ht), decide_eq_false (not_lt.2 hup)]
  refine ⟨?_, by simp, absCount_mkAbs _ _ _⟩
  simp only [Nat.cast_pow, Nat.cast_ofNat, Nat.cast_mul] at hv
  rw [absValue_mkAbs, Int.natCast_mod, hv]
  exact Int.emod_emod _ _

/-- The finite values of a format: m has at most the bits of the fraction and the leading one, and 2^e lies in the range of the format (R39). -/
theorem unpack_fin {t : Fmt} {x : Nat} {n : Bool} {m : Nat} {e : Int} (h : unpack t x = .fin n m e) :
    m < 2 ^ (t.fw + 1) ∧ t.qmin ≤ e ∧ e < t.qmin + t.expMask := by
  have hf : x % 2 ^ t.width % 2 ^ t.fw < 2 ^ t.fw := Nat.mod_lt _ (Nat.two_pow_pos _)
  have he : x % 2 ^ t.width / 2 ^ t.fw % 2 ^ t.ew ≤ t.expMask := Nat.le_sub_one_of_lt (Nat.mod_lt _ (Nat.two_pow_pos _))
  have hs : 2 ^ (t.fw + 1) = 2 ^ t.fw + 2 ^ t.fw := Nat.two_pow_succ _
  simp only [unpack] at h
  split_ifs at h with h1 h2 h3
  · obtain ⟨-, rfl, rfl⟩ := FpVal.fin.inj h
    omega
  · obtain ⟨-, rfl, rfl⟩ := FpVal.fin.inj h
    omega

/-- An integer of a type is less in magnitude than 2^e, e the type's width (R35). -/
theorem natAbs_intOf_lt (ty x : Nat) : (intOf ty x).natAbs < 2 ^ tyWidth ty := by
  have hp : patOf ty x < 2 ^ tyWidth ty := Nat.mod_lt _ (Nat.two_pow_pos _)
  have hh : 0 < 2 ^ (tyWidth ty - 1) := Nat.two_pow_pos _
  simp only [intOf]
  split_ifs with hs
  · have hl : 2 ^ (tyWidth ty - 1) ≤ patOf ty x := of_decide_eq_true (Bool.and_eq_true_iff.1 hs).2
    have hc : ((2 ^ tyWidth ty : Nat) : Int) = 2 ^ tyWidth ty := by push_cast; rfl
    omega
  · exact hp

/-- An integer adds itself (R59). -/
theorem addsExactly_int (x : Nat) : AddsExactly (absOf 2 x) (intOf 3 x * 2 ^ 149) := by
  have ha := addsExactly_finite (decide (intOf 3 x < 0)) (e := 0) (by decide) (natAbs_intOf_lt 3 x) (by decide)
  have hv : (if decide (intOf 3 x < 0) then -1 else 1) * ((intOf 3 x).natAbs : Int) = intOf 3 x := by
    by_cases hn : intOf 3 x < 0
    · rw [decide_eq_true hn, if_pos rfl]
      omega
    · rw [decide_eq_false hn, if_neg Bool.false_ne_true]
      omega
  rw [← mul_assoc, hv] at ha
  exact ha

/-- A finite F32 value adds itself (R59). -/
theorem addsExactly_f32 {x m : Nat} {n : Bool} {e : Int} (h : unpack f32 x = .fin n m e) :
    AddsExactly (absOf 0 x) ((if n then -1 else 1) * (m * 2 ^ (e + 149).toNat)) := by
  obtain ⟨hm, hlo, hhi⟩ := unpack_fin h
  have hq : f32.qmin = -149 := by decide
  have hk : f32.expMask = 255 := by decide
  have hw : f32.fw + 1 + (e + 149).toNat ≤ 383 := by
    rw [show f32.fw = 23 from rfl]
    omega
  have he : absOf 0 x = absFinite n m e := by simp only [absOf, if_true, h]
  rw [he]
  exact addsExactly_finite n (hq ▸ hlo) hm hw

end Sys2Proof.Machine
end

section
/-! Marks and accesses of an unhindered chunk in its local store (06_matrix_and_absolute.md R175, R176, 12_memory_levels_translation.md R277, R279): O45. -/

namespace Sys2Proof.Machine

/-- A fold over a table does not see an entry replaced by one that counts as much, where the default counts nothing. -/
theorem tab_foldl_put {α β : Type} (g : β → Nat × α → β) {d y : α} {n : Nat} (hd : ∀ a, g a (n, d) = a) {t : Tab α}
    (hy : ∀ a, g a (n, y) = g a (n, t.look d n)) (a : β) : (t.put n y).foldl g a = t.foldl g a := by
  induction t generalizing a with
  | nil => simpa [Tab.put, Tab.look, Tab.find, hd] using hy a
  | cons e t ih =>
    obtain ⟨m, z⟩ := e
    rcases lt_trichotomy n m with h | rfl | h
    · have hl : Tab.look ((m, z) :: t) d n = d := by simp [Tab.look, Tab.find, h.ne, h]
      rw [hl] at hy
      simp [Tab.put, h.ne, h, hy, hd]
    · have hl : Tab.look ((n, z) :: t) d n = z := by simp [Tab.look, Tab.find]
      rw [hl] at hy
      simp [Tab.put, hy]
    · have hl : Tab.look ((m, z) :: t) d n = Tab.look t d n := by simp [Tab.look, Tab.find, h.ne', h.not_gt]
      rw [hl] at hy
      simpa [Tab.put, h.ne', h.not_gt] using ih hy _

/-- A chunk with as many undo entries as the one that it replaces leaves the count of the core as it is (R279). -/
theorem undoCount_setSlot (x : Core) (k : SlotId) (y : Slot) (hu : y.chunk.undo = (x.slot k).chunk.undo) (hw : y.waiting = (x.slot k).waiting) :
    (x.setSlot k y).undoCount = x.undoCount :=
  tab_foldl_put (d := ({} : Slot)) _ (fun _ => rfl) (fun a => by rw [hu, hw]; rfl) 0

section chunk
variable {s : State} {c : CoreId} {k : SlotId} {x : Chunk} {room : Nat}

theorem chunk_setChunk (hc : s.cur = .slot c k) (x : Chunk) : (s.setChunk x).chunk = x := by
  rw [chunk_slot _ c k (by simpa using hc), setChunk_slot s c k hc, slot_setSlot_same]

/-- What the executing slot's chunk notes leaves the other slots' chunks alone. -/
theorem soleChunk_setChunk (hc : s.cur = .slot c k) (h : s.soleChunk c k) : (s.setChunk x).soleChunk c k := by
  intro e he hk
  rw [setChunk_slot s c k hc, State.setSlot, core_setCore_same] at he
  exact h e ((tab_mem_put _ _ _ e he).resolve_left fun h' => hk (congrArg Prod.fst h')) hk

/-- The chunk x hinders no later access more than w does: its pending updates and its undo entries are those of w. -/
structure MarksOnly (w x : Chunk) : Prop where
  solo : x.solo = w.solo
  effects : x.effects = w.effects
  lsA : x.lsA = w.lsA
  undo : x.undo = w.undo

/-- A chunk that only takes marks stays unhindered. -/
theorem calm_setChunk (h : s.calm c k room) (hx : MarksOnly s.chunk x) : (s.setChunk x).calm c k room := by
  have hch := chunk_slot s c k h.cur
  have hco : (s.setChunk x).core c = (s.core c).setSlot k { s.slot c k with chunk := x } := by
    rw [setChunk_slot s c k h.cur, State.setSlot, core_setCore_same]
  have hsl : ((s.setChunk x).slot c k).chunk = x := by rw [setChunk_slot s c k h.cur, slot_setSlot_same]
  refine ⟨by simpa using h.cur, ?_, soleChunk_setChunk h.cur h.sole, fun gs => ?_, by rw [hco]; exact h.clean, ?_, by rw [hco]; exact h.wf⟩
  · rw [chunk_setChunk h.cur, hx.solo, h.plain]
  · have hf := h.free gs
    rw [← hch] at hf
    rw [hsl, ← hf]
    simp only [Chunk.updateOn, Chunk.remoteOn, hx.lsA, hx.effects]
  · have hn : ((s.core c).setSlot k { s.slot c k with chunk := x }).undoCount = (s.core c).undoCount :=
      undoCount_setSlot _ _ _ (hx.undo.trans (congrArg Chunk.undo hch)) rfl
    rw [hco, hn]
    exact h.room

/-- The chunk with the granules of a read marked (R277). -/
def Chunk.readMarks (x : Chunk) (off n : Nat) : Chunk := { x with lsR := (linesOf off n).foldl insertOnce x.lsR }

theorem marksOnly_readMarks (x : Chunk) (off n : Nat) : MarksOnly x (x.readMarks off n) := ⟨rfl, rfl, rfl, rfl⟩

theorem regsNow_readMarks (hc : s.cur = .slot c k) (off n : Nat) : RegsNow s (s.setChunk (s.chunk.readMarks off n)) c k s.regs :=
  regsNow_setChunk (regsNow_refl hc) hc _ ⟨rfl, rfl, rfl, rfl⟩

/-- An access that nothing hinders is marked in the chunk: a read by its granules alone, a write with undo entries for them (R277, R279). -/
theorem touchLs_calm (h : s.calm c k room) (off n : Nat) (write : Bool) (hr : write = true → (linesOf off n).length ≤ room) :
    ∃ x, s.touchLs off n write = .ok ((), s.setChunk x) ∧ SameBytes s.chunk x ∧ (write = false → x = s.chunk.readMarks off n) := by
  have hu : s.chunk.updateOn c (linesOf off n) = false := by rw [chunk_slot s c k h.cur]; exact h.free _
  have hf : (if write then (linesOf off n).filter fun g => !s.chunk.lsW.contains g else []).length ≤ room := by
    cases write
    · exact Nat.zero_le _
    · exact (List.length_filter_le _ _).trans (hr rfl)
  unfold State.touchLs
  simp only [h.cur]
  rw [if_neg (by simp [hu]), if_neg (by simpa using (Nat.add_le_add_left hf _).trans h.room), contend_sole h.sole]
  · exact ⟨_, rfl, ⟨rfl, rfl, rfl, rfl⟩, fun hw => by subst hw; rfl⟩
  · simp

/-- A read that nothing hinders gives the bytes and marks their granules. -/
theorem readLs_calm (h : s.calm c k room) (off n : Nat) :
    s.readLs c off n = .ok ((s.core c).ls.bytes off n, s.setChunk (s.chunk.readMarks off n)) := by
  obtain ⟨x, ht, -, hx⟩ := touchLs_calm h off n false (by simp)
  rw [hx rfl] at ht
  unfold State.readLs
  simp only [h.cur, ht, h.clean, Res.andThen, List.find?_nil, onlySlot_ls (regsNow_readMarks h.cur off n).only]

/-- A write that nothing hinders, with room for the undo entries of its granules, replaces the bytes. -/
theorem writeLs_calm (h : s.calm c k room) {off : Nat} {bs : List Byte} (hr : (linesOf off bs.length).length ≤ room) :
    ∃ t, RegsNow s t c k s.regs ∧ s.writeLs c off bs = .ok ((), t.withLs c ((s.core c).ls.setBytes off bs)) := by
  obtain ⟨x, ht, hx, -⟩ := touchLs_calm h off bs.length true fun _ => hr
  have hh := regsNow_heals (regsNow_setChunk (regsNow_refl h.cur) h.cur x hx) h.cur
  exact ⟨_, hh _, by rw [writeLs_touched h.cur ht, ← onlySlot_ls (hh _).only]⟩

/-- The 64 bytes of a record lie in one granule (R18). -/
theorem linesOf_record {off : Nat} (h : off % 64 = 0) : linesOf off 64 = [off / 64] := by
  have hn : (off + 64 - 1) / 64 - off / 64 + 1 = 1 := by omega
  rw [linesOf, if_neg (by decide), hn]
  simp

/-- Records lie at multiples of 64 bytes (R18). -/
theorem absOff_aligned (s : State) (o : Operand) : s.absOff o % 64 = 0 := by
  cases o with
  | abs n => simp only [State.absOff]; omega
  | _ => rfl

/-- The chunk with a value accumulated into the pending delta of the record at an offset, under the accumulate-only mark (R175). -/
def Chunk.accumulated (x : Chunk) (off : Nat) (d : VWord) : Chunk :=
  { x with deltas := x.deltas.put off (absMerge (x.deltas.look 0 off) d), lsA := insertOnce x.lsA (off / 64) }

/-- An accumulation that nothing hinders is noted in the chunk. -/
theorem addDelta_sole (hc : s.cur = .slot c k) (hs : s.soleChunk c k) {off : Nat} (hr : s.chunk.remoteOn c [off / 64] = false)
    (hroom : (s.chunk.deltas.find off).isSome = true ∨ s.chunk.deltas.length < 4) (d : VWord) :
    s.addDelta off d = .ok ((), s.setChunk (s.chunk.accumulated off d)) := by
  have hfull : ((s.chunk.deltas.find off).isNone && decide (4 ≤ s.chunk.deltas.length)) = false := by
    rcases hroom with h | h
    · rw [Option.isNone_eq_false_iff.2 h, Bool.false_and]
    · rw [decide_eq_false (by omega), Bool.and_false]
  unfold State.addDelta
  simp only [hc, hr, hfull, contend_sole hs (test := fun x => x.lsR.contains (off / 64) || x.lsW.contains (off / 64)) rfl]
  rfl

theorem regsNow_accumulated (hc : s.cur = .slot c k) (off : Nat) (d : VWord) :
    RegsNow s (s.setChunk (s.chunk.accumulated off d)) c k s.regs :=
  regsNow_setChunk (regsNow_refl hc) hc _ ⟨rfl, rfl, rfl, rfl⟩

end chunk

end Sys2Proof.Machine
end

section
/-! The instructions on Absolute records (06_matrix_and_absolute.md R175 to R181): O45. -/

namespace Sys2Proof.Machine

section ends
variable {i : Instr} {f : Fields} {lanes : Nat} {s t u : State} {c : CoreId} {k : SlotId} {r : Regs} {body : State → Eff}

/-- An instruction that issues and completes, from a state that it has led to. -/
theorem givesFrom_body (h : Issues i f lanes s c k) (e : exec i s = issue i f lanes s body) (hb : body s = .done u)
    (hc : t.cur = .slot c k) (hu : RegsNow t u c k r) : GivesFrom i s t c k r.advance :=
  ⟨_, by rw [e, issue_body h, hb], ended_done hu hc _ _ _⟩

/-- What an instruction leaves that has ended in a chunk that is not solo: memory, the local store and the slot's registers. -/
theorem givesFrom_leaves (h : GivesFrom i s t c k r) (hs : (t.slot c k).chunk.solo = false) :
    ∃ u, exec i s = .next u ∧ u.mem = t.mem ∧ (u.core c).ls = (t.core c).ls ∧ (u.slot c k).regs = r := by
  obtain ⟨u, he, hend⟩ := h
  exact ⟨u, he, onlySlot_mem hend.only, onlySlot_ls hend.only c, ended_regs hend hs⟩

theorem curCore_slot (h : s.cur = .slot c k) : s.curCore = c := by simp [State.curCore, h]

end ends

section absolute
variable {f : Fields} {s s1 s2 : State} {c : CoreId} {k : SlotId} {bs : List Byte} {w : Word × Loc}

/-- XCLR writes 64 zero bytes (R177). -/
theorem givesFrom_xclr (h : Issues (.xclr f) f 1 s c k) (hw : s.writeLs c (s.absOff f.dst) (leBytes 64 0) = .ok ((), s2)) (hc : s2.cur = .slot c k) :
    GivesFrom (.xclr f) s s2 c k s2.regs.advance := by
  refine givesFrom_done h (arm_xclr f s) ?_ hc (regsNow_refl hc)
  rw [curCore_slot h.cur, hw]
  rfl

/-- XACC of a G register accumulates one value (R178). -/
theorem givesFrom_xacc_register {n : BitVec 5} (hs : f.src1 = .g n) (h : Issues (.xacc f) f 1 s c k)
    (hd : s.addDelta (s.absOff f.dst) (absOf (f.mod.toNat % 4) ((s.getG n).toNat % 2 ^ absWidth (f.mod.toNat % 4))) = .ok ((), s2))
    (hc : s2.cur = .slot c k) : GivesFrom (.xacc f) s s2 c k s2.regs.advance := by
  have he : exec (.xacc f) s = issue (.xacc f) f 1 s fun s => (s.addDelta (s.absOff f.dst)
      (absOf (f.mod.toNat % 4) ((s.getG n).toNat % 2 ^ absWidth (f.mod.toNat % 4)))).fin fun _ s => .done s := by
    rw [arm_xacc, execXacc, hs]
    rfl
  exact givesFrom_body h he (by rw [hd]; rfl) hc (regsNow_refl hc)

/-- The record of the active lanes of a V register that XACC accumulates, each read in the instruction's type (R178). -/
def State.lanesRecord (s : State) (f : Fields) (n : BitVec 4) : VWord :=
  let ty := f.mod.toNat % 4
  ((s.lanesOn f (512 / absWidth ty)).map fun j => absOf ty (laneOf (s.getV n) (absWidth ty) j)).foldl absMerge 0

/-- XACC of a V register accumulates its active lanes (R178). -/
theorem givesFrom_xacc_vector {n : BitVec 4} (hs : f.src1 = .v n) (h : Issues (.xacc f) f (512 / absWidth (f.mod.toNat % 4)) s c k)
    (hd : s.addDelta (s.absOff f.dst) (s.lanesRecord f n) = .ok ((), s2)) (hc : s2.cur = .slot c k) :
    GivesFrom (.xacc f) s s2 c k s2.regs.advance := by
  have he : exec (.xacc f) s = issue (.xacc f) f (512 / absWidth (f.mod.toNat % 4)) s fun s =>
      (s.addDelta (s.absOff f.dst) (s.lanesRecord f n)).fin fun _ s => .done s := by
    rw [arm_xacc, execXacc, hs]
    rfl
  exact givesFrom_body h he (by rw [hd]; rfl) hc (regsNow_refl hc)

/-- A record as its 64 bytes give it (R58). -/
def recordOf (bs : List Byte) : VWord := BitVec.ofNat 512 (leNat bs)

/-- The fields of a record, the bits between them left out (R58). -/
def fieldsOf (r : VWord) : VWord := mkAbs (absValue r) (absStatus r) (absCount r)

/-- XADD of a record in the local store (R179). -/
theorem givesFrom_xadd_record {n : BitVec 4} (hs : f.src1 = .abs n) (h : Issues (.xadd f) f 1 s c k)
    (hr : s.readLs c (s.absOff f.src1) 64 = .ok (bs, s1)) (hd : s1.addDelta (s1.absOff f.dst) (fieldsOf (recordOf bs)) = .ok ((), s2))
    (hc : s2.cur = .slot c k) : GivesFrom (.xadd f) s s2 c k s2.regs.advance := by
  have he : exec (.xadd f) s = scalar (.xadd f) f s fun s => (s.readLs s.curCore (s.absOff (.abs n)) 64).fin fun bs s =>
      (s.addDelta (s.absOff f.dst) (fieldsOf (recordOf bs))).fin fun _ s => .done s := by
    rw [arm_xadd, execXadd, hs]
    rfl
  rw [hs] at hr
  exact givesFrom_done h he (by rw [curCore_slot h.cur, hr]; simp only [Res.fin, hd]) hc (regsNow_refl hc)

/-- XADD of a record at a memory operand (R179). -/
theorem givesFrom_xadd_memory {a : BitVec 3} {m : AddrMode} {o : BitVec 16} (hs : f.src1 = .mem a m o) (h : Issues (.xadd f) f 1 s c k)
    (ha : s.recordAddr f.src1 .read = .ok (w, s)) (hr : s.readRecord w = .ok (bs, s1))
    (hd : s1.addDelta (s1.absOff f.dst) (fieldsOf (recordOf bs)) = .ok ((), s2)) (hc : s2.cur = .slot c k) :
    GivesFrom (.xadd f) s s2 c k (s2.regs.updated f.src1 64).advance := by
  have he : exec (.xadd f) s = scalar (.xadd f) f s fun s => ((s.recordAddr f.src1 .read).andThen fun w s => s.readRecord w).fin fun bs s =>
      (s.addDelta (s.absOff f.dst) (fieldsOf (recordOf bs))).fin fun _ s => .done (s.update f.src1 64) := by
    rw [arm_xadd, execXadd, hs]
    rfl
  exact givesFrom_done h he (by simp only [ha, Res.andThen, hr, Res.fin, hd]) hc (regsNow_update (regsNow_refl hc) hc f.src1 64)

/-- The body of XRND on a slot (R180). -/
theorem exec_xrnd {d : BitVec 5} (hd : f.dst = .g d) (h : Issues (.xrnd f) f 1 s c k) (hr : s.readLs c (s.absOff f.src1) 64 = .ok (bs, s1)) :
    exec (.xrnd f) s = .next (concludeSlot c k (opcOf (.xrnd f)) (.xrnd f) f
      (s1.fpResult d (absRound (modFmt f.mod) (modRm f.mod) (recordOf bs)))) := by
  rw [arm_xrnd, execXrnd, scalar, issue_body h, curCore_slot h.cur, hr, hd]
  rfl

/-- XRND of a record whose flags are not enabled (R62, R180). -/
theorem givesFrom_xrnd {d : BitVec 5} (hd : f.dst = .g d) (h : Issues (.xrnd f) f 1 s c k) (hr : s.readLs c (s.absOff f.src1) 64 = .ok (bs, s1))
    (hc : s1.cur = .slot c k) :
    let x := absRound (modFmt f.mod) (modRm f.mod) (recordOf bs)
    s1.regs.fpsr.extractLsb' 8 5 &&& x.2 = 0 → GivesFrom (.xrnd f) s s1 c k ((s1.regs.flagged x.2).putG d (BitVec.ofNat 64 x.1)).advance := by
  intro x hq
  have he := exec_xrnd hd h hr
  rw [State.fpResult, flags_quiet hq] at he
  exact ⟨_, he, ended_done (regsNow_setG (regsNow_sticky (regsNow_refl hc) hc x.2) hc d _) hc _ _ _⟩

/-- XRND of a record that raises an enabled flag (R44, R180). -/
theorem exec_xrnd_trap {d : BitVec 5} (hd : f.dst = .g d) (h : Issues (.xrnd f) f 1 s c k) (hr : s.readLs c (s.absOff f.src1) 64 = .ok (bs, s1)) :
    let x := absRound (modFmt f.mod) (modRm f.mod) (recordOf bs)
    s1.regs.fpsr.extractLsb' 8 5 &&& x.2 ≠ 0 →
      exec (.xrnd f) s = .next ((s1.sticky x.2).raise c k { cause := 0x0D, info := x.2.setWidth 64 }) := by
  intro x hq
  rw [exec_xrnd hd h hr, State.fpResult, State.flags, enabledFlags, BitVec.and_comm, if_neg hq]
  rfl

/-- XGET of a word of a record (R181). -/
theorem givesFrom_xget_register {d : BitVec 5} (hd : f.dst = .g d) (h : Issues (.xget f) f 1 s c k)
    (hr : s.readLs c (s.absOff f.src1) 64 = .ok (bs, s1)) (hc : s1.cur = .slot c k) :
    GivesFrom (.xget f) s s1 c k (s1.regs.putG d ((recordOf bs).extractLsb' (64 * immNat f.src2) 64)).advance := by
  have he : exec (.xget f) s = scalar (.xget f) f s fun s => (s.readLs s.curCore (s.absOff f.src1) 64).fin fun bs s =>
      .done (s.setG d ((recordOf bs).extractLsb' (64 * immNat f.src2) 64)) := by
    rw [arm_xget, execXget, hd]
    rfl
  exact givesFrom_done h he (by rw [curCore_slot h.cur, hr]; rfl) hc (regsNow_setG (regsNow_refl hc) hc d _)

/-- XGET of a record to a memory operand (R181). -/
theorem givesFrom_xget_memory {a : BitVec 3} {m : AddrMode} {o : BitVec 16} (hd : f.dst = .mem a m o) (h : Issues (.xget f) f 1 s c k)
    (ha : s.recordAddr f.dst .write = .ok (w, s)) (hr : s.readLs c (s.absOff f.src1) 64 = .ok (bs, s1))
    (hw : s1.writeElem w bs = .ok ((), s2)) (hc : s2.cur = .slot c k) :
    GivesFrom (.xget f) s s2 c k (s2.regs.updated f.dst 64).advance := by
  have he : exec (.xget f) s = scalar (.xget f) f s fun s => (s.recordAddr f.dst .write).fin fun w s =>
      (s.readLs s.curCore (s.absOff f.src1) 64).fin fun bs s => (s.writeElem w bs).fin fun _ s => .done (s.update f.dst 64) := by
    rw [arm_xget, execXget, hd]
  exact givesFrom_done h he (by simp only [ha, Res.fin, curCore_slot h.cur, hr, hw]) hc (regsNow_update (regsNow_refl hc) hc f.dst 64)

end absolute

section form
variable {f : Fields} {s : State} {c : CoreId} {k : SlotId} {r : VWord} {n : BitVec 5}

/-- XACC of a form register issues over the lanes of its type, and its turn is that of the form (R178). -/
theorem exec_xacc_form (hs : f.src1 = .f n) (h : Issues (.xacc f) f (512 / absWidth (f.mod.toNat % 4)) s c k) :
    exec (.xacc f) s = .next (concludeSlot c k (opcOf (.xacc f)) (.xacc f) f (xaccForm f s)) := by
  have he : exec (.xacc f) s = issue (.xacc f) f (512 / absWidth (f.mod.toNat % 4)) s (xaccForm f) := by
    rw [arm_xacc, execXacc, hs]
  rw [he, issue_body h]

/-- The checks of step 0 that an instruction on forms does not pass end it (R165). -/
theorem xaccForm_checked (hf : s.formsOf [f.src1] = .ok ([r], s)) (ht : s.vprogStep 0xB6 = 0) {x : Option Nat}
    (hm : matrixCheck [r] (formFmt r == absFmt (f.mod.toNat % 4)) true = some x) :
    xaccForm f s = match x with
      | some e => .trap s (formModeTrap e)
      | none => .done s := by
  simp only [xaccForm, hf, Res.fin, List.headD_cons, State.matrixForms, ht, hm]
  cases x <;> rfl

/-- An instruction on forms whose checks are not made or pass goes on (R165). -/
theorem matrixForms_passed {first : Bool} {rs : List VWord} {fmtOk extOk : Bool} (h : first = false ∨ matrixCheck rs fmtOk extOk = none)
    (go : State → Eff) : s.matrixForms first rs fmtOk extOk go = go s := by
  have hn : (if first then matrixCheck rs fmtOk extOk else none) = none := by
    rcases h with h | h
    · rw [h, if_neg Bool.false_ne_true]
    · rw [h, ite_self]
  rw [State.matrixForms, hn]

theorem regsNow_setVprog {u : State} {q : Regs} (h : RegsNow s u c k q) (hc : s.cur = .slot c k) (v : BitVec 32) :
    RegsNow s (u.setVprog v) c k { q with vprog := v } := by
  rw [State.setVprog, regsNow_regs h hc]
  exact regsNow_setRegs h hc _

section turn
variable {l total t : Nat}

/-- XACC over a form whose checks are not made or pass: it is complete with no group left, and else makes its step (R134, R178). -/
theorem xaccForm_turn (hf : s.formsOf [f.src1] = .ok ([r], s))
    (hm : s.vprogStep 0xB6 ≠ 0 ∨ matrixCheck [r] (formFmt r == absFmt (f.mod.toNat % 4)) true = none)
    (hl : 512 / absWidth (f.mod.toNat % 4) = l) (htotal : formSteps r l = total) (hvt : s.vprogStep 0xB6 = t) :
    (min total 65536 ≤ t → xaccForm f s = .done (s.setVprog 0))
    ∧ (∀ s1 s2, t < min total 65536 → s.takeWatches (if formLsp r then [] else [footprint r]) = .ok ((), s1) → xaccRun f r l total t s1 = .ok ((), s2) →
      xaccForm f s = s2.stepDone 0xB6 t (min total 65536)) := by
  subst hl htotal hvt
  rw [xaccForm, hf]
  dsimp only [Res.fin]
  generalize hq : [r].headD 0 = q
  obtain rfl : r = q := hq
  rw [matrixForms_passed (hm.imp_left beq_false_of_ne)]
  refine ⟨fun ht => if_pos ht, fun s1 s2 ht hw hr => ?_⟩
  rw [if_neg (not_le.2 ht), hw]
  simp only [State.atomic, hr]

/-- Before the last step VPROG shows the next one; at the last it is cleared (R134). -/
theorem ended_stepDone (hc : s.cur = .slot c k) (opc opc' : Nat) (i : Instr) (f : Fields) :
    (t + 1 < total → Ended s (concludeSlot c k opc' i f (s.stepDone opc t total)) c k { s.regs with vprog := mkProg (t + 1) opc 0 })
    ∧ (t + 1 = total → Ended s (concludeSlot c k opc' i f (s.stepDone opc t total)) c k ({ s.regs with vprog := 0 } : Regs).advance) := by
  refine ⟨fun h => ?_, fun h => ?_⟩
  · rw [State.stepDone, if_pos h]
    exact ended_step (regsNow_setVprog (regsNow_refl hc) hc _) hc _ _ _
  · rw [State.stepDone, if_neg h.not_lt]
    exact ended_done (regsNow_setChunk (regsNow_setVprog (regsNow_refl hc) hc 0) hc { s.chunk with noWatch := false } ⟨rfl, rfl, rfl, rfl⟩) hc _ _ _

end turn

end form

section place
variable {s : State} {c : CoreId} {k : SlotId} {o : Operand} {w : Nat}

/-- A record operand in the window lies in the agent's local store (R27, R163). -/
theorem recordAddr_window (hc : s.cur = .slot c k) (hv : s.addrOf o 64 = BitVec.ofNat 64 (windowBase + w)) (ha : w % 64 = 0) (hw : w < 0x80000)
    (kd : Kind) : s.recordAddr o kd = .ok ((s.addrOf o 64, .ls c w), s) := by
  have hn : (s.addrOf o 64).toNat = windowBase + w := by rw [hv, window_toNat hw]
  have hi : BitVec.ofInt 64 ((s.addrOf o 64).toNat : Int) = s.addrOf o 64 := by rw [BitVec.ofInt_natCast, BitVec.ofNat_toNat, BitVec.setWidth_eq]
  have h64 : (s.addrOf o 64).toNat % 64 = 0 := by
    rw [hn]
    simp only [windowBase]
    omega
  have hl := locate_window hc hv (by decide : 0 < 64) (by omega) kd
  unfold State.recordAddr State.elemLoc
  simp [h64, hi, hl, Res.andThen]

end place

end Sys2Proof.Machine
end

section
/-! Absolute records (02_number_formats.md R59 to R63, 06_matrix_and_absolute.md R175 to R181): O45. -/

namespace Sys2Proof.Machine

section calm
variable {i : Instr} {s t u : State} {c : CoreId} {k : SlotId} {r : Regs} {m : Mem} {room off : Nat}

theorem absOff_congr {s t : State} (h : t.regs = s.regs) (o : Operand) : t.absOff o = s.absOff o := by
  cases o <;> simp only [State.absOff, h]

theorem regs_withLs (hc : t.cur = .slot c k) (m : Mem) : (t.withLs c m).regs = t.regs := by
  have hw : (t.withLs c m).cur = .slot c k := hc
  rw [regs_slot _ c k hw, withLs_slot, ← regs_slot t c k hc]

theorem regsNow_trans {r' : Regs} (h : RegsNow s t c k r) (h' : RegsNow t u c k r') : RegsNow s u c k r' :=
  ⟨onlySlot_trans h.only h'.only,
    ⟨h'.chunk.wr.trans h.chunk.wr, h'.chunk.solo.trans h.chunk.solo, h'.chunk.len.trans h.chunk.len, h'.chunk.effects.trans h.chunk.effects⟩,
    by rw [h'.slot, h.slot]⟩

/-- The instruction ends with memory as it was, the bytes m in the local store and the registers r. -/
def Completes (i : Instr) (s : State) (c : CoreId) (k : SlotId) (m : Mem) (r : Regs) : Prop :=
  ∃ u, exec i s = .next u ∧ u.mem = s.mem ∧ (u.core c).ls = m ∧ (u.slot c k).regs = r

/-- The instruction notes a pending delta of the record at an offset, leaves memory and the local store as they were, and ends with the registers r. -/
def Accumulates (i : Instr) (s : State) (c : CoreId) (k : SlotId) (off : Nat) (d : VWord) (r : Regs) : Prop :=
  ∃ t, t.mem = s.mem ∧ (t.core c).ls = (s.core c).ls ∧ t.chunk.deltas = s.chunk.deltas.put off (absMerge (s.chunk.deltas.look 0 off) d)
    ∧ GivesFrom i s t c k r

/-- An instruction that has led to notes in the chunk only completes with the local store as it was. -/
theorem completes_of_notes (h : s.calm c k room) (hk : RegsNow s t c k s.regs) (hg : GivesFrom i s t c k r) :
    Completes i s c k (s.core c).ls r := by
  obtain ⟨u, he, hm, hls, hr⟩ := givesFrom_leaves hg (by rw [hk.chunk.solo, ← chunk_slot s c k h.cur, h.plain])
  exact ⟨u, he, hm.trans (onlySlot_mem hk.only), hls.trans (onlySlot_ls hk.only c), hr⟩

/-- An instruction that has led to notes in the chunk and to the bytes m of the local store completes with them. -/
theorem completes_of_bytes (h : s.calm c k room) (hk : RegsNow s t c k s.regs) (hg : GivesFrom i s (t.withLs c m) c k r) :
    Completes i s c k m r := by
  obtain ⟨u, he, hm, hls, hr⟩ := givesFrom_leaves hg (by rw [withLs_slot, hk.chunk.solo, ← chunk_slot s c k h.cur, h.plain])
  have hmt : (t.withLs c m).mem = t.mem := rfl
  exact ⟨u, he, hm.trans (hmt.trans (onlySlot_mem hk.only)), hls.trans (withLs_ls _ _ _), hr⟩

/-- An accumulation that nothing hinders is noted in the chunk, and leaves the record and the registers as they are (R175). -/
theorem addDelta_noted (hc : s.cur = .slot c k) (hs : s.soleChunk c k) (hr : s.chunk.remoteOn c [off / 64] = false)
    (hroom : (s.chunk.deltas.find off).isSome = true ∨ s.chunk.deltas.length < 4) (d : VWord) :
    ∃ u, s.addDelta off d = .ok ((), u) ∧ u.cur = s.cur ∧ u.mem = s.mem ∧ (u.core c).ls = (s.core c).ls ∧ u.regs = s.regs
      ∧ u.chunk.deltas = s.chunk.deltas.put off (absMerge (s.chunk.deltas.look 0 off) d) := by
  have hk := regsNow_accumulated hc off d
  exact ⟨_, addDelta_sole hc hs hr hroom d, onlySlot_cur hk.only, onlySlot_mem hk.only, onlySlot_ls hk.only c, regsNow_regs hk hc,
    by rw [chunk_setChunk hc]; rfl⟩

/-- With no update pending, no LSW or LSADD waits on any granule (R295). -/
theorem calm_remoteOn (h : s.calm c k room) (gs : List Nat) : s.chunk.remoteOn c gs = false := by
  rw [chunk_slot s c k h.cur]
  exact (Bool.or_eq_false_iff.1 (h.free gs)).2

/-- An instruction that accumulates after a read, neither hindered. -/
theorem accumulates_after_read (h : s.calm c k room) (off n : Nat) {o : Operand} {d : VWord}
    (hroom : (s.chunk.deltas.find (s.absOff o)).isSome = true ∨ s.chunk.deltas.length < 4)
    (hg : ∀ u, let t := s.setChunk (s.chunk.readMarks off n)
      t.addDelta (t.absOff o) d = .ok ((), u) → u.cur = .slot c k → u.regs = s.regs → GivesFrom i s u c k r) :
    Accumulates i s c k (s.absOff o) d r := by
  have hk := regsNow_readMarks h.cur off n
  have h1 := calm_setChunk h (marksOnly_readMarks s.chunk off n)
  have hch := chunk_setChunk h.cur (s.chunk.readMarks off n)
  have ho := absOff_congr (regsNow_regs hk h.cur) o
  obtain ⟨u, hd, hc, hm, hls, hr, hds⟩ := addDelta_noted h1.cur h1.sole (calm_remoteOn h1 [s.absOff o / 64]) (by rwa [hch]) d
  exact ⟨u, hm.trans (onlySlot_mem hk.only), hls.trans (onlySlot_ls hk.only c), by rw [hds, hch]; rfl,
    hg u (by rw [ho, hd]) (hc.trans h1.cur) (hr.trans (regsNow_regs hk h.cur))⟩

end calm

section unhindered
variable {f : Fields} {s : State} {c : CoreId} {k : SlotId}

/-- XCLR in an unhindered chunk (R177). -/
theorem completes_xclr (h : s.calm c k 1) (hi : Issues (.xclr f) f 1 s c k) :
    Completes (.xclr f) s c k ((s.core c).ls.setBytes (s.absOff f.dst) (leBytes 64 0)) s.regs.advance := by
  have hlen := leBytes_length 64 0
  obtain ⟨t, hk, hw⟩ := writeLs_calm h (off := s.absOff f.dst) (bs := leBytes 64 0)
    (by rw [hlen, linesOf_record (absOff_aligned s f.dst), List.length_singleton])
  have hc : t.cur = .slot c k := regsNow_cur hk h.cur
  have hg := givesFrom_xclr hi hw hc
  rw [regs_withLs hc, regsNow_regs hk h.cur] at hg
  exact completes_of_bytes h hk hg

/-- XACC of a G register in an unhindered chunk (R178). -/
theorem accumulates_xacc_register (h : s.calm c k 1) {n : BitVec 5} (hs : f.src1 = .g n) (hi : Issues (.xacc f) f 1 s c k)
    (hroom : (s.chunk.deltas.find (s.absOff f.dst)).isSome = true ∨ s.chunk.deltas.length < 4) :
    Accumulates (.xacc f) s c k (s.absOff f.dst) (absOf (f.mod.toNat % 4) ((s.getG n).toNat % 2 ^ absWidth (f.mod.toNat % 4))) s.regs.advance := by
  obtain ⟨u, hd, hc, hm, hls, hr, hds⟩ := addDelta_noted h.cur h.sole (calm_remoteOn h _) hroom _
  exact ⟨u, hm, hls, hds, hr ▸ givesFrom_xacc_register hs hi hd (hc.trans h.cur)⟩

/-- XADD of a record in an unhindered chunk (R179). -/
theorem accumulates_xadd_record (h : s.calm c k 1) {n : BitVec 4} (hs : f.src1 = .abs n) (hi : Issues (.xadd f) f 1 s c k)
    (hroom : (s.chunk.deltas.find (s.absOff f.dst)).isSome = true ∨ s.chunk.deltas.length < 4) :
    Accumulates (.xadd f) s c k (s.absOff f.dst) (fieldsOf (recordOf ((s.core c).ls.bytes (s.absOff f.src1) 64))) s.regs.advance :=
  accumulates_after_read h (s.absOff f.src1) 64 hroom fun _ hd hc hr => hr ▸ givesFrom_xadd_record hs hi (readLs_calm h _ 64) hd hc

/-- XADD of a record at an aligned place of the local store, in an unhindered chunk (R179). -/
theorem accumulates_xadd_memory (h : s.calm c k 1) {a : BitVec 3} {m : AddrMode} {o : BitVec 16} {w : Nat} (hs : f.src1 = .mem a m o)
    (hv : s.addrOf f.src1 64 = BitVec.ofNat 64 (windowBase + w)) (ha : w % 64 = 0) (hw : w < 0x80000) (hi : Issues (.xadd f) f 1 s c k)
    (hroom : (s.chunk.deltas.find (s.absOff f.dst)).isSome = true ∨ s.chunk.deltas.length < 4) :
    Accumulates (.xadd f) s c k (s.absOff f.dst) (fieldsOf (recordOf ((s.core c).ls.bytes w 64))) (s.regs.updated f.src1 64).advance :=
  accumulates_after_read h w 64 hroom fun _ hd hc hr =>
    hr ▸ givesFrom_xadd_memory hs hi (recordAddr_window h.cur hv ha hw .read) (readLs_calm h w 64) hd hc

/-- XRND in an unhindered chunk, of a record whose flags are not enabled (R180). -/
theorem completes_xrnd (h : s.calm c k 1) {d : BitVec 5} (hd : f.dst = .g d) (hi : Issues (.xrnd f) f 1 s c k) :
    let x := absRound (modFmt f.mod) (modRm f.mod) (recordOf ((s.core c).ls.bytes (s.absOff f.src1) 64))
    s.regs.fpsr.extractLsb' 8 5 &&& x.2 = 0 →
      Completes (.xrnd f) s c k (s.core c).ls ((s.regs.flagged x.2).putG d (BitVec.ofNat 64 x.1)).advance := by
  intro x hq
  have hk := regsNow_readMarks h.cur (s.absOff f.src1) 64
  have hg := givesFrom_xrnd hd hi (readLs_calm h _ 64) (regsNow_cur hk h.cur)
  rw [regsNow_regs hk h.cur] at hg
  exact completes_of_notes h hk (hg hq)

/-- XGET of a word in an unhindered chunk (R181). -/
theorem completes_xget_register (h : s.calm c k 1) {d : BitVec 5} (hd : f.dst = .g d) (hi : Issues (.xget f) f 1 s c k) :
    Completes (.xget f) s c k (s.core c).ls
      (s.regs.putG d ((recordOf ((s.core c).ls.bytes (s.absOff f.src1) 64)).extractLsb' (64 * immNat f.src2) 64)).advance := by
  have hk := regsNow_readMarks h.cur (s.absOff f.src1) 64
  have hg := givesFrom_xget_register hd hi (readLs_calm h _ 64) (regsNow_cur hk h.cur)
  rw [regsNow_regs hk h.cur] at hg
  exact completes_of_notes h hk hg

/-- XGET to an aligned place of the local store, in an unhindered chunk (R181). -/
theorem completes_xget_memory (h : s.calm c k 1) {a : BitVec 3} {m : AddrMode} {o : BitVec 16} {w : Nat} (hd : f.dst = .mem a m o)
    (hv : s.addrOf f.dst 64 = BitVec.ofNat 64 (windowBase + w)) (ha : w % 64 = 0) (hw : w < 0x80000) (hi : Issues (.xget f) f 1 s c k) :
    Completes (.xget f) s c k ((s.core c).ls.setBytes w ((s.core c).ls.bytes (s.absOff f.src1) 64)) (s.regs.updated f.dst 64).advance := by
  have hk := regsNow_readMarks h.cur (s.absOff f.src1) 64
  have h1 := calm_setChunk h (marksOnly_readMarks s.chunk (s.absOff f.src1) 64)
  have hlen : ((s.core c).ls.bytes (s.absOff f.src1) 64).length = 64 := by simp [Mem.bytes]
  obtain ⟨t, hk1, hwr⟩ := writeLs_calm h1 (off := w) (bs := (s.core c).ls.bytes (s.absOff f.src1) 64)
    (by rw [hlen, linesOf_record ha, List.length_singleton])
  have ht := regsNow_trans hk hk1
  rw [regsNow_regs hk h.cur] at ht
  have hc := regsNow_cur ht h.cur
  have hg := givesFrom_xget_memory hd hi (recordAddr_window h.cur hv ha hw .write) (readLs_calm h _ 64) hwr hc
  rw [regs_withLs hc, regsNow_regs ht h.cur, onlySlot_ls hk.only] at hg
  exact completes_of_bytes h ht hg

end unhindered

/-- Settles O45: records are numbers with a status and a count, each instruction is read off from its body, and an unhindered chunk lets every access through. -/
theorem accumulators : Obligations.Accumulators := by
  intro f s s1 s2 c k tgt ty l adds reads
  refine ⟨fun ds ds' h => foldl_absMerge_perm h 0, fun x => ?int, fun x n m e h => ?f32, fun d hc hs hr hroom => addDelta_noted hc hs hr hroom d,
    fun h hw hc => givesFrom_xclr h hw (hc.trans h.cur), fun n hs h hd hc => givesFrom_xacc_register hs h hd (hc.trans h.cur),
    fun n hs h hd hc => givesFrom_xacc_vector hs h hd (hc.trans h.cur), fun n r hs hf h => ?form,
    fun n hs h bs hr _ hd hc => givesFrom_xadd_record hs h hr hd (hc.trans h.cur),
    fun a m o w bs hs h ha hr hd hc => givesFrom_xadd_memory hs h ha hr hd (hc.trans h.cur),
    fun d hd h bs hr hc => ⟨givesFrom_xrnd hd h hr (hc.trans h.cur), exec_xrnd_trap hd h hr⟩,
    fun d hd h bs hr hc => givesFrom_xget_register hd h hr (hc.trans h.cur),
    fun a m o w bs hd h ha hr hw hc => givesFrom_xget_memory hd h ha hr hw (hc.trans h.cur), ?calm⟩
  case int =>
    have h := addsExactly_int x
    exact ⟨h.value, h.status, h.count⟩
  case f32 =>
    have h := addsExactly_f32 h
    exact ⟨h.value, h.status, h.count⟩
  case form =>
    intro total steps t
    have he := exec_xacc_form hs h
    refine ⟨fun e ht hm => ?_, fun ht hm => ?_, fun hm => ?_⟩
    · rw [he, xaccForm_checked hf ht hm]
      rfl
    · rw [xaccForm_checked hf ht hm] at he
      exact ⟨_, he, ended_done (regsNow_refl h.cur) h.cur _ _ _⟩
    · refine ⟨fun ht => ?_, fun ht hw hr hc => ?_⟩
      · rw [(xaccForm_turn hf hm rfl rfl rfl).1 ht] at he
        exact ⟨_, he, ended_done (regsNow_setVprog (regsNow_refl h.cur) h.cur 0) h.cur _ _ _⟩
      · rw [(xaccForm_turn hf hm rfl rfl rfl).2 s1 s2 ht hw hr] at he
        have hend := ended_stepDone (t := t) (total := steps) (hc.trans h.cur) 0xB6 (opcOf (.xacc f)) (.xacc f) f
        exact ⟨fun hn => ⟨_, he, hend.1 hn⟩, fun hn => ⟨_, he, hend.2 hn⟩⟩
  case calm =>
    intro h ls rec_ from_ inStore runs notes whole
    exact ⟨fun hi => completes_xclr h hi, fun n hs hi hroom => accumulates_xacc_register h hs hi hroom,
      fun n hs hi hroom => accumulates_xadd_record h hs hi hroom,
      fun a m o w hs ⟨hv, ha, hw⟩ hi hroom => accumulates_xadd_memory h hs hv ha hw hi hroom,
      fun d hd hi hq => completes_xrnd h hd hi hq, fun d hd hi => completes_xget_register h hd hi,
      fun a m o w hd ⟨hv, ha, hw⟩ hi => completes_xget_memory h hd hv ha hw hi⟩

end Sys2Proof.Machine
end

section
/-! The decoder reads back what the encoder writes (03_encoding_and_opcode_map.md R66 to R71, R75, 13_copy_engines.md R307): O57. -/

namespace Sys2Proof

section operands

/-- The operand that a field's bits name under a kind, before the class, the zero bits and the kind's condition are checked. -/
def Alt.named (alt : Alt) (b : BitVec 24) : Operand :=
  match alt with
  | .none => .none
  | .g | .gEven => .g (b.extractLsb' 0 5)
  | .v => .v (b.extractLsb' 0 4)
  | .p => .p (b.extractLsb' 0 3)
  | .pair _ => .pp (b.extractLsb' 0 3) (b.extractLsb' 3 3) (b.extractLsb' 6 4)
  | .mem _ => .mem (b.extractLsb' 18 3) (modeOf (b.extractLsb' 16 2)) (b.extractLsb' 0 16)
  | .imm _ => .imm (b.extractLsb' 0 21)
  | .f => .f (b.extractLsb' 0 5)
  | .csr => .csr (b.extractLsb' 0 12)
  | .tile => .tile (b.extractLsb' 0 2)
  | .abs => .abs (b.extractLsb' 0 4)
  | .bar => .bar (b.extractLsb' 0 3)
  | .dep => .dep (b.extractLsb' 0 2)
  | .a => .a (b.extractLsb' 0 3)
  | .half => .half b

theorem read_eq (alt : Alt) (b : BitVec 24) :
    alt.read b = if (alt.named b).bits == b && alt.has (alt.named b) then some (alt.named b) else none := by
  cases alt <;> rfl

/-- The kind of operand that an alternative names, conditions aside. -/
def Alt.kind (alt : Alt) : Nat := (alt.named 0).ctorIdx

theorem kind_of_has {alt : Alt} {o : Operand} (h : alt.has o = true) : o.ctorIdx = alt.kind := by
  cases alt <;> cases o <;> first | rfl | cases h

theorem modeOf_modeBits (m : AddrMode) : modeOf (modeBits m) = m := by cases m <;> rfl

/-- The bits of an operand name it again under every alternative of its kind. -/
theorem named_bits {alt : Alt} {o : Operand} (h : o.ctorIdx = alt.kind) : alt.named o.bits = o := by
  cases o <;> cases alt <;> try (cases h; done)
  all_goals simp (disch := decide) only [Alt.named, Operand.bits, BitVec.extractLsb'_append_eq_of_le, BitVec.extractLsb'_append_eq_of_add_le, BitVec.extractLsb'_eq_self, modeOf_modeBits, Nat.sub_self]


theorem getLsbD_of_extract {n i : Nat} {w : BitVec n} {b : Bool} (h : w.extractLsb' i 1 = BitVec.ofBool b) : w.getLsbD i = b := by
  simpa using congrArg (BitVec.getLsbD · 0) h

/-- The parts of the word of an instruction (R66). -/
theorem wordOf_parts (opc : Nat) (f : Fields) : (wordOf opc f).extractLsb' 88 8 = BitVec.ofNat 8 opc
    ∧ (wordOf opc f).extractLsb' 87 1 = BitVec.ofBool f.neg ∧ (wordOf opc f).extractLsb' 84 3 = f.grd
    ∧ (wordOf opc f).extractLsb' 83 1 = BitVec.ofBool f.lr1 ∧ (wordOf opc f).extractLsb' 82 1 = BitVec.ofBool f.lr2
    ∧ (wordOf opc f).extractLsb' 81 1 = BitVec.ofBool f.cb ∧ (wordOf opc f).extractLsb' 80 1 = BitVec.ofBool f.nt
    ∧ (wordOf opc f).extractLsb' 76 4 = 0#4 ∧ (wordOf opc f).extractLsb' 72 4 = f.mod
    ∧ (wordOf opc f).extractLsb' 48 24 = f.dst.bits ∧ (wordOf opc f).extractLsb' 24 24 = f.src1.bits
    ∧ (wordOf opc f).extractLsb' 0 24 = f.src2.bits := by
  refine ⟨?_, ?_, ?_, ?_, ?_, ?_, ?_, ?_, ?_, ?_, ?_, ?_⟩ <;>
    simp (disch := decide) only [wordOf, BitVec.extractLsb'_append_eq_of_le, BitVec.extractLsb'_append_eq_of_add_le, BitVec.extractLsb'_eq_self, Nat.reduceSub]
 
/-- The class of a field, with the subclass of class 7 (R67). -/
def fieldClass (b : BitVec 24) : BitVec 6 :=
  b.extractLsb' 21 3 ++ if b.extractLsb' 21 3 = 7#3 then b.extractLsb' 18 3 else 0#3

/-- The class of the fields that an alternative reads; none: a half of an immediate, of any class. -/
def Alt.fieldClass : Alt → Option (BitVec 6)
  | .none | .g | .gEven => some 0
  | .v => some 8
  | .p | .pair _ => some 16
  | .mem _ => some 24
  | .imm _ => some 32
  | .f => some 48
  | .csr => some 56
  | .tile => some 57
  | .abs => some 58
  | .bar => some 59
  | .dep => some 60
  | .a => some 61
  | .half => Option.none

theorem fieldClass_bits {alt : Alt} {o : Operand} (h : o.ctorIdx = alt.kind) : alt.fieldClass = Option.none ∨ alt.fieldClass = some (fieldClass o.bits) := by
  cases o <;> cases alt <;> try (cases h; done)
  all_goals first | exact .inl rfl | refine .inr ?_
  all_goals simp (disch := decide) only [fieldClass, Alt.fieldClass, Operand.bits, BitVec.extractLsb'_append_eq_of_le, BitVec.extractLsb'_append_eq_of_add_le, BitVec.extractLsb'_eq_self, Nat.reduceSub]
  all_goals simp


/-- Two alternatives read no field to two operands: they name one kind, or fields of two classes. -/
def Alt.agrees (alt alt' : Alt) : Bool :=
  alt.kind == alt'.kind || (alt.fieldClass.isSome && alt'.fieldClass.isSome && alt.fieldClass != alt'.fieldClass)

/-- Operands with the same bits, of kinds that agree, are the same. -/
theorem bits_inj {alt alt' : Alt} {o o' : Operand} (h : alt.agrees alt' = true) (ho : o.ctorIdx = alt.kind) (ho' : o'.ctorIdx = alt'.kind)
    (hb : o.bits = o'.bits) : o = o' := by
  by_cases hk : alt.kind = alt'.kind
  · rw [← named_bits ho, hb, named_bits (ho'.trans hk.symm)]
  · have h1 := fieldClass_bits ho
    have h2 := fieldClass_bits ho'
    rw [hb] at h1
    rcases h1 with h1 | h1 <;> rcases h2 with h2 | h2 <;> simp [Alt.agrees, hk, h1, h2] at h

theorem read_some {alt : Alt} {b : BitVec 24} {o : Operand} (h : alt.read b = some o) : o.bits = b ∧ alt.has o = true := by
  rw [read_eq] at h
  split_ifs at h with hc
  cases h
  simpa using hc

/-- An alternative reads the bits of an operand that it accepts. -/
theorem read_bits {alt : Alt} {o : Operand} (h : alt.has o = true) : alt.read o.bits = some o := by
  rw [read_eq, named_bits (kind_of_has h)]
  simp [h]

end operands

section fields

/-- No two of the alternatives read one field to two operands. -/
def Alt.clear (alts : List Alt) : Bool := alts.all fun alt => alts.all alt.agrees

/-- A field that a part of a clear list reads names the operand that another part accepts. -/
theorem readField_some {alts alts' all : List Alt} {o x : Operand} (hc : Alt.clear all = true) (hs : alts ⊆ all) (hs' : alts' ⊆ all)
    (ho : accepts alts' o = true) (h : readField alts o.bits = some x) : x = o := by
  obtain ⟨alt, hm, hr⟩ := List.exists_of_findSome?_eq_some h
  obtain ⟨alt', hm', ho⟩ := List.any_eq_true.1 ho
  obtain ⟨hb, hx⟩ := read_some hr
  have ha : alt.agrees alt' = true := List.all_eq_true.1 (List.all_eq_true.1 hc alt (hs hm)) alt' (hs' hm')
  exact bits_inj ha (kind_of_has hx) (kind_of_has ho) hb

theorem readField_isSome {alts : List Alt} {o : Operand} (h : accepts alts o = true) : (readField alts o.bits).isSome = true := by
  obtain ⟨alt, hm, ho⟩ := List.any_eq_true.1 h
  exact List.findSome?_isSome_iff.2 ⟨alt, hm, by rw [read_bits ho]; rfl⟩

/-- No field is read to two operands under the combinations listed. -/
def clearForms (fs : List Form) : Bool :=
  Alt.clear (fs.flatMap (·.dst)) && Alt.clear (fs.flatMap (·.src1)) && Alt.clear (fs.flatMap (·.src2))

/-- Check 4 of R75 finds the operands again, under combinations of which one accepts them. -/
theorem readFields_bits {fs : List Form} {fm : Form} {d a b : Operand} (hc : clearForms fs = true) (hm : fm ∈ fs)
    (hd : accepts fm.dst d = true) (ha : accepts fm.src1 a = true) (hb : accepts fm.src2 b = true) :
    readFields fs d.bits a.bits b.bits = .ok (d, a, b) := by
  obtain ⟨⟨hcd, hca⟩, hcb⟩ : (Alt.clear (fs.flatMap (·.dst)) = true ∧ Alt.clear (fs.flatMap (·.src1)) = true)
      ∧ Alt.clear (fs.flatMap (·.src2)) = true := by simpa [clearForms] using hc
  have part (g : Form → List Alt) {fm : Form} (h : fm ∈ fs) : g fm ⊆ fs.flatMap g := fun _ => List.mem_flatMap_of_mem h
  unfold readFields
  extract_lets fd fa fb
  have hfd : fm ∈ fd := List.mem_filter.2 ⟨hm, readField_isSome hd⟩
  have hfa : fm ∈ fa := List.mem_filter.2 ⟨hfd, readField_isSome ha⟩
  have hfb : fm ∈ fb := List.mem_filter.2 ⟨hfa, readField_isSome hb⟩
  have left : ∀ g ∈ fb, g ∈ fs ∧ readField g.dst d.bits = some d ∧ readField g.src1 a.bits = some a ∧ readField g.src2 b.bits = some b := by
    intro g hg
    obtain ⟨hg, hgb⟩ := List.mem_filter.1 hg
    obtain ⟨hg, hga⟩ := List.mem_filter.1 hg
    obtain ⟨hg, hgd⟩ := List.mem_filter.1 hg
    obtain ⟨x, hx⟩ := Option.isSome_iff_exists.1 hgd
    obtain ⟨y, hy⟩ := Option.isSome_iff_exists.1 hga
    obtain ⟨z, hz⟩ := Option.isSome_iff_exists.1 hgb
    refine ⟨hg, ?_, ?_, ?_⟩
    · rw [hx, readField_some hcd (part _ hg) (part _ hm) hd hx]
    · rw [hy, readField_some hca (part _ hg) (part _ hm) ha hy]
    · rw [hz, readField_some hcb (part _ hg) (part _ hm) hb hz]
  clear_value fb fa fd
  match fd, fa, fb, hfd, hfa, hfb, left with
  | _ :: _, _ :: _, g :: _, _, _, _, left =>
    obtain ⟨-, h1, h2, h3⟩ := left g List.mem_cons_self
    simp only [h1, h2, h3]

end fields

section words

/-- A row accepts the fields only by a combination of its own. -/
theorem row_ok {r : Row} {f : Fields} (h : r.ok f = true) : r.modOk f.mod = true ∧ ∃ fm ∈ r.forms f.mod,
    accepts fm.dst f.dst = true ∧ accepts fm.src1 f.src1 = true ∧ accepts fm.src2 f.src2 = true := by
  simpa [Row.ok, and_assoc] using h

/-- Checks 2 to 4 of R75 find the fields of a word again, under a row that accepts them. -/
theorem readWord_wordOf {r : Row} {f : Fields} (opc : Nat) (hc : clearForms (r.forms f.mod) = true) (h : r.ok f = true) :
    readWord r (wordOf opc f) = .ok f := by
  obtain ⟨-, hneg, hgrd, hlr1, hlr2, hcb, hnt, hz, hmod, hd, ha, hb⟩ := wordOf_parts opc f
  obtain ⟨hm, fm, hfm, h1, h2, h3⟩ := row_ok h
  unfold readWord
  simp only [hz, hmod, hm, hd, ha, hb, readFields_bits hc hfm h1 h2 h3, getLsbD_of_extract hneg, getLsbD_of_extract hlr1,
    getLsbD_of_extract hlr2, getLsbD_of_extract hcb, getLsbD_of_extract hnt, hgrd, Bool.not_true, Bool.false_eq_true, if_false]
  exact if_neg fun h => h rfl

/-- No row of the encoding tables reads a field to two operands. -/
theorem rows_clear : ∀ (opc : BitVec 8) (m : BitVec 4),
    (Enc.slotRow opc.toNat).all (fun r => clearForms (r.forms m)) = true ∧ (Enc.hartRow opc.toNat).all (fun r => clearForms (r.forms m)) = true := by
  decide +kernel


theorem slotRow_clear {opc : Nat} {r : Row} (h : Enc.slotRow opc = some r) (hn : opc < 256) (m : BitVec 4) : clearForms (r.forms m) = true := by
  simpa [Nat.mod_eq_of_lt hn, h] using (rows_clear (BitVec.ofNat 8 opc) m).1

theorem hartRow_clear {opc : Nat} {r : Row} (h : Enc.hartRow opc = some r) (hn : opc < 256) (m : BitVec 4) : clearForms (r.forms m) = true := by
  simpa [Nat.mod_eq_of_lt hn, h] using (rows_clear (BitVec.ofNat 8 opc) m).2

theorem opcode_wordOf {opc : Nat} (f : Fields) (hn : opc < 256) : ((wordOf opc f).extractLsb' 88 8).toNat = opc := by
  rw [(wordOf_parts opc f).1, BitVec.toNat_ofNat, Nat.mod_eq_of_lt hn]

theorem accepts_imm {ok : BitVec 21 → Bool} {o : Operand} (h : accepts [.imm ok] o = true) : ∃ i, o = .imm i ∧ ok i = true := by
  cases o <;> simp [accepts, Alt.has] at h
  exact ⟨_, rfl, h⟩

/-- The immediate of SRC2 in its word. -/
theorem wordOf_imm {opc : Nat} {f : Fields} {i : BitVec 21} (h : f.src2 = .imm i) {j : Nat} (hj : j < 21) :
    (wordOf opc f).getLsbD j = i.getLsbD j := by
  obtain ⟨-, -, -, -, -, -, -, -, -, -, -, hb⟩ := wordOf_parts opc f
  have hi : (Operand.imm i).bits.extractLsb' 0 21 = i := BitVec.extractLsb'_append_eq_right
  rw [h] at hb
  rw [← hb] at hi
  simpa only [BitVec.getLsbD_extractLsb', hj, show j < 24 by omega, Nat.zero_add, decide_true, Bool.true_and]
    using congrArg (BitVec.getLsbD · j) hi

/-- A VCVT that its row accepts has no MOD value that its element codes make invalid (R144). -/
theorem modMisfit_wordOf {opc : Nat} {r : Row} {f : Fields} (hr : Enc.slotRow opc = some r) (h : r.ok f = true) :
    modMisfit opc (wordOf opc f) = false := by
  by_cases hn : opc = 0x92
  · subst hn
    cases hr
    obtain ⟨-, fm, hfm, -, -, h3⟩ := row_ok h
    obtain ⟨form, hfm⟩ : ∃ form, fm.src2 = [.imm (Enc.vcvtImm form f.mod)] := by
      rcases List.mem_pair.1 hfm with rfl | rfl <;> exact ⟨_, rfl⟩
    obtain ⟨i, hi, hok⟩ := accepts_imm (hfm ▸ h3)
    have hmod : (wordOf 0x92 f).getLsbD 74 = f.mod.getLsbD 2 := by
      obtain ⟨-, -, -, -, -, -, -, -, hm, -⟩ := wordOf_parts 0x92 f
      simpa using congrArg (BitVec.getLsbD · 2) hm
    have h3 : 8 ≤ i.toNat % 16 → i.getLsbD 3 = true := by
      rw [BitVec.getLsbD, Nat.testBit_eq_decide_div_mod_eq, decide_eq_true_eq]; omega
    have h7 : 8 ≤ i.toNat / 16 % 16 → i.getLsbD 7 = true := by
      rw [BitVec.getLsbD, Nat.testBit_eq_decide_div_mod_eq, decide_eq_true_eq]; omega
    have hcodes : 8 ≤ i.toNat % 16 ∨ 8 ≤ i.toNat / 16 % 16 ∨ f.mod.getLsbD 2 = false := by
      simp only [Enc.vcvtImm, Bool.and_eq_true, Bool.or_eq_true, decide_eq_true_eq, Bool.not_eq_true'] at hok
      exact or_assoc.1 hok.2
    simp only [modMisfit, hmod, wordOf_imm hi (show 3 < 21 by decide), wordOf_imm hi (show 7 < 21 by decide)]
    rcases hcodes with hs | hd | hm
    · simp only [h3 hs, Bool.not_true, Bool.and_false, Bool.false_and]
    · simp only [h7 hd, Bool.not_true, Bool.and_false]
    · simp only [hm, Bool.and_false, Bool.false_and]
  · simp [modMisfit, hn]

/-- A slot reads a word of well-formed fields as its instruction. -/
theorem decodeSlot_wordOf {opc : Nat} {r : Row} {f : Fields} {i : Instr} (hn : opc < 256) (hr : Enc.slotRow opc = some r) (h : r.ok f = true)
    (hi : ofOpcode opc f = some i) : decodeSlot (wordOf opc f) = .ok i := by
  unfold decodeSlot
  simp [opcode_wordOf f hn, hr, modMisfit_wordOf hr h, readWord_wordOf opc (slotRow_clear hr hn _) h, hi]

/-- The opcodes of the engine forms (R307, R320). -/
def engineForms : List Nat := [0x08, 0xD0, 0xD1, 0xD8, 0xD9]

/-- A hart accepts every engine form, a slot has a row for its opcode, and none is LD or ST. -/
theorem engineForms_accepted : ∀ opc ∈ engineForms, opc < 256 ∧ Enc.hartAccepts opc = true ∧ (Enc.slotRow opc).isSome = true
    ∧ (opc == 0x60 || opc == 0x61) = false := by decide

/-- An engine hart reads a word of well-formed fields of an engine form as its instruction. -/
theorem decodeHart_wordOf {opc : Nat} {r : Row} {f : Fields} {i : Instr} (ho : opc ∈ engineForms) (hr : Enc.hartRow opc = some r)
    (h : r.ok f = true) (hf : (hartHas f.dst && hartHas f.src1 && hartHas f.src2) = true) (hi : ofOpcodeHart opc f = some i) :
    decodeHart (wordOf opc f) = .ok i := by
  obtain ⟨hn, ha, hq, hp⟩ := engineForms_accepted opc ho
  obtain ⟨q, hq⟩ := Option.isSome_iff_exists.1 hq
  have hk : hartFieldsOk opc f = .ok () := by simp [hartFieldsOk, hf, hp]
  simp only [decodeHart, opcode_wordOf f hn, hq, ha, hr, readWord_wordOf opc (hartRow_clear hr hn _) h, hk, hi, Bool.not_true, Bool.false_eq_true, if_false]

end words

section instructions

/-- Every instruction is read back from its opcode and its fields. -/
theorem readsBack (i : Instr) : Laws.ReadsBack.Statement i := by
  cases i with
  | csrxSwp f => exact Laws.ReadsBack.csrxSwp f
  | csrxSet f => exact Laws.ReadsBack.csrxSet f
  | csrxClr f => exact Laws.ReadsBack.csrxClr f
  | fence f => exact Laws.ReadsBack.fence f
  | fenceSys f => exact Laws.ReadsBack.fenceSys f
  | tlbinvVa f => exact Laws.ReadsBack.tlbinvVa f
  | tlbinvCtx f => exact Laws.ReadsBack.tlbinvCtx f
  | tlbinvAll f => exact Laws.ReadsBack.tlbinvAll f
  | slotctlRd f => exact Laws.ReadsBack.slotctlRd f
  | slotctlStop f => exact Laws.ReadsBack.slotctlStop f
  | ckptqTest f => exact Laws.ReadsBack.ckptqTest f
  | ckptqTake f => exact Laws.ReadsBack.ckptqTake f
  | jrnlOff f => exact Laws.ReadsBack.jrnlOff f
  | jrnlRec f => exact Laws.ReadsBack.jrnlRec f
  | jrnlRpl f => exact Laws.ReadsBack.jrnlRpl f
  | jrnlStat f => exact Laws.ReadsBack.jrnlStat f
  | faultqPop f => exact Laws.ReadsBack.faultqPop f
  | faultqCnt f => exact Laws.ReadsBack.faultqCnt f
  | resume f => exact Laws.ReadsBack.resume f
  | resumeFail f => exact Laws.ReadsBack.resumeFail f
  | _ => intro opc f h _; cases h <;> rfl

theorem head_lt {i : Instr} {opc : Nat} {f : Fields} (h : i.head = some (opc, f)) : opc < 256 := by
  cases i <;> cases h <;> decide

/-- A well-formed instruction that has a word of its own. -/
theorem wf_head {i : Instr} {opc : Nat} {f : Fields} (h : i.head = some (opc, f)) (hw : i.wf = true) :
    i.modAgrees = true ∧ (i.hartOnly = true → (hartHas f.dst && hartHas f.src1 && hartHas f.src2) = true)
      ∧ ∃ r, (if i.hartOnly then Enc.hartRow opc else Enc.slotRow opc) = some r ∧ r.ok f = true := by
  unfold Instr.wf at hw
  split at hw
  · cases h
  · simp only [h, Bool.and_eq_true, Bool.or_eq_true, Bool.not_eq_true'] at hw
    obtain ⟨⟨hm, hx⟩, hr⟩ := hw
    refine ⟨hm, fun hs => ?_, ?_⟩
    · simpa [hs, and_assoc] using hx
    · split at hr
      · exact ⟨_, ‹_›, hr⟩
      · cases hr

/-- An instruction that only a hart runs is one of the engine forms. -/
theorem hartOnly_opcode {i : Instr} {opc : Nat} {f : Fields} (hs : i.hartOnly = true) (h : i.head = some (opc, f)) : opc ∈ engineForms := by
  unfold Instr.hartOnly at hs
  split at hs
  iterate 5 (· cases h; decide)
  · cases hs

/-- The word of an instruction is that of its opcode and fields, or the unassigned word that it is. -/
theorem encode_some {i : Instr} {w : BitVec 96} (h : encode i = some w) :
    i = .unassignedOpcode w ∨ ∃ opc f, i.head = some (opc, f) ∧ w = wordOf opc f := by
  unfold encode at h
  split at h
  · cases h; exact .inl rfl
  · split at h
    · cases h; exact .inr ⟨_, _, ‹_›, rfl⟩
    · cases h

theorem decodeSlot_unassigned {w : BitVec 96} (h : (Instr.unassignedOpcode w).wf = true) : decodeSlot w = .ok (.unassignedOpcode w) := by
  have hn : Enc.slotRow (w.extractLsb' 88 8).toNat = none := Option.isNone_iff_eq_none.1 h
  simp only [decodeSlot, hn]

end instructions

/-- Settles O57: the parts of a word are the fields of its instruction, no row of the tables reads a field to two operands, and opcode and MOD tell the instruction. -/
theorem roundTrip : Obligations.RoundTrip := by
  intro i w hw he
  rcases encode_some he with rfl | ⟨opc, f, hh, rfl⟩
  · exact ⟨fun _ => decodeSlot_unassigned hw, fun h => by cases h⟩
  · obtain ⟨hm, hx, r, hr, hok⟩ := wf_head hh hw
    have hi := readsBack i opc f hh hm
    constructor <;> intro hs
    · rw [hs] at hr hi
      exact decodeSlot_wordOf (head_lt hh) hr hok hi
    · rw [hs] at hr hi
      exact decodeHart_wordOf (hartOnly_opcode hs hh) hr hok (hx hs) hi

end Sys2Proof
end


section
/-! What squashes, posts and barrier sweeps leave alone: committed memory, the priority token and the launches (09_chunks_and_consistency.md R219 to R226): O54. -/

namespace Sys2Proof.Machine

variable {s t u : State}

/-- Committed memory, the holder of the priority token and the launches are as before. -/
structure Settled (s t : State) : Prop where
  mem : t.mem = s.mem
  token : t.token = s.token
  launches : t.launches = s.launches

theorem settled_refl (s : State) : Settled s s := ⟨rfl, rfl, rfl⟩

theorem settled_trans (h : Settled s t) (h' : Settled t u) : Settled s u :=
  ⟨h'.mem.trans h.mem, h'.token.trans h.token, h'.launches.trans h.launches⟩

/-- A fold of settled steps. -/
theorem settled_foldl {α : Type} {f : State → α → State} (h : Settled s t) (hf : ∀ u a, Settled u (f u a)) (l : List α) :
    Settled s (l.foldl f t) := by
  induction l generalizing t with
  | nil => exact h
  | cons a l ih => exact ih (settled_trans h (hf t a))

theorem settled_ite {p : Prop} [Decidable p] (h : Settled s t) (h' : Settled s u) : Settled s (if p then t else u) := by
  split_ifs
  · exact h
  · exact h'

theorem settled_setCore (h : Settled s t) (c : CoreId) (x : Core) : Settled s (t.setCore c x) := ⟨h.mem, h.token, h.launches⟩
theorem settled_setSlot (h : Settled s t) (c : CoreId) (k : SlotId) (y : Slot) : Settled s (t.setSlot c k y) :=
  settled_setCore h _ _
theorem settled_setEngine (h : Settled s t) (e : EngineId) (x : Engine) : Settled s (t.setEngine e x) := ⟨h.mem, h.token, h.launches⟩
theorem settled_setQueue (h : Settled s t) (d : TowerId) (q : QueueId) (x : Queue) : Settled s (t.setQueue d q x) :=
  ⟨h.mem, h.token, h.launches⟩
theorem settled_withCaches (h : Settled s t) (x : State) : Settled s (t.withCaches x) := ⟨h.mem, h.token, h.launches⟩
theorem settled_post (h : Settled s t) (p : Pick) : Settled s (t.post p) := settled_trans h ⟨by simp, by simp, by simp⟩
theorem settled_postAfter (h : Settled s t) (f : Pick → Bool) (p : Pick) : Settled s (t.postAfter f p) :=
  settled_trans h ⟨by simp, by simp, by simp⟩
theorem settled_postEvent (h : Settled s t) (a : Agent) (i : Instr) : Settled s (t.postEvent a i) := settled_post h _
theorem settled_postTurn (h : Settled s t) (c : CoreId) (k : SlotId) : Settled s (t.postTurn c k) :=
  settled_trans h ⟨by simp, by simp, by simp⟩
theorem settled_postEturn (h : Settled s t) (e : EngineId) : Settled s (t.postEturn e) :=
  settled_trans h ⟨by simp, by simp, by simp⟩
theorem settled_postOnce (h : Settled s t) (a : Agent) (i : Instr) : Settled s (t.postOnce a i) :=
  settled_trans h ⟨by simp, by simp, by simp⟩
theorem settled_wake (h : Settled s t) (c : CoreId) (k : SlotId) : Settled s (t.wake c k) :=
  settled_postTurn (settled_setSlot h _ _ _) _ _

theorem settled_unreserve (s : State) (l : List Deferred) : Settled s (s.unreserve l) := by
  refine settled_foldl (settled_refl s) (fun u d => ?_) l
  cases d <;> exact ⟨rfl, rfl, rfl⟩

theorem settled_askToken (h : Settled s t) (r : Request) : Settled s (t.askToken r) := by
  refine settled_ite h (settled_postEvent ?_ _ _)
  exact ⟨h.mem, h.token, h.launches⟩

theorem settled_squashSlot (s : State) (c : CoreId) (k : SlotId) (whole : Bool) : Settled s (s.squashSlot c k whole) := by
  unfold State.squashSlot
  extract_lets y x effects n eff lost
  split
  rename_i x' chk waiting effects' requests _
  extract_lets y' _ s0 s1 s2 s3
  have h0 : Settled s s0 := by
    have := settled_trans (settled_setCore (settled_refl s) c (x'.setSlot k y')) (settled_unreserve _ effects')
    exact ⟨this.mem, this.token, this.launches⟩
  have h1 : Settled s s1 := settled_withCaches h0 _
  have h2 : Settled s s2 := settled_ite (settled_askToken h1 _) h1
  have h3 : Settled s s3 := settled_ite (settled_postEvent h2 _ _) h2
  exact settled_ite (settled_postTurn h3 _ _) (settled_postOnce (settled_setSlot h3 _ _ _) _ _)

theorem settled_squashEngine (s : State) (e : EngineId) : Settled s (s.squashEngine e) := by
  unfold State.squashEngine
  extract_lets x n _ x' s0 s1 s2
  have h0 : Settled s s0 := ⟨rfl, rfl, rfl⟩
  have h1 : Settled s s1 := settled_ite (settled_askToken h0 _) h0
  have h2 : Settled s s2 := settled_ite (settled_postEvent h1 _ _) h1
  exact settled_postEturn h2 _

theorem settled_squashWhere (s : State) (test : CoreId → Chunk → Bool) (etest : Chunk → Bool) (pass : List Request) :
    Settled s (s.squashWhere test etest pass) := by
  refine settled_foldl (settled_foldl (settled_refl s) (fun u a => ?_) _) (fun u e => ?_) _
  · refine settled_ite (settled_refl u) ?_
    split
    · exact settled_squashSlot _ _ _ _
    · exact settled_refl u
  · exact settled_ite (settled_refl u) (settled_ite (settled_squashEngine u e) (settled_refl u))

theorem settled_squashReaders (s : State) (c : CoreId) (gs : List Nat) : Settled s (s.squashReaders c gs) :=
  settled_foldl (settled_refl s) (fun u e => settled_ite (settled_squashEngine u e) (settled_refl u)) _

theorem settled_wakeLines (s : State) (lines : List Nat) : Settled s (s.wakeLines lines) := by
  refine settled_foldl (settled_refl s) (fun u a => ?_) _
  dsimp only
  split
  · exact settled_ite (settled_postOnce (settled_refl u) _ _) (settled_refl u)
  · exact settled_ite (settled_postOnce (settled_refl u) _ _) (settled_refl u)
  · exact settled_refl u

theorem settled_wakeGranules (s : State) (c : CoreId) (gs : List Nat) : Settled s (s.wakeGranules c gs) := by
  refine settled_foldl (settled_refl s) (fun u a => ?_) _
  dsimp only
  split
  · exact settled_ite (settled_postOnce (settled_refl u) _ _) (settled_refl u)
  · exact settled_ite (settled_postOnce (settled_refl u) _ _) (settled_refl u)
  · exact settled_refl u

theorem settled_snoopHost (s : State) (lines : List Nat) : Settled s (s.snoopHost lines) := by
  refine settled_foldl ?_ (fun u n => ?_) _ <;> exact ⟨rfl, rfl, rfl⟩

theorem settled_deliver (s : State) (lines : List Nat) (keep : Option CoreId) (pass : List Request) :
    Settled s (s.deliver lines keep pass) := by
  refine settled_ite (settled_refl s) ?_
  exact settled_trans (settled_trans (settled_withCaches (settled_squashWhere s _ _ pass) _) (settled_wakeLines _ _)) (settled_snoopHost _ _)

theorem settled_lsOutside (s : State) (c : CoreId) (off : Nat) (bs : List Byte) : Settled s (s.lsOutside c off bs) := by
  unfold State.lsOutside
  extract_lets gs s0 x whole s1
  have h0 : Settled s s0 := settled_trans (settled_squashWhere s _ _ _) (settled_squashReaders _ _ _)
  exact settled_trans (settled_setCore h0 _ _) (settled_wakeGranules _ _ _)

theorem settled_sendToken (h : Settled s t) (c : CoreId) (i : Instr) : Settled s (t.sendToken c i) := settled_postAfter h _ _

theorem settled_setBar (h : Settled s t) (c : CoreId) (b : BitVec 3) (v : Barrier) : Settled s (t.setBar c b v) :=
  settled_setCore h _ _

theorem settled_sweep (s : State) (c : CoreId) (b : BitVec 3) : Settled s (s.sweep c b) := by
  have hr := settled_refl s
  unfold State.sweep
  split
  · exact hr
  · dsimp only
    refine settled_ite hr (settled_ite hr (settled_ite (settled_sendToken (settled_setBar hr _ _ _) _ _) (settled_ite hr
      (settled_ite (settled_sendToken (settled_setBar hr _ _ _) _ _) (settled_ite (settled_ite ?_ ?_) ?_)))))
    · exact settled_postEvent (settled_setBar hr _ _ _) _ _
    · exact ⟨rfl, rfl, rfl⟩
    · exact settled_postEvent (settled_setBar hr _ _ _) _ _

theorem settled_sweepAll (s : State) (c : CoreId) : Settled s (s.sweepAll c) := settled_foldl (settled_refl s) (fun u _ => settled_sweep u c _) _

theorem settled_wakeBarrier (s : State) (c : CoreId) (b : BitVec 3) : Settled s (s.wakeBarrier c b) := by
  refine settled_foldl (settled_refl s) (fun u e => ?_) _
  split
  · exact settled_ite (settled_wake (settled_refl u) _ _) (settled_refl u)
  · exact settled_refl u

theorem settled_freshen (s : State) (c : CoreId) (b : BitVec 3) : Settled s (s.freshen c b) := by
  unfold State.freshen
  refine settled_ite (settled_refl s) ?_
  split
  · exact settled_setBar (settled_refl s) _ _ _
  · exact settled_trans (settled_setBar (settled_refl s) _ _ _) (settled_wakeBarrier _ _ _)

theorem settled_rouse (s : State) (c : CoreId) : Settled s (s.rouse c) := by
  refine settled_ite ?_ (settled_refl s)
  exact settled_foldl (settled_setCore (settled_refl s) _ _) (fun u _ => settled_freshen u c _) _

theorem settled_startAgain (s : State) (d : TowerId) : Settled s (s.startAgain d) :=
  settled_foldl (settled_refl s) (fun u _ => settled_ite (settled_postOnce (settled_refl u) _ _) (settled_refl u)) _

theorem settled_loadAgain (s : State) (d : TowerId) : Settled s (s.loadAgain d) :=
  settled_foldl (settled_refl s) (fun u _ => settled_postOnce (settled_refl u) _ _) _

theorem settled_endLoad (s : State) (d : TowerId) (c : CoreId) (k : SlotId) : Settled s (s.endLoad d c k) := by
  refine settled_trans (settled_trans ?_ (settled_startAgain _ d)) (settled_loadAgain _ d)
  exact ⟨rfl, rfl, rfl⟩

theorem settled_preCheck (h : Settled s t) (n : CtxId) : Settled s (t.preCheck n) := settled_ite (settled_postOnce h _ _) h

theorem settled_checkDone (h : Settled s t) (n : SeqNo) : Settled s (t.checkDone n) := settled_postOnce h _ _

theorem settled_pokeLaunches (s : State) : Settled s s.pokeLaunches := by
  refine settled_foldl (settled_refl s) (fun u e => ?_) _
  have hr := settled_refl u
  refine settled_ite hr (settled_ite (settled_postOnce hr _ _) (settled_ite (settled_ite hr (settled_postOnce hr _ _)) ?_))
  exact settled_foldl hr (fun v _ => settled_postOnce (settled_refl v) _ _) _

theorem settled_abandon (s : State) (c : CoreId) (k : SlotId) : Settled s (s.abandon c k) := by
  have hr := settled_refl s
  unfold State.abandon
  extract_lets y ready
  have hy : Settled s ready := settled_setSlot hr _ _ _
  split
  case h_9 => exact settled_setSlot hr _ _ _
  case h_10 => exact settled_trans hy (settled_endLoad _ _ _ _)
  case h_11 => exact settled_ite hr ⟨hy.mem, hy.token, hy.launches⟩
  case h_12 => exact hr
  all_goals exact hy

theorem settled_truncateSlot (s : State) (c : CoreId) (k : SlotId) : Settled s (s.truncateSlot c k) := by
  unfold State.truncateSlot
  extract_lets y _ s0
  have h0 : Settled s s0 :=
    settled_ite (settled_setSlot (settled_refl s) _ _ _) (settled_ite (settled_refl s) (settled_abandon s c k))
  exact settled_postTurn (settled_setSlot h0 _ _ _) _ _

theorem settled_truncateAll (s : State) (n : CtxId) : Settled s (s.truncateAll n) :=
  settled_foldl (settled_refl s) (fun u _ => settled_trans (settled_rouse u _) (settled_truncateSlot _ _ _)) _

theorem settled_stopQueue (h : Settled s t) (d : TowerId) (q : QueueId) : Settled s (t.stopQueue d q) := settled_setQueue h _ _ _

theorem settled_queueNext (s : State) (d : TowerId) (q : QueueId) : Settled s (s.queueNext d q) := by
  have hr := settled_refl s
  unfold State.queueNext
  extract_lets y
  refine settled_ite hr ?_
  split
  · exact settled_stopQueue hr _ _
  · exact settled_postEvent (settled_setQueue hr _ _ _) _ _
  · exact settled_postEvent (settled_setQueue hr _ _ _) _ _

theorem settled_pokeQueue (s : State) (d : TowerId) (q : QueueId) : Settled s (s.pokeQueue d q) := by
  have hr := settled_refl s
  unfold State.pokeQueue
  extract_lets y
  refine settled_ite (settled_queueNext s d q) ?_
  split
  · exact settled_stopQueue hr _ _
  · exact settled_postOnce hr _ _
  · exact settled_postOnce hr _ _

theorem settled_pokeQueues (s : State) : Settled s s.pokeQueues := settled_foldl (settled_refl s) (fun u _ => settled_pokeQueue u _ _) _

theorem settled_clearSaved (s : State) (n : CtxId) : Settled s (s.clearSaved n) :=
  settled_foldl (settled_refl s) (fun u _ => settled_ite (settled_refl u) (settled_setSlot (settled_refl u) _ _ _)) _

theorem settled_releaseHeld (s : State) (n : CtxId) : Settled s (s.releaseHeld n) := by
  refine settled_foldl ?_ (fun u _ => settled_postOnce (settled_refl u) _ _) _
  exact ⟨rfl, rfl, rfl⟩

theorem settled_requeue (s : State) (d : DieId) (qs : List Cmd) : Settled s (s.requeue d qs) := by
  refine settled_foldl (settled_refl s) (fun u q => ?_) _
  have hc : Settled u (u.choose 16).2 := ⟨by simp, by simp, by simp⟩
  exact settled_postOnce (settled_setEngine hc _ _) _ _

end Sys2Proof.Machine
end

section
/-! Which request is granted next (09_chunks_and_consistency.md R219, R220, 16_package_stacks_decant.md R363, R364): O54. -/

namespace Sys2Proof.Machine

variable {s : State}

/-- The rank of a bid. -/
def Bid.rank (b : Bid) : Nat × Nat × Nat := requestRank b.req b.chunk

/-- Bids in the order of R220: none comes before an earlier one. -/
def Ranked (bs : List Bid) : Prop := bs.Pairwise fun a b => rankBefore b.rank a.rank = false

theorem rankBefore_iff (a b : Nat × Nat × Nat) :
    rankBefore a b = true ↔ a.1 < b.1 ∨ a.1 = b.1 ∧ (a.2.1 < b.2.1 ∨ a.2.1 = b.2.1 ∧ a.2.2 < b.2.2) := by
  simp [rankBefore]

theorem rankBefore_asymm {a b : Nat × Nat × Nat} (h : rankBefore a b = true) : rankBefore b a = false := by
  rw [← Bool.not_eq_true, rankBefore_iff]
  rw [rankBefore_iff] at h
  omega

theorem rankBefore_trans_not {a b c : Nat × Nat × Nat} (h : rankBefore b a = false) (h' : rankBefore c b = false) : rankBefore c a = false := by
  rw [← Bool.not_eq_true, rankBefore_iff] at *
  omega

theorem mem_insertBid {a b : Bid} {bs : List Bid} : a ∈ insertBid b bs ↔ a = b ∨ a ∈ bs := by
  induction bs with
  | nil => simp [insertBid]
  | cons x xs ih =>
    unfold insertBid
    split_ifs
    · simp
    · simp only [List.mem_cons, ih]; tauto

theorem ranked_insertBid (b : Bid) {bs : List Bid} (h : Ranked bs) : Ranked (insertBid b bs) := by
  induction bs with
  | nil => exact List.pairwise_singleton _ _
  | cons x xs ih =>
    obtain ⟨hx, hxs⟩ := List.pairwise_cons.1 h
    unfold insertBid
    split_ifs with hb
    · have hbx : rankBefore x.rank b.rank = false := rankBefore_asymm hb
      refine List.pairwise_cons.2 ⟨fun y hy => ?_, h⟩
      rcases List.mem_cons.1 hy with rfl | hy
      · exact hbx
      · exact rankBefore_trans_not hbx (hx y hy)
    · refine List.pairwise_cons.2 ⟨fun y hy => ?_, ih hxs⟩
      rcases mem_insertBid.1 hy with rfl | hy
      · exact Bool.not_eq_true _ ▸ hb
      · exact hx y hy

/-- One request put among the bids, if it may be granted. -/
def State.addBid (s : State) (bs : List Bid) (r : Request) : List Bid :=
  match s.requestChunk r with
  | none => bs
  | some w => if s.admits r w then insertBid (s.bid r w) bs else bs

theorem mem_addBid {b : Bid} {bs : List Bid} {r : Request} :
    b ∈ s.addBid bs r ↔ b ∈ bs ∨ ∃ w, s.requestChunk r = some w ∧ s.admits r w = true ∧ b = s.bid r w := by
  unfold State.addBid
  cases hw : s.requestChunk r with
  | none => simp
  | some w =>
    by_cases ha : s.admits r w = true
    · simp [ha, mem_insertBid, or_comm]
    · simp [ha]

theorem ranked_addBid {bs : List Bid} (r : Request) (h : Ranked bs) : Ranked (s.addBid bs r) := by
  unfold State.addBid
  split
  · exact h
  · split_ifs
    · exact ranked_insertBid _ h
    · exact h

theorem bids_eq : s.bids = s.requests.foldl s.addBid [] := rfl

/-- The bids are those of the requests that may be granted. -/
theorem mem_bids {b : Bid} :
    b ∈ s.bids ↔ ∃ r ∈ s.requests, ∃ w, s.requestChunk r = some w ∧ s.admits r w = true ∧ b = s.bid r w := by
  have all : ∀ (rs : List Request) (bs : List Bid), b ∈ rs.foldl s.addBid bs ↔
      b ∈ bs ∨ ∃ r ∈ rs, ∃ w, s.requestChunk r = some w ∧ s.admits r w = true ∧ b = s.bid r w := by
    intro rs
    induction rs with
    | nil => simp
    | cons r rs ih => intro bs; rw [List.foldl_cons, ih, mem_addBid, List.exists_mem_cons_iff, or_assoc]
  rw [bids_eq, all]
  simp

theorem ranked_bids : Ranked s.bids := by
  have all : ∀ (rs : List Request) (bs : List Bid), Ranked bs → Ranked (rs.foldl s.addBid bs) := by
    intro rs
    induction rs with
    | nil => exact fun _ h => h
    | cons r rs ih => exact fun bs h => ih _ (ranked_addBid r h)
  exact all _ _ List.Pairwise.nil

/-- The arbiters of a bid are free. -/
def State.arbitersFree (s : State) (b : Bid) : Prop := ∀ h ∈ s.arbHeld, ∀ a ∈ b.holds, a ∉ h.1

theorem clashes_false {a b : Bid} : a.clashes b = false ↔ (∀ x ∈ a.holds, x ∉ b.holds) ∧ a.reach.meets b.reach = false := by
  simp [Bid.clashes]

/-- A free bid clashes with none before it, and its arbiters are free. -/
theorem mem_freeBids {b : Bid} :
    b ∈ s.freeBids ↔ ∃ i, s.bids[i]? = some b ∧ (∀ a ∈ s.bids.take i, b.clashes a = false) ∧ s.arbitersFree b := by
  unfold State.freeBids State.arbitersFree
  simp only [List.mem_filterMap, List.mem_range]
  constructor
  · rintro ⟨i, -, h⟩
    cases hb : s.bids[i]? with
    | none => simp [hb] at h
    | some x =>
      simp only [hb] at h
      split_ifs at h with hc
      simp only [Option.some.injEq] at h
      subst h
      simp only [Bool.or_eq_true, List.any_eq_true, List.contains_iff_mem, not_or, not_exists, not_and, Bool.not_eq_true] at hc
      exact ⟨i, hb, hc.1, fun h hh a ha hm => hc.2 h hh a hm ha⟩
  · rintro ⟨i, hb, hc, hf⟩
    refine ⟨i, (List.getElem?_eq_some_iff.1 hb).1, ?_⟩
    simp only [hb]
    rw [if_neg]
    simp only [Bool.or_eq_true, List.any_eq_true, List.contains_iff_mem, not_or, not_exists, not_and, Bool.not_eq_true]
    exact ⟨hc, fun h hh a hm ha => hf h hh a ha hm⟩

theorem nextBid_mem {b : Bid} {v : State} (h : s.nextBid = (some b, v)) : b ∈ s.freeBids ∧ v = { s with tape := v.tape } := by
  unfold State.nextBid at h
  cases hf : s.freeBids with
  | nil => simp [hf] at h
  | cons x xs =>
    simp only [hf, Prod.mk.injEq, Option.some.injEq] at h
    obtain ⟨hb, rfl⟩ := h
    constructor
    · rw [← hb, List.getD_eq_getElem?_getD]
      cases hi : (x :: xs)[(s.choose (xs.length + 1)).1]? with
      | none => simp
      | some y => simpa using List.mem_of_getElem? hi
    · unfold State.choose
      split <;> rfl

/-- With no tape the first bid is granted, if no arbiter is held. -/
theorem nextBid_first {b : Bid} {v : State} (h : s.nextBid = (some b, v)) (ha : s.arbHeld = []) (ht : s.tape = []) : s.bids[0]? = some b := by
  cases hb : s.bids with
  | nil =>
    obtain ⟨i, hi, -, -⟩ := mem_freeBids.1 (nextBid_mem h).1
    simp [hb] at hi
  | cons x xs =>
    have hf : s.freeBids.head? = some x := by
      unfold State.freeBids
      simp [hb, ha, List.range_succ_eq_map]
    obtain ⟨ys, hys⟩ := List.head?_eq_some_iff.1 hf
    unfold State.nextBid at h
    simp only [hys, State.choose, ht, Prod.mk.injEq, Option.some.injEq, List.getD_cons_zero] at h
    simp [h.1]

/-- The bid that is granted next: of a request that may be granted, and with no clash with any that comes before it (R220, R364). -/
theorem nextBid_spec {b : Bid} {v : State} (h : s.nextBid = (some b, v)) :
    b.req ∈ s.requests ∧ s.requestChunk b.req = some b.chunk ∧ s.admits b.req b.chunk = true ∧ b = s.bid b.req b.chunk
      ∧ s.arbitersFree b
      ∧ ∀ r ∈ s.requests, ∀ w, s.requestChunk r = some w → s.admits r w = true →
          rankBefore (requestRank r w) (requestRank b.req b.chunk) = true →
          (∀ a ∈ b.holds, a ∉ (s.bid r w).holds) ∧ b.reach.meets (s.bid r w).reach = false ∧ (s.arbHeld = [] → s.tape ≠ []) := by
  obtain ⟨i, hi, hclash, hfree⟩ := mem_freeBids.1 (nextBid_mem h).1
  obtain ⟨r0, hr0, w0, hw0, ha0, rfl⟩ := mem_bids.1 (List.mem_of_getElem? hi)
  refine ⟨hr0, hw0, ha0, rfl, hfree, fun r hr w hw ha hrank => ?_⟩
  obtain ⟨j, hj⟩ := List.getElem?_of_mem (mem_bids.2 ⟨r, hr, w, hw, ha, rfl⟩)
  have before : ∀ {m n : Nat}, m ≤ n → s.bids[m]? = some (s.bid r0 w0) → s.bids[n]? ≠ some (s.bid r w) := by
    intro m n hmn hm hn
    rcases Nat.lt_or_eq_of_le hmn with hlt | rfl
    · obtain ⟨hm', hm⟩ := List.getElem?_eq_some_iff.1 hm
      obtain ⟨hn', hn⟩ := List.getElem?_eq_some_iff.1 hn
      have := (List.pairwise_iff_getElem.1 ranked_bids) m n hm' hn' hlt
      rw [hm, hn] at this
      exact Bool.false_ne_true (this.symm.trans hrank)
    · have hsame : (s.bid r0 w0).rank = (s.bid r w).rank := congrArg Bid.rank (Option.some.inj (hm.symm.trans hn))
      have hself : rankBefore (s.bid r w).rank (s.bid r0 w0).rank = true := hrank
      rw [hsame] at hself
      exact Bool.false_ne_true ((rankBefore_asymm hself).symm.trans hself)
  have hji : j < i := Nat.lt_of_not_le fun hij => before hij hi hj
  have hmem : s.bid r w ∈ s.bids.take i := List.mem_of_getElem? (i := j) (by rw [List.getElem?_take_of_lt hji, hj])
  obtain ⟨hholds, hmeets⟩ := clashes_false.1 (hclash _ hmem)
  exact ⟨hholds, hmeets, fun hheld htape => before (Nat.zero_le j) (nextBid_first h hheld htape) hj⟩

end Sys2Proof.Machine
end

section
/-! The grant of a commit request (09_chunks_and_consistency.md R220 to R225): O54. -/

namespace Sys2Proof.Machine

variable {s t u : State} {c : CoreId} {k : SlotId} {w : Chunk}

/-- What is placed on the agenda is there, and what was there stays. -/
theorem mem_post {p q : Pick} : q ∈ (s.post p).agenda ↔ q = p ∨ q ∈ s.agenda := by
  have h : (s.post p).agenda = s.agenda.take (s.agenda.length - (s.choose (s.agenda.length + 1)).1) ++
      p :: s.agenda.drop (s.agenda.length - (s.choose (s.agenda.length + 1)).1) := by simp [State.post]
  rw [h, List.mem_append, List.mem_cons, or_left_comm, ← List.mem_append, List.take_append_drop]

theorem mem_postEvent {a : Agent} {i : Instr} {q : Pick} : q ∈ (s.postEvent a i).agenda ↔ q = .event a i ∨ q ∈ s.agenda := mem_post

theorem mem_postOnce {a : Agent} {i : Instr} {q : Pick} : q ∈ (s.postOnce a i).agenda ↔ q = .event a i ∨ q ∈ s.agenda := by
  unfold State.postOnce
  split_ifs with h
  · exact ⟨.inr, fun hq => hq.elim (· ▸ h) id⟩
  · exact mem_postEvent

/-- Only the agenda and the tape of choices differ. -/
structure Posts (s t : State) : Prop where
  rest : t = { s with agenda := t.agenda, tape := t.tape }

theorem posts_refl (s : State) : Posts s s := ⟨rfl⟩
theorem posts_trans (h : Posts s t) (h' : Posts t u) : Posts s u := ⟨by rw [h'.rest, h.rest]⟩

theorem posts_postOnce (s : State) (a : Agent) (i : Instr) : Posts s (s.postOnce a i) := by
  unfold State.postOnce State.postEvent State.post State.choose
  split_ifs
  · exact ⟨rfl⟩
  · cases s.tape <;> exact ⟨rfl⟩

theorem posts_ite {p : Prop} [Decidable p] (h : Posts s t) (h' : Posts s u) : Posts s (if p then t else u) := by
  split_ifs
  · exact h
  · exact h'

theorem posts_foldl {α : Type} {f : State → α → State} (hf : ∀ u a, Posts u (f u a)) (l : List α) (s : State) : Posts s (l.foldl f s) := by
  induction l generalizing s with
  | nil => exact posts_refl s
  | cons a l ih => exact posts_trans (hf s a) (ih _)

@[simp] theorem slot_postOnce (s : State) (a : Agent) (i : Instr) (c : CoreId) (k : SlotId) : (s.postOnce a i).slot c k = s.slot c k := by
  simp [State.slot, State.core]

theorem kept_wakeGranules (s : State) (c' : CoreId) (gs : List Nat) : Kept s (s.wakeGranules c' gs) c k := by
  refine kept_foldl _ _ s fun u e _ => ?_
  dsimp only
  split
  · split_ifs
    · exact kept_postOnce _ _ _
    · exact kept_refl u c k
  · split_ifs
    · exact kept_postOnce _ _ _
    · exact kept_refl u c k
  · exact kept_refl u c k

theorem kept_squashReaders (s : State) (c' : CoreId) (gs : List Nat) : Kept s (s.squashReaders c' gs) c k := by
  refine kept_foldl _ _ s fun u e _ => ?_
  split_ifs
  · exact kept_squashEngine u e
  · exact kept_refl u c k

/-- A core whose slots are put back as they were leaves each of its slots as before. -/
theorem kept_setCore (s : State) (c' : CoreId) (x : Core) (hx : x.slots = (s.core c').slots) : Kept s (s.setCore c' x) c k := by
  refine ⟨rfl, rfl, ?_, rfl⟩
  simp only [State.slot, Core.slot, core_setCore]
  split_ifs with h
  · rw [hx, h]
  · rfl

theorem kept_commitLs (s : State) (c' : CoreId) (w : Chunk) : Kept s (s.commitLs c' w) c k := by
  unfold State.commitLs
  extract_lets x healed v gs
  have hv : Kept s v c k := kept_setCore s c' _ rfl
  split_ifs
  · exact hv
  · exact kept_trans hv (kept_trans (kept_wakeGranules _ _ _) (kept_squashReaders _ _ _))

theorem settled_commitLs (s : State) (c : CoreId) (w : Chunk) : Settled s (s.commitLs c w) := by
  unfold State.commitLs
  extract_lets x healed v gs
  have hv : Settled s v := settled_setCore (settled_refl s) _ _
  exact settled_ite hv (settled_trans hv (settled_trans (settled_wakeGranules _ _ _) (settled_squashReaders _ _ _)))

/-- The request gives the token up, and nothing else changes but the agenda. -/
theorem dropToken_token (s : State) (r : Request) : (s.dropToken r).token = if s.token = some r then none else s.token := by
  unfold State.dropToken
  extract_lets q v
  split_ifs <;> simp_all [q, v]

theorem kept_dropToken (s : State) (r : Request) : Kept s (s.dropToken r) c k := by
  unfold State.dropToken
  extract_lets q v
  split_ifs
  · exact ⟨rfl, rfl, rfl, rfl⟩
  · exact kept_trans (t := v) ⟨rfl, rfl, rfl, rfl⟩ (kept_postOnce _ _ _)
  · exact ⟨rfl, rfl, rfl, rfl⟩

theorem journalGrant_none (n : CtxId) (hrec : (s.journal n).rec_ = false) (hrpl : (s.journal n).rpl = false) (core slot kind : Nat)
    (seq : BitVec 32) (len : Nat) : s.journalGrant n core slot kind seq len = s := by
  simp [State.journalGrant, hrec, hrpl]

theorem replayHalted_none (n : CtxId) (hrpl : (s.journal n).rpl = false) : s.replayHalted n = s := by
  simp [State.replayHalted, hrpl]

theorem chunkDiverges_none (hrpl : (s.journal (entryCtx (s.slot c k).entry)).rpl = false) : s.chunkDiverges c k w = false := by
  simp [State.chunkDiverges, State.replayDiverges, hrpl]

/-- The slot after its grant: ready, with a turn to come. -/
theorem afterCommit_ready (hrun : (s.slot c k).isRun = true) (hpark : (s.slot c k).park = .ready ∨ (s.slot c k).park = .grant .go) :
    (s.afterCommit c k).mem = s.mem ∧ (s.afterCommit c k).token = s.token ∧ .turn c k ∈ (s.afterCommit c k).agenda
      ∧ (s.afterCommit c k).slot c k = { s.slot c k with park := .ready } := by
  rcases hpark with hpark | hpark
  · have h : s.afterCommit c k = s.postTurn c k := by simp [State.afterCommit, hpark, hrun]
    rw [h]
    refine ⟨by simp, by simp, turn_postTurn s c k, ?_⟩
    rw [slot_postTurn, ← hpark]
  · have h : s.afterCommit c k = (s.setSlot c k { s.slot c k with park := .ready }).postTurn c k := by
      simp [State.afterCommit, hpark, State.resumeAfter, State.wake]
    rw [h]
    exact ⟨by simp, by simp, turn_postTurn _ c k, by simp⟩

/-- The grant of a slot's chunk without deferred effects, in a context that is neither recorded nor replayed. -/
theorem grantSlot_plain (heff : w.effects = []) (hrec : (s.journal (entryCtx (s.slot c k).entry)).rec_ = false)
    (hrpl : (s.journal (entryCtx (s.slot c k).entry)).rpl = false) (hbehind : (s.slot c k).chunk.behind w = false)
    (hrun : (s.slot c k).isRun = true) (hpark : (s.slot c k).park = .ready ∨ (s.slot c k).park = .grant .go) :
    (s.grantSlot c k w).mem = w.wr.foldl (fun m e => m.setByte e.1 e.2) s.mem
      ∧ (s.grantSlot c k w).token = (if s.token = some (.slot c k) then none else s.token) ∧ .turn c k ∈ (s.grantSlot c k w).agenda
      ∧ (s.grantSlot c k w).slot c k = { (s.slot c k).committed w with park := .ready } := by
  unfold State.grantSlot
  extract_lets y n s0 s1 s2 s3 s4 s5 s6 s7 s8
  have e0 : s0 = s := by simp [s0, chunkDiverges_none hrpl]
  have slot1 : s1.slot c k = y.committed w := (slot_setSlot_same _ c k _).trans (by rw [e0])
  have e2 : s2 = s1 := by
    simp only [s2, slot1]
    rw [if_neg]
    simpa [Slot.committed, Chunk.behind] using hbehind
  have k3 : Kept (s2.commitCells w.wr (some c)) s3 c k := kept_deliver _ _ _ _ (.inl (by simp))
  have t3 : s3.token = s.token := by
    rw [(settled_deliver _ _ _ _ : Settled (s2.commitCells w.wr (some c)) s3).token, e2]
    show s0.token = _
    rw [e0]
  have m3 : s3.mem = w.wr.foldl (fun m e => m.setByte e.1 e.2) s.mem := by
    rw [k3.mem, e2]
    show w.wr.foldl _ s0.mem = _
    rw [e0]
  have j3 : s3.journals = s.journals := by
    rw [k3.journals, e2]
    show s0.journals = _
    rw [e0]
  have slot3 : s3.slot c k = y.committed w := by
    rw [k3.slot, e2]
    exact slot1
  have e4 : s4 = s3.withCaches (s3.releaseLines c w.lines) := by simp [s4, heff]
  have k5 : Kept s3 s5 c k := kept_trans (t := s4) (e4 ▸ kept_withCaches _ _) (kept_commitLs _ _ _)
  have t5 : s5.token = s.token := by rw [(settled_commitLs s4 c w).token, e4]; exact t3
  have e6 : s6 = s5 := by simp [s6, heff]
  have k7 : Kept s5 s7 c k := e6 ▸ kept_dropToken s6 _
  have t7 : s7.token = if s.token = some (.slot c k) then none else s.token := by
    rw [show s7 = s6.dropToken (.slot c k) from rfl, dropToken_token, e6, t5]
  have hj : s7.journal n = s.journal n := by unfold State.journal; rw [k7.journals, k5.journals, j3]
  have e8 : s8 = s7 := by
    have hrec7 : (s7.journal n).rec_ = false := hj ▸ hrec
    have hrpl7 : (s7.journal n).rpl = false := hj ▸ hrpl
    simp [s8, Chunk.beginsReplay, heff, journalGrant_none n hrec7 hrpl7, replayHalted_none n hrpl7]
  have slot8 : s8.slot c k = y.committed w := by rw [e8, k7.slot, k5.slot, slot3]
  obtain ⟨hm, ht, ha, hs⟩ := afterCommit_ready (s := s8) (c := c) (k := k) (by rw [slot8]; exact hrun) (by rw [slot8]; exact hpark)
  refine ⟨?_, ?_, ha, ?_⟩
  · rw [hm, e8, k7.mem, k5.mem, m3]
  · rw [ht, e8, t7]
  · rw [hs, slot8]

end Sys2Proof.Machine
end

section
/-! The grant of a commit request (09_chunks_and_consistency.md R220 to R225, 16_package_stacks_decant.md R378): O54. -/

namespace Sys2Proof.Machine

variable {s t u v : State} {c : CoreId} {k : SlotId} {b : Bid}

/-- After a grant the next one is looked for, while requests remain. -/
def State.lookAgain (s : State) : State := if s.requests.isEmpty then s else s.postOnce .none .commitGrant

theorem lookAgain_agenda {p : Pick} (h : p ∈ s.agenda) : p ∈ s.lookAgain.agenda := by
  unfold State.lookAgain
  split_ifs
  · exact h
  · exact mem_postOnce.2 (.inr h)

theorem posts_lookAgain (s : State) : Posts s s.lookAgain := posts_ite (posts_refl s) (posts_postOnce s _ _)

theorem slot_lookAgain (s : State) (c : CoreId) (k : SlotId) : s.lookAgain.slot c k = s.slot c k := by
  rw [(posts_lookAgain s).rest]; rfl

theorem exec_commitGrant (hcur : s.cur = .none) : exec .commitGrant s = .next s.grantNext.lookAgain := by
  rw [arm_commitGrant]
  unfold execCommitGrant
  rw [hcur]
  rfl

/-- Requests that have not lapsed all stay. -/
theorem requests_kept (hall : ∀ r ∈ s.requests, (s.requestChunk r).isSome = true) :
    { s with requests := s.requests.filter fun r => (s.requestChunk r).isSome } = s := by
  rw [List.filter_eq_self.2 hall]

theorem grantNext_none (hall : ∀ r ∈ s.requests, (s.requestChunk r).isSome = true) (h : s.nextBid = (none, t)) : s.grantNext = t := by
  unfold State.grantNext
  simp only [requests_kept hall, h]

theorem grantNext_some (hall : ∀ r ∈ s.requests, (s.requestChunk r).isSome = true) (h : s.nextBid = (some b, t)) :
    s.grantNext = if t.linksUp b.way then (t.grant b.req b.chunk).holdArbiters t b.holds else t.wakeLinks b.way := by
  unfold State.grantNext
  simp only [requests_kept hall, h]

theorem nextBid_none (h : s.nextBid.1 = none) : s.nextBid = (none, s) := by
  unfold State.nextBid at h ⊢
  split at h
  · rfl
  · simp at h

theorem nextBid_empty (h : s.requests = []) : s.nextBid = (none, s) := by
  have hb : s.bids = [] := by rw [bids_eq, h]; rfl
  simp [State.nextBid, State.freeBids, hb]

/-- With no request nothing happens. -/
theorem commitGrant_empty (hcur : s.cur = .none) (h : s.requests = []) : exec .commitGrant s = .next s := by
  rw [exec_commitGrant hcur, grantNext_none (by simp [h]) (nextBid_empty h)]
  simp [State.lookAgain, h]

/-- With no request that may be granted, only the agenda changes. -/
theorem commitGrant_none (hcur : s.cur = .none) (hall : ∀ r ∈ s.requests, (s.requestChunk r).isSome = true) (h : s.nextBid.1 = none) :
    exec .commitGrant s = .next s.lookAgain := by
  rw [exec_commitGrant hcur, grantNext_none hall (nextBid_none h)]

/-- A sleeping link of the way is posted to wake. -/
def State.wakeLink (s : State) (l : BitVec 4) : State :=
  if s.linksAsleep.getLsbD l.toNat && !s.linksWaking.getLsbD l.toNat then s.postOnce (.link l) .linkWake else s

theorem wakeLinks_eq (s : State) (ls : List (BitVec 4)) : s.wakeLinks ls = ls.foldl State.wakeLink s := rfl

theorem posts_wakeLinks (s : State) (ls : List (BitVec 4)) : Posts s (s.wakeLinks ls) :=
  posts_foldl (fun u _ => posts_ite (posts_postOnce u _ _) (posts_refl u)) ls s

theorem wakeLinks_posts (s : State) (ls : List (BitVec 4)) (p : Pick)
    (h : p ∈ s.agenda ∨ ∃ l ∈ ls, s.linksAsleep.getLsbD l.toNat = true ∧ s.linksWaking.getLsbD l.toNat = false ∧ p = .event (.link l) .linkWake) :
    p ∈ (s.wakeLinks ls).agenda := by
  rw [wakeLinks_eq]
  induction ls generalizing s with
  | nil => simpa using h
  | cons l ls ih =>
    refine ih (s.wakeLink l) ?_
    have hl : (s.wakeLink l).linksAsleep = s.linksAsleep ∧ (s.wakeLink l).linksWaking = s.linksWaking := by
      unfold State.wakeLink
      split_ifs <;> simp
    rw [hl.1, hl.2]
    have old : p ∈ s.agenda → p ∈ (s.wakeLink l).agenda := fun hp => by
      unfold State.wakeLink
      split_ifs
      · exact mem_postOnce.2 (.inr hp)
      · exact hp
    rcases h with hp | ⟨m, hm, ha, hw, rfl⟩
    · exact .inl (old hp)
    · rcases List.mem_cons.1 hm with rfl | hm
      · refine .inl ?_
        unfold State.wakeLink
        rw [if_pos (by rw [ha, hw]; rfl)]
        exact mem_postOnce.2 (.inl rfl)
      · exact .inr ⟨m, hm, ha, hw, rfl⟩

/-- Links sleep on the way of the bid: they wake, and nothing is granted yet. -/
theorem commitGrant_asleep (hcur : s.cur = .none) (hall : ∀ r ∈ s.requests, (s.requestChunk r).isSome = true)
    (h : s.nextBid = (some b, v)) (hup : s.linksUp b.way = false) :
    ∃ u, exec .commitGrant s = .next u ∧ u.mem = s.mem ∧ u.cores = s.cores ∧ u.engines = s.engines ∧ u.requests = s.requests
      ∧ ∀ l ∈ b.way, s.linksAsleep.getLsbD l.toNat = true → s.linksWaking.getLsbD l.toNat = false → .event (.link l) .linkWake ∈ u.agenda := by
  have hv := (nextBid_mem h).2
  have hg : s.grantNext = v.wakeLinks b.way := by
    rw [grantNext_some hall h]
    refine if_neg ?_
    rw [hv]
    exact Bool.not_eq_true _ ▸ hup
  have hp : Posts v s.grantNext.lookAgain := hg ▸ posts_trans (posts_wakeLinks v b.way) (posts_lookAgain _)
  refine ⟨_, exec_commitGrant hcur, by rw [hp.rest, hv], by rw [hp.rest, hv], by rw [hp.rest, hv], by rw [hp.rest, hv], fun l hl ha hw => ?_⟩
  rw [hg]
  exact lookAgain_agenda (wakeLinks_posts v _ _ (.inr ⟨l, hl, by rw [hv]; exact ha, by rw [hv]; exact hw, rfl⟩))

/-- The arbiters of a grant that the host has not answered yet: nothing else of the state changes. -/
theorem holdArbiters_rest (t s : State) (holds : List Arbiter) : t.holdArbiters s holds = { t with arbHeld := (t.holdArbiters s holds).arbHeld } := by
  unfold State.holdArbiters
  split <;> rfl

/-- The grant of a slot's chunk without deferred effects (R221). -/
theorem commitGrant_slot {w : Chunk} (hcur : s.cur = .none) (hall : ∀ r ∈ s.requests, (s.requestChunk r).isSome = true)
    (h : s.nextBid = (some b, v)) (hreq : b.req = .slot c k) (hw : b.chunk = w) (hup : s.linksUp b.way = true) (heff : w.effects = [])
    (hrec : (s.journal (entryCtx (s.slot c k).entry)).rec_ = false) (hrpl : (s.journal (entryCtx (s.slot c k).entry)).rpl = false)
    (hbehind : (s.slot c k).chunk.behind w = false) (hrun : (s.slot c k).isRun = true)
    (hpark : (s.slot c k).park = .ready ∨ (s.slot c k).park = .grant .go) :
    ∃ u, exec .commitGrant s = .next u ∧ u.mem = w.wr.foldl (fun m e => m.setByte e.1 e.2) s.mem
      ∧ u.token = (if s.token = some (.slot c k) then none else s.token) ∧ .turn c k ∈ u.agenda
      ∧ u.slot c k = { (s.slot c k).committed w with park := .ready } := by
  have hv := (nextBid_mem h).2
  have hslot : v.slot c k = s.slot c k := by rw [hv]; rfl
  have hjournal : ∀ n, v.journal n = s.journal n := fun n => by rw [hv]; rfl
  have hg : s.grantNext = (v.grantSlot c k w).holdArbiters v b.holds := by
    rw [grantNext_some hall h]
    refine (if_pos ?_).trans ?_
    · rw [hv]; exact hup
    · rw [hreq, hw]; rfl
  obtain ⟨hm, ht, ha, hs⟩ := grantSlot_plain (s := v) (c := c) (k := k) heff (by rw [hslot, hjournal]; exact hrec)
    (by rw [hslot, hjournal]; exact hrpl) (by rw [hslot]; exact hbehind) (by rw [hslot]; exact hrun) (by rw [hslot]; exact hpark)
  refine ⟨_, exec_commitGrant hcur, ?_⟩
  rw [hg, slot_lookAgain]
  refine ⟨?_, ?_, lookAgain_agenda ?_, ?_⟩
  · rw [(posts_lookAgain _).rest, holdArbiters_rest]
    exact hm.trans (by rw [hv])
  · rw [(posts_lookAgain _).rest, holdArbiters_rest]
    exact ht.trans (by rw [hv])
  · rw [holdArbiters_rest]; exact ha
  · rw [holdArbiters_rest]
    exact hs.trans (by rw [hslot])

end Sys2Proof.Machine
end

section
/-! The livelock watchdog, steps held for an event of their own, posted writes, and what a slot does when its context is pre-empted and resumed (09_chunks_and_consistency.md R225 to R228, 14_faults_preemption.md R334, R346, R347, R352, 17_host_and_links.md R392, R393): O54. -/

namespace Sys2Proof.Machine

variable {s t u : State} {c : CoreId} {k : SlotId}

/-- A trap with a handler, outside a handler: the slot is in it, with an empty chunk (R334). -/
theorem takeTrap_handled {x : Trap} (hvec : (s.slot c k).regs.trapvec ≠ 0) (hinh : (s.slot c k).regs.inh = false) :
    s.takeTrap c k x = (s.setSlot c k { s.slot c k with
      regs := (s.slot c k).regs.trapped x, chunk := {}, park := .ready
      sqc := if x.cause = 0x10 then 0 else (s.slot c k).sqc }).postTurn c k := by
  unfold State.takeTrap
  exact if_neg (by rw [hinh, Bool.false_eq_true, or_false]; exact hvec)

theorem slot_takeTrap {x : Trap} (hvec : (s.slot c k).regs.trapvec ≠ 0) (hinh : (s.slot c k).regs.inh = false) :
    (s.takeTrap c k x).slot c k = { s.slot c k with
      regs := (s.slot c k).regs.trapped x, chunk := {}, park := .ready
      sqc := if x.cause = 0x10 then 0 else (s.slot c k).sqc } := by
  rw [takeTrap_handled hvec hinh, slot_postTurn, slot_setSlot_same]

/-- A fault without progress that falls due for a slot with nothing before it is taken at once (R227). -/
theorem trapDue_alone {x : Trap} (hprog : x.prog = none) (halone : (s.slot c k).alone = true) (hst : (s.slot c k).strands x = false) :
    s.trapDue c k x = (s.setSlot c k { s.slot c k with park := .ready }).takeTrap c k x := by
  have hempty : (s.slot c k).chunk.isEmpty = true := by
    rw [Slot.alone, Bool.and_eq_true] at halone
    exact halone.1
  have hst' : Slot.strands { s.slot c k with park := .ready } x = false := hst
  have halone' : Slot.alone { s.slot c k with park := .ready } = true := halone
  simp [State.trapDue, State.raise, State.showProgress, hprog, hempty, hst', halone']

theorem dropToken_tokenQ (s : State) (r : Request) : (s.dropToken r).tokenQ = s.tokenQ.filter (· != r) := by
  unfold State.dropToken
  extract_lets q v
  split_ifs
  · rfl
  · exact postOnce_tokenQ _ _ _
  · rfl

/-- 64 squashes: the slot is in its handler, its count is zero and it no longer asks for the token (R226). -/
theorem livelockWatchdog_traps (hcur : s.cur = .slot c k) (hrun : (s.slot c k).isRun = true) (hsqc : 64 ≤ (s.slot c k).sqc.toNat)
    (halone : (s.slot c k).alone = true) (hst : (s.slot c k).strands { cause := 0x10, info := (s.slot c k).sqc.setWidth 64 } = false)
    (hvec : (s.slot c k).regs.trapvec ≠ 0) (hinh : (s.slot c k).regs.inh = false) :
    ∃ u, exec .livelockWatchdog s = .next u ∧ u.mem = s.mem ∧ (u.slot c k).sqc = 0
      ∧ (u.slot c k).regs = (s.slot c k).regs.trapped { cause := 0x10, info := (s.slot c k).sqc.setWidth 64 }
      ∧ .slot c k ∉ u.tokenQ ∧ u.token ≠ some (.slot c k) := by
  let x : Trap := { cause := 0x10, info := (s.slot c k).sqc.setWidth 64 }
  let d := s.dropToken (.slot c k)
  have hd : d.slot c k = s.slot c k := (kept_dropToken s _).slot
  have hexec : exec .livelockWatchdog s = .next (d.trapDue c k x) := by
    rw [arm_livelockWatchdog]
    unfold execLivelockWatchdog
    rw [hcur]
    exact if_neg (by simp [hrun, halone]; omega)
  have htrap : d.trapDue c k x = ((d.setSlot c k { s.slot c k with park := .ready }).setSlot c k
      { s.slot c k with regs := (s.slot c k).regs.trapped x, chunk := {}, park := .ready, sqc := 0 }).postTurn c k := by
    rw [trapDue_alone rfl (by rw [hd]; exact halone) (by rw [hd]; exact hst), hd,
      takeTrap_handled (by rw [slot_setSlot_same]; exact hvec) (by rw [slot_setSlot_same]; exact hinh), slot_setSlot_same]
    rfl
  refine ⟨_, hexec, ?_⟩
  rw [htrap]
  simp only [postTurn_mem, setSlot_mem, slot_postTurn, slot_setSlot_same, postTurn_tokenQ, setSlot_tokenQ, postTurn_token, setSlot_token]
  refine ⟨(kept_dropToken (c := c) (k := k) s _).mem, trivial, rfl, ?_, ?_⟩
  · simp [d, dropToken_tokenQ]
  · rw [show d.token = _ from dropToken_token s _]
    split_ifs with h
    · simp
    · exact h

theorem livelockWatchdog_idle (hcur : s.cur = .slot c k)
    (h : (s.slot c k).isRun = false ∨ (s.slot c k).sqc.toNat < 64 ∨ (s.slot c k).alone = false) : exec .livelockWatchdog s = .next s := by
  rw [arm_livelockWatchdog]
  unfold execLivelockWatchdog
  rw [hcur]
  refine if_pos ?_
  rcases h with h | h | h <;> simp [h]

/-- The slot ready, as the instruction it holds finds it. -/
def State.readied (s : State) (c : CoreId) (k : SlotId) : State := s.setSlot c k { s.slot c k with park := .ready }

theorem held_solo {y : Slot} {i : Instr} (h : y.park = .solo i) : y.held false = some i := by simp [Slot.held, h]

theorem held_edge {y : Slot} {i : Instr} (h : y.park = .edge i) : y.held true = some i := by simp [Slot.held, h]

theorem soloStep_held {i : Instr} (hcur : s.cur = .slot c k) (h : (s.slot c k).held false = some i) : exec .soloStep s = rerun i c k s := by
  rw [arm_soloStep]
  simp only [execSoloStep, hcur, h]

theorem soloStep_idle (hcur : s.cur = .slot c k) (h : (s.slot c k).held false = none) : exec .soloStep s = .next s := by
  rw [arm_soloStep]
  simp only [execSoloStep, hcur, h]

theorem edgeAccess_held {i : Instr} (hcur : s.cur = .slot c k) (h : (s.slot c k).held true = some i) : exec .edgeAccess s = rerun i c k s := by
  rw [arm_edgeAccess]
  simp only [execEdgeAccess, hcur, h]

theorem edgeAccess_idle (hcur : s.cur = .slot c k) (h : (s.slot c k).held true = none) : exec .edgeAccess s = .next s := by
  rw [arm_edgeAccess]
  simp only [execEdgeAccess, hcur, h]

theorem unanswered_held {i : Instr} (hcur : s.cur = .slot c k) (h : (s.slot c k).held true = some i) : unanswered s = rerunFailed i c k s := by
  simp only [unanswered, hcur, h]

theorem unanswered_idle (hcur : s.cur = .slot c k) (h : (s.slot c k).held true = none) : unanswered s = .next s := by
  simp only [unanswered, hcur, h]

theorem exec_edgeCompletionTimeout (s : State) : exec .edgeCompletionTimeout s = unanswered s := by
  rw [arm_edgeCompletionTimeout]; rfl

theorem exec_peerResponseTimeout (s : State) : exec .peerResponseTimeout s = unanswered s := by
  rw [arm_peerResponseTimeout]; rfl

theorem rerun_some {i : Instr} {p : State → Host.Outcome State Fault Refusal} (hp : performer i = some p) :
    rerun i c k s = p (s.readied c k) := by
  simp [rerun, hp, State.readied]

theorem rerun_none {i : Instr} (hp : performer i = none) : rerun i c k s = .next (s.issueSoon c k) := by simp [rerun, hp]

theorem slot_issueSoon (s : State) (c : CoreId) (k : SlotId) : (s.issueSoon c k).slot c k = { s.slot c k with park := .ready } :=
  slot_setSlot_same s c k _

theorem onlySlot_issueSoon (s : State) (c : CoreId) (k : SlotId) : OnlySlot s (s.issueSoon c k) c k :=
  onlySlot_trans (onlySlot_setSlot s c k _) ⟨rfl, fun _ => rfl, fun _ _ _ => rfl⟩

/-- A step that issues at the slot's next turn takes that turn first. -/
theorem rerun_issues {i : Instr} (hp : performer i = none) : ∃ u, rerun i c k s = .next u ∧ OnlySlot s u c k
    ∧ u.slot c k = { s.slot c k with park := .ready } ∧ u.agenda.head? = some (.turn c k) :=
  ⟨_, rerun_none hp, onlySlot_issueSoon s c k, slot_issueSoon s c k, rfl⟩

/-- Posted writes that land change the memory of the host and its port only, and what is sent out. -/
structure Landed (s t : State) : Prop where
  rest : t = { s with hostMem := t.hostMem, host := t.host, outputs := t.outputs }

theorem landed_trans (h : Landed s t) (h' : Landed t u) : Landed s u := ⟨by rw [h'.rest, h.rest]⟩

theorem landed_landTlp (s : State) (p : PostedTlp) : Landed s (s.landTlp p) := by cases p <;> exact ⟨rfl⟩

theorem landed_landMsix (s : State) (l : List PostedTlp) : Landed s (s.landMsix l) := by
  induction l generalizing s with
  | nil => exact ⟨rfl⟩
  | cons p l ih =>
    cases p with
    | write w a bs => exact ⟨rfl⟩
    | msix a d => exact landed_trans (landed_trans ⟨rfl⟩ (landed_landTlp _ _)) (ih _)

theorem landed_landUntil (s : State) (w : Agent) (ok : Bool) (l : List PostedTlp) : Landed s (s.landUntil w ok l) := by
  induction l generalizing s with
  | nil => exact ⟨rfl⟩
  | cons p l ih =>
    cases p with
    | write w' a bs =>
      unfold State.landUntil
      split_ifs
      · exact landed_trans (landed_landTlp _ _) (landed_landMsix _ _)
      · exact landed_landMsix _ _
      · exact landed_trans (landed_landTlp _ _) (ih _)
    | msix a d => exact landed_trans (landed_landTlp _ _) (ih _)

/-- Interrupts that leave write no memory of the host. -/
theorem landMsix_hostMem (s : State) (l : List PostedTlp) : (s.landMsix l).hostMem = s.hostMem := by
  induction l generalizing s with
  | nil => rfl
  | cons p l ih =>
    cases p with
    | write w a bs => rfl
    | msix a d => exact (ih _).trans rfl

/-- The first write of the slot, when it is next, reaches the host unless it is in error. -/
theorem landUntil_head (s : State) (w : Agent) (ok : Bool) (a : Nat) (bs : List Byte) (rest : List PostedTlp) :
    (s.landUntil w ok (.write w a bs :: rest)).hostMem = if ok then s.hostMem.setBytes a bs else s.hostMem := by
  unfold State.landUntil
  rw [if_pos rfl, landMsix_hostMem]
  split_ifs <;> rfl

end Sys2Proof.Machine
end

section
/-! Posted writes, and what a slot does when its context is pre-empted and resumed (14_faults_preemption.md R346, R347, R352, 17_host_and_links.md R392, R393): O54. -/

namespace Sys2Proof.Machine

variable {s t u : State} {c : CoreId} {k : SlotId}

/-- The state after the posted writes up to the agent's first have landed. -/
def State.writesLanded (s : State) (w : Agent) (ok : Bool) : State := if s.host.hasWrite w then s.landUntil w ok s.host.posted else s

theorem landed_writesLanded (s : State) (w : Agent) (ok : Bool) : Landed s (s.writesLanded w ok) := by
  unfold State.writesLanded
  split_ifs
  · exact landed_landUntil s w ok _
  · exact ⟨rfl⟩

theorem landed_slot (h : Landed s t) (c : CoreId) (k : SlotId) : t.slot c k = s.slot c k := by rw [h.rest]; rfl

theorem landed_head {w : Agent} {a : Nat} {bs : List Byte} {rest : List PostedTlp} (h : s.host.posted = .write w a bs :: rest) (ok : Bool) :
    (s.writesLanded w ok).hostMem = if ok then s.hostMem.setBytes a bs else s.hostMem := by
  have hw : s.host.hasWrite w = true := by simp [HostPort.hasWrite, h]
  unfold State.writesLanded
  rw [if_pos hw, h, landUntil_head]

@[simp] theorem slot_preCheck (s : State) (n : CtxId) (c : CoreId) (k : SlotId) : (s.preCheck n).slot c k = s.slot c k := by
  unfold State.preCheck
  split_ifs <;> simp

@[simp] theorem preCheck_mem (s : State) (n : CtxId) : (s.preCheck n).mem = s.mem := (settled_preCheck (settled_refl s) n).mem

@[simp] theorem preCheck_hostMem (s : State) (n : CtxId) : (s.preCheck n).hostMem = s.hostMem := by
  unfold State.preCheck
  split_ifs <;> simp

/-- The count of a slot's posted writes once one has completed (R393). -/
theorem posted_complete (p : Posted) (flying : Bool) (st : BitVec 3) : p.complete (if flying then st else 0) =
    { p with open_ := p.open_ - 1, err := if p.err = 0 ∧ flying = true then st else p.err } := by
  unfold Posted.complete
  by_cases he : p.err = 0#3 <;> cases flying <;> simp [he]

/-- The completion of a posted write of the slot. -/
theorem exec_postedWriteCompletion (hcur : s.cur = .slot c k) (st : BitVec 3) : exec (.postedWriteCompletion st) s =
    .next (((s.writesLanded (.slot c k) (st == 0)).setSlot c k { s.slot c k with posted := { (s.slot c k).posted with
      open_ := (s.slot c k).posted.open_ - 1
      err := if (s.slot c k).posted.err = 0 ∧ s.host.hasWrite (.slot c k) = true then st else (s.slot c k).posted.err } }).preCheck
        (entryCtx (s.slot c k).entry)) := by
  rw [arm_postedWriteCompletion, ← posted_complete]
  unfold execPostedWriteCompletion
  rw [hcur]
  rfl

theorem postedWriteCompletion_ok (hcur : s.cur = .slot c k) (st : BitVec 3) : ∃ u, exec (.postedWriteCompletion st) s = .next u ∧ u.mem = s.mem
    ∧ u.slot c k = { s.slot c k with posted := { (s.slot c k).posted with
        open_ := (s.slot c k).posted.open_ - 1
        err := if (s.slot c k).posted.err = 0 ∧ s.host.hasWrite (.slot c k) = true then st else (s.slot c k).posted.err } }
    ∧ (∀ c' k', (c', k') ≠ (c, k) → u.slot c' k' = s.slot c' k')
    ∧ (s.host.hasWrite (.slot c k) = false → u.hostMem = s.hostMem)
    ∧ ∀ a bs rest, s.host.posted = .write (.slot c k) a bs :: rest → u.hostMem = if st = 0 then s.hostMem.setBytes a bs else s.hostMem := by
  have hl := landed_writesLanded s (.slot c k) (st == 0)
  refine ⟨_, exec_postedWriteCompletion hcur st, ?_, ?_, fun c' k' hne => ?_, fun hw => ?_, fun a bs rest hp => ?_⟩
  · rw [preCheck_mem, setSlot_mem, hl.rest]
  · rw [slot_preCheck, slot_setSlot_same]
  · rw [slot_preCheck, slot_setSlot_ne _ _ _ _ _ _ hne, landed_slot hl]
  · rw [preCheck_hostMem, setSlot_hostMem, State.writesLanded, if_neg (by rw [hw]; exact Bool.false_ne_true)]
  · rw [preCheck_hostMem, setSlot_hostMem, landed_head hp]
    simp only [beq_iff_eq]

theorem unassignedOpcode_slot (hcur : s.cur = .slot c k) (w : BitVec 96) : exec (.unassignedOpcode w) s = .next (s.raise c k { cause := 0x02 }) := by
  rw [arm_unassignedOpcode]
  unfold execUnassignedOpcode
  rw [hcur]

theorem unassignedOpcode_engine {e : EngineId} (hcur : s.cur = .engine e) (w : BitVec 96) :
    exec (.unassignedOpcode w) s = .next (s.engineAbort e 2 { cause := 0x02 }) := by
  rw [arm_unassignedOpcode]
  unfold execUnassignedOpcode
  rw [hcur]

/-- A handler under way notes the pre-emption and goes on (R346). -/
theorem truncateSlot_pending (hinh : (s.slot c k).regs.inh = true) :
    (s.truncateSlot c k).slot c k = { s.slot c k with preempt := true, regs := { (s.slot c k).regs with ppend := true } } := by
  unfold State.truncateSlot
  simp [hinh]

theorem abandon_ready (hpark : (s.slot c k).park = .ready) : s.abandon c k = s := by
  unfold State.abandon
  simp only [hpark]

theorem truncateSlot_ready (hinh : (s.slot c k).regs.inh = false) (hpark : (s.slot c k).park = .ready) :
    (s.truncateSlot c k).slot c k = { s.slot c k with preempt := true } := by
  have hend : (s.slot c k).ending = false := by simp [Slot.ending, hpark]
  unfold State.truncateSlot
  simp [hinh, hend, abandon_ready hpark]

/-- A truncated slot knows that its context is pre-empted. -/
theorem truncateSlot_preempt (s : State) (c : CoreId) (k : SlotId) : ((s.truncateSlot c k).slot c k).preempt = true := by
  unfold State.truncateSlot
  simp

/-- The pre-emption trap of a slot that awaits no remote result (R334, R346). -/
theorem slot_preemptNow {b : Bool} (hawait : (s.slot c k).awaiting = none) (hvec : (s.slot c k).regs.trapvec ≠ 0)
    (hinh : (s.slot c k).regs.inh = false) :
    (s.preemptNow c k b).slot c k = { s.slot c k with
      regs := (s.slot c k).regs.trapped { cause := 0x12, info := BitVec.ofNat 64 (2 * bit b) }, preempt := false, tiles := some b
      chunk := {}, park := .ready } := by
  unfold State.preemptNow
  simp only [hawait]
  rw [slot_takeTrap (by rw [slot_setSlot_same]; exact hvec) (by rw [slot_setSlot_same]; exact hinh), slot_setSlot_same]
  rfl

/-- TILES goes to the lowest-numbered slot that traps (R347). -/
theorem preemptTurn_eq {b : Bool} (htiles : b = true ↔ s.tilesTaken c (entryCtx (s.slot c k).entry) = false)
    (hlow : b = true → s.lowerPending c k = false) : s.preemptTurn c k = s.preemptNow c k b := by
  unfold State.preemptTurn
  cases b with
  | true => rw [if_neg (by rw [htiles.1 rfl]; exact Bool.false_ne_true), if_neg (by rw [hlow rfl]; exact Bool.false_ne_true)]
  | false =>
    have ht : s.tilesTaken c (entryCtx (s.slot c k).entry) = true := by simpa using htiles
    rw [if_pos ht]

/-- A saved slot takes its entry at the next rotation boundary, and starts there if it ran (R352). -/
theorem slot_resumeSlot (q : SeqNo) (l : Launch) (x : SavedSlot) (tiles : Bool) (hrun : (s.slot c k).isRun = false) :
    (s.resumeSlot q l c k x tiles).slot c k = {
      entry := (s.slot c k).entry, lastRot := (s.slot c k).lastRot, cls := x.cls, posted := x.posted
      entryNext := some (l.record q x.role stBound &&& entryMask)
      starting := if x.run then some { regs := resumeRegs l c x tiles, seq := x.chunkSeq, msg := x.msg, resumes := true } else none } := by
  unfold State.resumeSlot State.writeTable State.atBoundary
  simp only [slot_setSlot_same]
  rw [if_neg (by rw [Slot.isRun] at hrun ⊢; simp [hrun])]
  simp

theorem resumeSlot_ok (q : SeqNo) (l : Launch) (x : SavedSlot) (tiles : Bool) (hrun : (s.slot c k).isRun = false) :
    ∃ z b, (s.resumeSlot q l c k x tiles).slot c k = z ∧ z.entryNext = some (l.record q x.role 2 &&& entryMask) ∧ z.posted = x.posted
      ∧ (x.run = true → z.starting = some b ∧ b.seq = x.chunkSeq ∧ b.msg = x.msg
        ∧ b.regs.pc = addrCsr (descTrapv l.desc) ∧ b.regs.priv = true ∧ b.regs.inh = false ∧ b.regs.trapcause = 0x12
        ∧ b.regs.trapinfo = BitVec.ofNat 64 (1 + 2 * bit tiles) ∧ b.regs.sscr[0] = x.sscr0) := by
  refine ⟨_, { regs := resumeRegs l c x tiles, seq := x.chunkSeq, msg := x.msg, resumes := true }, slot_resumeSlot q l x tiles hrun,
    rfl, rfl, fun hx => ⟨if_pos hx, rfl, rfl, rfl, rfl, rfl, rfl, rfl, ?_⟩⟩
  simp [resumeRegs]

end Sys2Proof.Machine
end

section
/-! Launches last through the ends of slots, and an abort reaches the launch that it names (08_cores_launches_scheduling.md R194, R210, 14_faults_preemption.md R335): O54. -/

namespace Sys2Proof.Machine

variable {s t u : State}

/-- Every launch is still there, no sooner or later completed, and still aborted if it was. -/
def LaunchesKept (s t : State) : Prop := ∀ q l, s.launch q = some l →
  ∃ l', t.launch q = some l' ∧ l'.completed = l.completed ∧ (l.aborted = true → l'.aborted = true)

theorem launchesKept_trans (h : LaunchesKept s t) (h' : LaunchesKept t u) : LaunchesKept s u := by
  intro q l hl
  obtain ⟨l1, h1, hc1, ha1⟩ := h q l hl
  obtain ⟨l2, h2, hc2, ha2⟩ := h' q l1 h1
  exact ⟨l2, h2, hc2.trans hc1, fun ha => ha2 (ha1 ha)⟩

theorem launchesKept_of_eq (h : t.launches = s.launches) : LaunchesKept s t := by
  intro q l hl
  exact ⟨l, by rw [State.launch, h]; exact hl, rfl, id⟩

theorem launchesKept_refl (s : State) : LaunchesKept s s := launchesKept_of_eq rfl

theorem launchesKept_ite {p : Prop} [Decidable p] (h : LaunchesKept s t) (h' : LaunchesKept s u) :
    LaunchesKept s (if p then t else u) := by
  split_ifs
  · exact h
  · exact h'

theorem launchesKept_foldl {α : Type} {f : State → α → State} (h : LaunchesKept s t) (hf : ∀ u a, LaunchesKept u (f u a)) (l : List α) :
    LaunchesKept s (l.foldl f t) := by
  induction l generalizing t with
  | nil => exact h
  | cons a l ih => exact ih (launchesKept_trans h (hf t a))

theorem launch_setLaunch_ne (s : State) (n q : SeqNo) (x : Launch) (h : q ≠ n) : (s.setLaunch n x).launch q = s.launch q :=
  tab_find_put_ne _ _ _ _ fun e => h (BitVec.eq_of_toNat_eq e)

theorem launchesKept_setLaunch {n : SeqNo} {l x : Launch} (hl : s.launch n = some l) (hc : x.completed = l.completed)
    (ha : l.aborted = true → x.aborted = true) : LaunchesKept s (s.setLaunch n x) := by
  intro q y hy
  by_cases h : q = n
  · subst h
    obtain rfl : l = y := Option.some.inj (hl.symm.trans hy)
    exact ⟨x, launch_setLaunch_same s q x, hc, ha⟩
  · exact ⟨y, by rw [launch_setLaunch_ne _ _ _ _ h, hy], rfl, id⟩

theorem launchesKept_modLaunch (s : State) (n : SeqNo) {f : Launch → Launch} (hc : ∀ l, (f l).completed = l.completed)
    (ha : ∀ l, (f l).aborted = l.aborted) : LaunchesKept s (s.modLaunch n f) := by
  unfold State.modLaunch
  split
  · rename_i l hl
    exact launchesKept_setLaunch hl (hc l) fun h => (ha l).trans h
  · exact launchesKept_refl s

theorem launchesKept_settled (h : Settled s t) : LaunchesKept s t := launchesKept_of_eq h.launches

/-- Committed memory is as before, and every launch is still there. -/
structure Lasting (s t : State) : Prop where
  mem : t.mem = s.mem
  launches : LaunchesKept s t

theorem lasting_settled (h : Settled s t) : Lasting s t := ⟨h.mem, launchesKept_settled h⟩
theorem lasting_refl (s : State) : Lasting s s := lasting_settled (settled_refl s)
theorem lasting_trans (h : Lasting s t) (h' : Lasting t u) : Lasting s u :=
  ⟨h'.mem.trans h.mem, launchesKept_trans h.launches h'.launches⟩

theorem lasting_ite {p : Prop} [Decidable p] (h : Lasting s t) (h' : Lasting s u) : Lasting s (if p then t else u) := by
  split_ifs
  · exact h
  · exact h'

theorem lasting_foldl {α : Type} {f : State → α → State} (h : Lasting s t) (hf : ∀ u a, Lasting u (f u a)) (l : List α) :
    Lasting s (l.foldl f t) := by
  induction l generalizing t with
  | nil => exact h
  | cons a l ih => exact ih (lasting_trans h (hf t a))

theorem lasting_modLaunch (s : State) (n : SeqNo) {f : Launch → Launch} (hc : ∀ l, (f l).completed = l.completed)
    (ha : ∀ l, (f l).aborted = l.aborted) : Lasting s (s.modLaunch n f) := by
  refine ⟨?_, launchesKept_modLaunch s n hc ha⟩
  unfold State.modLaunch
  split <;> rfl

theorem lasting_postOnce (h : Lasting s t) (a : Agent) (i : Instr) : Lasting s (t.postOnce a i) :=
  lasting_trans h (lasting_settled (settled_postOnce (settled_refl t) a i))
theorem lasting_postEvent (h : Lasting s t) (a : Agent) (i : Instr) : Lasting s (t.postEvent a i) :=
  lasting_trans h (lasting_settled (settled_postEvent (settled_refl t) a i))
theorem lasting_postTurn (h : Lasting s t) (c : CoreId) (k : SlotId) : Lasting s (t.postTurn c k) :=
  lasting_trans h (lasting_settled (settled_postTurn (settled_refl t) c k))
theorem lasting_setSlot (h : Lasting s t) (c : CoreId) (k : SlotId) (y : Slot) : Lasting s (t.setSlot c k y) :=
  lasting_trans h (lasting_settled (settled_setSlot (settled_refl t) c k y))
theorem lasting_preCheck (h : Lasting s t) (n : CtxId) : Lasting s (t.preCheck n) :=
  lasting_trans h (lasting_settled (settled_preCheck (settled_refl t) n))
theorem lasting_checkDone (h : Lasting s t) (n : SeqNo) : Lasting s (t.checkDone n) := lasting_postOnce h _ _

theorem settled_stopEnded (s : State) (c : CoreId) (k : SlotId) : Settled s (s.stopEnded c k) :=
  settled_foldl (settled_refl s) (fun u _ => settled_ite (settled_wake (settled_setSlot (settled_refl u) _ _ _) _ _) (settled_refl u)) _

theorem settled_clearProg (s : State) (c : CoreId) (k : SlotId) : Settled s (s.clearProg c k) :=
  settled_setSlot (settled_setCore (settled_refl s) _ _) _ _ _

theorem lasting_slotDone (s : State) (c : CoreId) (k : SlotId) : Lasting s (s.slotDone c k) := by
  unfold State.slotDone
  extract_lets y n s1 s2 s3 gang s4
  have h2 : Lasting s s2 := lasting_settled (settled_trans (settled_setSlot (settled_refl s) _ _ _) (settled_stopEnded _ c k))
  have h3 : Lasting s s3 := lasting_trans h2 (lasting_modLaunch s2 n (fun _ => rfl) fun _ => rfl)
  have h4 : Lasting s s4 := lasting_ite (lasting_trans h3 (lasting_settled (settled_sweepAll _ _))) (lasting_postEvent h3 _ _)
  exact lasting_preCheck (lasting_checkDone h4 _) _

theorem settled_reservedIdle (s : State) (c : CoreId) (k : SlotId) : Settled s (s.reservedIdle c k) := by
  unfold State.reservedIdle
  extract_lets y r s1 s2 ended s3
  have h2 : Settled s s2 := settled_trans (settled_setSlot (settled_refl s) _ _ _) (settled_stopEnded _ c k)
  have h3 : Settled s s3 :=
    settled_ite (settled_postEvent h2 _ _) (settled_ite (settled_postOnce h2 _ _) (settled_postOnce h2 _ _))
  exact settled_preCheck h3 _

theorem lasting_finishStop (s : State) (c : CoreId) (k : SlotId) : Lasting s (s.finishStop c k) :=
  lasting_trans (lasting_settled (settled_clearProg s c k)) (lasting_ite (lasting_settled (settled_reservedIdle _ c k)) (lasting_slotDone _ c k))

theorem lasting_stopSlot (s : State) (c : CoreId) (k : SlotId) : Lasting s (s.stopSlot c k) :=
  lasting_ite (lasting_refl s) (lasting_ite (lasting_finishStop s c k) (lasting_postTurn (lasting_setSlot (lasting_refl s) _ _ _) _ _))

theorem settled_dropRead (s : State) (c : CoreId) (k : SlotId) : Settled s (s.dropRead c k) := ⟨rfl, rfl, rfl⟩

theorem lasting_abortSlot (s : State) (n : SeqNo) (c : CoreId) (k : SlotId) : Lasting s (s.abortSlot n c k) := by
  unfold State.abortSlot
  extract_lets y st s1
  have h1 : Lasting s s1 := lasting_ite (lasting_postEvent (lasting_refl s) _ _) (lasting_refl s)
  refine lasting_ite h1 (lasting_ite (lasting_trans h1 (lasting_stopSlot _ _ _))
    (lasting_ite (lasting_trans h1 (lasting_slotDone _ _ _)) (lasting_ite ?_ h1)))
  exact lasting_trans (lasting_setSlot h1 _ _ _) (lasting_settled (settled_dropRead _ _ _))

theorem launchesKept_commitWrite (s : State) (pa : Nat) (bs : List Byte) (holder : Option CoreId) :
    LaunchesKept s (s.commitWrite pa bs holder) := by
  refine launchesKept_ite (launchesKept_of_eq rfl) ?_
  exact launchesKept_trans (t := s.commitBytes pa bs holder) (launchesKept_of_eq rfl) (launchesKept_settled (settled_deliver _ _ _ _))

theorem launchesKept_countDrops (s : State) (q : SeqNo) (c : CoreId) (n : Nat) : LaunchesKept s (s.countDrops q c n) := by
  unfold State.countDrops
  split
  · exact launchesKept_refl s
  · rename_i l hl
    have hdrop : LaunchesKept s (s.setLaunch q { l with drops := l.drops + n }) := launchesKept_setLaunch hl rfl id
    refine launchesKept_ite (launchesKept_refl s) ?_
    split
    · exact launchesKept_ite hdrop (launchesKept_commitWrite _ _ _ _)
    · exact hdrop
    · exact launchesKept_of_eq rfl
    · exact launchesKept_refl s

theorem launchesKept_checkDone (h : LaunchesKept s t) (n : SeqNo) : LaunchesKept s (t.checkDone n) :=
  launchesKept_trans h (launchesKept_settled (settled_checkDone (settled_refl t) n))

theorem launchesKept_discardCapsule (s : State) (id : Nat) : LaunchesKept s (s.discardCapsule id) := by
  unfold State.discardCapsule
  split
  · exact launchesKept_refl s
  · rename_i x hx
    extract_lets s1 s2
    have h2 : LaunchesKept s s2 := launchesKept_modLaunch s1 _ (fun _ => rfl) fun _ => rfl
    exact launchesKept_checkDone (launchesKept_trans h2 (launchesKept_countDrops s2 _ _ 1)) _

theorem launchesKept_emptyBays (s : State) (c : CoreId) (n : SeqNo) : LaunchesKept s (s.emptyBays c n) := by
  refine launchesKept_foldl (launchesKept_refl s) (fun u b => ?_) _
  split_ifs with hb
  · refine launchesKept_ite ?_ (launchesKept_refl u)
    refine launchesKept_trans ?_ (launchesKept_countDrops _ _ _ 1)
    refine launchesKept_trans ?_ (launchesKept_modLaunch _ _ (fun _ => rfl) fun _ => rfl)
    exact launchesKept_of_eq rfl
  · exact launchesKept_refl u

theorem launchesKept_dropSaved (s : State) (n : SeqNo) (c : CoreId) : LaunchesKept s (s.dropSaved n c) := by
  unfold State.dropSaved
  extract_lets bays held mine s1
  refine launchesKept_trans ?_ (launchesKept_countDrops _ _ _ _)
  refine launchesKept_trans ?_ (launchesKept_modLaunch _ _ (fun _ => rfl) fun _ => rfl)
  exact launchesKept_of_eq rfl

theorem launchesKept_dropSuspended (s : State) (n : SeqNo) : LaunchesKept s (s.dropSuspended n) := by
  unfold State.dropSuspended
  extract_lets mine owed saved s1
  refine launchesKept_trans ?_ (launchesKept_modLaunch _ _ (fun _ => rfl) fun _ => rfl)
  exact launchesKept_of_eq rfl

/-- What an abort does once the launch has been marked (R335). -/
def State.abortRest (s : State) (n : SeqNo) (cores : List CoreId) : State :=
  let s := cores.foldl (fun s c => s.rouse c) s
  let s := s.allSlots.foldl (fun s (c, k) => s.abortSlot n c k) s
  let s := cores.foldl (fun s c => s.emptyBays c n) s
  let s := s.cores.keys.foldl (fun s c =>
    let c : CoreId := BitVec.ofNat 10 c
    let x := s.core c
    s.setCore c { x with
      ring := x.ring.filter fun i => i.seq != n, outbox := x.outbox.filter fun i => i.2.seq != n
      msgs := x.msgs.filter fun m => m.seq != n }) s
  let s := s.dropSaved n (cores.headD 0)
  let s := s.capsules.keys.foldl (fun s id => match s.capsules.find id with
    | some x => if x.seq = n ∧ x.at_ ≠ .flying then s.discardCapsule id else s
    | none => s) s
  s.checkDone n

theorem launchesKept_abortRest (s : State) (n : SeqNo) (cores : List CoreId) : LaunchesKept s (s.abortRest n cores) := by
  unfold State.abortRest
  extract_lets s1 s2 s3 s4 s5 s6
  have h1 : LaunchesKept s s1 := launchesKept_foldl (launchesKept_refl s) (fun u c => launchesKept_settled (settled_rouse u c)) _
  have h2 : LaunchesKept s s2 := launchesKept_foldl h1 (fun u _ => (lasting_abortSlot u _ _ _).launches) _
  have h3 : LaunchesKept s s3 := launchesKept_foldl h2 (fun u c => launchesKept_emptyBays u c n) _
  have h4 : LaunchesKept s s4 := launchesKept_foldl h3 (fun u c => launchesKept_settled (settled_setCore (settled_refl u) _ _)) _
  have h5 : LaunchesKept s s5 := launchesKept_trans h4 (launchesKept_dropSaved _ _ _)
  have h6 : LaunchesKept s s6 := by
    refine launchesKept_foldl h5 (fun u id => ?_) _
    split
    · exact launchesKept_ite (launchesKept_discardCapsule u id) (launchesKept_refl u)
    · exact launchesKept_refl u
  exact launchesKept_checkDone h6 n

/-- The launch is there and has been aborted. -/
def State.isAborted (s : State) (q : SeqNo) : Prop := ∃ l, s.launch q = some l ∧ l.aborted = true

theorem isAborted_kept {q : SeqNo} (h : LaunchesKept s t) (ha : s.isAborted q) : t.isAborted q := by
  obtain ⟨l, hl, hal⟩ := ha
  obtain ⟨l', hl', -, h'⟩ := h q l hl
  exact ⟨l', hl', h' hal⟩

theorem abortLaunch_eq {n : SeqNo} {l : Launch} (hl : s.launch n = some l) (hc : l.completed = false) : s.abortLaunch n =
    ((s.dropSuspended n).setLaunch n { (((s.dropSuspended n).launch n).getD l) with aborted := true, unbound := [], resv := [], allBound := true }).abortRest
      n (((s.dropSuspended n).launch n).getD l).cores := by
  unfold State.abortLaunch
  rw [hl]
  exact if_neg (by rw [hc]; exact Bool.false_ne_true)

/-- An abort loses no launch, and marks the launch that it names unless that has completed. -/
theorem abortLaunch_marks (s : State) (n : SeqNo) :
    LaunchesKept s (s.abortLaunch n) ∧ ∀ l, s.launch n = some l → l.completed = false → (s.abortLaunch n).isAborted n := by
  cases hl : s.launch n with
  | none =>
    have h : s.abortLaunch n = s := by simp [State.abortLaunch, hl]
    exact ⟨h.symm ▸ launchesKept_refl s, fun l h' => nomatch h'⟩
  | some l =>
    cases hc : l.completed with
    | true =>
      refine ⟨?_, fun l' h' hc' => ?_⟩
      · unfold State.abortLaunch
        simp only [hl, hc, if_true]
        exact launchesKept_foldl (launchesKept_refl s) (fun u _ => launchesKept_ite (lasting_stopSlot u _ _).launches (launchesKept_refl u)) _
      · rw [← Option.some.inj h', hc] at hc'
        cases hc'
    | false =>
      have hd := launchesKept_dropSuspended s n
      obtain ⟨l1, h1, -, -⟩ := hd n l hl
      rw [abortLaunch_eq hl hc, h1, Option.getD_some]
      have hset : LaunchesKept (s.dropSuspended n) ((s.dropSuspended n).setLaunch n { l1 with aborted := true, unbound := [], resv := [], allBound := true }) :=
        launchesKept_setLaunch h1 rfl fun _ => rfl
      have hrest := launchesKept_abortRest ((s.dropSuspended n).setLaunch n { l1 with aborted := true, unbound := [], resv := [], allBound := true }) n l1.cores
      exact ⟨launchesKept_trans (launchesKept_trans hd hset) hrest,
        fun _ _ _ => isAborted_kept hrest ⟨_, launch_setLaunch_same _ n _, rfl⟩⟩

/-- Aborts one after another reach each launch listed that has not completed. -/
theorem foldl_aborts {α : Type} {f : State → α → State} {g : α → SeqNo}
    (hf : ∀ u a, LaunchesKept u (f u a) ∧ ∀ l, u.launch (g a) = some l → l.completed = false → (f u a).isAborted (g a))
    {a : α} {as : List α} (ha : a ∈ as) {l : Launch} (hl : s.launch (g a) = some l) (hc : l.completed = false) :
    (as.foldl f s).isAborted (g a) := by
  induction as generalizing s l with
  | nil => cases ha
  | cons b as ih =>
    rw [List.foldl_cons]
    rcases List.mem_cons.1 ha with rfl | ha
    · exact isAborted_kept (launchesKept_foldl (launchesKept_refl _) (fun u a => (hf u a).1) as) ((hf s a).2 l hl hc)
    · obtain ⟨l', hl', hc', -⟩ := (hf s b).1 _ l hl
      exact ih ha hl' (hc'.trans hc)

end Sys2Proof.Machine
end

section
/-! Rotation boundaries leave committed memory alone (08_cores_launches_scheduling.md R184, R194), and the pre-emption of a context reaches its slots and its launches (14_faults_preemption.md R346, R350): O54. -/

namespace Sys2Proof.Machine

variable {s t u : State} {c : CoreId} {k : SlotId} {n : CtxId}

theorem settled_atBoundary (h : Settled s t) (c : CoreId) (k : SlotId) : Settled s (t.atBoundary c k) := settled_postOnce h _ _

theorem settled_enterCtx (h : Settled s t) (c : CoreId) (n : CtxId) : Settled s (t.enterCtx c n) :=
  settled_ite h (settled_setCore h _ _)

theorem settled_writeImage (h : Settled s t) (c : CoreId) (q : SeqNo) : Settled s (t.writeImage c q) := by
  unfold State.writeImage
  extract_lets image x t1
  have h1 : Settled s t1 := settled_ite h (settled_setCore h _ _)
  clear_value image
  split
  · exact settled_trans h1 (settled_lsOutside _ _ _ _)
  · exact h1

theorem settled_applyWrite (s : State) (c : CoreId) (k : SlotId) (e : BitVec 128) : Settled s (s.applyWrite c k e) := by
  unfold State.applyWrite
  extract_lets y s1 cls _ s2 s3 s4
  have h1 : Settled s s1 := settled_rouse s c
  have h3 : Settled s s3 := settled_writeImage (settled_enterCtx (settled_setSlot h1 _ _ _) _ _) _ _
  have h4 : Settled s s4 := settled_setSlot h1 _ _ _
  exact settled_ite (settled_setSlot h1 _ _ _) (settled_ite
    (settled_ite (settled_atBoundary h1 c k) (settled_ite (settled_atBoundary h3 c k)
      (settled_ite (settled_postOnce h3 _ _) (settled_ite (settled_postOnce h3 _ _) (settled_atBoundary h3 c k)))))
    (settled_ite (settled_postOnce h4 _ _) h4))

theorem lasting_runSlot (s : State) (c : CoreId) (k : SlotId) : Lasting s (s.runSlot c k) := by
  have hr := lasting_refl s
  unfold State.runSlot
  extract_lets y e
  split
  · exact hr
  · exact lasting_ite (lasting_finishStop s c k) (lasting_postTurn (lasting_setSlot hr _ _ _) _ _)
  · exact lasting_ite hr (lasting_ite (lasting_slotDone s c k) (lasting_postTurn (lasting_setSlot hr _ _ _) _ _))

theorem lasting_dispatch (s : State) (c : CoreId) (k : SlotId) : Lasting s (s.dispatch c k) := by
  unfold State.dispatch
  extract_lets y
  split
  · exact lasting_settled (settled_applyWrite s c k _)
  · exact lasting_ite (lasting_runSlot s c k) (lasting_refl s)

/-- A rotation passes: committed memory and the launches are still there. -/
theorem lasting_nextRotation (s : State) : Lasting s s.nextRotation := by
  unfold State.nextRotation
  extract_lets s1 s2 due freed s3
  have h1 : Lasting s s1 := lasting_settled ⟨rfl, rfl, rfl⟩
  have h2 : Lasting s s2 := lasting_ite h1 (lasting_trans h1 (lasting_settled (settled_post (settled_refl s1) _)))
  have h3 : Lasting s s3 := lasting_foldl h2 (fun u _ => lasting_dispatch u _ _) _
  exact lasting_ite (lasting_trans h3 (lasting_settled (settled_pokeLaunches s3))) h3

/-- Every slot with a pre-emption trap due still has it. -/
structure PreemptKept (s t : State) : Prop where
  slots : ∀ c k, (s.slot c k).preempt = true → (t.slot c k).preempt = true

theorem preemptKept_refl (s : State) : PreemptKept s s := ⟨fun _ _ => id⟩
theorem preemptKept_trans (h : PreemptKept s t) (h' : PreemptKept t u) : PreemptKept s u :=
  ⟨fun c k hp => h'.slots c k (h.slots c k hp)⟩

theorem preemptKept_slots (h : ∀ c k, t.slot c k = s.slot c k) : PreemptKept s t := ⟨fun c k hp => by rw [h, hp]⟩

theorem preemptKept_foldl {α : Type} {f : State → α → State} (h : PreemptKept s t) (hf : ∀ u a, PreemptKept u (f u a)) (l : List α) :
    PreemptKept s (l.foldl f t) := by
  induction l generalizing t with
  | nil => exact h
  | cons a l ih => exact ih (preemptKept_trans h (hf t a))

theorem preemptKept_setSlot (s : State) (c : CoreId) (k : SlotId) {y : Slot} (hy : (s.slot c k).preempt = true → y.preempt = true) :
    PreemptKept s (s.setSlot c k y) := by
  refine ⟨fun c' k' hp => ?_⟩
  by_cases h : (c', k') = (c, k)
  · obtain ⟨rfl, rfl⟩ := Prod.ext_iff.1 h
    rw [slot_setSlot_same]
    exact hy hp
  · rw [slot_setSlot_ne _ _ _ _ _ _ h, hp]

theorem preemptKept_setCore (s : State) (c : CoreId) {x : Core} (hx : x.slots = (s.core c).slots) : PreemptKept s (s.setCore c x) :=
  preemptKept_slots fun _ _ => (kept_setCore s c x hx).slot

theorem preemptKept_setBar (s : State) (c : CoreId) (b : BitVec 3) (v : Barrier) : PreemptKept s (s.setBar c b v) :=
  preemptKept_setCore s c rfl

theorem preemptKept_postTurn (h : PreemptKept s t) (c : CoreId) (k : SlotId) : PreemptKept s (t.postTurn c k) :=
  preemptKept_trans h (preemptKept_slots fun _ _ => slot_postTurn _ _ _ _ _)

theorem preemptKept_wake (s : State) (c : CoreId) (k : SlotId) : PreemptKept s (s.wake c k) := by
  refine preemptKept_postTurn (preemptKept_setSlot s c k ?_) c k
  exact id

theorem preemptKept_wakeBarrier (s : State) (c : CoreId) (b : BitVec 3) : PreemptKept s (s.wakeBarrier c b) := by
  refine preemptKept_foldl (preemptKept_refl s) (fun u e => ?_) _
  split
  · split_ifs
    · exact preemptKept_wake u c _
    · exact preemptKept_refl u
  · exact preemptKept_refl u

theorem preemptKept_freshen (s : State) (c : CoreId) (b : BitVec 3) : PreemptKept s (s.freshen c b) := by
  unfold State.freshen
  extract_lets v
  split_ifs
  · exact preemptKept_refl s
  · split
    · exact preemptKept_setBar s c b _
    · exact preemptKept_trans (preemptKept_setBar s c b _) (preemptKept_wakeBarrier _ c b)

theorem preemptKept_rouse (s : State) (c : CoreId) : PreemptKept s (s.rouse c) := by
  unfold State.rouse
  split_ifs
  · refine preemptKept_foldl ?_ (fun u _ => preemptKept_freshen u c _) _
    exact preemptKept_setCore s c rfl
  · exact preemptKept_refl s

theorem endLoad_cores (s : State) (d : TowerId) (c : CoreId) (k : SlotId) : (s.endLoad d c k).cores = s.cores := by
  unfold State.endLoad State.loadAgain State.startAgain
  refine (foldl_keeps (g := State.cores) (fun l _ a => postOnce_cores a _ _) _).trans ?_
  refine (foldl_keeps (g := State.cores) (fun e _ a => ?_) _).trans (setEstore_cores _ _ _)
  dsimp only
  split_ifs
  · exact postOnce_cores a _ _
  · rfl

theorem preemptKept_abandon (s : State) (c : CoreId) (k : SlotId) : PreemptKept s (s.abandon c k) := by
  unfold State.abandon
  extract_lets y ready
  have hready : PreemptKept s ready := preemptKept_setSlot s c k id
  split
  case h_9 => exact preemptKept_setSlot s c k id
  case h_10 => exact preemptKept_trans hready (preemptKept_slots fun _ _ => by unfold State.slot State.core; rw [endLoad_cores])
  case h_11 =>
    split_ifs
    · exact preemptKept_refl s
    · exact ⟨hready.slots⟩
  case h_12 => exact preemptKept_refl s
  all_goals exact hready

theorem preemptKept_truncateSlot (s : State) (c : CoreId) (k : SlotId) : PreemptKept s (s.truncateSlot c k) := by
  unfold State.truncateSlot
  extract_lets y _ s1
  have h1 : PreemptKept s s1 := by
    show PreemptKept s (if _ then _ else if _ then s else s.abandon c k)
    split_ifs
    · exact preemptKept_setSlot s c k id
    · exact preemptKept_refl s
    · exact preemptKept_abandon s c k
  exact preemptKept_postTurn (preemptKept_trans h1 (preemptKept_setSlot s1 c k fun _ => rfl)) _ _

/-- Every running slot that had not been told is told (R346). -/
theorem truncateAll_tells {x : CoreId × SlotId} (hx : x ∈ s.untold n) : ((s.truncateAll n).slot x.1 x.2).preempt = true := by
  have all : ∀ (l : List (CoreId × SlotId)) (u : State), x ∈ l →
      ((l.foldl (fun s (c, k) => (s.rouse c).truncateSlot c k) u).slot x.1 x.2).preempt = true := by
    intro l
    induction l with
    | nil => intro u h; cases h
    | cons a l ih =>
      intro u h
      rw [List.foldl_cons]
      rcases List.mem_cons.1 h with rfl | h
      · refine (preemptKept_foldl (preemptKept_refl _) (fun u a => ?_) l).slots _ _ (truncateSlot_preempt _ _ _)
        exact preemptKept_trans (preemptKept_rouse u a.1) (preemptKept_truncateSlot _ a.1 a.2)
      · exact ih _ h
  exact all _ s hx

theorem truncateAll_none (h : s.untold n = []) : s.truncateAll n = s := by simp [State.truncateAll, h]

/-- The launches of a context that hold or may hold slots. -/
theorem mem_ctxLaunches {q : SeqNo} {l : Launch} (hl : s.launch q = some l) (hctx : descCtx l.desc = n) (hc : l.completed = false)
    (ha : l.aborted = false) (ho : l.origin.isSome = true) : (q, l) ∈ s.ctxLaunches n := by
  refine List.mem_filterMap.2 ⟨(q.toNat, l), tab_find_mem _ _ _ hl, ?_⟩
  simp [hctx, hc, ha, ho]

/-- With no save block every launch that a pre-emption would save is aborted (R350). -/
theorem abortUnsaved_aborts {q : SeqNo} {l : Launch} (hl : s.launch q = some l) (hctx : descCtx l.desc = n) (hc : l.completed = false)
    (ha : l.aborted = false) (ho : l.origin.isSome = true) (hs : l.hasSlots = true) : (s.abortUnsaved n).isAborted q := by
  have hmem : (q, l) ∈ s.toSave n := List.mem_filter.2 ⟨mem_ctxLaunches hl hctx hc ha ho, hs⟩
  exact foldl_aborts (g := Prod.fst) (fun u e => abortLaunch_marks u e.1) hmem hl hc

/-- A pre-emption given up aborts every launch that it had reached (R346, R350). -/
theorem abortPreempt_aborts {q : SeqNo} {l : Launch} (hl : s.launch q = some l) (hctx : descCtx l.desc = n) (hc : l.completed = false)
    (ha : l.aborted = false) (ho : l.origin.isSome = true) (hp : l.preempted = true) : (s.abortPreempt n).isAborted q := by
  unfold State.abortPreempt
  extract_lets ls y s1 s2 s3
  have hmem : (q, l) ∈ ls := List.mem_filter.2 ⟨mem_ctxLaunches hl hctx hc ha ho, hp⟩
  have h3 : Settled s s3 := settled_foldl (s := s) (t := s2) ⟨rfl, rfl, rfl⟩ (fun u _ => settled_requeue u _ _) _
  have hl3 : s3.launch q = some l := by rw [State.launch, h3.launches]; exact hl
  have hfold := foldl_aborts (g := Prod.fst) (f := fun s e => (s.modLaunch e.1 fun l => { l with preempted := false }).abortLaunch e.1)
    (fun u e => ?_) hmem hl3 hc
  · exact isAborted_kept (launchesKept_settled (settled_trans (settled_pokeQueues _) (settled_pokeLaunches _))) hfold
  · have hmod : LaunchesKept u (u.modLaunch e.1 fun l => { l with preempted := false }) := launchesKept_modLaunch u e.1 (fun _ => rfl) fun _ => rfl
    obtain ⟨hk, hm⟩ := abortLaunch_marks (u.modLaunch e.1 fun l => { l with preempted := false }) e.1
    refine ⟨launchesKept_trans hmod hk, fun l' hl' hc' => ?_⟩
    obtain ⟨l2, hl2, hc2, -⟩ := hmod _ l' hl'
    exact hm l2 hl2 (hc2.trans hc')

end Sys2Proof.Machine
end

section
/-! The capture of a pre-empted context (14_faults_preemption.md R346, R350): O54. -/

namespace Sys2Proof.Machine

variable {s t u : State} {c : CoreId} {k : SlotId} {n : CtxId}

/-- What one step of a fold brings about, and no step undoes, holds after the fold. -/
theorem foldl_reaches {α β : Type} {f : α → β → α} {p : α → Prop} {l : List β} {x : β} (hx : x ∈ l) (hs : ∀ a, p (f a x))
    (hk : ∀ a b, p a → p (f a b)) (a : α) : p (l.foldl f a) := by
  induction l generalizing a with
  | nil => cases hx
  | cons b l ih =>
    rcases List.mem_cons.1 hx with rfl | hx
    · exact List.foldlRecOn l f (hs a) fun a ha b _ => hk a b ha
    · exact ih hx _

/-- Launches looked at again are posted, no more. -/
theorem posts_pokeLaunches (s : State) : Posts s s.pokeLaunches := by
  refine posts_foldl (fun u e => ?_) _ s
  have hr := posts_refl u
  refine posts_ite hr (posts_ite (posts_postOnce _ _ _) (posts_ite (posts_ite hr (posts_postOnce _ _ _)) ?_))
  exact posts_foldl (fun v _ => posts_postOnce v _ _) _ u

/-- A table entry without its key is found no more. -/
theorem tab_find_del_same {α : Type} (t : Tab α) (n : Nat) : Tab.find (Tab.del t n) n = none := by
  unfold Tab.del
  induction t with
  | nil => rfl
  | cons e t ih =>
    obtain ⟨m, x⟩ := e
    by_cases h : m = n
    · simpa [h] using ih
    · have hk : (m != n) = true := by simpa using h
      simp only [List.filter_cons_of_pos (p := fun e : Nat × α => e.1 != n) (a := (m, x)) hk, Tab.find]
      rw [if_neg (Ne.symm h)]
      split_ifs
      · rfl
      · exact ih

/-- The STATE of an entry in which it has been replaced. -/
theorem entryState_setEntryState (e : BitVec 128) {st : Nat} (h : st < 8) : entryState (setEntryState e st) = st := by
  unfold entryState setEntryState
  rw [fieldNat_eq_extract]
  refine Nat.eq_of_testBit_eq fun i => ?_
  rw [BitVec.testBit_toNat, BitVec.getLsbD_extractLsb']
  by_cases hi : i < 3
  · rw [getLsbD_setField _ _ _ _ (by omega)]
    simp [hi]
  · have hlt : st < 2 ^ i := lt_of_lt_of_le h (Nat.pow_le_pow_right (by norm_num) (by omega) : 2 ^ 3 ≤ 2 ^ i)
    simp [hi, Nat.testBit_lt_two_pow hlt]

theorem entryState_zero : entryState 0 = 0 := by decide

/-- The slot is not the context's, or free, or saved. -/
def Slot.left (y : Slot) (n : CtxId) : Prop := entryCtx y.entry = n → entryState y.entry = 0 ∨ entryState y.entry = 5

/-- Every slot of a core is so. -/
def Core.left (x : Core) (n : CtxId) : Prop := ∀ j, (x.slot j).left n

/-- The slot after its state has been saved (R346). -/
def Slot.vacate (y : Slot) (n : CtxId) : Slot :=
  if entryCtx y.entry != n || entryState y.entry == stFree then y
  else if entryState y.entry == stDone then { entryNext := y.entryNext, lastRot := y.lastRot }
  else { entry := setEntryState y.entry stSaved, lastRot := y.lastRot }

theorem slot_vacate_left (y : Slot) (n : CtxId) : (y.vacate n).left n := by
  intro hn
  unfold Slot.vacate at hn ⊢
  by_cases hkeep : (entryCtx y.entry != n || entryState y.entry == stFree) = true
  · rw [if_pos hkeep] at hn ⊢
    simp only [hn, bne_self_eq_false, Bool.false_or, beq_iff_eq] at hkeep
    exact .inl hkeep
  · rw [if_neg hkeep]
    split_ifs
    · exact .inl entryState_zero
    · exact .inr (entryState_setEntryState _ (by decide))

theorem vacate_slots (x : Core) (n : CtxId) (mine : SeqNo → Bool) :
    (x.vacate n mine).slots = x.slots.map fun e => (e.1, e.2.vacate n) := by
  have hmap : (x.vacate n mine).slots = x.slots.map fun (e : Nat × Slot) =>
      if entryCtx e.2.entry != n || entryState e.2.entry == stFree then e
      else if entryState e.2.entry == stDone then (e.1, { entryNext := e.2.entryNext, lastRot := e.2.lastRot })
      else (e.1, { entry := setEntryState e.2.entry stSaved, lastRot := e.2.lastRot }) := by
    unfold Core.vacate
    extract_lets y
    split_ifs <;> rfl
  rw [hmap]
  refine List.map_congr_left fun e _ => ?_
  unfold Slot.vacate
  split_ifs <;> rfl

/-- A core whose state has been saved keeps no entry of the context but SAVED ones (R346). -/
theorem vacate_left (x : Core) (n : CtxId) (mine : SeqNo → Bool) : (x.vacate n mine).left n := by
  intro j
  unfold Core.slot
  rw [vacate_slots]
  refine tab_look_all _ _ _ (Slot.left · n) (fun _ => .inl entryState_zero) fun e he => ?_
  obtain ⟨e0, -, rfl⟩ := List.mem_map.1 he
  exact slot_vacate_left e0.2 n

/-- A core with an image of a launch is listed. -/
theorem mem_keys_imaged {q : SeqNo} (h : (s.core c).imaged.contains q = true) : c ∈ s.cores.keys.map (BitVec.ofNat 10) := by
  have hfind : ∃ x, Tab.find s.cores c.toNat = some x := by
    cases hx : Tab.find s.cores c.toNat with
    | some x => exact ⟨x, rfl⟩
    | none => simp [State.core, Tab.look, hx] at h
  obtain ⟨x, hx⟩ := hfind
  refine List.mem_map.2 ⟨c.toNat, List.mem_map.2 ⟨_, tab_find_mem _ _ _ hx, rfl⟩, by simp⟩

/-- The parts of the save block, and the cores that have one, after one more core of a launch. -/
def State.savePart (s : State) (e : SeqNo × Launch) (acc : List (SeqNo × CoreId × SavedCore) × List CoreId) (c : CoreId) :
    List (SeqNo × CoreId × SavedCore) × List CoreId :=
  (acc.1 ++ [(e.1, c, s.saveCore e.1 e.2 c (!acc.2.contains c))], c :: acc.2)

/-- The same after one more launch. -/
def State.saveLaunch (s : State) (acc : List (SeqNo × CoreId × SavedCore) × List CoreId) (e : SeqNo × Launch) :
    List (SeqNo × CoreId × SavedCore) × List CoreId :=
  (s.touched e.1 e.2).foldl (s.savePart e) acc

/-- The parts of the save block hold one of the launch at the core. -/
def State.hasPart (s : State) (e : SeqNo × Launch) (x : CoreId) (acc : List (SeqNo × CoreId × SavedCore) × List CoreId) : Prop :=
  ∃ b, (e.1, x, s.saveCore e.1 e.2 x b) ∈ acc.1

theorem hasPart_savePart {e e' : SeqNo × Launch} {x y : CoreId} {acc : List (SeqNo × CoreId × SavedCore) × List CoreId}
    (h : s.hasPart e x acc) : s.hasPart e x (s.savePart e' acc y) := by
  obtain ⟨b, hb⟩ := h
  exact ⟨b, List.mem_append_left _ hb⟩

/-- Every core that a launch has touched has a part. -/
theorem saveLaunch_parts {ls : List (SeqNo × Launch)} {e : SeqNo × Launch} {x : CoreId} (he : e ∈ ls) (hx : x ∈ s.touched e.1 e.2) :
    s.hasPart e x (ls.foldl s.saveLaunch ([], [])) := by
  refine foldl_reaches he (fun acc => ?_) (fun acc e' h => ?_) _
  · exact foldl_reaches hx (fun acc => ⟨_, List.mem_append_right _ (List.mem_singleton.2 rfl)⟩) (fun acc y => hasPart_savePart) acc
  · exact List.foldlRecOn (motive := s.hasPart e x) _ (s.savePart e') h fun acc ha y _ => hasPart_savePart ha

/-- Each core listed is left once all have been vacated. -/
theorem foldl_vacate {cs : List CoreId} {x : CoreId} (hx : x ∈ cs) (mine : SeqNo → Bool) (u : State) :
    ((cs.foldl (fun s c => s.setCore c ((s.core c).vacate n mine)) u).core x).left n := by
  refine foldl_reaches (p := fun u => (u.core x).left n) hx (fun u => ?_) (fun u c h => ?_) u
  · rw [core_setCore_same]
    exact vacate_left _ n mine
  · rw [core_setCore]
    split_ifs
    · exact vacate_left _ n mine
    · exact h

theorem tokenBars_none (h : s.token = none) (lines : List Nat) : s.tokenBars lines = false := by
  simp [State.tokenBars, State.tokenHit, h]

/-- Steps 5 and 6 of R346, when no holder of the token bars them. -/
theorem capture_ok (htoken : s.token = none) : ∃ sv, ((s.capture n).ctx n).preempting = none ∧ (s.capture n).saves.find n.toNat = some sv
    ∧ ∀ q l, (q, l) ∈ s.toSave n → q ∈ sv.launches ∧ ∀ x ∈ s.touched q l,
      (∃ b, (q, s.saveCore q l x b) ∈ sv.cores) ∧ ((s.capture n).core x).left n := by
  unfold State.capture
  extract_lets ls parts owed pieces mine cmds all rings outboxes sv s1 s2 s3
  rw [if_neg (by rw [tokenBars_none htoken]; exact Bool.false_ne_true)]
  refine ⟨sv, ?_, ?_, fun q l hql => ⟨List.mem_map.2 ⟨_, hql, rfl⟩, fun x hx => ⟨?_, ?_⟩⟩⟩
  · rw [(posts_pokeLaunches _).rest]
    exact congrArg Ctx.preempting (ctx_setCtx_same s2 n _)
  · rw [(posts_pokeLaunches _).rest]
    exact tab_find_put_same _ _ _
  · obtain ⟨b, hb⟩ := saveLaunch_parts (s := s) hql hx
    exact ⟨b, List.mem_map.2 ⟨_, hb, rfl⟩⟩
  · rw [(posts_pokeLaunches _).rest]
    exact foldl_vacate (mem_keys_imaged (List.mem_filter.1 hx).2) mine s1

end Sys2Proof.Machine
end

section
/-! Pre-emption of a context, its time-out and its resume (14_faults_preemption.md R346 to R352): O54. -/

namespace Sys2Proof.Machine

variable {s t u : State} {n : CtxId}

theorem exec_preemption (hcur : s.cur = .ctx n) : exec .preemption s = .next (
    if (s.saves.find n.toNat).isSome then s
    else if (s.ctx n).preempting.isNone then (if s.saveBlockOk n then s.beginPreempt n else s.abortUnsaved n)
    else if !(s.truncateAll n).preemptReady n then (s.truncateAll n).postOnce (.ctx n) .preemption
    else if (s.truncateAll n).saveBlockOk n then (s.truncateAll n).capture n else (s.truncateAll n).abortPreempt n) := by
  rw [arm_preemption]
  unfold execPreemption
  rw [hcur]
  dsimp only
  split_ifs <;> rfl

theorem preemption_saved (hcur : s.cur = .ctx n) (hsave : (s.saves.find n.toNat).isSome = true) : exec .preemption s = .next s := by
  rw [exec_preemption hcur, if_pos hsave]

theorem preemption_begins (hcur : s.cur = .ctx n) (hsave : (s.saves.find n.toNat).isSome = false) (hp : (s.ctx n).preempting = none) :
    exec .preemption s = .next (if s.saveBlockOk n then s.beginPreempt n else s.abortUnsaved n) := by
  rw [exec_preemption hcur, if_neg (by rw [hsave]; exact Bool.false_ne_true), if_pos (by rw [hp]; rfl)]

theorem preemption_looks (hcur : s.cur = .ctx n) (hsave : (s.saves.find n.toNat).isSome = false) (hp : (s.ctx n).preempting ≠ none) :
    exec .preemption s = .next (if !(s.truncateAll n).preemptReady n then (s.truncateAll n).postOnce (.ctx n) .preemption
      else if (s.truncateAll n).saveBlockOk n then (s.truncateAll n).capture n else (s.truncateAll n).abortPreempt n) := by
  rw [exec_preemption hcur, if_neg (by rw [hsave]; exact Bool.false_ne_true), if_neg (by simpa using hp)]

/-- A pre-emption that begins has its next look and its time-out to come. -/
theorem beginPreempt_posts (s : State) (n : CtxId) :
    .event (.ctx n) .preemption ∈ (s.beginPreempt n).agenda ∧ .event (.ctx n) .preemptionTimeout ∈ (s.beginPreempt n).agenda := by
  unfold State.beginPreempt
  exact ⟨mem_postEvent.2 (.inl rfl), mem_postEvent.2 (.inr (mem_postEvent.2 (.inl rfl)))⟩

/-- While the context is not ready, its slots are told and the event comes again. -/
theorem preemption_waits (hcur : s.cur = .ctx n) (hsave : (s.saves.find n.toNat).isSome = false) (hp : (s.ctx n).preempting ≠ none)
    (hready : (s.truncateAll n).preemptReady n = false) : ∃ u, exec .preemption s = .next u ∧ u.mem = s.mem
      ∧ .event (.ctx n) .preemption ∈ u.agenda ∧ (∀ x ∈ s.untold n, (u.slot x.1 x.2).preempt = true) ∧ (s.untold n = [] → u.cores = s.cores) := by
  refine ⟨(s.truncateAll n).postOnce (.ctx n) .preemption, ?_, ?_, mem_postOnce.2 (.inl rfl), fun x hx => ?_, fun h => ?_⟩
  · rw [preemption_looks hcur hsave hp, hready]
    rfl
  · rw [postOnce_mem, (settled_truncateAll s n).mem]
  · rw [slot_postOnce, truncateAll_tells hx]
  · rw [postOnce_cores, truncateAll_none h]

theorem preemption_ready (hcur : s.cur = .ctx n) (hsave : (s.saves.find n.toNat).isSome = false) (hp : (s.ctx n).preempting ≠ none)
    (htold : s.untold n = []) (hready : s.preemptReady n = true) :
    exec .preemption s = .next (if s.saveBlockOk n then s.capture n else s.abortPreempt n) := by
  rw [preemption_looks hcur hsave hp, truncateAll_none htold, hready]
  rfl

/-- What the pre-emption event does to a context that is not saved yet (R346, R350). -/
theorem preemption_ok (hcur : s.cur = .ctx n) (hsave : (s.saves.find n.toNat).isSome = false) :
    ((s.ctx n).preempting = none → s.saveBlockOk n = false → ∃ u, exec .preemption s = .next u
      ∧ ∀ q l, s.launch q = some l → descCtx l.desc = n → l.completed = false → l.aborted = false → l.origin.isSome = true → l.hasSlots = true →
        u.isAborted q)
    ∧ ((s.ctx n).preempting = none → s.saveBlockOk n = true → ∃ u, exec .preemption s = .next u
      ∧ .event (.ctx n) .preemption ∈ u.agenda ∧ .event (.ctx n) .preemptionTimeout ∈ u.agenda)
    ∧ ((s.ctx n).preempting ≠ none → s.untold n = [] → s.preemptReady n = true → s.saveBlockOk n = true → s.token = none →
      ∃ u sv, exec .preemption s = .next u ∧ (u.ctx n).preempting = none ∧ u.saves.find n.toNat = some sv
        ∧ ∀ q l, (q, l) ∈ s.toSave n → q ∈ sv.launches ∧ ∀ x ∈ s.touched q l,
          (∃ b, (q, s.saveCore q l x b) ∈ sv.cores) ∧ (u.core x).left n)
    ∧ ((s.ctx n).preempting ≠ none → s.untold n = [] → s.preemptReady n = true → s.saveBlockOk n = false →
      exec .preemption s = .next (s.abortPreempt n)) := by
  refine ⟨fun hp hblock => ⟨s.abortUnsaved n, ?_, fun q l hl hctx hc ha ho hs => abortUnsaved_aborts hl hctx hc ha ho hs⟩,
    fun hp hblock => ⟨s.beginPreempt n, ?_, beginPreempt_posts s n⟩, fun hp htold hready hblock htoken => ?_, fun hp htold hready hblock => ?_⟩
  · rw [preemption_begins hcur hsave hp, hblock]
    rfl
  · rw [preemption_begins hcur hsave hp, hblock]
    rfl
  · obtain ⟨sv, hsv⟩ := capture_ok (n := n) htoken
    refine ⟨s.capture n, sv, ?_, hsv⟩
    rw [preemption_ready hcur hsave hp htold hready, hblock]
    rfl
  · rw [preemption_ready hcur hsave hp htold hready, hblock]
    rfl

theorem preemptionTimeout_none (hcur : s.cur = .ctx n) (hp : (s.ctx n).preempting = none) : exec .preemptionTimeout s = .next s := by
  rw [arm_preemptionTimeout]
  simp only [execPreemptionTimeout, hcur, hp]

theorem preemptionTimeout_some {r : Nat} (hcur : s.cur = .ctx n) (hp : (s.ctx n).preempting = some r) : exec .preemptionTimeout s =
    .next (s.timed (r + 2 ^ 18) (.ctx n) .preemptionTimeout fun s =>
      if s.acknowledged n && (s.untold n).isEmpty then s else (s.reportTimeout n).abortPreempt n) := by
  rw [arm_preemptionTimeout]
  simp only [execPreemptionTimeout, hcur, hp, preemptLimit]

/-- Where something else can move, no rotation passes. -/
def State.passed (s : State) : State := if s.agenda.all Pick.timed then s.nextRotation else s

theorem passed_mem (s : State) : s.passed.mem = s.mem := by
  unfold State.passed
  split_ifs
  · exact (lasting_nextRotation s).mem
  · rfl

theorem passed_waits (h : ∃ p ∈ s.agenda, p.timed = false) : s.passed = s := by
  obtain ⟨p, hp, ht⟩ := h
  refine if_neg fun hall => ?_
  rw [List.all_eq_true] at hall
  exact Bool.false_ne_true (ht.symm.trans (hall p hp))

theorem timed_early {e : Nat} (h : s.rot < e) (a : Agent) (i : Instr) (fire : State → State) :
    s.timed e a i fire = { s.passed with agenda := s.passed.agenda ++ [.event a i] } := if_neg (Nat.not_le.2 h)

theorem timed_due {e : Nat} (h : e ≤ s.rot) (a : Agent) (i : Instr) (fire : State → State) : s.timed e a i fire = fire s := if_pos h

/-- Before the time has passed the time-out comes again. -/
theorem preemptionTimeout_early {r : Nat} (hcur : s.cur = .ctx n) (hp : (s.ctx n).preempting = some r) (hr : s.rot < r + 2 ^ 18) :
    ∃ u, exec .preemptionTimeout s = .next u ∧ u.mem = s.mem ∧ .event (.ctx n) .preemptionTimeout ∈ u.agenda
      ∧ ((∃ p ∈ s.agenda, p.timed = false) → u.cores = s.cores) := by
  refine ⟨{ s.passed with agenda := s.passed.agenda ++ [.event (.ctx n) .preemptionTimeout] }, ?_, passed_mem s, by simp, fun h => ?_⟩
  · rw [preemptionTimeout_some hcur hp, timed_early hr]
  · rw [passed_waits h]

/-- After it, the pre-emption is given up unless every slot has acknowledged. -/
theorem preemptionTimeout_due {r : Nat} (hcur : s.cur = .ctx n) (hp : (s.ctx n).preempting = some r) (hr : r + 2 ^ 18 ≤ s.rot) :
    (s.acknowledged n = true → s.untold n = [] → exec .preemptionTimeout s = .next s)
    ∧ (s.acknowledged n = false ∨ s.untold n ≠ [] → exec .preemptionTimeout s = .next ((s.reportTimeout n).abortPreempt n)) := by
  rw [preemptionTimeout_some hcur hp, timed_due hr]
  refine ⟨fun hack htold => by rw [hack, htold]; rfl, fun h => ?_⟩
  rw [if_neg]
  rcases h with h | h <;> simp [h]

theorem contextResume_none (hcur : s.cur = .ctx n) (hv : s.saves.find n.toNat = none) : exec .contextResume s = .next s := by
  rw [arm_contextResume]
  simp only [execContextResume, hcur, hv]

theorem contextResume_some {v : Save} (hcur : s.cur = .ctx n) (hv : s.saves.find n.toNat = some v) :
    exec .contextResume s = .next (s.resumeCtx n v) := by
  rw [arm_contextResume]
  simp only [execContextResume, hcur, hv]

theorem pokeQueues_saves (s : State) : s.pokeQueues.saves = s.saves := by
  have hstop : ∀ (u : State) d q, (u.stopQueue d q).saves = u.saves := fun _ _ _ => rfl
  refine foldl_keeps (g := State.saves) (fun x _ u => ?_) s
  unfold State.pokeQueue State.queueNext
  dsimp only
  split_ifs
  · rfl
  · split <;> simp [hstop]
  · split <;> simp [hstop]

theorem clearSaved_saves (s : State) (n : CtxId) : (s.clearSaved n).saves = s.saves := by
  refine foldl_keeps (g := State.saves) (fun x _ u => ?_) s
  dsimp only
  split_ifs <;> rfl

theorem releaseHeld_saves (s : State) (n : CtxId) : (s.releaseHeld n).saves = s.saves :=
  foldl_keeps (g := State.saves) (fun _ _ u => postOnce_saves u _ _) _

/-- What is left to do when a save block holds nothing to restore. -/
theorem resumeCtx_empty {v : Save} (hl : s.savedLaunches v = []) (hr : v.rings = []) (ho : v.outboxes = []) :
    ∃ t : State, s.resumeCtx n v = (((t.clearSaved n).releaseHeld n).pokeQueues).pokeLaunches ∧ t.saves = s.saves.del n.toNat ∧ t.mem = s.mem := by
  refine ⟨{ s.setCtx n { s.ctx n with tilesWait := [] } with saves := s.saves.del n.toNat }, ?_, rfl, rfl⟩
  unfold State.resumeCtx
  simp only [hl, State.resumeAll, State.resumeTraffic, hr, ho, List.foldl_nil]
  rfl

theorem contextResume_empty {v : Save} (hcur : s.cur = .ctx n) (hv : s.saves.find n.toNat = some v) (hl : s.savedLaunches v = [])
    (hr : v.rings = []) (ho : v.outboxes = []) :
    ∃ u, exec .contextResume s = .next u ∧ u.saves.find n.toNat = none ∧ u.mem = s.mem := by
  obtain ⟨t, ht, hsaves, hmem⟩ := resumeCtx_empty (n := n) hl hr ho
  refine ⟨s.resumeCtx n v, contextResume_some hcur hv, ?_, ?_⟩
  · rw [ht, (posts_pokeLaunches _).rest]
    show (State.pokeQueues _).saves.find _ = _
    rw [pokeQueues_saves, releaseHeld_saves, clearSaved_saves, hsaves, tab_find_del_same]
  · rw [ht, (settled_pokeLaunches _).mem, (settled_pokeQueues _).mem, (settled_releaseHeld _ n).mem, (settled_clearSaved t n).mem, hmem]

/-- A launch that finds no place: the resume comes again, and nothing has been restored. -/
theorem contextResume_waits {v : Save} (hcur : s.cur = .ctx n) (hv : s.saves.find n.toNat = some v) (hmove : ∃ p ∈ s.agenda, p.timed = false)
    (hnone : (s.setCtx n { s.ctx n with tilesWait := [] }).resumeAll n v (s.savedLaunches v) [] = none) :
    ∃ u, exec .contextResume s = .next u ∧ u.cores = s.cores ∧ u.saves = s.saves ∧ u.mem = s.mem ∧ .event (.ctx n) .contextResume ∈ u.agenda := by
  have hctx : s.resumeCtx n v = s.passed.postOnce (.ctx n) .contextResume := by
    unfold State.resumeCtx
    simp only [hnone]
    rfl
  refine ⟨s.postOnce (.ctx n) .contextResume, ?_, by simp, by simp, by simp, mem_postOnce.2 (.inl rfl)⟩
  rw [contextResume_some hcur hv, hctx, passed_waits hmove]

end Sys2Proof.Machine
end

section
/-! Grants in their order, the priority token, held steps, pre-emption and resume (09_chunks_and_consistency.md R211 to R228, 14_faults_preemption.md R334, R346 to R352, 17_host_and_links.md R392, R393): O54. -/

namespace Sys2Proof.Machine

variable {s : State} {c : CoreId} {k : SlotId} {n : CtxId}

theorem priorityTokenGrant_next {r : Request} {rest : List Request} (ht : s.token = none) (hq : s.tokenQ = r :: rest) :
    exec .priorityTokenGrant s = .next { s with token := some r, tokenQ := rest } := by
  rw [arm_priorityTokenGrant]
  unfold execPriorityTokenGrant
  rw [ht, hq]

theorem priorityTokenGrant_idle (h : s.token ≠ none ∨ s.tokenQ = []) : exec .priorityTokenGrant s = .next s := by
  rw [arm_priorityTokenGrant]
  unfold execPriorityTokenGrant
  cases ht : s.token with
  | some r => rfl
  | none => rw [h.resolve_left (absurd ht)]

theorem rerunFailed_some {i : Instr} {p : State → Host.Outcome State Fault Refusal} {t : State} (hp : performer i = some p)
    (ht : p { s.readied c k with answer := some 3 } = .next t) : rerunFailed i c k s = .next { t with answer := none } := by
  unfold rerunFailed
  simp only [hp]
  rw [show p { s.setSlot c k { s.slot c k with park := .ready } with answer := some 3 } = .next t from ht]

theorem rerunFailed_none {i : Instr} (hp : performer i = none) : rerunFailed i c k s = .next { s.issueSoon c k with answer := some 3 } := by
  simp [rerunFailed, hp]

/-- A performed step of its own is the instruction's meaning on the ready slot. -/
theorem heldSteps_perform (hcur : s.cur = .slot c k) {i : Instr} {p : State → Host.Outcome State Fault Refusal} (hp : performer i = some p) :
    ((s.slot c k).park = .solo i → exec .soloStep s = p (s.readied c k))
    ∧ ((s.slot c k).park = .edge i → exec .edgeAccess s = p (s.readied c k))
    ∧ ∀ t, (s.slot c k).park = .edge i → p { s.readied c k with answer := some 3 } = .next t →
        exec .edgeCompletionTimeout s = .next { t with answer := none } ∧ exec .peerResponseTimeout s = .next { t with answer := none } := by
  refine ⟨fun hpark => (soloStep_held hcur (held_solo hpark)).trans (rerun_some hp),
    fun hpark => (edgeAccess_held hcur (held_edge hpark)).trans (rerun_some hp), fun t hpark ht => ?_⟩
  have hun : unanswered s = .next { t with answer := none } := (unanswered_held hcur (held_edge hpark)).trans (rerunFailed_some hp ht)
  exact ⟨(exec_edgeCompletionTimeout s).trans hun, (exec_peerResponseTimeout s).trans hun⟩

/-- A step of a form-mode or tile instruction issues at the slot's next turn, which comes first. -/
theorem heldSteps_issue (hcur : s.cur = .slot c k) {i : Instr} (hp : performer i = none) :
    ((s.slot c k).park = .solo i → ∃ u, exec .soloStep s = .next u ∧ OnlySlot s u c k ∧ u.slot c k = { s.slot c k with park := .ready }
      ∧ u.agenda.head? = some (.turn c k))
    ∧ ((s.slot c k).park = .edge i →
      (∃ u, exec .edgeAccess s = .next u ∧ OnlySlot s u c k ∧ u.slot c k = { s.slot c k with park := .ready }
        ∧ u.agenda.head? = some (.turn c k))
      ∧ ∃ u, exec .edgeCompletionTimeout s = .next u ∧ exec .peerResponseTimeout s = .next u ∧ u.answer = some 3
        ∧ u.slot c k = { s.slot c k with park := .ready }) := by
  refine ⟨fun hpark => soloStep_held hcur (held_solo hpark) ▸ rerun_issues hp, fun hpark => ⟨edgeAccess_held hcur (held_edge hpark) ▸ rerun_issues hp, ?_⟩⟩
  have hun : unanswered s = .next { s.issueSoon c k with answer := some 3 } :=
    (unanswered_held hcur (held_edge hpark)).trans (rerunFailed_none hp)
  exact ⟨_, (exec_edgeCompletionTimeout s).trans hun, (exec_peerResponseTimeout s).trans hun, rfl, slot_issueSoon s c k⟩

/-- A slot that holds no such instruction is left alone. -/
theorem heldSteps_idle (hcur : s.cur = .slot c k) :
    ((s.slot c k).held false = none → exec .soloStep s = .next s)
    ∧ ((s.slot c k).held true = none → exec .edgeAccess s = .next s ∧ exec .edgeCompletionTimeout s = .next s ∧ exec .peerResponseTimeout s = .next s) := by
  refine ⟨soloStep_idle hcur, fun h => ⟨edgeAccess_idle hcur h, ?_, ?_⟩⟩
  · exact (exec_edgeCompletionTimeout s).trans (unanswered_idle hcur h)
  · exact (exec_peerResponseTimeout s).trans (unanswered_idle hcur h)

/-- Settles O54. The bid granted clashes with none that comes before it in the order of R220, and may pass one only where no observer can tell (R364, log entry 117); the grant's one point of commit is `grantSlot_plain`, and an abort reaches its launches by `foldl_aborts`. -/
theorem grantAndPreemptionEvents : Obligations.GrantAndPreemptionEvents := by
  unfold Obligations.GrantAndPreemptionEvents
  intro s c k n y
  refine ⟨fun hcur => ⟨commitGrant_empty hcur, fun b v h => ?_, fun hall => ⟨fun h => ?_, fun b v h hup => commitGrant_asleep hcur hall h hup,
      fun b v w h hreq hw hup heff hrec hrpl hbehind hrun hpark => ?_⟩, fun r rest => priorityTokenGrant_next, priorityTokenGrant_idle⟩,
    fun hcur => ⟨livelockWatchdog_traps hcur, livelockWatchdog_idle hcur, fun i p hpark hp => (heldSteps_perform hcur hp).1 hpark,
      fun i p hpark hp => (heldSteps_perform hcur hp).2.1 hpark, fun i p t hpark hp => (heldSteps_perform hcur hp).2.2 t hpark,
      fun i hpark hp => (heldSteps_issue hcur hp).1 hpark, fun i hpark hp => (heldSteps_issue hcur hp).2 hpark,
      (heldSteps_idle hcur).1, (heldSteps_idle hcur).2, postedWriteCompletion_ok hcur, unassignedOpcode_slot hcur⟩,
    fun e w hcur => unassignedOpcode_engine hcur w,
    fun hcur => ⟨preemption_saved hcur, fun hsave => ?_, preemptionTimeout_none hcur,
      fun r => preemptionTimeout_early hcur, fun r => preemptionTimeout_due hcur, contextResume_none hcur,
      fun v hv => ⟨contextResume_empty hcur hv, contextResume_waits hcur hv⟩⟩,
    fun q l => abortPreempt_aborts, truncateSlot_pending, truncateSlot_ready,
    fun b _ _ hawait _ hvec hinh htiles hlow => ?_, fun q l x tiles => resumeSlot_ok q l x tiles⟩
  · obtain ⟨hreq, hchunk, hadmits, hbid, hfree, hfirst⟩ := nextBid_spec h
    exact ⟨(nextBid_mem h).2, hreq, hchunk, hadmits, hbid, hfree, hfirst⟩
  · refine ⟨_, commitGrant_none hcur hall h, ?_⟩
    rw [(posts_lookAgain s).rest]
    exact ⟨rfl, rfl, rfl, rfl⟩
  · obtain ⟨u, hu, hmem, htoken, hturn, hslot⟩ := commitGrant_slot hcur hall h hreq hw hup heff hrec hrpl hbehind hrun hpark
    exact ⟨u, hu, hmem, htoken, hturn, _, hslot, rfl, rfl, rfl, rfl, rfl, rfl⟩
  · obtain ⟨hunsaved, hbegin, hcapture, habort⟩ := preemption_ok hcur hsave
    exact ⟨hunsaved, hbegin, preemption_waits hcur hsave, hcapture, habort⟩
  · rw [preemptTurn_eq htiles hlow]
    exact ⟨_, slot_preemptNow hawait hvec hinh, rfl, rfl, rfl⟩

end Sys2Proof.Machine
end

section
/-! Scalar integer results (04_scalar_and_control.md R96 to R101): O1, O3, O4, O5. -/

namespace Sys2Proof.Machine

section integer
variable {s u : State} {c : CoreId} {k : SlotId} {i : Instr} {f : Fields}

/-- An instruction that writes a value of the operands to its destination. -/
theorem gives_value {x : State → Word} {v : Word} (h : Issues i f 1 s c k) (e : exec i s = scalar i f s (toDst f x)) (hv : x s = v) :
    Gives i s c k (s.regs.putDst f.dst v).advance := hv ▸ gives_dst h e

/-- An operation on both operands writes its exact value wrapped or clamped to the type (R96). -/
theorem gives_arith {op : Int → Int → Int} {v : Int} (h : Issues i f 1 s c k) (e : exec i s = scalar i f s (arith f op))
    (hv : op (s.operand f f.src1) (s.operand f f.src2) = v) :
    Gives i s c k (s.regs.putDst f.dst (extend (modTy f.mod) (modSat f.mod) v)).advance :=
  gives_value h e (congrArg (extend (modTy f.mod) (modSat f.mod)) hv)

/-- A bitwise operation writes the pattern extended by the type (R96). -/
theorem gives_bitwise {op : Word → Word → Word} {v : Word} (h : Issues i f 1 s c k) (e : exec i s = scalar i f s (bitwise f op))
    (hv : op (s.src f.src1) (s.src f.src2) = v) : Gives i s c k (s.regs.putDst f.dst (extendPat (modTy f.mod) v.toNat)).advance :=
  gives_value h e (congrArg (fun v : Word => extendPat (modTy f.mod) v.toNat) hv)

/-- A shift or rotate works on the pattern of the type's width, by the whole unsigned source (R97). -/
theorem gives_shift {op : Nat → Nat → Nat → Nat} {v : Nat} (h : Issues i f 1 s c k) (e : exec i s = scalar i f s (shift f op))
    (hv : op (tyWidth (modTy f.mod)) ((s.src f.src1).toNat % 2 ^ tyWidth (modTy f.mod)) (s.src f.src2).toNat = v) :
    Gives i s c k (s.regs.putDst f.dst (extendPat (modTy f.mod) v)).advance :=
  gives_value h e (congrArg (extendPat (modTy f.mod)) hv)

/-- A pair of G registers written, the even one low (R99, R117). -/
theorem regsNow_setPair {r : Regs} (h : RegsNow s u c k r) (hc : s.cur = .slot c k) {n : BitVec 5} {o : Operand} (ho : o = .g n) (x : BitVec 128) :
    RegsNow s (u.setPair o x) c k ((r.putG n (x.extractLsb' 0 64)).putG (n + 1) (x.extractLsb' 64 64)) := by
  subst ho
  exact regsNow_setG (regsNow_setG h hc n _) hc (n + 1) _

end integer

/-- Settles O1: each is an operation on both operands; MADD takes the old destination as a third. -/
theorem arithmeticResults : Obligations.ArithmeticResults := by
  intro f s c k x y writes
  refine ⟨fun h => gives_arith h (arm_add f s) rfl, fun h => gives_arith h (arm_sub f s) rfl, fun h => gives_arith h (arm_mul f s) rfl,
    fun h => gives_arith h (arm_mulh f s) rfl, fun h => gives_arith h (arm_minI f s) rfl, fun h => gives_arith h (arm_maxI f s) rfl,
    fun h => gives_arith h (arm_absI f s) rfl, fun h => gives_arith h (arm_negI f s) rfl, fun h => ?_⟩
  exact scalar_done h (arm_madd f s) rfl (regsNow_setDst (regsNow_refl h.cur) h.cur _ _)

/-- MULW of a type up to 32 bits writes the whole product to one register. -/
theorem gives_mulw_single {f : Fields} {s : State} {c : CoreId} {k : SlotId} (h : Issues (.mulw f) f 1 s c k) (he : tyWidth (modTy f.mod) ≠ 64) :
    Gives (.mulw f) s c k (s.regs.putDst f.dst (BitVec.ofInt 64 (s.operand f f.src1 * s.operand f f.src2))).advance :=
  scalar_done h (arm_mulw f s) (if_neg he) (regsNow_setDst (regsNow_refl h.cur) h.cur _ _)

/-- MULW of a type of 64 bits writes the whole product to a pair. -/
theorem gives_mulw_pair {f : Fields} {s : State} {c : CoreId} {k : SlotId} {n : BitVec 5} (h : Issues (.mulw f) f 1 s c k)
    (he : tyWidth (modTy f.mod) = 64) (hd : f.dst = .g n) :
    let wide := BitVec.ofInt 128 (s.operand f f.src1 * s.operand f f.src2)
    Gives (.mulw f) s c k ((s.regs.putG n (wide.extractLsb' 0 64)).putG (n + 1) (wide.extractLsb' 64 64)).advance :=
  scalar_done h (arm_mulw f s) (if_pos he) (regsNow_setPair (regsNow_refl h.cur) h.cur hd _)

/-- Settles O5: the high half by MULH, and by MULW the whole product in one register or a pair. -/
theorem wideProduct : Obligations.WideProduct := by
  intro f s c k x y wide
  exact ⟨fun h => gives_arith h (arm_mulh f s) rfl, fun h => ⟨gives_mulw_single h, fun he n hd => gives_mulw_pair h he hd⟩⟩

/-- SAR by the width or more leaves nothing but the sign. -/
theorem sarPat_of_le {e p n : Nat} (h : e ≤ n) : sarPat e p n = if p.testBit (e - 1) then 2 ^ e - 1 else 0 := by
  simp [sarPat, h]

/-- SAR by less than the width fills the places that it frees with the sign. -/
theorem sarPat_of_lt {e p n : Nat} (h : n < e) :
    sarPat e p n = (p >>> n) ||| (if p.testBit (e - 1) then (2 ^ e - 1) - ((2 ^ e - 1) >>> n) else 0) := by
  have hn : ¬ e ≤ n := by omega
  simp only [sarPat, hn, if_false]
  split_ifs <;> simp

/-- Settles O3: the bitwise operations and shifts are read off; SAR by its two ranges, and SHL by the bound at which the model stops counting. -/
theorem bitwiseAndShiftResults : Obligations.BitwiseAndShiftResults := by
  intro f s c k ty e x y p n ones writes
  refine ⟨fun h => gives_bitwise h (arm_andI f s) rfl, fun h => gives_bitwise h (arm_orI f s) rfl, fun h => gives_bitwise h (arm_xorI f s) rfl,
    fun h => gives_bitwise h (arm_andn f s) rfl, fun h => gives_bitwise h (arm_orn f s) rfl, fun hn h => ?_, fun hn h => ?_,
    fun h => gives_shift h (arm_shr f s) rfl, fun hn h => ?_, fun hn h => ?_, fun h => gives_shift h (arm_rol f s) rfl, fun h => ?_⟩
  · have hw : shlExact (s.operand f f.src1) n = s.operand f f.src1 * 2 ^ n := by rw [shlExact, min_eq_left hn]
    exact gives_value h (arm_shl f s) (congrArg (extend ty (modSat f.mod)) hw)
  · have hw : shlExact (s.operand f f.src1) n = s.operand f f.src1 * 2 ^ 64 := by rw [shlExact, min_eq_right hn]
    exact gives_value h (arm_shl f s) (congrArg (extend ty (modSat f.mod)) hw)
  · exact gives_shift h (arm_sar f s) (sarPat_of_le hn)
  · exact gives_shift h (arm_sar f s) (sarPat_of_lt hn)
  · exact gives_value h (arm_shlf f s) rfl

end Sys2Proof.Machine
end

section
/-! Counts, reversals and bit fields (04_scalar_and_control.md R98, R100, R101): O4. -/

namespace Sys2Proof.Machine

section digits
variable {b m : Nat} {d : Nat → Nat}

/-- Digits below the base, summed with their places, are the digits of the sum. -/
theorem sum_digits (hd : ∀ i < m, d i < b) :
    ∑ i ∈ Finset.range m, d i * b ^ i < b ^ m ∧ ∀ j < m, (∑ i ∈ Finset.range m, d i * b ^ i) / b ^ j % b = d j := by
  induction m with
  | zero => simp
  | succ m ih =>
    obtain ⟨hlt, hdig⟩ := ih fun i hi => hd i (by omega)
    have hm := hd m (Nat.lt_succ_self m)
    rw [Finset.sum_range_succ]
    generalize ∑ i ∈ Finset.range m, d i * b ^ i = v at hlt hdig
    have hb : 0 < b := by omega
    refine ⟨?_, fun j hj => ?_⟩
    · calc v + d m * b ^ m < b ^ m + d m * b ^ m := by omega
        _ = (d m + 1) * b ^ m := by ring
        _ ≤ b * b ^ m := Nat.mul_le_mul_right _ hm
        _ = b ^ (m + 1) := by ring
    · rcases Nat.lt_succ_iff_lt_or_eq.1 hj with hj | rfl
      · obtain ⟨q, rfl⟩ := Nat.exists_eq_add_of_lt hj
        have hsplit : v + d (j + q + 1) * b ^ (j + q + 1) = v + b ^ j * (b * (d (j + q + 1) * b ^ q)) := by ring
        rw [hsplit, Nat.add_mul_div_left _ _ (Nat.pow_pos hb), Nat.add_mul_mod_self_left, hdig j hj]
      · rw [Nat.add_mul_div_right _ _ (Nat.pow_pos hb), Nat.div_eq_of_lt hlt, Nat.zero_add, Nat.mod_eq_of_lt hm]

/-- A sum that counts its places down has its digits in the opposite order. -/
theorem foldl_digits {g : Nat → Nat} (hg : ∀ i < m, g i = d (m - 1 - i) * b ^ (m - 1 - i)) (n : Nat) :
    (List.range m).foldl (fun a i => a + g i) n = n + ∑ i ∈ Finset.range m, d i * b ^ i := by
  have hsum (l : Nat) : (List.range l).foldl (fun a i => a + g i) n = n + ∑ i ∈ Finset.range l, g i := by
    induction l with
    | zero => rfl
    | succ l ih => rw [List.range_succ, List.foldl_append, List.foldl_cons, List.foldl_nil, ih, Finset.sum_range_succ, Nat.add_assoc]
  rw [hsum, ← Finset.sum_range_reflect]
  refine congrArg (n + ·) (Finset.sum_congr rfl fun i hi => ?_)
  have hi := Finset.mem_range.1 hi
  rw [hg _ (by omega), show m - 1 - (m - 1 - i) = i by omega]

end digits

/-- The number of zeros above the highest bit that is set. -/
theorem clzPat_of_highest {e p n : Nat} (hn : n < e) (hp : p.testBit (e - 1 - n) = true) (hz : ∀ j, e - 1 - n < j → p.testBit j = false) :
    clzPat e p = n := by
  have h0 : p ≠ 0 := by rintro rfl; simp at hp
  have hlog : p.log2 = e - 1 - n := by
    refine le_antisymm ?_ ?_
    · by_contra hc
      exact absurd (Nat.testBit_log2 h0) (by simp [hz _ (by omega : e - 1 - n < p.log2)])
    · exact (Nat.le_log2 h0).2 (Nat.ge_two_pow_of_testBit hp)
  rw [clzPat, if_neg h0, hlog]
  omega

/-- The number of zeros below the lowest bit that is set. -/
theorem ctzPat_of_lowest {e p n : Nat} (hn : n < e) (hp : p.testBit n = true) (hz : ∀ j, j < n → p.testBit j = false) : ctzPat e p = n := by
  have hf : (List.range e).find? (fun i => p.testBit i) = some n :=
    List.find?_range_eq_some.2 ⟨hp, List.mem_range.2 hn, fun j hj => by simp [hz j hj]⟩
  rw [ctzPat, hf]
  rfl

/-- Zero has as many zeros below as the type is wide. -/
theorem ctzPat_zero (e : Nat) : ctzPat e 0 = e := by
  have hf : (List.range e).find? (fun i => Nat.testBit 0 i) = none := List.find?_eq_none.2 fun i _ => by simp
  rw [ctzPat, hf]
  rfl

/-- The reversed pattern as a sum of its bits. -/
theorem brevPat_eq (e p : Nat) : brevPat e p = ∑ i ∈ Finset.range e, bit (p.testBit (e - 1 - i)) * 2 ^ i := by
  have hf : (fun a i => if p.testBit i then a + 2 ^ (e - 1 - i) else a) = fun a i => a + bit (p.testBit i) * 2 ^ (e - 1 - i) := by
    funext a i
    cases p.testBit i <;> simp [bit]
  rw [brevPat, hf, foldl_digits (d := fun i => bit (p.testBit (e - 1 - i))) (b := 2) fun i hi => ?_, Nat.zero_add]
  rw [show e - 1 - (e - 1 - i) = i by omega]

/-- BREV: bit j of the pattern is bit e - 1 - j of the result (R98). -/
theorem brevPat_bits (e p : Nat) : brevPat e p < 2 ^ e ∧ ∀ j < e, (brevPat e p).testBit (e - 1 - j) = p.testBit j := by
  rw [brevPat_eq]
  obtain ⟨hlt, hdig⟩ := sum_digits (b := 2) (m := e) (d := fun i => bit (p.testBit (e - 1 - i))) fun i _ => by
    cases p.testBit (e - 1 - i) <;> simp [bit]
  refine ⟨hlt, fun j hj => ?_⟩
  rw [Nat.testBit_eq_decide_div_mod_eq, hdig _ (by omega), show e - 1 - (e - 1 - j) = j by omega]
  cases p.testBit j <;> rfl

/-- The pattern with its bytes reversed as a sum of its bytes. -/
theorem bswapPat_eq {e m : Nat} (he : e = 8 * m) (p : Nat) :
    bswapPat e p = ∑ i ∈ Finset.range m, p / 2 ^ (8 * (m - 1 - i)) % 256 * 256 ^ i := by
  subst he
  rw [bswapPat, Nat.mul_div_cancel_left m (by decide), foldl_digits (d := fun i => p / 2 ^ (8 * (m - 1 - i)) % 256) (b := 256) fun i hi => ?_,
    Nat.zero_add]
  rw [show m - 1 - (m - 1 - i) = i by omega, show 8 * m - 8 - 8 * i = 8 * (m - 1 - i) by omega, show 256 = 2 ^ 8 by rfl, ← pow_mul 2 8]

/-- BSWAP: byte j of the pattern is byte e / 8 - 1 - j of the result (R98). -/
theorem bswapPat_bytes {e m : Nat} (he : e = 8 * m) (p : Nat) :
    bswapPat e p < 2 ^ e ∧ ∀ j < m, bswapPat e p / 2 ^ (8 * (m - 1 - j)) % 256 = p / 2 ^ (8 * j) % 256 := by
  obtain ⟨hlt, hdig⟩ := sum_digits (b := 256) (m := m) (d := fun i => p / 2 ^ (8 * (m - 1 - i)) % 256) fun i _ => Nat.mod_lt _ (by decide)
  rw [bswapPat_eq he]
  refine ⟨?_, fun j hj => ?_⟩
  · rwa [he, pow_mul]
  · rw [show 2 ^ (8 * (m - 1 - j)) = 256 ^ (m - 1 - j) from pow_mul 2 8 _, hdig _ (by omega), show m - 1 - (m - 1 - j) = j by omega]

/-- Every integer type is whole bytes wide (R35). -/
theorem tyWidth_bytes (ty : Nat) : tyWidth ty = 8 * (tyWidth ty / 8) := by
  have : ∀ r : Fin 4, 8 <<< r.val = 8 * (8 <<< r.val / 8) := by decide
  exact this ⟨ty % 4, Nat.mod_lt _ (by decide)⟩

/-- The position and the width of a bit field (R100). -/
theorem fieldPos_eq (x : Word) : fieldPos x = x.toNat % 64 := rfl
theorem fieldWidth_eq (x : Word) : fieldWidth x = x.toNat / 64 % 64 + 1 := by
  rw [fieldWidth, fieldNat, Nat.shiftRight_eq_div_pow]
  rfl

/-- Settles O4: counts by the highest and the lowest bit that is set, reversals digit by digit, and fields by their position and width. -/
theorem bitFieldResults : Obligations.BitFieldResults := by
  intro f s c k ty e x p pos w m field writes
  have hclz (h : Issues (.clz f) f 1 s c k) :
      Gives (.clz f) s c k (s.regs.putDst f.dst (BitVec.ofNat 64 (clzPat e p))).advance := gives_value h (arm_clz f s) rfl
  have hctz (h : Issues (.ctz f) f 1 s c k) :
      Gives (.ctz f) s c k (s.regs.putDst f.dst (BitVec.ofNat 64 (ctzPat e p))).advance := gives_value h (arm_ctz f s) rfl
  have hbrev := brevPat_bits e p
  have hbswap := bswapPat_bytes (tyWidth_bytes ty) p
  refine ⟨fun hp h => ?_, fun n hn hp hz h => ?_, fun hp h => ?_, fun n hn hp hz h => ?_, fun h => gives_value h (arm_popc f s) rfl,
    ⟨_, hbrev.1, hbrev.2, fun h => gives_value h (arm_brev f s) rfl⟩, ⟨_, hbswap.1, hbswap.2, fun h => gives_value h (arm_bswap f s) rfl⟩,
    fun h => ?_, fun h => ?_, fun h => gives_value h (arm_ext f s) rfl⟩
  · have hw : clzPat e p = e := by rw [hp]; rfl
    exact hw ▸ hclz h
  · exact clzPat_of_highest hn hp hz ▸ hclz h
  · have hw : ctzPat e p = e := by rw [hp]; exact ctzPat_zero e
    exact hw ▸ hctz h
  · exact ctzPat_of_lowest hn hp hz ▸ hctz h
  · refine gives_value h (arm_bfx f s) ?_
    simp only [fieldPos_eq, fieldWidth_eq, fieldNat, Nat.shiftRight_eq_div_pow]
    rfl
  · refine gives_value h (arm_bfi f s) ?_
    simp only [fieldPos_eq, fieldWidth_eq]
    rfl

end Sys2Proof.Machine
end

section
/-! Compares, predicate logic, moves and addresses (04_scalar_and_control.md R102 to R108): O6, O7. -/

namespace Sys2Proof.Machine

section predicates
variable {s : State} {c : CoreId} {k : SlotId} {f : Fields}

theorem bne_eq_decide_ne {α : Type} [DecidableEq α] (x y : α) : (x != y) = decide (x ≠ y) := decide_not.symm

/-- CMP writes the mask of the condition that its destination names, and its complement (R102, R103). -/
theorem gives_cmp {pt pc : BitVec 3} {cond n : BitVec 4} {b : Bool} (h : Issues (.cmp f) f 1 s c k) (hd : f.dst = .pp pt pc cond)
    (hn : cond = n) (hb : intCond n.toNat (s.operand f f.src1) (s.operand f f.src2) (patOf (modTy f.mod) (s.src f.src1).toNat)
      (patOf (modTy f.mod) (s.src f.src2).toNat) = b) :
    Gives (.cmp f) s c k ((s.regs.putP pt (boolMask b)).putP pc (boolMask !b)).advance := by
  refine scalar_done h (arm_cmp f s) ?_ (regsNow_setP (regsNow_setP (regsNow_refl h.cur) h.cur pt _) h.cur pc _)
  rw [← hb, ← hn, hd]
  rfl

/-- Each bit of PLOG's result is the bit of its table that the three sources name (R105). -/
theorem getLsbD_plogBits (t a b c : Nat) {j : Nat} (hj : j < 64) : (plogBits t a b c).getLsbD j
    = t.testBit (4 * bit (a.testBit j) + 2 * bit (b.testBit j) + bit (c.testBit j)) := by
  rw [plogBits, BitVec.getLsbD_ofNat, (testBit_foldl_two_pow _ 64).2 j]
  simp [hj]

theorem bit_le_one (b : Bool) : bit b ≤ 1 := by cases b <;> decide

/-- PLOG writes to its P register, bit by bit, what its table gives (R105). -/
theorem gives_plog {d a : BitVec 3} {i : BitVec 21} (hd : f.dst = .p d) (ha : f.src1 = .p a) (hi : f.src2 = .imm i)
    (h : Issues (.plog f) f 1 s c k) : ∃ v : Word, (∀ j, j < 64 → v.getLsbD j = i.getLsbD
      (4 * bit ((s.getP a).getLsbD j) + 2 * bit ((s.getP (BitVec.ofNat 3 (i.toNat / 256))).getLsbD j) + bit ((s.getP d).getLsbD j)))
      ∧ Gives (.plog f) s c k (s.regs.putP d v).advance := by
  refine ⟨_, fun j hj => ?_, scalar_done h (arm_plog f s) (by rw [hd, ha, hi]; rfl) (regsNow_setP (regsNow_refl h.cur) h.cur d _)⟩
  rw [getLsbD_plogBits _ _ _ _ hj, show 256 = 2 ^ 8 by rfl, Nat.testBit_mod_two_pow]
  have h1 := bit_le_one ((s.getP a).toNat.testBit j)
  have h2 := bit_le_one ((s.getP (BitVec.ofNat 3 (i.toNat / 2 ^ 8))).toNat.testBit j)
  have h3 := bit_le_one ((s.getP d).toNat.testBit j)
  rw [decide_eq_true (by simp only [immNat, pNum]; omega), Bool.true_and]
  rfl

end predicates

section addresses
variable {s : State} {c : CoreId} {k : SlotId} {f : Fields}

/-- LEA writes the address, after the update of the A register that its operand names (R108). -/
theorem gives_lea {x : Word} (h : Issues (.lea f) f 1 s c k) (hx : s.addrOf f.src1 0 + (s.src f.src2 <<< (f.mod.extractLsb' 0 2).toNat) = x) :
    Gives (.lea f) s c k ((s.regs.updated f.src1 0).putDst f.dst x).advance := by
  subst hx
  exact scalar_done h (arm_lea f s) rfl (regsNow_setDst (regsNow_update (regsNow_refl h.cur) h.cur f.src1 0) h.cur _ _)

end addresses

/-- Settles O6: each condition is one case of CMP, and SEL is read off. -/
theorem compareResults : Obligations.CompareResults := by
  intro f s c k pt pc cond ty x y px py sets
  refine ⟨fun h hd => ⟨fun hc => ?_, fun hc => ?_, fun hc => gives_cmp h hd hc rfl, fun hc => gives_cmp h hd hc rfl,
    fun hc => gives_cmp h hd hc rfl, fun hc => gives_cmp h hd hc rfl, fun hc => ?_, fun hc => ?_⟩, fun h => gives_value h (arm_sel f s) rfl⟩
  · exact gives_cmp h hd hc (beq_eq_decide x y)
  · exact gives_cmp h hd hc (bne_eq_decide_ne x y)
  · exact gives_cmp h hd hc (bne_eq_decide_ne (px &&& py) 0)
  · exact gives_cmp h hd hc (beq_eq_decide (px &&& py) 0)

/-- Settles O7: moves and constants are read off, the predicate results bit by bit, and LEA by the mode of its operand. -/
theorem moveAndPredicateResults : Obligations.MoveAndPredicateResults := by
  intro f s c k writes
  refine ⟨fun h => gives_value h (arm_mov f s) rfl, fun h => gives_value h (arm_amov f s) rfl, fun hi lo h1 h2 h => ?_,
    fun h => gives_value h (arm_movh f s) rfl, fun h => gives_value h (arm_pset f s) rfl, fun n hn h => ?_, fun n hn h => ?_,
    fun a d t hm ht h => ?_, fun a d t hm ht h => ?_, fun a d t hm ht h => ?_, fun d a i hd ha hi h => gives_plog hd ha hi h⟩
  · exact gives_value h (arm_movi f s) (by rw [movImm, h1, h2])
  · exact gives_value h (arm_pget f s) (by rw [hn]; rfl)
  · exact gives_value h (arm_pcnt f s) (by rw [hn]; rfl)
  all_goals
    have hl := gives_lea h (x := t) (by rw [hm, ht]; rfl)
    rw [hm] at hl
    exact hl

end Sys2Proof.Machine
end

section
/-! Control transfers and loops (04_scalar_and_control.md R88 to R94, 01_thread_state.md R23): O8, O9. -/

namespace Sys2Proof.Machine

section transfers
variable {s : State} {c : CoreId} {k : SlotId} {i : Instr} {f : Fields}

/-- A trap of the body is raised at the instruction (R227). -/
theorem scalar_trap {u : State} {t : Trap} {body : State → Eff} (h : Issues i f 1 s c k) (e : exec i s = scalar i f s body)
    (hb : body s = .trap u t) : exec i s = .next (u.raise c k t) := by
  rw [e, scalar, issue_body h, hb]
  rfl

/-- A target from a register that is aligned is gone to (R23). -/
theorem transfer_aligned {x : Word} (hx : x.extractLsb' 0 2 = 0) (body : State → Eff) : s.transfer x body = body s := if_neg (not_not.2 hx)

/-- A target from a register that is not aligned faults at the transfer (R23, log entry 40). -/
theorem transfer_misaligned {x : Word} (hx : x.extractLsb' 0 2 ≠ 0) (body : State → Eff) :
    s.transfer x body = .trap s { cause := 0x04, addr := x, info := 8 } := if_pos hx

end transfers

/-- Settles O8: a transfer goes to its target, with the link register written for a call; one from a register tests its alignment first. -/
theorem controlTransfers : Obligations.ControlTransfers := by
  intro f s c k goes linked rel target faults
  have hr (i : Instr) (h : Issues i f 1 s c k) := regsNow_refl (c := c) (k := k) h.cur
  have hl (i : Instr) (h : Issues i f 1 s c k) := regsNow_setG (hr i h) h.cur linkReg (s.regs.pc + 12)
  refine ⟨fun h => scalar_done h (arm_nop f s) rfl (hr _ h), fun h => scalar_jump h (arm_bra f s) rfl (hr _ h),
    fun h => scalar_jump h (arm_call f s) rfl (hl _ h), fun ht => ⟨fun h => ?_, fun h => ?_, fun h => ?_⟩,
    fun ht => ⟨fun h => ?_, fun h => ?_, fun h => ?_⟩⟩
  · exact scalar_jump h (arm_jmp f s) (transfer_aligned ht _) (hr _ h)
  · exact scalar_jump h (arm_callr f s) (transfer_aligned ht _) (hl _ h)
  · exact scalar_jump h (arm_ret f s) (transfer_aligned ht _) (hr _ h)
  · exact scalar_trap h (arm_jmp f s) (transfer_misaligned ht _)
  · exact scalar_trap h (arm_callr f s) (transfer_misaligned ht _)
  · exact scalar_trap h (arm_ret f s) (transfer_misaligned ht _)

section loops

/-- The instruction at pc is the loop end of an active level (R94). -/
def Regs.endsAt (r : Regs) (a : Word) (n : Fin 4) : Prop := r.lact.getLsbD n.val = true ∧ r.le[n] = a

variable {r : Regs} {a next : Word} {n : Fin 4}

/-- A level that does not end here is passed over. -/
theorem loopEnds_pass (ns : List Nat) (h : ¬ r.endsAt a n) : loopEnds a next (n.val :: ns) r = loopEnds a next ns r := by
  have hb : (r.lact.getLsbD n.val && r.le[n.val] == a) = false := by
    rw [Bool.and_eq_false_iff, beq_eq_false_iff_ne]
    exact not_and_or.1 h |>.imp_left Bool.eq_false_of_not_eq_true
  simp only [loopEnds, n.isLt, dif_pos, hb, Bool.false_eq_true, if_false]

/-- Levels none of which ends here are passed over. -/
theorem loopEnds_passAll {ms : List (Fin 4)} (ns : List Nat) (h : ∀ m ∈ ms, ¬ r.endsAt a m) :
    loopEnds a next (ms.map Fin.val ++ ns) r = loopEnds a next ns r := by
  induction ms with
  | nil => rfl
  | cons m ms ih =>
    rw [List.map_cons, List.cons_append, loopEnds_pass _ (h m List.mem_cons_self), ih fun m' hm => h m' (List.mem_cons_of_mem m hm)]

theorem endsAt_beq (h : r.endsAt a n) : (r.lact.getLsbD n.val && r.le[n.val] == a) = true :=
  Bool.and_eq_true_iff.2 ⟨h.1, beq_iff_eq.2 h.2⟩

/-- A level that ends here with turns left goes back to its body. -/
theorem loopEnds_turn (ns : List Nat) (h : r.endsAt a n) (hc : r.lc[n] ≠ 1) :
    loopEnds a next (n.val :: ns) r = (r.lb[n], { r with lc := r.lc.set n.val (r.lc[n] - 1) n.isLt }) := by
  have hz : (r.lc[n.val] - 1 != 0) = true := bne_iff_ne.2 (sub_ne_zero.2 hc)
  simp only [loopEnds, n.isLt, dif_pos, endsAt_beq h, if_true, hz]
  rfl

/-- A level that ends here in its last turn is left. -/
theorem loopEnds_last (ns : List Nat) (h : r.endsAt a n) (hc : r.lc[n] = 1) : loopEnds a next (n.val :: ns) r
    = loopEnds a next ns { r with lc := r.lc.set n.val 0 n.isLt, lact := r.lact &&& ~~~(1#4 <<< n.val) } := by
  have hz : r.lc[n.val] - 1 = 0 := sub_eq_zero.2 hc
  simp only [loopEnds, n.isLt, dif_pos, endsAt_beq h, if_true, hz, bne_self_eq_false, Bool.false_eq_true, if_false]

/-- The four levels, innermost first, as those before a level, the level, and those after it. -/
theorem levels_split (n : Fin 4) : [0, 1, 2, 3]
    = ((List.finRange 4).filter (· < n)).map Fin.val ++ n.val :: (((List.finRange 4).filter (n < ·)).map Fin.val ++ []) := by
  revert n
  decide

/-- Where no level ends, the next instruction follows. -/
theorem advance_next (h : ∀ n, ¬ r.endsAt r.pc n) : r.advance = { r with pc := r.pc + 12 } := by
  have he : loopEnds r.pc (r.pc + 12) [0, 1, 2, 3] r = (r.pc + 12, r) := loopEnds_passAll (ms := List.finRange 4) [] fun m _ => h m
  simp only [Regs.advance, he]

/-- The innermost level that ends is looked at first. -/
theorem loopEnds_innermost (hm : ∀ m < n, ¬ r.endsAt a m) : loopEnds a next [0, 1, 2, 3] r
    = loopEnds a next (n.val :: (((List.finRange 4).filter (n < ·)).map Fin.val ++ [])) r := by
  rw [levels_split n]
  exact loopEnds_passAll _ fun m h => hm m (by simpa using h)

/-- Where the innermost level that ends has turns left, its body follows. -/
theorem advance_turn (h : r.endsAt r.pc n) (hm : ∀ m < n, ¬ r.endsAt r.pc m) (hc : r.lc[n] ≠ 1) :
    r.advance = { r with lc := r.lc.set n.val (r.lc[n] - 1) n.isLt, pc := r.lb[n] } := by
  simp only [Regs.advance, loopEnds_innermost hm, loopEnds_turn _ h hc]

/-- A level that is left stands in the way of no other. -/
theorem endsAt_left {m : Fin 4} (h : ¬ r.endsAt a m) (lc : Vector (BitVec 32) 4) (mask : BitVec 4) :
    ¬ ({ r with lc := lc, lact := r.lact &&& mask } : Regs).endsAt a m := by
  rintro ⟨h1, h2⟩
  rw [BitVec.getLsbD_and, Bool.and_eq_true] at h1
  exact h ⟨h1.1, h2⟩

/-- Where the one level that ends is in its last turn, it is left and the next instruction follows. -/
theorem advance_last (h : r.endsAt r.pc n) (hm : ∀ m, m ≠ n → ¬ r.endsAt r.pc m) (hc : r.lc[n] = 1) :
    r.advance = { r with lc := r.lc.set n.val 0 n.isLt, lact := r.lact &&& ~~~(1#4 <<< n.val), pc := r.pc + 12 } := by
  have he := loopEnds_passAll (next := r.pc + 12) (ms := (List.finRange 4).filter (n < ·)) [] fun m hn =>
    endsAt_left (hm m (by rintro rfl; simp at hn)) (r.lc.set n.val 0 n.isLt) (~~~(1#4 <<< n.val))
  rw [loopEnds] at he
  simp only [Regs.advance, loopEnds_innermost fun m hn => hm m (ne_of_lt hn), loopEnds_last _ h hc, he]

end loops

/-- Settles O9: LOOP and LOOPX by the test that each makes, and the loop end by the innermost level that ends. -/
theorem loopInstructions : Obligations.LoopInstructions := by
  refine ⟨fun f s c k => ?_, fun r => ⟨advance_next, fun n h hm hc => advance_turn h hm hc, fun n h hm hc => advance_last h hm hc⟩⟩
  intro n r count le
  have hr (i : Instr) (h : Issues i f 1 s c k) (q : Regs) := regsNow_setRegs (regsNow_refl (c := c) (k := k) h.cur) h.cur q
  refine ⟨fun h => ⟨fun hc => ?_, fun hc => ?_⟩, fun h => ⟨fun hl => ?_, fun hl => ?_⟩⟩
  · exact scalar_jump h (arm_loopI f s) (if_pos hc) (hr _ h _)
  · exact scalar_done h (arm_loopI f s) (if_neg hc) (hr _ h _)
  · exact scalar_jump h (arm_loopx f s) (if_pos hl) (hr _ h _)
  · exact scalar_done h (arm_loopx f s) (if_neg (Bool.eq_false_iff.1 hl)) (regsNow_refl h.cur)

end Sys2Proof.Machine
end

section
/-! Scalar floating point (04_scalar_and_control.md R109 to R114, 02_number_formats.md R43, R44, R47): O16, O17. -/

namespace Sys2Proof.Machine

section float
variable {s : State} {c : CoreId} {k : SlotId} {i : Instr} {f : Fields} {fl : Flags} {body : State → Eff} {g : State → State}

/-- An enabled flag among those raised traps, with all of them set (R44). -/
theorem flags_enabled (h : s.regs.fpsr.extractLsb' 8 5 &&& fl ≠ 0) :
    s.flags fl = .error (.trap (s.setRegs (s.regs.flagged fl)) { cause := 0x0D, info := fl.setWidth 64 }) := by
  have hz : fl ≠ 0 := by
    rintro rfl
    exact h BitVec.and_zero
  have he : enabledFlags s.regs.fpsr fl ≠ 0 := by rwa [enabledFlags, BitVec.and_comm]
  rw [State.flags, if_neg he, State.sticky, if_neg hz]
  rfl

/-- An instruction that raises no enabled flag writes what it writes with its flags set (R43). -/
theorem gives_quiet {r : Regs} (h : Issues i f 1 s c k) (e : exec i s = scalar i f s body)
    (hb : body s = (s.flags fl).fin fun _ s => .done (g s)) (hq : s.regs.fpsr.extractLsb' 8 5 &&& fl = 0)
    (hu : RegsNow s (g (s.sticky fl)) c k r) : Gives i s c k r.advance :=
  scalar_done h e (by rw [hb, flags_quiet hq]; rfl) hu

/-- An instruction that raises an enabled flag is an FP Trap with its flags set and nothing written (R44). -/
theorem exec_fpTrap (h : Issues i f 1 s c k) (e : exec i s = scalar i f s body)
    (hb : body s = (s.flags fl).fin fun _ s => .done (g s)) (hq : s.regs.fpsr.extractLsb' 8 5 &&& fl ≠ 0) :
    exec i s = .next ((s.setRegs (s.regs.flagged fl)).raise c k { cause := 0x0D, info := fl.setWidth 64 }) :=
  scalar_trap h e (by rw [hb, flags_enabled hq]; rfl)

/-- A floating-point result to a G register: written with its flags, or an FP Trap (R109). -/
theorem yields_fpResult {n : BitVec 5} {r : FpRes} (hd : f.dst = .g n) (h : Issues i f 1 s c k) (e : exec i s = scalar i f s body)
    (hb : body s = s.fpResult (gNum f.dst) r) :
    (s.regs.fpsr.extractLsb' 8 5 &&& r.2 = 0 → Gives i s c k ((s.regs.flagged r.2).putG n (BitVec.ofNat 64 r.1)).advance)
    ∧ (s.regs.fpsr.extractLsb' 8 5 &&& r.2 ≠ 0 →
      exec i s = .next ((s.setRegs (s.regs.flagged r.2)).raise c k { cause := 0x0D, info := r.2.setWidth 64 })) := by
  have hg : gNum f.dst = n := by rw [hd]; rfl
  rw [hg] at hb
  exact ⟨fun hq => gives_quiet h e hb hq (regsNow_setG (regsNow_sticky (regsNow_refl h.cur) h.cur _) h.cur n _), exec_fpTrap h e hb⟩

end float

/-- Settles O16: each is one floating-point result of its sources, with the flags that its value raises. -/
theorem floatResults : Obligations.FloatResults := by
  intro f s c k n t rm x y yields
  exact ⟨fun hd h => yields_fpResult hd h (arm_fadd f s) rfl, fun hd h => yields_fpResult hd h (arm_fsub f s) rfl,
    fun hd h => yields_fpResult hd h (arm_fmul f s) rfl, fun hd h => yields_fpResult hd h (arm_fdiv f s) rfl,
    fun hd h => yields_fpResult hd h (arm_ffma f s) rfl, fun hd h => yields_fpResult hd h (arm_fsqrt f s) rfl,
    fun hd h => yields_fpResult hd h (arm_fmin f s) rfl, fun hd h => yields_fpResult hd h (arm_fmax f s) rfl,
    fun hd h => yields_fpResult hd h (arm_frnd f s) rfl, fun hd h => yields_fpResult hd h (arm_fscale f s) rfl,
    fun hd h => yields_fpResult hd h (arm_fcvt f s) rfl, fun hd h => yields_fpResult hd h (arm_icvf f s) rfl⟩

/-- FCVI writes the integer that its conversion gives, with its flags (R47, R112). -/
theorem gives_fcvi {f : Fields} {s : State} {c : CoreId} {k : SlotId} {n : BitVec 5} {v : Int} {fl : Flags} (hd : f.dst = .g n)
    (hv : fpToInt (modFmt f.mod) (modRm f.mod) (immNat f.src2 % 8) (s.src f.src1).toNat = (v, fl))
    (hq : s.regs.fpsr.extractLsb' 8 5 &&& fl = 0) (h : Issues (.fcvi f) f 1 s c k) :
    Gives (.fcvi f) s c k ((s.regs.flagged fl).putG n (BitVec.ofInt 64 v)).advance := by
  refine gives_quiet (g := fun s => s.setG n (BitVec.ofInt 64 v)) h (arm_fcvi f s) ?_ hq
    (regsNow_setG (regsNow_sticky (regsNow_refl h.cur) h.cur fl) h.cur n _)
  simp only [State.fsrc, hv, hd, gNum]

/-- FCMP writes the condition that its destination names and its complement, with its flags (R103, R111). -/
theorem gives_fcmp {f : Fields} {s : State} {c : CoreId} {k : SlotId} {pt pc : BitVec 3} {cond : BitVec 4} {b : Bool} {fl : Flags}
    (hd : f.dst = .pp pt pc cond) (hv : fpCond (modFmt f.mod) cond.toNat (s.src f.src1).toNat (s.src f.src2).toNat = (b, fl))
    (hq : s.regs.fpsr.extractLsb' 8 5 &&& fl = 0) (h : Issues (.fcmp f) f 1 s c k) :
    Gives (.fcmp f) s c k (((s.regs.flagged fl).putP pt (boolMask b)).putP pc (boolMask !b)).advance := by
  refine gives_quiet (g := fun s => (s.setP pt (boolMask b)).setP pc (boolMask !b)) h (arm_fcmp f s) ?_ hq
    (regsNow_setP (regsNow_setP (regsNow_sticky (regsNow_refl h.cur) h.cur fl) h.cur pt _) h.cur pc _)
  simp only [State.fsrc, hd, condOf, hv, State.setCompare]

/-- Settles O17: FCVI and FCMP by what their value functions give, and FCLASS and FSGN are read off. -/
theorem floatCompareAndConvert : Obligations.FloatCompareAndConvert := by
  intro f s c k t x y flagged
  exact ⟨fun n v fl hd hv hq h => gives_fcvi hd hv hq h, fun pt pc cond b fl hd hv hq h => gives_fcmp hd hv hq h,
    fun h => gives_value h (arm_fclass f s) rfl, fun h => gives_value h (arm_fsgn f s) rfl⟩

end Sys2Proof.Machine
end

section
/-! Instructions that end their chunk (04_scalar_and_control.md R91, 09_chunks_and_consistency.md R214, R219, R238, 14_faults_preemption.md R337): O21. -/

namespace Sys2Proof.Machine

/-- The end of an instruction that transfers no control leaves the counters D0 to D3 alone (R94). -/
theorem loopEnds_d (a next : Word) (ns : List Nat) (r : Regs) : (loopEnds a next ns r).2.d = r.d := by
  induction ns generalizing r with
  | nil => rfl
  | cons n ns ih =>
    unfold loopEnds
    split_ifs
    · dsimp only
      split_ifs
      · rfl
      · exact ih _
    · exact ih r
    · rfl

theorem advance_d (r : Regs) : r.advance.d = r.d := loopEnds_d r.pc (r.pc + 12) [0, 1, 2, 3] r

/-- A cut that is due stands before any later reason (R214). -/
theorem due_some {y : Slot} {d : Cut} (h : y.cutDue = some d) (code : Byte) (a : Option After) : y.due code a = y := by
  simp [Slot.due, h]

theorem due_none {y : Slot} (h : y.cutDue = none) (code : Byte) (a : Option After) :
    y.due code a = { y with cutDue := some { code := code, after := a } } := by
  simp [Slot.due, h]

/-- What a slot waits for after a cut (R219). -/
def Cut.park (d : Cut) : Park :=
  match d.after with
  | some a => .grant a
  | none => .ready

/-- The slot after the cut that is due: its chunk, one instruction longer, waits, and a new one is empty (R214, R219). -/
def Slot.cutBy (y : Slot) (d : Cut) : Slot :=
  { y with cut := d.code, waiting := some { y.chunk with len := y.chunk.len + 1 }, chunk := {}, cutDue := none, park := d.park }

section counted
variable {s : State} {c : CoreId} {k : SlotId} {d : Cut}

/-- A hint adds no reason to a cut that is due (R73, R214). -/
theorem slot_hintDue (h : (s.slot c k).cutDue = some d) (cb : Bool) : (s.hintDue c k cb).slot c k = s.slot c k := by
  unfold State.hintDue
  have hc : ((s.choose 2).2.slot c k).cutDue = some d := by rw [slot_choose, h]
  cases cb
  · rfl
  · rw [if_pos rfl]
    dsimp only
    rw [due_some hc]
    split_ifs
    · rw [slot_setSlot_same, slot_choose]
    · exact slot_choose s 2 c k

/-- A cut that is due is made at once when D0 to D3 are zero and no earlier chunk waits (R123, R219). -/
theorem tryCut_cuts (h : (s.slot c k).cutDue = some d) (hn : (s.slot c k).chunk.isEmpty = false) (hcut : (s.slot c k).canCut = true) :
    (s.tryCut c k).slot c k = (s.cutChunk c k d.code d.after).slot c k ∧ .slot c k ∈ (s.tryCut c k).requests := by
  have hreq : .slot c k ∈ (s.cutChunk c k d.code d.after).requests := by simp [State.cutChunk]
  have he : s.tryCut c k = if d.after.isNone then (s.cutChunk c k d.code d.after).postTurn c k else s.cutChunk c k d.code d.after := by
    simp only [State.tryCut, h, hn, hcut, Bool.false_eq_true, if_false, if_true]
  rw [he]
  split_ifs
  · exact ⟨slot_postTurn _ _ _ _ _, by simpa using hreq⟩
  · exact ⟨rfl, hreq⟩

/-- An instruction with a cut due ends its chunk (R213, R214). -/
theorem counted_cuts (hs : (s.slot c k).chunk.solo = false) (hd : (s.slot c k).cutDue = some d) (hp : (s.slot c k).park = .ready)
    (hcut : (s.slot c k).canCut = true) (cb : Bool) :
    (s.counted c k cb).slot c k = (s.slot c k).cutBy d ∧ .slot c k ∈ (s.counted c k cb).requests := by
  have hy : ((s.slot c k).lengthened.lengthDue.replayDue (s.replayLen c k)) = (s.slot c k).lengthened := by
    have hl : (s.slot c k).lengthened.lengthDue = (s.slot c k).lengthened := by
      rw [Slot.lengthDue, due_some (y := (s.slot c k).lengthened) hd, ite_self]
    rw [hl, Slot.replayDue, due_some (y := (s.slot c k).lengthened) hd, ite_self]
  have he : s.counted c k cb = ((s.setSlot c k (s.slot c k).lengthened).hintDue c k cb).tryCut c k := by
    simp only [State.counted, hs, hp, hy, Bool.false_eq_true, if_false, if_true]
  have hl : ((s.setSlot c k (s.slot c k).lengthened).hintDue c k cb).slot c k = (s.slot c k).lengthened := by
    rw [slot_hintDue (d := d) (by rw [slot_setSlot_same]; exact hd), slot_setSlot_same]
  obtain ⟨hslot, hreq⟩ := tryCut_cuts (d := d) (by rw [hl]; exact hd) (by rw [hl]; rfl) (by rw [hl]; exact hcut)
  rw [he]
  refine ⟨?_, hreq⟩
  rw [hslot, slot_cutChunk, hl]
  rfl

end counted

section due
variable {s : State} {c : CoreId} {k : SlotId}

/-- The last-read hints of an instruction are noted in its chunk only (R72). -/
theorem slot_hint (hc : s.cur = .slot c k) (opc : Nat) (f : Fields) : ∃ m, (s.hint opc f).slot c k
    = { s.slot c k with chunk := { (s.slot c k).chunk with deadSet := m } } := by
  unfold State.hint
  dsimp only
  split_ifs
  · exact ⟨(s.slot c k).chunk.deadSet, rfl⟩
  · rw [setChunk_slot s c k hc, slot_setSlot_same, chunk_slot s c k hc]
    exact ⟨_, rfl⟩

theorem slot_setDue (hc : s.cur = .slot c k) (hd : (s.slot c k).cutDue = none) (code : Byte) (a : Option After) :
    (s.setDue code a).slot c k = { s.slot c k with cutDue := some { code := code, after := a } } := by
  simp only [State.setDue, hc, slot_setSlot_same, due_none hd]

/-- The instruction has ended its chunk: the slot has the registers r, a new chunk is empty, and the chunk that waits is one instruction longer and holds these effects besides. -/
structure CutAfter (s t : State) (c : CoreId) (k : SlotId) (r : Regs) (d : Cut) (effects : List Deferred) : Prop where
  only : OnlySlot s t c k
  regs : (t.slot c k).regs = r
  cut : (t.slot c k).cut = d.code
  park : (t.slot c k).park = d.park
  chunk : (t.slot c k).chunk = {}
  request : .slot c k ∈ t.requests
  waiting : ∃ w, (t.slot c k).waiting = some w ∧ w.effects = (s.slot c k).chunk.effects ++ effects
    ∧ w.len = (s.slot c k).chunk.len + 1 ∧ w.wr = (s.slot c k).chunk.wr

/-- A slot that runs, with nothing that keeps it from cutting its chunk: D0 to D3 zero, no chunk waiting and no cut due. -/
structure Slot.uncut (y : Slot) : Prop where
  zero : y.dZero = true
  waiting : y.waiting = none
  due : y.cutDue = none
  park : y.park = .ready
  solo : y.chunk.solo = false

variable {d : Cut} {i : Instr} {f : Fields} {body : State → Eff}

/-- Counting an instruction that has set a cut due ends its chunk. -/
theorem cutAfter_counted {x : State} {r : Regs} {w : Chunk} {effects : List Deferred} (hy : (s.slot c k).uncut)
    (hx : x.slot c k = { s.slot c k with regs := r, chunk := w, cutDue := some d }) (hr : r.d = (s.slot c k).regs.d)
    (hsolo : w.solo = false) (he : w.effects = (s.slot c k).chunk.effects ++ effects) (hl : w.len = (s.slot c k).chunk.len)
    (hw : w.wr = (s.slot c k).chunk.wr) (ho : OnlySlot s x c k) (cb : Bool) : CutAfter s (x.counted c k cb) c k r d effects := by
  have hcut : (x.slot c k).canCut = true := by
    have hz : r.d.toList.all (· == 0) = true := by rw [hr]; exact hy.zero
    simp only [Slot.canCut, Slot.dZero, hx, hy.waiting, hz, Option.isNone_none, Bool.and_true]
  obtain ⟨hslot, hreq⟩ := counted_cuts (d := d) (by rw [hx]; exact hsolo) (by rw [hx]) (by rw [hx]; exact hy.park) hcut cb
  rw [hx] at hslot
  refine ⟨onlySlot_trans ho (only_counted x c k cb).1, ?_, ?_, ?_, ?_, hreq, ⟨{ w with len := w.len + 1 }, ?_, he, congrArg (· + 1) hl, hw⟩⟩
  all_goals rw [hslot]; rfl

/-- An instruction that completes with a cut due after it ends its chunk. -/
theorem cutAfter_done (h : Issues i f 1 s c k) (hy : (s.slot c k).uncut) (e : exec i s = scalar i f s body)
    (hb : body s = .done (s.setDue d.code d.after)) : ∃ t, exec i s = .next t ∧ CutAfter s t c k s.regs.advance d [] := by
  have hu := regsNow_setDue (regsNow_refl h.cur) h.cur d.code d.after
  have hh := regsNow_hint hu h.cur (opcOf i) f
  have hr := regsNow_regs hh h.cur
  have hx := regsNow_setRegs hh h.cur s.regs.advance
  obtain ⟨m, hm⟩ := slot_hint (regsNow_cur hu h.cur) (opcOf i) f
  rw [slot_setDue h.cur hy.due] at hm
  refine ⟨_, by rw [e, scalar, issue_body h, hb], ?_⟩
  rw [concludeSlot, hr]
  refine cutAfter_counted (w := { (s.slot c k).chunk with deadSet := m }) hy ?_ ?_ hy.solo (List.append_nil _).symm rfl rfl hx.only f.cb
  · rw [setRegs_slot _ c k (regsNow_cur hh h.cur), slot_setSlot_same, hm]
  · rw [advance_d, regs_slot s c k h.cur]

/-- A deferred effect noted in the agent's chunk (R221). -/
def State.noted (s : State) (x : Deferred) : State := s.setChunk { s.chunk with effects := s.chunk.effects ++ [x] }

theorem slot_noted (hc : s.cur = .slot c k) (x : Deferred) : (s.noted x).slot c k
    = { s.slot c k with chunk := { (s.slot c k).chunk with effects := (s.slot c k).chunk.effects ++ [x] } } := by
  rw [State.noted, setChunk_slot s c k hc, slot_setSlot_same, chunk_slot s c k hc]

theorem onlySlot_noted (hc : s.cur = .slot c k) (x : Deferred) : OnlySlot s (s.noted x) c k := by
  rw [State.noted, setChunk_slot s c k hc]
  exact onlySlot_setSlot s c k _

/-- HALT notes its effect for the grant, which ends the slot or its handler, and ends its chunk (R91, R296). -/
theorem cutAfter_halt (h : Issues (.halt f) f 1 s c k) (hy : (s.slot c k).uncut) (hv : s.regs.vis = false) (ha : (s.slot c k).awaiting = none) :
    ∃ t, exec (.halt f) s = .next t
      ∧ CutAfter s t c k s.regs { code := 0x05, after := some .stop } [if entryMsgr (s.slot c k).entry then .msgEnd else .halt] := by
  set eff : Deferred := if entryMsgr (s.slot c k).entry then .msgEnd else .halt
  have ho := onlySlot_noted h.cur eff
  have hc : (s.noted eff).cur = .slot c k := (onlySlot_cur ho).trans h.cur
  have hk := slot_noted h.cur eff
  refine ⟨((s.noted eff).setDue 0x05 (some .stop)).counted c k false, ?_, ?_⟩
  · rw [arm_halt, execHalt, scalar, issue_body h]
    simp only [h.cur, ha, hv, Option.isSome_none, Bool.false_eq_true, if_false]
    rfl
  · refine cutAfter_counted (w := { (s.slot c k).chunk with effects := (s.slot c k).chunk.effects ++ [eff] }) hy ?_
      (by rw [regs_slot s c k h.cur]) hy.solo rfl rfl rfl (onlySlot_trans ho (regsNow_setDue (regsNow_refl hc) hc _ _).only) false
    rw [slot_setDue hc (by rw [hk]; exact hy.due), hk, regs_slot s c k h.cur]

/-- An instruction whose turn is idle changes nothing of a slot whose chunk is not solo (R22). -/
theorem exec_stay (h : Issues i f 1 s c k) (hs : (s.slot c k).chunk.solo = false) (e : exec i s = scalar i f s body) (hb : body s = .stay s) :
    exec i s = .next (s.postTurn c k) := by
  rw [e, scalar, issue_body h, hb, concludeSlot, hs]
  rfl

end due

/-- Settles O21: each sets the cut due with its code and what follows the grant, and counting it makes the cut at once. -/
theorem instructionsThatCut : Obligations.InstructionsThatCut := by
  intro f s c k y cuts hz hw hd hp hs
  have hy : y.uncut := ⟨hz, hw, hd, hp, hs⟩
  have hcuts {i : Instr} {r : Regs} {d : Cut} {effects : List Deferred}
      (h : ∃ t, exec i s = .next t ∧ CutAfter s t c k r d effects) : cuts i r d.code d.park effects := by
    obtain ⟨t, he, ht⟩ := h
    exact ⟨t, he, ht.only, ht.regs, ht.cut, ht.park, ht.chunk, ht.request, ht.waiting⟩
  refine ⟨fun h g hg => ?_, fun h => ?_, fun h hv ha => ?_, fun h => ?_, fun h => ?_⟩
  · refine ⟨_, exec_stay h hs (arm_halt f s) ?_, onlySlot_postTurn s c k c k, slot_postTurn s c k c k⟩
    have hg' : (s.slot c k).awaiting = some g := hg
    simp only [h.cur, hg', Option.isSome_some, if_true]
  · exact hcuts (cutAfter_done (d := { code := 0x05, after := none }) h hy (arm_cut f s) rfl)
  · exact hcuts (cutAfter_halt h hy hv ha)
  · exact hcuts (cutAfter_done (d := { code := 0x09, after := some (.trap { cause := 0x0E, info := s.src f.src1 }) }) h hy (arm_trapI f s) rfl)
  · exact hcuts (cutAfter_done (d := { code := 0x09, after := some (.trap { cause := 0x0F, info := s.src f.src1 }) }) h hy (arm_syscall f s) rfl)

end Sys2Proof.Machine
end

section
/-! Loads and stores (04_scalar_and_control.md R115 to R123, 01_thread_state.md R13, R14): O22, O23. -/

namespace Sys2Proof.Machine

section bytes

/-- The bytes of a number, the lower ones first. -/
theorem leBytes_add (m n x : Nat) : leBytes (m + n) x = leBytes m x ++ leBytes n (x / 256 ^ m) := by
  induction m generalizing x with
  | zero => simp [leBytes]
  | succ m ih => rw [Nat.succ_add, leBytes, ih, leBytes, List.cons_append, Nat.div_div_eq_div_mul, ← pow_succ']

/-- The number of the lowest n bytes. -/
theorem leNat_take (bs : List Byte) {n : Nat} (h : n ≤ bs.length) : leNat (bs.take n) = leNat bs % 256 ^ n := by
  rw [← leBytes_leNat bs n h, ← leBytes_mod, leNat_leBytes n _ (Nat.mod_lt _ (Nat.pow_pos (by decide)))]

/-- The lower eight of sixteen bytes are the low half of their number (R117). -/
theorem extract_low {bs : List Byte} (h : bs.length = 16) :
    (BitVec.ofNat 128 (leNat bs)).extractLsb' 0 64 = BitVec.ofNat 64 (leNat (bs.take 8)) := by
  apply BitVec.eq_of_toNat_eq
  rw [leNat_take bs (by omega), BitVec.extractLsb'_toNat, BitVec.toNat_ofNat, BitVec.toNat_ofNat, Nat.shiftRight_zero]
  omega

/-- The upper eight of sixteen bytes are the high half of their number (R117). -/
theorem extract_high (bs : List Byte) :
    (BitVec.ofNat 128 (leNat bs)).extractLsb' 64 64 = BitVec.ofNat 64 (leNat (bs.drop 8)) := by
  apply BitVec.eq_of_toNat_eq
  rw [← leNat_div, BitVec.extractLsb'_toNat, BitVec.toNat_ofNat, BitVec.toNat_ofNat, Nat.shiftRight_eq_div_pow]
  omega

/-- The bytes of a pair of registers, those of the low one first (R117). -/
theorem leBytes_pair (x y : Word) : leBytes 16 (x ++ y : BitVec 128).toNat = leBytes 8 y.toNat ++ leBytes 8 x.toNat := by
  have hx := x.isLt
  have hy := y.isLt
  have hp : (x ++ y : BitVec 128).toNat = x.toNat * 2 ^ 64 + y.toNat := by
    rw [BitVec.toNat_append, ← Nat.shiftLeft_add_eq_or_of_lt hy, Nat.shiftLeft_eq]
  rw [hp, leBytes_add 8 8, ← leBytes_mod 8 (_ + _), show (x.toNat * 2 ^ 64 + y.toNat) % 256 ^ 8 = y.toNat by omega,
    show (x.toNat * 2 ^ 64 + y.toNat) / 256 ^ 8 = x.toNat by omega]

end bytes

section accesses
variable {s t : State} {c : CoreId} {k : SlotId} {f : Fields} {bs : List Byte} {fl : Flags}

/-- LD whose access completes writes the value of its bytes, and updates its A register first (R115, R116). -/
theorem givesFrom_ld {x : Word} {d : BitVec 5} (h : Issues (.ld f) f 1 s c k) (hd : f.dst = .g d) (hc : t.cur = .slot c k)
    (hl : s.load (s.addrOf f.src1 (accSize f.mod)) (accSize f.mod) (accSize f.mod) = .ok (bs, t)) (hv : loadValue f.mod bs = (x, fl))
    (hq : t.regs.fpsr.extractLsb' 8 5 &&& fl = 0) :
    GivesFrom (.ld f) s t c k (((t.regs.flagged fl).updated f.src1 (accSize f.mod)).putG d x).advance := by
  have hu := regsNow_update (regsNow_sticky (regsNow_refl hc) hc fl) hc f.src1 (accSize f.mod)
  refine givesFrom_done h (arm_ld f s) ?_ hc (regsNow_setG hu hc d x)
  simp only [hl, Res.fin, hv, flags_quiet hq, hd, gNum]

/-- ST whose access completes and whose conversion raises no enabled flag updates its A register (R115, R116). -/
theorem givesFrom_stored (h : Issues (.st f) f 1 s c k) (hc : t.cur = .slot c k) (hv : storeBytes f.mod (s.src f.src1) = (bs, fl))
    (hs : s.store (s.addrOf f.dst (accSize f.mod)) bs (accSize f.mod) = .ok ((), t)) (hr : t.regs = s.regs)
    (hq : t.regs.fpsr.extractLsb' 8 5 &&& fl = 0) :
    GivesFrom (.st f) s t c k ((t.regs.flagged fl).updated f.dst (accSize f.mod)).advance := by
  have hu := regsNow_update (regsNow_sticky (regsNow_refl hc) hc fl) hc f.dst (accSize f.mod)
  have he : enabledFlags s.regs.fpsr fl = 0 := by rwa [enabledFlags, BitVec.and_comm, ← hr]
  refine givesFrom_done h (arm_st f s) ?_ hc hu
  simp only [hv, hs, Res.fin, he, ne_eq, not_true_eq_false, if_false, countArrival_slot (regsNow_cur hu hc)]

/-- LD2 whose access completes writes the lower eight bytes to the even register of its pair (R117). -/
theorem givesFrom_ld2 {d : BitVec 5} (h : Issues (.ld2 f) f 1 s c k) (hd : f.dst = .g d) (hc : t.cur = .slot c k)
    (hl : s.load (s.addrOf f.src1 16) 16 16 = .ok (bs, t)) (hn : bs.length = 16) :
    GivesFrom (.ld2 f) s t c k (((t.regs.updated f.src1 16).putG d (BitVec.ofNat 64 (leNat (bs.take 8)))).putG (d + 1)
      (BitVec.ofNat 64 (leNat (bs.drop 8)))).advance := by
  have hu := regsNow_setPair (regsNow_update (regsNow_refl hc) hc f.src1 16) hc hd (BitVec.ofNat 128 (leNat bs))
  rw [extract_low hn, extract_high] at hu
  refine givesFrom_done h (arm_ld2 f s) ?_ hc hu
  simp only [hl, Res.fin]

/-- ST2 whose access completes has written the bytes of its pair (R117). -/
theorem givesFrom_st2 {d : BitVec 5} (h : Issues (.st2 f) f 1 s c k) (hd : f.src1 = .g d) (hc : t.cur = .slot c k)
    (hs : s.store (s.addrOf f.dst 16) (leBytes 8 (s.getG d).toNat ++ leBytes 8 (s.getG (d + 1)).toNat) 16 = .ok ((), t)) :
    GivesFrom (.st2 f) s t c k (t.regs.updated f.dst 16).advance := by
  have hu := regsNow_update (regsNow_refl hc) hc f.dst 16
  refine givesFrom_done h (arm_st2 f s) ?_ hc hu
  simp only [State.pair, hd, gNum, leBytes_pair, hs, Res.fin, countArrival_slot (regsNow_cur hu hc)]

end accesses

/-- Settles O22: each is one law of an access that completes; PREF is read off. -/
theorem loadAndStoreResults : Obligations.LoadAndStoreResults := by
  intro f s t c k n quiet ht
  exact ⟨fun bs x fl d hd hl hv hq h => givesFrom_ld h hd (ht.trans h.cur) hl hv hq,
    fun bs fl hv hs hr hq h => givesFrom_stored h (ht.trans h.cur) hv hs hr hq,
    fun bs d hd hl hn h => givesFrom_ld2 h hd (ht.trans h.cur) hl hn, fun d hd hs h => givesFrom_st2 h hd (ht.trans h.cur) hs,
    fun h => scalar_done h (arm_pref f s) rfl (regsNow_refl h.cur)⟩

section asynchronous
variable {s t : State} {c : CoreId} {k : SlotId} {f : Fields} {g : BitVec 5} {q : BitVec 2}

/-- A counter D0 to D3 set (R14). -/
def Regs.withD (r : Regs) (q : BitVec 2) (x : Byte) : Regs := { r with d := r.d.set q.toNat x q.isLt }

/-- The update of an A register and flags leave the counters alone. -/
theorem updated_d (r : Regs) (o : Operand) (n : Nat) : (r.updated o n).d = r.d := by
  cases o with
  | mem a m d => cases m <;> rfl
  | _ => rfl

/-- What has been issued of an LDA: its counter is up by one and its register is noted with the value (R121). -/
theorem issueLda_ok (hc : s.cur = .slot c k) (x : Word) : OnlySlot s (s.issueLda g q x) c k
    ∧ (s.issueLda g q x).slot c k = { s.slot c k with
      regs := s.regs.withD q (s.regs.d.get q.toFin + 1), ldas := (s.slot c k).ldas ++ [{ g := g, d := q, x := x }] } := by
  simp only [State.issueLda, hc, setRegs_slot s c k hc]
  refine ⟨onlySlot_trans (onlySlot_setSlot s c k _) (onlySlot_trans (onlySlot_setSlot _ c k _) (onlySlot_postEvent _ _ _ c k)), ?_⟩
  rw [slot_postEvent, slot_setSlot_same, slot_setSlot_same]
  rfl

/-- The body of an LDA whose access completes, whose counter is not full and which runs in a chunk (R121, log entry 33). -/
theorem execLda_body {d : BitVec 5} {bs : List Byte} {x : Word} {fl : Flags} (h : Issues (.lda f) f 1 s c k) (hd : f.dst = .g d)
    (hq : f.src2 = .dep q) (hfull : s.regs.d.get q.toFin ≠ 255)
    (hl : s.load (s.addrOf f.src1 (accSize f.mod)) (accSize f.mod) (accSize f.mod) = .ok (bs, t)) (hv : loadValue f.mod bs = (x, fl))
    (hfl : t.regs.fpsr.extractLsb' 8 5 &&& fl = 0) (hs : ((t.sticky fl).update f.src1 (accSize f.mod)).chunk.solo = false) :
    exec (.lda f) s = .next (concludeSlot c k (opcOf (.lda f)) (.lda f) f
      (.done (((t.sticky fl).update f.src1 (accSize f.mod)).issueLda d q x))) := by
  rw [arm_lda, execLda, scalar, issue_body h]
  simp only [hq, depNum, if_neg hfull, hl, hv, flags_quiet hfl, Res.fin, hs, Bool.false_eq_true, if_false, hd, gNum]

/-- An LDA whose access completes notes its register and counts (R121). -/
theorem lda_issued {d : BitVec 5} {bs : List Byte} {x : Word} {fl : Flags} (h : Issues (.lda f) f 1 s c k) (hd : f.dst = .g d)
    (hq : f.src2 = .dep q) (hfull : s.regs.d.get q.toFin ≠ 255) (hc : t.cur = .slot c k)
    (hl : s.load (s.addrOf f.src1 (accSize f.mod)) (accSize f.mod) (accSize f.mod) = .ok (bs, t)) (hv : loadValue f.mod bs = (x, fl))
    (hfl : t.regs.fpsr.extractLsb' 8 5 &&& fl = 0) (hs : t.chunk.solo = false) :
    ∃ u, exec (.lda f) s = .next u ∧ OnlySlot t u c k ∧ (u.slot c k).ldas = (t.slot c k).ldas ++ [{ g := d, d := q, x := x }]
      ∧ (u.slot c k).regs = (((t.regs.flagged fl).updated f.src1 (accSize f.mod)).withD q (t.regs.d.get q.toFin + 1)).advance := by
  have hu := regsNow_update (regsNow_sticky (regsNow_refl hc) hc fl) hc f.src1 (accSize f.mod)
  have hsolo := (regsNow_chunk hu hc).solo.trans hs
  have he := execLda_body h hd hq hfull hl hv hfl hsolo
  have hr := regsNow_regs hu hc
  have hslot := hu.slot
  generalize (t.sticky fl).update f.src1 (accSize f.mod) = v at hu hsolo he hr hslot
  have hvc := regsNow_cur hu hc
  obtain ⟨hio, his⟩ := issueLda_ok (g := d) (q := q) hvc x
  rw [hr, updated_d] at his
  have hwc := (onlySlot_cur hio).trans hvc
  have hend := ended_done (regsNow_refl hwc) hwc (opcOf (.lda f)) (.lda f) f
  refine ⟨_, he, onlySlot_trans hu.only (onlySlot_trans hio hend.only), ?_, ?_⟩
  · rw [hend.slot, his, hslot]
  · rw [ended_regs hend (by rw [his, ← chunk_slot v c k hvc, hsolo]), regs_slot _ c k hwc, his]
    rfl

/-- The data of an LDA arrives: its register is written and its counter is down by one (R121). -/
theorem lda_returns {l : Lda} (hc : s.cur = .slot c k) (hl : (s.slot c k).ldas.find? (fun l => l.g == g) = some l) :
    ∃ u, exec (.ldaDataReturn g) s = .next u ∧ OnlySlot s u c k ∧ (u.slot c k).ldas = (s.slot c k).ldas.filter (fun l => l.g != g)
      ∧ (u.slot c k).regs = (s.regs.withD l.d (s.regs.d.get l.d.toFin - 1)).putG g l.x := by
  set v := s.setSlot c k { s.slot c k with ldas := (s.slot c k).ldas.filter fun m => m.g != g } with hv
  have hvc : v.cur = .slot c k := hc
  have hvs : v.slot c k = { s.slot c k with ldas := (s.slot c k).ldas.filter fun m => m.g != g } := slot_setSlot_same s c k _
  have hvr : v.regs = s.regs := by rw [regs_slot v c k hvc, hvs, regs_slot s c k hc]
  have hu := regsNow_setG (regsNow_setRegs (regsNow_refl hvc) hvc (s.regs.withD l.d (s.regs.d.get l.d.toFin - 1))) hvc g l.x
  refine ⟨_, ?_, onlySlot_trans (onlySlot_setSlot s c k _) hu.only, ?_, ?_⟩
  · rw [arm_ldaDataReturn]
    simp only [execLdaDataReturn, hc, hl, ← hv, hvr]
    rfl
  · rw [hu.slot, hvs]
  · rw [hu.slot]

end asynchronous

/-- Settles O23: the issue of an LDA and the return of its data, each one law. -/
theorem asynchronousLoads : Obligations.AsynchronousLoads := by
  intro f s t c k n counted
  exact ⟨fun bs x fl d q hd hq ht hfull hl hs hv hfl h => lda_issued h hd hq hfull (ht.trans h.cur) hl hv hfl hs,
    fun g l hc hl => lda_returns hc hl⟩

end Sys2Proof.Machine
end

section
/-! YIELD, WAITD, LAUNCH and SLOTCTL (04_scalar_and_control.md R124, 08_cores_launches_scheduling.md R208 to R210): O33. -/

namespace Sys2Proof.Machine

section waiting
variable {s t u : State} {c : CoreId} {k : SlotId} {i : Instr} {f : Fields} {body : State → Eff}

/-- An instruction whose turn is idle waits and will be issued again (R22). -/
theorem waits_stay (h : Issues i f 1 s c k) (e : exec i s = scalar i f s body) (hb : body s = .stay s) : Waits i s s c k := by
  have he : exec i s = .next ((if (s.slot c k).chunk.solo then s.freshChunk c k else s).postTurn c k) := by
    rw [e, scalar, issue_body h, hb, concludeSlot]
  refine ⟨_, he, ?_, ?_, fun hs => ?_⟩
  · refine onlySlot_trans ?_ (onlySlot_postTurn _ c k c k)
    split_ifs
    · exact onlySlot_setSlot s c k _
    · exact onlySlot_refl s c k
  · rw [slot_postTurn, regs_slot s c k h.cur]
    split_ifs
    · rw [State.freshChunk, slot_setSlot_same]
      rfl
    · rfl
  · rw [chunk_slot s c k h.cur] at hs
    rw [slot_postTurn, hs, regs_slot s c k h.cur]
    rfl

theorem due_park (y : Slot) (code : Byte) (a : Option After) : (y.due code a).park = y.park := by
  unfold Slot.due
  split_ifs <;> rfl

theorem lengthDue_park (y : Slot) : y.lengthDue.park = y.park := by
  unfold Slot.lengthDue
  split
  · exact due_park y _ _
  · rfl

theorem replayDue_park (y : Slot) (n : Option Nat) : (y.replayDue n).park = y.park := by
  unfold Slot.replayDue
  split_ifs
  · exact due_park y _ _
  · rfl

theorem hintDue_park (s : State) (c : CoreId) (k : SlotId) (cb : Bool) : ((s.hintDue c k cb).slot c k).park = (s.slot c k).park := by
  unfold State.hintDue
  dsimp only
  split_ifs
  · rw [slot_setSlot_same, due_park, slot_choose]
  · rw [slot_choose]
  · rfl

/-- An instruction that has parked its slot leaves it parked when it is counted. -/
theorem park_counted (hs : (s.slot c k).chunk.solo = false) (hp : (s.slot c k).park ≠ .ready) (cb : Bool) :
    ((s.counted c k cb).slot c k).park = (s.slot c k).park := by
  have hy : (s.slot c k).lengthened.park = (s.slot c k).park := rfl
  simp only [State.counted, hs, hp, Bool.false_eq_true, if_false, hintDue_park, slot_setSlot_same, replayDue_park, lengthDue_park, hy]

/-- An instruction that completes and has parked its slot leaves it parked. -/
theorem park_done (hc : u.cur = .slot c k) (hs : (u.slot c k).chunk.solo = false) (hp : (u.slot c k).park ≠ .ready) :
    ((concludeSlot c k (opcOf i) i f (.done u)).slot c k).park = (u.slot c k).park := by
  have hx := regsNow_setRegs (regsNow_hint (regsNow_refl hc) hc (opcOf i) f) hc (u.hint (opcOf i) f).regs.advance
  have hpark := congrArg Slot.park hx.slot
  rw [concludeSlot, park_counted (hx.chunk.solo.trans hs) (by rw [hpark]; exact hp), hpark]

/-- YIELD parks its slot until the turns asked have passed (R208). -/
theorem yield_parks (h : Issues (.yield f) f 1 s c k) (hs : (s.slot c k).chunk.solo = false) :
    ∃ u, exec (.yield f) s = .next u ∧ OnlySlot s u c k ∧ (u.slot c k).regs = s.regs.advance
      ∧ (u.slot c k).park = .yield (s.rot + max ((s.src f.src1).toNat % 65536) 1 + 1) := by
  set ex := s.rot + max ((s.src f.src1).toNat % 65536) 1 + 1
  set v := (s.setSlot c k { s.slot c k with park := .yield ex }).postEvent (.slot c k) .yieldExpiry with hv
  have ho : OnlySlot s v c k := onlySlot_trans (onlySlot_setSlot s c k _) (onlySlot_postEvent _ _ _ c k)
  have hvs : v.slot c k = { s.slot c k with park := .yield ex } := by rw [hv, slot_postEvent, slot_setSlot_same]
  have hvc : v.cur = .slot c k := (onlySlot_cur ho).trans h.cur
  have hvr : v.regs = s.regs := by rw [regs_slot v c k hvc, hvs, regs_slot s c k h.cur]
  have hsolo : (v.slot c k).chunk.solo = false := by rw [hvs]; exact hs
  have hend := ended_done (regsNow_refl hvc) hvc (opcOf (.yield f)) (.yield f) f
  refine ⟨_, ?_, onlySlot_trans ho hend.only, ?_, ?_⟩
  · rw [arm_yield, execYield, scalar, issue_body h]
    simp only [h.cur]
    rfl
  · rw [ended_regs hend hsolo, hvr]
  · rw [park_done hvc hsolo (by rw [hvs]; exact Park.noConfusion), hvs]

/-- A slot made ready has its turn to come (R22). -/
theorem wake_ready (s : State) (c : CoreId) (k : SlotId) :
    OnlySlot s (s.wake c k) c k ∧ (s.wake c k).slot c k = { s.slot c k with park := .ready } ∧ .turn c k ∈ (s.wake c k).agenda :=
  ⟨onlySlot_trans (onlySlot_setSlot s c k _) (onlySlot_postTurn _ c k c k), (slot_postTurn _ _ _ _ _).trans (slot_setSlot_same s c k _),
    turn_postTurn _ c k⟩

/-- The expiry of a YIELD whose turns have passed makes its slot ready (R208). -/
theorem yieldExpiry_due {e : Nat} (hc : s.cur = .slot c k) (hp : (s.slot c k).park = .yield e) (he : e ≤ s.rot) :
    exec .yieldExpiry s = .next (s.wake c k) := by
  rw [arm_yieldExpiry, execYieldExpiry]
  simp only [hc, hp, timed_due he]

/-- WAITD goes on once its counter is at most the bound, and else waits (R124). -/
theorem waitd_bound {q : BitVec 2} (hq : f.src1 = .dep q) (h : Issues (.waitd f) f 1 s c k) :
    ((s.regs.d.get q.toFin).toNat ≤ (s.src f.src2).toNat → Gives (.waitd f) s c k s.regs.advance)
    ∧ ((s.src f.src2).toNat < (s.regs.d.get q.toFin).toNat → Waits (.waitd f) s s c k) := by
  refine ⟨fun hle => scalar_done h (arm_waitd f s) ?_ (regsNow_refl h.cur), fun hlt => waits_stay h (arm_waitd f s) ?_⟩
  · simp only [hq]
    exact if_neg (Nat.not_lt.2 hle)
  · simp only [hq]
    exact if_pos hlt

end waiting

section launch
variable {s : State} {c : CoreId} {k : SlotId} {f : Fields} {q : QueueId} {t : TowerId}

/-- LAUNCH in a queue with room reserves a ring entry and notes its record (R209, log entry 72). -/
theorem launch_reserves (h : Issues (.launch f) f 1 s c k) (hq : (s.src f.src2).extractLsb' 0 6 = q) (ht : (s.src f.src2).extractLsb' 6 2 = t)
    (ha : (s.addrOf f.src1 8).toNat % 128 = 0) (hctx : (s.queue t q).ctx = s.curCtx) (hroom : (s.queue t q).full = false) :
    ∃ w, (w.slot c k).chunk.effects = (s.slot c k).chunk.effects ++ [.launch t q (s.addrOf f.src1 8)]
      ∧ w.queue t q = { s.queue t q with reserved := (s.queue t q).reserved + 1 } ∧ w.mem = s.mem
      ∧ GivesFrom (.launch f) s w c k s.regs.advance := by
  set v := s.setQueue t q { s.queue t q with reserved := (s.queue t q).reserved + 1 }
  have hvc : v.cur = .slot c k := h.cur
  have hvs : v.slot c k = s.slot c k := rfl
  have ho := onlySlot_noted hvc (.launch t q (s.addrOf f.src1 8))
  have hslot := slot_noted hvc (.launch t q (s.addrOf f.src1 8))
  have hwc := (onlySlot_cur ho).trans hvc
  have hwr : (v.noted (.launch t q (s.addrOf f.src1 8))).regs = s.regs := by
    rw [regs_slot _ c k hwc, hslot, hvs, regs_slot s c k h.cur]
  refine ⟨v.noted (.launch t q (s.addrOf f.src1 8)), by rw [hslot, hvs], ?_, (onlySlot_mem ho).trans rfl, ?_⟩
  · rw [ho.rest]
    exact queue_setQueue_same s t q _
  · rw [← hwr]
    refine givesFrom_done h (arm_launch f s) ?_ hwc (regsNow_refl hwc)
    simp only [hq, ht]
    rw [if_neg (not_not.2 ha), if_neg (not_not.2 hctx), if_neg (Bool.eq_false_iff.1 hroom)]
    rfl

/-- LAUNCH waits for a ring entry (R209). -/
theorem launch_waits (h : Issues (.launch f) f 1 s c k) (hq : (s.src f.src2).extractLsb' 0 6 = q) (ht : (s.src f.src2).extractLsb' 6 2 = t)
    (ha : (s.addrOf f.src1 8).toNat % 128 = 0) (hctx : (s.queue t q).ctx = s.curCtx) (hfull : (s.queue t q).full = true) :
    Waits (.launch f) s s c k := by
  refine waits_stay h (arm_launch f s) ?_
  simp only [hq, ht, ha, hctx, hfull, ne_eq, not_true_eq_false, if_false, if_true]

/-- LAUNCH takes only the queues of its own context (R209). -/
theorem launch_refused (h : Issues (.launch f) f 1 s c k) (hq : (s.src f.src2).extractLsb' 0 6 = q) (ht : (s.src f.src2).extractLsb' 6 2 = t)
    (ha : (s.addrOf f.src1 8).toNat % 128 = 0) (hctx : (s.queue t q).ctx ≠ s.curCtx) :
    exec (.launch f) s = .next (s.raise c k (protTrap .read s.isUser false (s.addrOf f.src1 8) 0)) := by
  refine scalar_trap h (arm_launch f s) ?_
  simp only [hq, ht, ha, hctx, ne_eq, not_true_eq_false, not_false_eq_true, if_false, if_true]

/-- The address of a LAUNCH's record is a multiple of 128 (R209). -/
theorem launch_misaligned (h : Issues (.launch f) f 1 s c k) (ha : (s.addrOf f.src1 8).toNat % 128 ≠ 0) :
    exec (.launch f) s = .next (s.raise c k (misaligned (s.addrOf f.src1 8) 128)) :=
  scalar_trap h (arm_launch f s) (if_pos ha)

end launch

section ends
variable {s t u : State} {c : CoreId}

/-- The agent, the core's progress registers, and the registers, entry and chunk of each of its slots are as before. -/
structure Eased (s t : State) (c : CoreId) : Prop where
  cur : t.cur = s.cur
  mprog : (t.core c).mprog = (s.core c).mprog
  regs : ∀ j, (t.slot c j).regs = (s.slot c j).regs
  entry : ∀ j, (t.slot c j).entry = (s.slot c j).entry
  chunk : ∀ j, (t.slot c j).chunk = (s.slot c j).chunk

theorem eased_refl (s : State) (c : CoreId) : Eased s s c := ⟨rfl, rfl, fun _ => rfl, fun _ => rfl, fun _ => rfl⟩

theorem eased_trans (h : Eased s t c) (h' : Eased t u c) : Eased s u c :=
  ⟨h'.cur.trans h.cur, h'.mprog.trans h.mprog, fun j => (h'.regs j).trans (h.regs j), fun j => (h'.entry j).trans (h.entry j),
    fun j => (h'.chunk j).trans (h.chunk j)⟩

theorem eased_ite {p : Prop} [Decidable p] (h : Eased s t c) (h' : Eased s u c) : Eased s (if p then t else u) c := by
  split_ifs
  · exact h
  · exact h'

theorem eased_foldl {α : Type} {f : State → α → State} (hf : ∀ u a, Eased u (f u a) c) (l : List α) (s : State) :
    Eased s (l.foldl f s) c := by
  induction l generalizing s with
  | nil => exact eased_refl s c
  | cons a l ih => exact eased_trans (hf s a) (ih _)

theorem eased_of_cores (hc : t.cur = s.cur) (h : t.cores = s.cores) : Eased s t c := by
  refine ⟨hc, ?_, fun j => ?_, fun j => ?_, fun j => ?_⟩ <;> simp only [State.slot, State.core, h]

theorem eased_setCore (s : State) (c c' : CoreId) {x : Core} (hs : x.slots = (s.core c').slots) (hm : x.mprog = (s.core c').mprog) :
    Eased s (s.setCore c' x) c := by
  have hk (j : SlotId) : (s.setCore c' x).slot c j = s.slot c j := (kept_setCore s c' x hs).slot
  refine ⟨rfl, ?_, fun j => by rw [hk], fun j => by rw [hk], fun j => by rw [hk]⟩
  rw [core_setCore]
  split_ifs with h
  · rw [hm, h]
  · rfl

theorem eased_setSlot (s : State) (c : CoreId) (j : SlotId) {y : Slot} (hr : y.regs = (s.slot c j).regs) (he : y.entry = (s.slot c j).entry)
    (hc : y.chunk = (s.slot c j).chunk) : Eased s (s.setSlot c j y) c := by
  have hk {α : Type} (g : Slot → α) (hg : g y = g (s.slot c j)) (i : SlotId) : g ((s.setSlot c j y).slot c i) = g (s.slot c i) := by
    by_cases h : i = j
    · rw [h, slot_setSlot_same, hg]
    · rw [slot_setSlot_ne _ _ _ _ _ _ (by simp [h])]
  refine ⟨rfl, ?_, hk Slot.regs hr, hk Slot.entry he, hk Slot.chunk hc⟩
  rw [State.setSlot, core_setCore_same]
  rfl

theorem eased_postOnce (s : State) (a : Agent) (i : Instr) : Eased s (s.postOnce a i) c := eased_of_cores (by simp) (by simp)
theorem eased_postEvent (s : State) (a : Agent) (i : Instr) : Eased s (s.postEvent a i) c := eased_of_cores (by simp) (by simp)

theorem eased_wake (s : State) (c : CoreId) (k : SlotId) : Eased s (s.wake c k) c := by
  unfold State.wake
  exact eased_trans (eased_setSlot s c k (y := { s.slot c k with park := .ready }) rfl rfl rfl) (eased_of_cores (by simp) (by simp))

/-- Slots that waited for one to end go on with the registers that they had (R210). -/
theorem eased_stopEnded (s : State) (c : CoreId) (k : SlotId) : Eased s (s.stopEnded c k) c := by
  unfold State.stopEnded
  refine eased_foldl (fun u e => ?_) _ s
  dsimp only
  split_ifs
  · refine eased_trans ?_ (eased_wake _ c _)
    exact eased_setSlot u c _ rfl rfl rfl
  · exact eased_refl u c

theorem eased_modLaunch (s : State) (n : SeqNo) (g : Launch → Launch) : Eased s (s.modLaunch n g) c := by
  unfold State.modLaunch
  split <;> exact eased_of_cores rfl rfl

theorem eased_sendToken (s : State) (c' : CoreId) (i : Instr) : Eased s (s.sendToken c' i) c :=
  eased_of_cores (by simp [State.sendToken]) (by simp [State.sendToken])

/-- A barrier's sweep touches no slot (R204). -/
theorem eased_sweep (s : State) (c c' : CoreId) (b : BitVec 3) : Eased s (s.sweep c' b) c := by
  have hr := eased_refl s c
  have hb (v : Barrier) : Eased s (s.setBar c' b v) c := eased_setCore s c c' rfl rfl
  unfold State.sweep
  split
  · exact hr
  · dsimp only
    refine eased_ite hr (eased_ite hr (eased_ite (eased_trans (hb _) (eased_sendToken _ _ _)) (eased_ite hr
      (eased_ite (eased_trans (hb _) (eased_sendToken _ _ _)) (eased_ite (eased_ite ?_ ?_) ?_)))))
    · exact eased_trans (hb _) (eased_postEvent _ _ _)
    · exact eased_trans (hb _) (eased_of_cores rfl rfl)
    · exact eased_trans (hb _) (eased_postEvent _ _ _)

/-- What the end of a launch slot sets in the slot itself (R194). -/
def Slot.ended (y : Slot) : Slot :=
  { y with entry := setEntryState y.entry stDone, park := .idle, chunk := {}, stopping := false, preempt := false, cutDue := none }

/-- A launch slot that becomes DONE disturbs no other slot (R194). -/
theorem eased_slotDone (s : State) (c : CoreId) (k : SlotId) : Eased (s.setSlot c k (s.slot c k).ended) (s.slotDone c k) c := by
  unfold State.slotDone
  extract_lets y n s1 s2 s3 gang s4
  have h2 : Eased s1 s2 c := eased_stopEnded s1 c k
  have h3 : Eased s1 s3 c := eased_trans h2 (eased_modLaunch s2 n _)
  have h4 : Eased s1 s4 c := eased_trans h3 (eased_ite (eased_foldl (fun u b => eased_sweep u c c _) _ s3) (eased_postEvent s3 _ _))
  have h5 : Eased s1 (s4.checkDone n) c := eased_trans h4 (eased_postOnce s4 _ _)
  exact eased_ite (eased_trans h5 (eased_postOnce _ _ _)) h5

end ends

section progress
variable {s : State} {c : CoreId} {k : SlotId}

/-- A progress register that a slot left BUSY is cleared (R210). -/
def freeProg (k : SlotId) (m : Vector (BitVec 32) 4) (n : Nat) : Vector (BitVec 32) 4 :=
  if h : n < 4 then (if m[n].getLsbD 31 && m[n].extractLsb' 24 4 == k then m.set n 0 h else m) else m

theorem freeProg_other (m : Vector (BitVec 32) 4) {n : Nat} {j : Fin 4} (h : n ≠ j.val) : (freeProg k m n)[j] = m[j] := by
  unfold freeProg
  split_ifs
  · exact Vector.getElem_set_ne _ _ h
  · rfl
  · rfl

theorem freeProg_busy (m : Vector (BitVec 32) 4) {j : Fin 4} (hb : m[j].getLsbD 31 = true) (hk : m[j].extractLsb' 24 4 = k) :
    (freeProg k m j.val)[j] = 0 := by
  have hc : (m[j.val].getLsbD 31 && m[j.val].extractLsb' 24 4 == k) = true := Bool.and_eq_true_iff.2 ⟨hb, beq_iff_eq.2 hk⟩
  rw [freeProg, dif_pos j.isLt, if_pos hc]
  exact Vector.getElem_set_self _

theorem freeProg_zero (m : Vector (BitVec 32) 4) (n : Nat) {j : Fin 4} (hz : m[j] = 0) : (freeProg k m n)[j] = 0 := by
  by_cases h : n = j.val
  · have hc : (m[j.val].getLsbD 31 && m[j.val].extractLsb' 24 4 == k) = false := by
      have : m[j.val] = 0 := hz
      rw [this]
      simp
    rw [h, freeProg, dif_pos j.isLt, hc]
    exact hz
  · rw [freeProg_other m h, hz]

theorem foldl_freeProg_zero (l : List Nat) (m : Vector (BitVec 32) 4) {j : Fin 4} (hz : m[j] = 0) : (l.foldl (freeProg k) m)[j] = 0 := by
  induction l generalizing m with
  | nil => exact hz
  | cons n l ih => exact ih _ (freeProg_zero m n hz)

theorem foldl_freeProg_busy {l : List Nat} (m : Vector (BitVec 32) 4) {j : Fin 4} (hj : j.val ∈ l) (hb : m[j].getLsbD 31 = true)
    (hk : m[j].extractLsb' 24 4 = k) : (l.foldl (freeProg k) m)[j] = 0 := by
  induction l generalizing m with
  | nil => cases hj
  | cons n l ih =>
    by_cases h : n = j.val
    · rw [List.foldl_cons, h]
      exact foldl_freeProg_zero l _ (freeProg_busy m hb hk)
    · have ho := freeProg_other (k := k) m h
      exact ih _ ((List.mem_cons.1 hj).resolve_left (Ne.symm h)) (by rw [ho, hb]) (by rw [ho, hk])

/-- What a slot leaves behind is cleared: its own VPROG and the progress registers that it left BUSY (R210). -/
theorem clearProg_eq (s : State) (c : CoreId) (k : SlotId) : ∃ x : Core, x.slots = (s.core c).slots
    ∧ x.mprog = (List.range 4).foldl (freeProg k) (s.core c).mprog
    ∧ s.clearProg c k = (s.setCore c x).setSlot c k { s.slot c k with regs := { (s.slot c k).regs with vprog := 0 } } := by
  set x : Core := { s.core c with mprog := (List.range 4).foldl (freeProg k) (s.core c).mprog } with hx
  have hs : (s.setCore c x).slot c k = s.slot c k := (kept_setCore s c x rfl).slot
  refine ⟨x, rfl, rfl, ?_⟩
  rw [← hs, hx]
  rfl

end progress

section stop
variable {s : State} {c : CoreId} {k k' : SlotId} {f : Fields}

/-- A slot that has ended at once: DONE and cleared, the progress registers that it left BUSY cleared, and every other slot undisturbed (R210). -/
structure EndedAt (s t : State) (c : CoreId) (k : SlotId) : Prop where
  cur : t.cur = s.cur
  mem : t.mem = s.mem
  entry : entryState (t.slot c k).entry = stDone
  regs : (t.slot c k).regs = { (s.slot c k).regs with vprog := 0 }
  mprog : ∀ n : BitVec 2, ((s.core c).mprogOf n).getLsbD 31 = true → ((s.core c).mprogOf n).extractLsb' 24 4 = k → (t.core c).mprogOf n = 0
  others : ∀ j, j ≠ k → (t.slot c j).regs = (s.slot c j).regs ∧ (t.slot c j).chunk = (s.slot c j).chunk

/-- A launch slot told to stop with nothing of its own left to commit ends at once (R210). -/
theorem stopSlot_alone (hrun : entryState (s.slot c k).entry = 3) (halone : (s.slot c k).alone = true)
    (hcapr : entryCapr (s.slot c k).entry = false) (hmsgr : entryMsgr (s.slot c k).entry = false) : EndedAt s (s.stopSlot c k) c k := by
  obtain ⟨x, hxs, hxm, hclear⟩ := clearProg_eq s c k
  have hy : (s.clearProg c k).slot c k = { s.slot c k with regs := { (s.slot c k).regs with vprog := 0 } } := by
    rw [hclear, slot_setSlot_same]
  have hisrun : (s.slot c k).isRun = true := beq_iff_eq.2 hrun
  have hstop : s.stopSlot c k = (s.clearProg c k).slotDone c k := by
    rw [State.stopSlot, hisrun, halone, State.finishStop, hy]
    simp only [hcapr, hmsgr, Bool.not_true, Bool.or_self, Bool.false_eq_true, if_false, if_true]
  have hmem := (lasting_stopSlot s c k).mem
  have h := eased_slotDone (s.clearProg c k) c k
  rw [← hstop, hy] at h
  have hk (y : Slot) : ((s.clearProg c k).setSlot c k y).slot c k = y := slot_setSlot_same _ c k y
  refine ⟨?_, hmem, ?_, ?_, fun n hb hn => ?_, fun j hj => ?_⟩
  · rw [h.cur, hclear]
    rfl
  · rw [h.entry, hk]
    exact entryState_setEntryState _ (by decide)
  · rw [h.regs, hk]
    rfl
  · have hc : ((s.clearProg c k).core c).mprog = x.mprog := by
      rw [hclear, State.setSlot, core_setCore_same, core_setCore_same]
      rfl
    have hm : ((s.stopSlot c k).core c).mprog = x.mprog := by
      rw [h.mprog, State.setSlot, core_setCore_same, ← hc]
      rfl
    rw [Core.mprogOf, hm, hxm]
    exact foldl_freeProg_busy (j := n.toFin) _ (List.mem_range.2 n.toFin.isLt) hb hn
  · have hne : (c, j) ≠ (c, k) := by simp [hj]
    have ho : (s.clearProg c k).slot c j = s.slot c j := by
      rw [hclear, slot_setSlot_ne _ _ _ _ _ _ hne]
      exact (kept_setCore s c x hxs).slot
    rw [h.regs, h.chunk, slot_setSlot_ne _ _ _ _ _ _ hne, ho]
    exact ⟨rfl, rfl⟩

/-- SLOTCTL.STOP may not name this slot: the executing one, or one of a reserved role (R210). -/
def State.stopBarred (s : State) (c : CoreId) (k k' : SlotId) : Prop :=
  k' = k ∨ ((k' = 14 ∨ k' = 15) ∧ (entryCapr (s.slot c k').entry = true ∨ entryMsgr (s.slot c k').entry = true))

/-- The slot belongs to another context (R210). -/
def State.stopForeign (s : State) (c : CoreId) (k' : SlotId) : Prop :=
  entryState (s.slot c k').entry ≠ 0 ∧ entryCtx (s.slot c k').entry ≠ s.curCtx

/-- What SLOTCTL.STOP comes to for a slot that it names: complete once that slot has ended, refused, or told to stop (R210). -/
theorem exec_slotctlStop (h : Issues (.slotctlStop f) f 1 s c k) (hk : (s.src f.src1).extractLsb' 0 4 = k') :
    ∃ eff, exec (.slotctlStop f) s = .next (concludeSlot c k (opcOf (.slotctlStop f)) (.slotctlStop f) f eff)
      ∧ ((s.slot c k).stopDone = true → eff = .done (s.setSlot c k { s.slot c k with stopDone := false }))
      ∧ ((s.slot c k).stopDone = false →
        (s.stopBarred c k k' → eff = .trap s (illegal 0x13 1 0))
        ∧ (¬ s.stopBarred c k k' → s.stopForeign c k' → eff = .trap s (protTrap .read s.isUser false (s.src f.src1) 0))
        ∧ (¬ s.stopBarred c k k' → ¬ s.stopForeign c k' →
          (entryState (s.slot c k').entry ≠ 3 → eff = .done s)
          ∧ (entryState (s.slot c k').entry = 3 → ∀ t, t = (if (s.slot c k').stopping then s else s.stopSlot c k') →
            eff = if !(t.slot c k').isRun then .done t else .left (t.setSlot c k { t.slot c k with park := .stop k' })))) := by
  have hcs : s.curSlot = k := by simp [State.curSlot, h.cur]
  refine ⟨_, by rw [arm_slotctlStop, execSlotctlStop, scalar, issue_body h], ?_⟩
  simp only [curCore_slot h.cur, hcs, hk]
  refine ⟨fun hd => if_pos hd, fun hd => ?_⟩
  rw [if_neg (Bool.eq_false_iff.1 hd)]
  refine ⟨fun hb => if_pos hb, fun hb hf => ?_, fun hb hf => ⟨fun hr => ?_, fun hr t ht => ?_⟩⟩
  · exact (if_neg hb).trans (if_pos hf)
  · exact (if_neg hb).trans ((if_neg hf).trans (if_pos hr))
  · rw [ht]
    exact (if_neg hb).trans ((if_neg hf).trans (if_neg (not_not.2 hr)))

/-- SLOTCTL.STOP completes once the slot that it stopped has ended (R210, log entry 106). -/
theorem slotctlStop_completes (h : Issues (.slotctlStop f) f 1 s c k) (hd : (s.slot c k).stopDone = true) (hs : (s.slot c k).chunk.solo = false) :
    ∃ u, exec (.slotctlStop f) s = .next u ∧ OnlySlot s u c k ∧ (u.slot c k).regs = s.regs.advance ∧ (u.slot c k).stopDone = false := by
  obtain ⟨eff, he, hdone, -⟩ := exec_slotctlStop h rfl
  rw [hdone hd] at he
  have hv := slot_setSlot_same s c k { s.slot c k with stopDone := false }
  have ho := onlySlot_setSlot s c k { s.slot c k with stopDone := false }
  generalize s.setSlot c k { s.slot c k with stopDone := false } = v at he hv ho
  have hvc : v.cur = .slot c k := (onlySlot_cur ho).trans h.cur
  have hend := ended_done (regsNow_refl hvc) hvc (opcOf (.slotctlStop f)) (.slotctlStop f) f
  refine ⟨_, he, onlySlot_trans ho hend.only, ?_, ?_⟩
  · rw [ended_regs hend (by rw [hv]; exact hs), regs_slot v c k hvc, hv, regs_slot s c k h.cur]
  · rw [hend.slot, hv]

/-- A slot that holds something of its own, or stops already, is running still after it is told to stop (R210). -/
theorem stopSlot_waits (hrun : entryState (s.slot c k').entry = 3) (hk : k' ≠ k) (h : (s.slot c k').stopping = true ∨ (s.slot c k').alone = false)
    {t : State} (ht : t = if (s.slot c k').stopping then s else s.stopSlot c k') :
    (t.slot c k').isRun = true ∧ (t.slot c k').stopping = true ∧ (t.slot c k').regs = (s.slot c k').regs ∧ t.slot c k = s.slot c k
      ∧ t.mem = s.mem := by
  have hisrun : (s.slot c k').isRun = true := beq_iff_eq.2 hrun
  by_cases hst : (s.slot c k').stopping = true
  · rw [ht, if_pos hst]
    exact ⟨hisrun, hst, rfl, rfl, rfl⟩
  · have halone := h.resolve_left hst
    have he : s.stopSlot c k' = (s.setSlot c k' { s.slot c k' with stopping := true, park := .ready }).postTurn c k' := by
      simp only [State.stopSlot, hisrun, halone, Bool.not_true, Bool.false_eq_true, if_false]
    rw [ht, if_neg hst, he, slot_postTurn, slot_setSlot_same, slot_postTurn, slot_setSlot_ne _ _ _ _ _ _ (by simp [Ne.symm hk])]
    exact ⟨hisrun, rfl, rfl, rfl, by simp [State.setSlot]⟩

/-- SLOTCTL.STOP of a running slot with something of its own left to commit parks until it has ended (R210). -/
theorem slotctlStop_parks (h : Issues (.slotctlStop f) f 1 s c k) (hk : (s.src f.src1).extractLsb' 0 4 = k') (hd : (s.slot c k).stopDone = false)
    (hne : k' ≠ k) (hb : ¬ s.stopBarred c k k') (hf : ¬ s.stopForeign c k') (hr : entryState (s.slot c k').entry = 3)
    (hw : (s.slot c k').stopping = true ∨ (s.slot c k').alone = false) : ∃ u, exec (.slotctlStop f) s = .next u
      ∧ (u.slot c k').stopping = true ∧ (u.slot c k').regs = (s.slot c k').regs ∧ (u.slot c k).regs = s.regs ∧ (u.slot c k).park = .stop k'
      ∧ u.mem = s.mem := by
  obtain ⟨eff, he, -, hnot⟩ := exec_slotctlStop h hk
  have heff := (((hnot hd).2.2 hb hf).2 hr) _ rfl
  obtain ⟨hrun, hstop, hregs, hown, hmem⟩ := stopSlot_waits hr hne hw rfl
  generalize (if (s.slot c k').stopping = true then s else s.stopSlot c k') = t at heff hrun hstop hregs hown hmem
  have hneg : ¬ ((!(t.slot c k').isRun) = true) := by simp [hrun]
  rw [heff, if_neg hneg] at he
  have hother := slot_setSlot_ne t c c k k' { t.slot c k with park := .stop k' } (by simp [hne])
  refine ⟨t.setSlot c k { t.slot c k with park := .stop k' }, ?_, ?_, ?_, ?_, ?_, ?_⟩
  · rw [he, concludeSlot, slot_setSlot_same]
    rfl
  · rw [hother, hstop]
  · rw [hother, hregs]
  · rw [slot_setSlot_same, hown, regs_slot s c k h.cur]
  · rw [slot_setSlot_same]
  · exact hmem

/-- SLOTCTL.STOP of a launch slot with nothing of its own left to commit ends it and completes (R210). -/
theorem slotctlStop_ends (h : Issues (.slotctlStop f) f 1 s c k) (hk : (s.src f.src1).extractLsb' 0 4 = k') (hd : (s.slot c k).stopDone = false)
    (hne : k' ≠ k) (hb : ¬ s.stopBarred c k k') (hf : ¬ s.stopForeign c k') (hr : entryState (s.slot c k').entry = 3)
    (hcapr : entryCapr (s.slot c k').entry = false) (hmsgr : entryMsgr (s.slot c k').entry = false) (hst : (s.slot c k').stopping = false)
    (halone : (s.slot c k').alone = true) (hs : (s.slot c k).chunk.solo = false) : ∃ u, exec (.slotctlStop f) s = .next u
      ∧ entryState (u.slot c k').entry = 4 ∧ (u.slot c k').regs = { (s.slot c k').regs with vprog := 0 }
      ∧ (∀ n : BitVec 2, ((s.core c).mprogOf n).getLsbD 31 = true → ((s.core c).mprogOf n).extractLsb' 24 4 = k' → (u.core c).mprogOf n = 0)
      ∧ (u.slot c k).regs = s.regs.advance ∧ u.mem = s.mem := by
  obtain ⟨eff, he, -, hnot⟩ := exec_slotctlStop h hk
  have heff := (((hnot hd).2.2 hb hf).2 hr) _ (if_neg (Bool.eq_false_iff.1 hst)).symm
  obtain ⟨hcur, hmem, hentry, hregs, hprog, hothers⟩ := stopSlot_alone hr halone hcapr hmsgr
  generalize s.stopSlot c k' = t at heff hcur hmem hentry hregs hprog hothers
  have hrun : (!(t.slot c k').isRun) = true := by
    rw [Slot.isRun, hentry]
    rfl
  rw [heff, if_pos hrun] at he
  have htc : t.cur = .slot c k := hcur.trans h.cur
  obtain ⟨hown, hchunk⟩ := hothers k (Ne.symm hne)
  have hend := ended_done (regsNow_refl htc) htc (opcOf (.slotctlStop f)) (.slotctlStop f) f
  have hother := hend.only.slots c k' (by simp [hne])
  refine ⟨_, he, ?_, ?_, fun n hbusy hn => ?_, ?_, (onlySlot_mem hend.only).trans hmem⟩
  · rw [hother, hentry]
    rfl
  · rw [hother, hregs]
  · have hcore := congrArg (fun x : Core => x.mprogOf n) (hend.only.cores c)
    exact hcore.trans (hprog n hbusy hn)
  · rw [ended_regs hend (by rw [hchunk]; exact hs), regs_slot t c k htc, hown, regs_slot s c k h.cur]

/-- SLOTCTL.RD gives the half of the slot-table entry that bit 4 of its source names (R210). -/
theorem gives_slotctlRd {d : BitVec 5} (hd : f.dst = .g d) (h : Issues (.slotctlRd f) f 1 s c k) :
    Gives (.slotctlRd f) s c k (s.regs.putG d (BitVec.ofNat 64 ((s.slot c ((s.src f.src1).extractLsb' 0 4)).entry.toNat
      / (if (s.src f.src1).getLsbD 4 then 2 ^ 64 else 1)))).advance := by
  have hx (e : BitVec 128) (b : Bool) : (if b then e.extractLsb' 64 64 else e.extractLsb' 0 64)
      = BitVec.ofNat 64 (e.toNat / (if b then 2 ^ 64 else 1)) := by
    apply BitVec.eq_of_toNat_eq
    cases b
    · simp [BitVec.extractLsb'_toNat]
    · simp [BitVec.extractLsb'_toNat, Nat.shiftRight_eq_div_pow]
  refine scalar_done h (arm_slotctlRd f s) ?_ (regsNow_setG (regsNow_refl h.cur) h.cur d _)
  simp only [curCore_slot h.cur, hd, gNum, hx]

end stop

/-- Settles O33: YIELD, its expiry, WAITD and LAUNCH each by their outcomes; SLOTCTL.STOP by what it finds of the slot that it names. -/
theorem cooperationInstructions : Obligations.CooperationInstructions := by
  intro f s c k waits y
  have hsolo {i : Instr} (h : Issues i f 1 s c k) (hs : s.chunk.solo = false) : (s.slot c k).chunk.solo = false := by
    rwa [chunk_slot s c k h.cur] at hs
  refine ⟨fun h hs => yield_parks h (hsolo h hs), fun e hc hp he => ?_, fun q hq h => waitd_bound hq h, fun h => ?_,
    fun d hd h => gives_slotctlRd hd h, fun h => ?_⟩
  · obtain ⟨ho, hslot, hturn⟩ := wake_ready s c k
    exact ⟨_, yieldExpiry_due hc hp he, ho, hslot, hturn⟩
  · intro va q t z full
    refine ⟨fun ha => ⟨_, launch_misaligned h ha, rfl, rfl⟩, fun ha hctx hroom => ?_, fun ha hctx hfull => ?_, fun ha hctx => ?_⟩
    · exact launch_reserves h rfl rfl ha hctx (decide_eq_false hroom)
    · exact launch_waits h rfl rfl ha hctx (decide_eq_true hfull)
    · exact ⟨_, launch_refused h rfl rfl ha hctx, rfl, rfl⟩
  · intro k' y' reserved other
    refine ⟨fun hd hs => slotctlStop_completes h hd (hsolo h hs), fun hd => ?_⟩
    obtain ⟨eff, he, -, hnot⟩ := exec_slotctlStop h (k' := k') rfl
    obtain ⟨hbarred, hforeign, hfree⟩ := hnot hd
    have hb (hne : k' ≠ k) (hr : ¬ reserved) : ¬ s.stopBarred c k k' := not_or.2 ⟨hne, hr⟩
    refine ⟨fun hbar => ⟨illegal 0x13 1 0, ?_, rfl⟩,
      fun hne hr ho => ⟨protTrap .read s.isUser false (s.src f.src1) 0, ?_, rfl, rfl⟩, fun hne hr ho hst => ?_,
      fun hne hr ho hst hw => ?_, fun hne hr ho hst hcapr hmsgr hstop halone hs => ?_⟩
    · rw [he, hbarred hbar]
      rfl
    · rw [he, hforeign (hb hne hr) ho]
      rfl
    · rw [(hfree (hb hne hr) ho).1 hst] at he
      exact ⟨_, he, ended_done (regsNow_refl h.cur) h.cur _ _ _⟩
    · exact slotctlStop_parks h rfl hd hne (hb hne hr) ho hst hw
    · exact slotctlStop_ends h rfl hd hne (hb hne hr) ho hst hcapr hmsgr hstop halone (hsolo h hs)

end Sys2Proof.Machine
end

section
/-! Lanes of V registers written lane by lane (01_thread_state.md R10, R25, 02_number_formats.md R44, 05_vector_forms_functions.md R140): O39, O40. -/

namespace Sys2Proof.Machine

section lane
variable {v : VWord} {e i j x : Nat}

/-- The bits of a lane are bits of the vector (R10). -/
theorem testBit_laneOf (v : VWord) (e i b : Nat) : (laneOf v e i).testBit b = (decide (b < e) && v.getLsbD (e * i + b)) := by
  rw [laneOf, fieldNat, Nat.testBit_mod_two_pow, Nat.testBit_shiftRight, BitVec.testBit_toNat]

/-- A lane lies in the vector's 512 bits. -/
theorem lane_bit_lt {b : Nat} (hj : j < 512 / e) (hb : b < e) : e * j + b < 512 := by
  have h := Nat.mul_le_of_le_div e (j + 1) 512 hj
  rw [Nat.add_mul, Nat.one_mul, Nat.mul_comm] at h
  omega

/-- A lane that is written holds the value's lowest bits (R10). -/
theorem laneOf_putLane_same (v : VWord) (x : Nat) (hj : j < 512 / e) : laneOf (putLane v e j x) e j = x % 2 ^ e := by
  refine Nat.eq_of_testBit_eq fun b => ?_
  rw [testBit_laneOf, Nat.testBit_mod_two_pow]
  by_cases hb : b < e
  · rw [putLane, getLsbD_setField v _ _ _ (lane_bit_lt hj hb), if_pos (by omega), Nat.add_sub_cancel_left]
  · simp [hb]

/-- A lane that is written leaves the others as they are. -/
theorem laneOf_putLane_other (v : VWord) (x : Nat) (hj : j < 512 / e) (h : i ≠ j) : laneOf (putLane v e i x) e j = laneOf v e j := by
  refine Nat.eq_of_testBit_eq fun b => ?_
  rw [testBit_laneOf, testBit_laneOf]
  by_cases hb : b < e
  · have hout : e * j + b < e * i ∨ e * i + e ≤ e * j + b := by
      rcases lt_or_gt_of_ne h with hi | hi
      · have := Nat.mul_le_mul_left e (Nat.succ_le_of_lt hi)
        rw [Nat.mul_succ] at this
        omega
      · have := Nat.mul_le_mul_left e (Nat.succ_le_of_lt hi)
        rw [Nat.mul_succ] at this
        omega
    rw [putLane, getLsbD_setField_outside v x (lane_bit_lt hj hb) hout]
  · simp [hb]

end lane

section fold
variable {s : State} {f : Fields} {e j : Nat} {fn : Nat → Option (Nat × Flags)}

/-- What an instruction makes of a lane; nothing where the lane is not active (R25). -/
def State.laneAct (s : State) (f : Fields) (fn : Nat → Option (Nat × Flags)) (j : Nat) : Option (Nat × Flags) :=
  if (s.guardMask f).getLsbD j then fn j else none

/-- One lane written with its flags gathered, or left. -/
def putAct (e : Nat) (acc : VWord × Flags) (j : Nat) (x : Option (Nat × Flags)) : VWord × Flags :=
  x.elim acc fun x => (putLane acc.1 e j x.1, acc.2 ||| x.2)

theorem laneFold_eq (s : State) (f : Fields) (e : Nat) (old : VWord) (fn : Nat → Option (Nat × Flags)) :
    s.laneFold f e old fn = (List.range (512 / e)).foldl (fun acc j => putAct e acc j (s.laneAct f fn j)) (old, 0) := by
  unfold State.laneFold
  congr 1
  funext acc j
  rw [State.laneAct]
  split_ifs
  · cases fn j <;> rfl
  · rfl

/-- The flags of a lane by lane instruction are those of its active lanes (R44). -/
theorem laneFold_flags (old : VWord) :
    (s.laneFold f e old fn).2 = ((List.range (512 / e)).filterMap (s.laneAct f fn)).foldl (fun (a : Flags) x => a ||| x.2) 0 := by
  rw [laneFold_eq, List.foldl_filterMap]
  refine (List.foldl_hom Prod.snd fun acc j => ?_).symm
  cases s.laneAct f fn j <;> rfl

/-- Each lane of a lane by lane instruction takes its value, or stays (R25, R140). -/
theorem laneFold_lane (old : VWord) (hj : j < 512 / e) :
    laneOf (s.laneFold f e old fn).1 e j = (s.laneAct f fn j).elim (laneOf old e j) fun x => x.1 % 2 ^ e := by
  have hother (b : Nat) (hb : b ≠ j) (acc : VWord × Flags) : laneOf (putAct e acc b (s.laneAct f fn b)).1 e j = laneOf acc.1 e j := by
    cases s.laneAct f fn b with
    | none => rfl
    | some x => exact laneOf_putLane_other acc.1 x.1 hj hb
  rw [laneFold_eq]
  cases ha : s.laneAct f fn j with
  | none =>
    refine foldl_keeps (g := fun acc : VWord × Flags => laneOf acc.1 e j) (fun b _ acc => ?_) _
    by_cases hb : b = j
    · rw [hb, ha]
      rfl
    · exact hother b hb acc
  | some x =>
    refine foldl_sets (g := fun acc : VWord × Flags => laneOf acc.1 e j) (List.mem_range.2 hj) (fun acc => ?_) (fun b _ hb acc => hother b hb acc) _
    rw [ha]
    exact laneOf_putLane_same acc.1 x.1 hj

end fold

section given
variable {i : Instr} {f g : Fields} {s : State} {c : CoreId} {k : SlotId} {d : BitVec 4} {e opc : Nat} {fn : Nat → Option (Nat × Flags)}

/-- An enabled flag among those raised traps with all of them set (R44). -/
theorem flags_trap {fl : Flags} (h : s.regs.fpsr.extractLsb' 8 5 &&& fl ≠ 0) : s.flags fl = .error (.trap (s.sticky fl) (fpTrap fl)) := by
  rw [State.flags, enabledFlags, BitVec.and_comm, if_neg h]

/-- An instruction that comes to lanes of a V destination gives these lanes, or is an FP Trap (R44, R140). -/
theorem lanesGiven_of_toLanes (hd : f.dst = .v d) (hc : s.cur = .slot c k)
    (he : exec i s = .next (concludeSlot c k opc i g (s.toLanes f e fn))) : LanesGiven i f s c k d e fn := by
  have hr : s.toLanes f e fn = (s.flags (s.laneFold f e (s.getV d) fn).2).fin fun _ t => .done (t.setV d (s.laneFold f e (s.getV d) fn).1) := by
    rw [State.toLanes, hd]
    rfl
  unfold LanesGiven
  intro act fl
  have hfl : (s.laneFold f e (s.getV d) fn).2 = fl := laneFold_flags _
  have hlane {j : Nat} (hj : j < 512 / e) := laneFold_lane (s := s) (f := f) (fn := fn) (s.getV d) hj
  rw [hr, hfl] at he
  refine ⟨fun hq => ⟨_, ⟨_, he, ?_⟩, fun j hj => (hlane hj).trans ?_⟩, fun hq => he.trans ?_⟩
  · rw [flags_quiet hq]
    exact ended_done (regsNow_setV (regsNow_sticky (regsNow_refl hc) hc fl) hc d _) hc opc i g
  · change (act j).elim _ _ = _
    cases act j <;> rfl
  · rw [flags_trap hq]
    rfl

/-- An instruction whose body moves lanes gives them, and raises no flag. -/
theorem lanesGiven_of_moveLanes {fm : Nat → Option Nat} (hd : f.dst = .v d) (hc : s.cur = .slot c k)
    (he : exec i s = .next (concludeSlot c k opc i g (s.moveLanes f e fm))) (hm : ∀ j, fn j = (fm j).map fun x => (x, 0)) :
    LanesGiven i f s c k d e fn := by
  rw [funext hm]
  exact lanesGiven_of_toLanes hd hc he

end given

end Sys2Proof.Machine
end

section
/-! Element-wise vector instructions (05_vector_forms_functions.md R125, R128, R140, R143, R151): O39, and O43 over forms. -/

namespace Sys2Proof.Machine

section rows
variable {s : State} {f : Fields} {c : CoreId} {k : SlotId} {row : LaneRow}

/-- A row of the table is an element-wise instruction of the model: its lanes, its limit and its operation are the row's. -/
structure LaneRow.Runs (row : LaneRow) (s : State) (f : Fields) (lane : State → Lane) (limit : Lane → Bool) (op : LaneOp) : Prop where
  runs : exec row.instr s = vector row.instr f s lane row.exact row.old limit op
  lane : lane s = row.lane
  limit : limit row.lane = row.limit
  op : op row.lane = row.op

/-- The lane kind chooses between an integer operation and a floating-point one (R125). -/
theorem kindOp_kindLane (i p : LaneOp) (m : BitVec 4) (x y d : Nat) :
    kindOp i p (s.kindLane m) x y d = if s.regs.vkind = 1 then p (.fp m) x y d else i (.int m) x y d := by
  unfold State.kindLane
  split_ifs <;> rfl

theorem minMaxLimit_kindLane (m : BitVec 4) : minMaxLimit (s.kindLane m) = if s.regs.vkind = 1 then modRm m == 0 else !modSat m := by
  unfold State.kindLane
  split_ifs <;> rfl

/-- A row whose operation depends on the lane kind. -/
theorem runs_kind {limit : Lane → Bool} {i p : LaneOp} (hl : row.lane = s.kindLane f.mod)
    (he : exec row.instr s = vector row.instr f s (·.kindLane f.mod) row.exact row.old limit (kindOp i p))
    (hlim : limit (s.kindLane f.mod) = row.limit)
    (ho : ∀ x y d, row.op x y d = if s.regs.vkind = 1 then p (.fp f.mod) x y d else i (.int f.mod) x y d) :
    ∃ lane limit op, row.Runs s f lane limit op := by
  refine ⟨_, _, _, he, hl.symm, by rw [hl, hlim], ?_⟩
  funext x y d
  rw [hl, kindOp_kindLane, ho]

/-- Every row of the table is what the model runs (R128, R140, R143). -/
theorem laneTable_runs (s : State) (f : Fields) : ∀ row ∈ s.laneTable f, ∃ lane limit op, row.Runs s f lane limit op := by
  refine List.forall_iff_forall_mem.1 ⟨?vadd, ?vsub, ?vmul, ?vmin, ?vmax, ?vabs, ?vneg,
    ⟨_, _, _, arm_vfma f s, rfl, rfl, rfl⟩, ⟨_, _, _, arm_vdiv f s, rfl, rfl, rfl⟩, ⟨_, _, _, arm_vsqrt f s, rfl, rfl, rfl⟩,
    ⟨_, _, _, arm_vand f s, rfl, rfl, rfl⟩, ⟨_, _, _, arm_vor f s, rfl, rfl, rfl⟩, ⟨_, _, _, arm_vxor f s, rfl, rfl, rfl⟩,
    ⟨_, _, _, arm_vmov f s, rfl, rfl, rfl⟩, ⟨_, _, _, arm_vshl f s, rfl, rfl, rfl⟩, ⟨_, _, _, arm_vshr f s, rfl, rfl, rfl⟩,
    ⟨_, _, _, arm_vsar f s, rfl, rfl, rfl⟩, ⟨_, _, _, arm_vmulh f s, rfl, rfl, rfl⟩, ⟨_, _, _, arm_vpopc f s, rfl, rfl, rfl⟩⟩
  case vadd => exact runs_kind rfl (arm_vadd f s) rfl fun _ _ _ => rfl
  case vsub => exact runs_kind rfl (arm_vsub f s) rfl fun _ _ _ => rfl
  case vmul => exact runs_kind rfl (arm_vmul f s) rfl fun _ _ _ => rfl
  case vmin => exact runs_kind rfl (arm_vmin f s) (minMaxLimit_kindLane f.mod) fun _ _ _ => rfl
  case vmax => exact runs_kind rfl (arm_vmax f s) (minMaxLimit_kindLane f.mod) fun _ _ _ => rfl
  case vabs => exact runs_kind rfl (arm_vabs f s) rfl fun _ _ _ => rfl
  case vneg => exact runs_kind rfl (arm_vneg f s) rfl fun _ _ _ => rfl

/-- The run of an element-wise instruction over forms takes from its operation what it makes of its own lanes. -/
theorem wiseRun_congr {op op' : LaneOp} {l : Lane} (h : op l = op' l) (opc : Nat) (g : Fields) (needD : Bool) (rs : List VWord) :
    wiseRun opc g l needD op rs = wiseRun opc g l needD op' rs := by
  simp only [wiseRun, h]

/-- An element-wise instruction of the table runs over forms, or in registers unless its lane kind sets a limit (R128, R140). -/
theorem exec_laneRow (hr : row ∈ s.laneTable f) (h : Issues row.instr f (512 / row.lane.e) s c k) :
    exec row.instr s = .next (concludeSlot c k (opcOf row.instr) row.instr f
      (if isForm f.dst then formWise (opcOf row.instr) f row.lane row.old row.limit (wiseFmt (opcOf row.instr) row.lane row.exact) (fun _ => row.op) s
      else if !row.limit then .trap s kindLimit else regWise f row.lane (fun _ => row.op) s)) := by
  obtain ⟨lane, limit, op, he, hl, hlim, ho⟩ := laneTable_runs s f row hr
  rw [← hl] at h
  rw [he, vector, Lane.count, issue_body h]
  simp only [hl, hlim, formWise, regWise, wiseRun_congr (op' := fun _ => row.op) ho, ho]

/-- The fields of an instruction whose second source field is no source of its lanes. -/
def unaryFields (f : Fields) : Fields := { f with src2 := .none }

/-- SFX as an operation on lanes (R151). -/
def sfxOp (f : Fields) : LaneOp := fun l x _ _ => sfxRes l.t l.rm (immNat f.src2) x

/-- SFX over forms, or in registers: its function code is no source (R151). -/
theorem exec_sfx {n : BitVec 21} (hn : f.src2 = .imm n) (h : Issues (.sfx f) f (512 / (modFmt f.mod).width) s c k) :
    exec (.sfx f) s = .next (concludeSlot c k (opcOf (.sfx f)) (.sfx f) (unaryFields f)
      (if isForm f.dst then formWise 0xA4 (unaryFields f) (.fp f.mod) false true (wiseFmt 0xA4 (.fp f.mod) true) (sfxOp f) s
      else regWise (unaryFields f) (.fp f.mod) (sfxOp f) s)) := by
  have hfree : (s.slot c k).pending (gUsed (opcOf (.sfx f)) (unaryFields f)) = false := by
    have := h.free
    rwa [gUsed, hn] at this
  have hi : Issues (.sfx f) (unaryFields f) (512 / (Lane.fp f.mod).e) s c k := ⟨h.cur, h.level, h.guard, hfree⟩
  rw [arm_sfx, execSfx, vector]
  exact issue_body hi _

end rows

/-- Settles O39: each row of the table is what the model runs, and its lanes are those of a lane by lane instruction. -/
theorem laneResults : Obligations.LaneResults := by
  intro f s c k d hd value
  have hv : vNum f.dst = d := by rw [hd]; rfl
  have hf : ¬ isForm f.dst = true := by rw [hd]; exact Bool.false_ne_true
  refine ⟨fun row hr h => ?_, fun n hn h => ?_⟩
  · have he := exec_laneRow hr h
    rw [if_neg hf] at he
    refine ⟨fun hl => ?_, fun hl => ?_⟩
    · rw [hl, regWise, hv] at he
      exact lanesGiven_of_toLanes hd h.cur he
    · rw [hl] at he
      exact he
  · have he := exec_sfx hn h
    rw [if_neg hf] at he
    exact lanesGiven_of_toLanes hd h.cur he

end Sys2Proof.Machine
end

section
/-! Vector instructions that move, select, convert or widen lanes (05_vector_forms_functions.md R141 to R144, R150, R154): O40. -/

namespace Sys2Proof.Machine

section moves
variable {i : Instr} {f : Fields} {s : State} {c : CoreId} {k : SlotId} {d : BitVec 4} {e lanes : Nat} {fn : Nat → Option (Nat × Flags)}
  {fm : Nat → Option Nat}

/-- An instruction that issues and moves lanes. -/
theorem lanesGiven_moves {body : State → Eff} (hd : f.dst = .v d) (h : Issues i f lanes s c k) (he : exec i s = issue i f lanes s body)
    (hb : body s = s.moveLanes f e fm) (hm : ∀ j, fn j = (fm j).map fun x => (x, 0)) : LanesGiven i f s c k d e fn := by
  rw [issue_body h, hb] at he
  exact lanesGiven_of_moveLanes hd h.cur he hm

/-- An instruction of the Width layout that issues does what its body says of its width (R126). -/
theorem exec_width {body : Nat → State → Eff} (h : Issues i f (512 / widthOf f.mod) s c k) (he : exec i s = widthOp i f s body) :
    exec i s = .next (concludeSlot c k (opcOf i) i f (body (widthOf f.mod) s)) := he.trans (issue_body h _)

/-- An instruction of the Width layout that moves lanes. -/
theorem lanesGiven_width {body : Nat → State → Eff} (hd : f.dst = .v d) (h : Issues i f (512 / widthOf f.mod) s c k)
    (he : exec i s = widthOp i f s body) (hb : body (widthOf f.mod) s = s.moveLanes f (widthOf f.mod) fm)
    (hm : ∀ j, fn j = (fm j).map fun x => (x, 0)) : LanesGiven i f s c k d (widthOf f.mod) fn :=
  lanesGiven_of_moveLanes hd h.cur ((exec_width h he).trans (by rw [hb])) hm

/-- VDOT adds four products to each lane (R141). -/
theorem lanesGiven_vdot (hd : f.dst = .v d) (h : Issues (.vdot f) f (512 / (4 * tyWidth (modTy f.mod))) s c k) :
    let ty := modTy f.mod
    let e := tyWidth ty
    LanesGiven (.vdot f) f s c k d (4 * e) fun j => some (((narrow (ty + 2) (modSat f.mod) (intOf (ty + 2) (laneOf (s.getV d) (4 * e) j)
      + ((List.range 4).map fun i => intOf ty (laneOf (s.getV (vNum f.src1)) e (4 * j + i))
        * intOf ty (laneOf (s.getV (vNum f.src2)) e (4 * j + i))).sum) % 2 ^ (4 * e)).toNat, 0)) := by
  have he := arm_vdot f s
  rw [execVdot] at he
  refine lanesGiven_moves hd h he rfl fun j => ?_
  rw [List.sum_eq_foldl, List.foldl_map, hd]
  rfl

/-- A conversion to elements as wide as the source's or wider reads a part of the source's lanes (R144). -/
theorem cvtReg_wide (hw : cvtWidth (cvtSrc f.src2) ≤ cvtWidth (cvtDst f.src2)) :
    let es := cvtWidth (cvtSrc f.src2)
    let ed := cvtWidth (cvtDst f.src2)
    cvtReg f s = s.toLanes f ed fun j =>
      some (convert (cvtSrc f.src2) (cvtDst f.src2) f.mod (s.laneSrc f.src1 es (cvtPart f.src2 * (512 / ed) + j))) := by
  simp only [cvtReg, if_pos hw, max_eq_right hw]

/-- A conversion to narrower elements writes a part of the destination's lanes (R144). -/
theorem cvtReg_narrow (hw : cvtWidth (cvtDst f.src2) < cvtWidth (cvtSrc f.src2)) :
    let es := cvtWidth (cvtSrc f.src2)
    let ed := cvtWidth (cvtDst f.src2)
    let low := cvtPart f.src2 * (512 / es)
    cvtReg f s = s.toLanes f ed fun j => if low ≤ j ∧ j < low + 512 / es then
      some (convert (cvtSrc f.src2) (cvtDst f.src2) f.mod (s.laneSrc f.src1 es (j - low))) else none := by
  simp only [cvtReg, if_neg (not_le.2 hw), max_eq_left hw.le]

/-- VCVT between V registers (R144). -/
theorem lanesGiven_vcvt (hd : f.dst = .v d) (h : Issues (.vcvt f) f (512 / cvtWidth (cvtDst f.src2)) s c k)
    (hb : cvtReg f s = s.toLanes f (cvtWidth (cvtDst f.src2)) fn) : LanesGiven (.vcvt f) f s c k d (cvtWidth (cvtDst f.src2)) fn := by
  have hf : isForm f.dst = false := by rw [hd]; rfl
  have he := arm_vcvt f s
  simp only [execVcvt, hf, Bool.false_eq_true, if_false] at he
  rw [issue_body h, hb] at he
  exact lanesGiven_of_toLanes hd h.cur he

/-- RNGF of 64-bit draws (R154). -/
theorem lanesGiven_rngf_wide (hd : f.dst = .v d) (hw : f.mod = 3) (h : Issues (.rngf f) f 8 s c k) :
    LanesGiven (.rngf f) f s c k d 64 fun j => some (drawValue true (s.laneSrc f.src1 64 j), 0) := by
  have he := arm_rngf f s
  simp only [execRngf, hd, hw, if_true] at he
  exact lanesGiven_moves hd h he rfl fun _ => rfl

/-- RNGF of 32-bit draws writes one half of the destination's lanes (R154). -/
theorem lanesGiven_rngf_half (hd : f.dst = .v d) (hw : f.mod ≠ 3) (h : Issues (.rngf f) f 16 s c k) :
    let low := 8 * immNat f.src2
    LanesGiven (.rngf f) f s c k d 32 fun j =>
      if low ≤ j ∧ j < low + 8 then some (drawValue false (s.laneSrc f.src1 64 (j - low)), 0) else none := by
  have he := arm_rngf f s
  simp only [execRngf, hd, hw, if_false] at he
  refine lanesGiven_moves hd h he rfl fun j => ?_
  split_ifs <;> rfl

end moves

/-- Settles O40: each instruction is one law of lanes moved, with what its body makes of a lane; VCVT by the wider of its formats. -/
theorem laneMoves : Obligations.LaneMoves := by
  intro f s c k d hd w n ty e x y m ix iy wrap moves
  refine ⟨fun h => ?vbcast, fun h => ?vsel, fun h => ?vshuf, fun h => ?vslide, fun h => ?vcomp, fun h => ?vins, fun h => ?viota,
    fun _ h => lanesGiven_vdot hd h, ⟨fun hw h => lanesGiven_vcvt hd h (cvtReg_wide hw), fun hw h => lanesGiven_vcvt hd h (cvtReg_narrow hw)⟩,
    fun h => ?vunpl, fun hw h => lanesGiven_rngf_wide hd hw h, fun hw h => lanesGiven_rngf_half hd hw h⟩
  case vbcast => exact lanesGiven_width hd h (arm_vbcast f s) rfl fun _ => rfl
  case vsel =>
    refine lanesGiven_width hd h (arm_vsel f s) rfl fun j => ?_
    split_ifs <;> rfl
  case vshuf => exact lanesGiven_width hd h (arm_vshuf f s) rfl fun _ => rfl
  case vslide =>
    refine lanesGiven_width hd h (arm_vslide f s) rfl fun j => ?_
    dsimp only
    split_ifs <;> rfl
  case vcomp => exact lanesGiven_width hd h (arm_vcomp f s) rfl fun _ => rfl
  case vins =>
    refine lanesGiven_width hd h (arm_vins f s) rfl fun j => ?_
    split_ifs <;> rfl
  case viota =>
    have he := arm_viota f s
    rw [execViota] at he
    exact lanesGiven_moves hd h he rfl fun _ => rfl
  case vunpl =>
    have he := arm_vunpl f s
    rw [execVunpl] at he
    exact lanesGiven_moves hd h he rfl fun _ => rfl

end Sys2Proof.Machine
end

section
/-! Accesses of lanes in the local store that nothing hinders (01_thread_state.md R27, 12_memory_levels_translation.md R277, R279): O42. -/

namespace Sys2Proof.Machine

section undo

/-- A sum over a table grows by at most what an entry grows by, where the default counts nothing. -/
theorem tab_sum_put_le {α : Type} (w : α → Nat) {d y : α} {n m : Nat} (hd : w d = 0) {t : Tab α} (hy : w y ≤ w (t.look d n) + m) :
    ((t.put n y).map fun e => w e.2).sum ≤ (t.map fun e => w e.2).sum + m := by
  induction t with
  | nil => simpa [Tab.put, Tab.look, Tab.find, hd] using hy
  | cons e t ih =>
    obtain ⟨l, z⟩ := e
    rcases lt_trichotomy n l with h | rfl | h
    · have hl : Tab.look ((l, z) :: t) d n = d := by simp [Tab.look, Tab.find, h.ne, h]
      rw [hl, hd] at hy
      simp only [Tab.put, h.ne, h, if_true, if_false, List.map_cons, List.sum_cons]
      omega
    · have hl : Tab.look ((n, z) :: t) d n = z := by simp [Tab.look, Tab.find]
      rw [hl] at hy
      simp only [Tab.put, if_true, List.map_cons, List.sum_cons]
      omega
    · have hl : Tab.look ((l, z) :: t) d n = Tab.look t d n := by simp [Tab.look, Tab.find, h.ne', h.not_gt]
      rw [hl] at hy
      have := ih hy
      simp only [Tab.put, h.ne', h.not_gt, if_false, List.map_cons, List.sum_cons]
      omega

/-- The undo entries of a slot's open and waiting chunks (R279). -/
def Slot.undoLen (y : Slot) : Nat := y.chunk.undo.length + y.waiting.elim 0 fun w => w.undo.length

theorem undoCount_eq_sum (x : Core) : x.undoCount = (x.slots.map fun e => e.2.undoLen).sum := by
  rw [List.sum_eq_foldl, List.foldl_map, Core.undoCount]
  congr 1
  funext n e
  rw [Slot.undoLen, Nat.add_assoc]
  cases e.2.waiting <;> rfl

/-- A chunk with m undo entries more adds at most m to the count of the core (R279). -/
theorem undoCount_setSlot_le (x : Core) (k : SlotId) {y : Slot} {m : Nat} (hu : y.chunk.undo.length ≤ (x.slot k).chunk.undo.length + m)
    (hw : y.waiting = (x.slot k).waiting) : (x.setSlot k y).undoCount ≤ x.undoCount + m := by
  rw [undoCount_eq_sum, undoCount_eq_sum]
  refine tab_sum_put_le (d := ({} : Slot)) Slot.undoLen rfl ?_
  change y.undoLen ≤ (x.slot k).undoLen + m
  simp only [Slot.undoLen, hw]
  omega

end undo

section locals
variable {s t : State} {c : CoreId} {k : SlotId} {gs : List Nat} {m : Mem} {room off n g : Nat} {x : Chunk}

/-- Accesses of the executing slot to its local store have led from s to t, with the bytes m there and memory and the slot's registers as they were; nothing hinders its accesses to the granules gs, and undo entries for room more of them fit (R176, R277, R279, R344). -/
structure LocalTo (s : State) (c : CoreId) (k : SlotId) (gs : List Nat) (m : Mem) (room : Nat) (t : State) : Prop where
  cur : t.cur = .slot c k
  mem : t.mem = s.mem
  regs : t.regs = s.regs
  plain : t.chunk.solo = false
  ls : (t.core c).ls = m
  sole : t.soleChunk c k
  free : ∀ g ∈ gs, t.chunk.updateOn c [g] = false
  clean : ∀ g ∈ gs, g ∉ (t.core c).lsPoison
  room : (t.core c).undoCount + room ≤ 204

theorem core_setChunk (hc : t.cur = .slot c k) (x : Chunk) : (t.setChunk x).core c = (t.core c).setSlot k { t.slot c k with chunk := x } := by
  rw [setChunk_slot t c k hc, State.setSlot, core_setCore_same]

theorem regs_setChunk (hc : t.cur = .slot c k) (x : Chunk) : (t.setChunk x).regs = t.regs := by
  rw [regs_slot _ c k (by simpa using hc), setChunk_slot t c k hc, slot_setSlot_same, regs_slot t c k hc]

/-- A chunk that takes notes and at most d undo entries leaves room for the other accesses. -/
theorem localTo_setChunk {d : Nat} (h : LocalTo s c k gs m (room + d) t) (hs : x.solo = t.chunk.solo) (he : x.effects = t.chunk.effects)
    (ha : x.lsA = t.chunk.lsA) (hu : x.undo.length ≤ t.chunk.undo.length + d) : LocalTo s c k gs m room (t.setChunk x) := by
  have hch := chunk_setChunk h.cur x
  have hco := core_setChunk h.cur x
  refine ⟨by simpa using h.cur, by simpa using h.mem, by rw [regs_setChunk h.cur, h.regs], by rw [hch, hs, h.plain], by rw [hco]; exact h.ls,
    soleChunk_setChunk h.cur h.sole, fun g hg => ?_, by rw [hco]; exact h.clean, ?_⟩
  · have hf := h.free g hg
    rw [hch, ← hf]
    simp only [Chunk.updateOn, Chunk.remoteOn, ha, he]
  · rw [chunk_slot t c k h.cur] at hu
    have hle := undoCount_setSlot_le (t.core c) k (y := { t.slot c k with chunk := x }) hu rfl
    have hr := h.room
    rw [hco]
    omega

/-- Other bytes in the local store hinder nothing. -/
theorem localTo_withLs (h : LocalTo s c k gs m room t) (m' : Mem) : LocalTo s c k gs m' room (t.withLs c m') := by
  have hc : (t.withLs c m').cur = .slot c k := h.cur
  have hco : (t.withLs c m').core c = { t.core c with ls := m' } := by rw [State.withLs, core_setCore_same]
  have hch : (t.withLs c m').chunk = t.chunk := by rw [chunk_slot _ c k hc, withLs_slot, chunk_slot t c k h.cur]
  exact ⟨hc, h.mem, by rw [regs_withLs h.cur, h.regs], by rw [hch, h.plain], withLs_ls t c m', by unfold State.soleChunk; rw [hco]; exact h.sole,
    by rw [hch]; exact h.free, by rw [hco]; exact h.clean, by rw [hco]; exact h.room⟩

/-- Room for more accesses is room for fewer. -/
theorem localTo_fewer {room' : Nat} (h : LocalTo s c k gs m room t) (hr : room' ≤ room) : LocalTo s c k gs m room' t :=
  ⟨h.cur, h.mem, h.regs, h.plain, h.ls, h.sole, h.free, h.clean, (Nat.add_le_add_left hr _).trans h.room⟩

/-- A note of poisoned bytes that a write replaces hinders nothing. -/
theorem localTo_heals (h : LocalTo s c k gs m room t) (bad : List Nat) : LocalTo s c k gs m room (t.heals bad) := by
  unfold State.heals
  split_ifs
  · exact h
  · exact localTo_setChunk (d := 0) h rfl rfl rfl le_rfl

/-- The marks of an access to one granule that nothing hinders take at most one undo entry (R277, R279). -/
theorem localTo_touchLs (h : LocalTo s c k gs m (room + 1) t) (hl : linesOf off n = [g]) (hg : g ∈ gs) (write : Bool) :
    ∃ u, t.touchLs off n write = .ok ((), u) ∧ LocalTo s c k gs m room u := by
  have hr := h.room
  have hf : ((if write then [g].filter fun g => !t.chunk.lsW.contains g else []).length) ≤ 1 := by
    cases write
    · exact Nat.zero_le 1
    · rw [if_pos rfl]
      exact List.length_filter_le _ [g]
  unfold State.touchLs
  simp only [h.cur, hl]
  generalize (if write then [g].filter fun g => !t.chunk.lsW.contains g else []) = first at hf ⊢
  rw [if_neg (by rw [h.free g hg]; exact Bool.false_ne_true), if_neg (by simp only [decide_eq_true_eq]; omega), contend_sole h.sole (by simp)]
  refine ⟨_, rfl, localTo_setChunk h rfl rfl rfl ?_⟩
  match first, hf with
  | [], _ => exact Nat.le_succ _
  | [_], _ => exact le_rfl

/-- A granule with no poison is not found among the poisoned ones (R344). -/
theorem find_poison_none {l : List Nat} {g : Nat} (h : g ∉ l) : l.find? (fun g' => [g].contains g') = none := by
  rw [List.find?_eq_none]
  intro g' hg' he
  rw [List.contains_iff_mem, List.mem_singleton] at he
  exact h (he ▸ hg')

/-- A read of one granule that nothing hinders gives its bytes. -/
theorem localTo_readLs (h : LocalTo s c k gs m (room + 1) t) (hl : linesOf off n = [g]) (hg : g ∈ gs) :
    ∃ u, t.readLs c off n = .ok (m.bytes off n, u) ∧ LocalTo s c k gs m room u := by
  obtain ⟨u, ht, hu⟩ := localTo_touchLs h hl hg false
  refine ⟨u, ?_, hu⟩
  unfold State.readLs
  simp only [h.cur, hl, ht, find_poison_none (h.clean g hg), Res.andThen, hu.ls]

/-- A write of one granule that nothing hinders replaces its bytes. -/
theorem localTo_writeLs {bs : List Byte} (h : LocalTo s c k gs m (room + 1) t) (hl : linesOf off bs.length = [g]) (hg : g ∈ gs) :
    ∃ u, t.writeLs c off bs = .ok ((), u) ∧ LocalTo s c k gs (m.setBytes off bs) room u := by
  obtain ⟨u, ht, hu⟩ := localTo_touchLs h hl hg true
  have hh := localTo_heals hu
  exact ⟨_, by rw [writeLs_touched h.cur ht], by rw [(hh _).ls]; exact localTo_withLs (hh _) _⟩

end locals

end Sys2Proof.Machine
end

section
/-! Lanes of a vector access located, read and written in the local store (01_thread_state.md R27, 05_vector_forms_functions.md R146 to R148): O42. -/

namespace Sys2Proof.Machine

section width

theorem lanes_of_width (m : BitVec 4) : 64 / (widthOf m / 8) = 512 / widthOf m := by revert m; decide
theorem laneBytes_dvd (m : BitVec 4) : widthOf m / 8 ∣ 8 := by revert m; decide
theorem log2_laneBytes (m : BitVec 4) : Nat.log2 (widthOf m / 8) % 8 = Nat.log2 (widthOf m / 8) := by revert m; decide
theorem lanes_le (m : BitVec 4) : 512 / widthOf m ≤ 64 := by revert m; decide

/-- A lane read as a signed index (R147). -/
theorem toInt_lane {e x : Nat} (h : x < 2 ^ e) : (if x.testBit (e - 1) then (x : Int) - 2 ^ e else x) = (BitVec.ofNat e x).toInt := by
  have hm : (BitVec.ofNat e x).msb = x.testBit (e - 1) := by
    rw [BitVec.msb_eq_getLsbD_last, BitVec.getLsbD_ofNat]
    rcases Nat.eq_zero_or_pos e with rfl | he
    · simp_all
    · simp [he]
  rw [BitVec.toInt_eq_msb_cond, hm, BitVec.toNat_ofNat, Nat.mod_eq_of_lt h]
  push_cast
  rfl

/-- An aligned part of at most eight bytes lies in one granule (R277). -/
theorem linesOf_aligned {off n : Nat} (hn : n ∣ 8) (ha : off % n = 0) : linesOf off n = [off / 64] := by
  have h0 : 0 < n := Nat.pos_of_dvd_of_pos hn (by decide)
  have h8 : n ≤ 8 := Nat.le_of_dvd (by decide) hn
  have hle : off % 64 + n ≤ 64 := by interval_cases n <;> omega
  have hlast : (off + n - 1) / 64 - off / 64 + 1 = 1 := by omega
  rw [linesOf, if_neg h0.ne', hlast]
  simp

end width

section folds
variable {α β : Type} {f : β → α → State → Res β} {l : List α} {s t : State} {b : β}

/-- A fold of steps that each complete completes, with what each step keeps of the elements still to come. -/
theorem foldRes_completes {P : List α → β → State → Prop}
    (h : ∀ a ∈ l, ∀ rest b t, P (a :: rest) b t → ∃ b' u, f b a t = .ok (b', u) ∧ P rest b' u) (h0 : P l b t) :
    ∃ b' u, foldRes l b f t = .ok (b', u) ∧ P [] b' u := by
  induction l generalizing b t with
  | nil => exact ⟨b, t, rfl, h0⟩
  | cons a l ih =>
    obtain ⟨b', u, hf, hP⟩ := h a List.mem_cons_self l b t h0
    rw [foldRes, hf]
    exact ih (fun a' ha => h a' (List.mem_cons_of_mem a ha)) hP

theorem foldRes_map {γ : Type} (g : γ → α) (l : List γ) : foldRes (l.map g) b f s = foldRes l b (fun b a => f b (g a)) s := by
  induction l generalizing b s with
  | nil => rfl
  | cons a l ih =>
    rw [List.map_cons, foldRes, foldRes]
    congr 1
    funext b t
    exact ih

/-- Steps taken as a whole that complete (R148). -/
theorem atomic_completes {r : State → Res β} {Q : β → State → Prop} (h : ∃ b u, r s = .ok (b, u) ∧ Q b u) :
    ∃ b u, s.atomic r = .ok (b, u) ∧ Q b u := by
  obtain ⟨b, u, hr, hq⟩ := h
  exact ⟨b, u, by rw [State.atomic, hr], hq⟩

end folds

section lanes
variable {s t : State} {c : CoreId} {k : SlotId} {gs : List Nat} {m : Mem} {n : Nat} {js : List Nat} {x : Nat → Word} {o : Nat → Nat}

/-- The lanes js lie in the window at the offsets o, each aligned and in one of the granules gs (R27, R146). -/
structure InWindow (js : List Nat) (x : Nat → Word) (o : Nat → Nat) (n : Nat) (gs : List Nat) : Prop where
  size : n ∣ 8
  addr : ∀ j ∈ js, x j = BitVec.ofNat 64 (windowBase + o j)
  aligned : ∀ j ∈ js, o j % n = 0
  inside : ∀ j ∈ js, o j + n ≤ 0x80000
  granule : ∀ j ∈ js, o j / 64 ∈ gs

/-- Where the lanes lie. -/
def placed (c : CoreId) (js : List Nat) (x : Nat → Word) (o : Nat → Nat) : List (Nat × Word × Loc) := js.map fun j => (j, x j, .ls c (o j))

/-- A lane in the window passes the checks of its access where there is no poison (R27, R333). -/
theorem lane_window (hc : s.cur = .slot c k) (hw : InWindow js x o n gs) (hp : ∀ g ∈ gs, g ∉ (s.core c).lsPoison) (kd : Kind) {j : Nat}
    (hj : j ∈ js) : (x j).toNat % n = 0 ∧ s.locate (x j) n kd = .ok (.ls c (o j), s) ∧ s.touchable (x j) (.ls c (o j)) n kd = .ok ((), s) := by
  have hn : 0 < n := Nat.pos_of_dvd_of_pos hw.size (by decide)
  have hin := hw.inside j hj
  refine ⟨?_, locate_window hc (hw.addr j hj) hn hin kd, ?_⟩
  · rw [hw.addr j hj, window_toNat (by omega)]
    exact Nat.mod_eq_zero_of_dvd (Nat.dvd_add (hw.size.trans (by decide)) (Nat.dvd_of_mod_eq_zero (hw.aligned j hj)))
  · simp only [State.touchable, linesOf_aligned hw.size (hw.aligned j hj), find_poison_none (hp _ (hw.granule j hj)), ite_self]

/-- Lanes in the window are located there (R146 to R148). -/
theorem locateLanes_window (hc : s.cur = .slot c k) (hw : InWindow js x o n gs) (hp : ∀ g ∈ gs, g ∉ (s.core c).lsPoison) (kd : Kind) :
    s.locateLanes (js.map fun j => (j, x j)) n kd = .ok (placed c js x o, s) := by
  obtain ⟨b, u, he, rfl, hb⟩ : ∃ b u, s.locateLanes (js.map fun j => (j, x j)) n kd = .ok (b, u) ∧ u = s ∧ b ++ placed c [] x o = placed c js x o := by
    rw [State.locateLanes, foldRes_map]
    refine foldRes_completes (P := fun rest acc t => t = s ∧ acc ++ placed c rest x o = placed c js x o) (fun j hj rest acc t ⟨hts, ha⟩ => ?_) ⟨rfl, rfl⟩
    obtain ⟨h0, hl, ht⟩ := lane_window hc hw hp kd hj
    refine ⟨acc ++ [(j, x j, .ls c (o j))], s, ?_, rfl, by rw [← ha]; simp [placed]⟩
    simp only [hts, h0, ne_eq, not_true_eq_false, if_false, hl, ht, Res.andThen]
  rw [he, ← hb]
  simp [placed]

/-- Lanes in the window are no edge access (R148). -/
theorem edgeLanes_window (s : State) (c : CoreId) (js : List Nat) (x : Nat → Word) (o : Nat → Nat) (kd : Kind) :
    s.edgeLanes (placed c js x o) kd = .ok ((), s) := by
  have h : ((placed c js x o).any fun l => l.2.2.isEdge) = false := by
    rw [List.any_eq_false]
    intro l hl
    obtain ⟨j, -, rfl⟩ := List.mem_map.1 hl
    exact Bool.false_ne_true
  rw [State.edgeLanes, h]
  rfl

/-- Lanes located in the local store are read there. -/
theorem loadLanes_placed {xs : List (Nat × Word)} (hl : s.locateLanes xs n .read = .ok (placed c js x o, s)) :
    s.loadLanes xs n = s.atomic (foldRes js [] fun acc j s => (s.readLs c (o j) n).andThen fun bs s => .ok (acc ++ [(j, leNat bs)], s)) := by
  rw [State.loadLanes, State.atomic, State.atomic, hl]
  simp only [Res.andThen, edgeLanes_window]
  rw [placed, foldRes_map]
  rfl

/-- Lanes located in the local store are written there. -/
theorem storeLanes_placed {xs : List (Nat × Word)} {v : Nat → Nat} (hl : s.locateLanes xs n .write = .ok (placed c js x o, s)) :
    s.storeLanes xs n v = s.atomic (foldRes js () fun _ j s => s.writeLs c (o j) (leBytes n (v j))) := by
  rw [State.storeLanes, State.atomic, State.atomic, hl]
  simp only [Res.andThen, edgeLanes_window]
  rw [placed, foldRes_map]
  rfl

/-- The numbers of lanes in the bytes of a local store. -/
def laneNats (m : Mem) (js : List Nat) (o : Nat → Nat) (n : Nat) : List (Nat × Nat) := js.map fun j => (j, m.nat (o j) n)

/-- The bytes of a local store with lanes written in order. -/
def putLanes (m : Mem) (js : List Nat) (o : Nat → Nat) (n : Nat) (v : Nat → Nat) : Mem := js.foldl (fun m j => m.setBytes (o j) (leBytes n (v j))) m

/-- Lanes of the local store that nothing hinders are read (R146 to R148). -/
theorem loadLanes_local (hw : InWindow js x o n gs) (h : LocalTo s c k gs m js.length s) :
    ∃ u, s.loadLanes (js.map fun j => (j, x j)) n = .ok (laneNats m js o n, u) ∧ LocalTo s c k gs m 0 u := by
  obtain ⟨b, u, he, hu, hb⟩ : ∃ b u, s.loadLanes (js.map fun j => (j, x j)) n = .ok (b, u) ∧ LocalTo s c k gs m 0 u
      ∧ b ++ laneNats m [] o n = laneNats m js o n := by
    rw [loadLanes_placed (locateLanes_window h.cur hw h.clean .read)]
    refine atomic_completes (foldRes_completes (P := fun rest acc t => LocalTo s c k gs m rest.length t ∧ acc ++ laneNats m rest o n = laneNats m js o n)
      (fun j hj rest acc t ⟨ht, ha⟩ => ?_) ⟨h, rfl⟩)
    obtain ⟨u, hr, hu⟩ := localTo_readLs ht (linesOf_aligned hw.size (hw.aligned j hj)) (hw.granule j hj)
    exact ⟨acc ++ [(j, m.nat (o j) n)], u, by rw [hr]; rfl, hu, by rw [← ha]; simp [laneNats]⟩
  rw [← hb]
  exact ⟨u, by simpa [laneNats] using he, hu⟩

/-- Lanes of the local store that nothing hinders are written in order (R147, R148). -/
theorem storeLanes_local (hw : InWindow js x o n gs) (h : LocalTo s c k gs m js.length s) (v : Nat → Nat) :
    ∃ u, s.storeLanes (js.map fun j => (j, x j)) n v = .ok ((), u) ∧ LocalTo s c k gs (putLanes m js o n v) 0 u := by
  obtain ⟨_, u, he, m', hu, hm⟩ : ∃ b u, s.storeLanes (js.map fun j => (j, x j)) n v = .ok (b, u)
      ∧ ∃ m', LocalTo s c k gs m' 0 u ∧ putLanes m' [] o n v = putLanes m js o n v := by
    rw [storeLanes_placed (locateLanes_window h.cur hw h.clean .write)]
    refine atomic_completes (foldRes_completes (P := fun rest _ t => ∃ m', LocalTo s c k gs m' rest.length t ∧ putLanes m' rest o n v = putLanes m js o n v)
      (fun j hj rest _ t ⟨m', ht, ha⟩ => ?_) ⟨m, h, rfl⟩)
    obtain ⟨u, hr, hu⟩ := localTo_writeLs (bs := leBytes n (v j)) ht
      (by rw [leBytes_length]; exact linesOf_aligned hw.size (hw.aligned j hj)) (hw.granule j hj)
    exact ⟨(), u, hr, _, hu, ha⟩
  rw [← hm]
  exact ⟨u, he, hu⟩

end lanes

end Sys2Proof.Machine
end

section
/-! Vector loads, stores, gathers and scatters (05_vector_forms_functions.md R146 to R148): O42. -/

namespace Sys2Proof.Machine

section ends
variable {i : Instr} {f : Fields} {s t u : State} {c : CoreId} {k : SlotId} {r : Regs} {d : BitVec 4} {opc : Nat} {xs : List (Nat × Nat)}
  {gs : List Nat} {m : Mem}

/-- An instruction that has led to t and completes there after register writes. -/
theorem givesFrom_concluded (he : exec i s = .next (concludeSlot c k opc i f (.done u))) (hc : t.cur = .slot c k) (hu : RegsNow t u c k r) :
    GivesFrom i s t c k r.advance := ⟨_, he, ended_done hu hc opc i f⟩

/-- An instruction that completes after accesses of the local store which nothing hinders. -/
theorem localTo_ends (h : LocalTo s c k gs m 0 t) (hg : GivesFrom i s t c k r) :
    ∃ u, exec i s = .next u ∧ u.mem = s.mem ∧ (u.core c).ls = m ∧ (u.slot c k).regs = r := by
  obtain ⟨u, he, hm, hl, hr⟩ := givesFrom_leaves hg (by rw [← chunk_slot t c k h.cur, h.plain])
  exact ⟨u, he, hm.trans h.mem, hl.trans h.ls, hr⟩

/-- A vector with the lanes read put into it. -/
def putReads (w : Nat) (v : VWord) (xs : List (Nat × Nat)) : VWord := xs.foldl (fun v x => putLane v w x.1 x.2) v

theorem regsNow_deliverLanes (h : RegsNow s u c k r) (hc : s.cur = .slot c k) (d : BitVec 4) (w : Nat) (xs : List (Nat × Nat)) :
    RegsNow s (u.deliverLanes d w xs) c k (r.putV d (putReads w (u.getV d) xs)) :=
  regsNow_setV h hc d _

theorem getV_congr (h : t.regs = s.regs) (d : BitVec 4) : t.getV d = s.getV d := by rw [State.getV, State.getV, h]

end ends

section rows
variable {f : Fields} {s t : State} {c : CoreId} {k : SlotId} {d : BitVec 4} {xs : List (Nat × Nat)}

/-- The active lanes of a row, each with its address (R146). -/
theorem rowLanes_eq (s : State) (f : Fields) (a : Word) :
    s.rowLanes f a (widthOf f.mod / 8) = (s.lanesOn f (512 / widthOf f.mod)).map fun j => (j, a + BitVec.ofNat 64 (j * (widthOf f.mod / 8))) := by
  rw [State.rowLanes, lanes_of_width]

/-- The active lanes of a gather or scatter, each with its address: the index is a signed number of lanes (R147). -/
theorem indexLanes_eq (s : State) (f : Fields) (a : Word) {o : Operand} {b : BitVec 4} (ho : o = .v b) :
    s.indexLanes f a o (widthOf f.mod) = (s.lanesOn f (512 / widthOf f.mod)).map fun j =>
      (j, a + BitVec.ofInt 64 ((BitVec.ofNat (widthOf f.mod) (s.laneSrc o (widthOf f.mod) j)).toInt * (widthOf f.mod / 8 : Nat))) := by
  have hlt (j : Nat) : s.laneSrc o (widthOf f.mod) j < 2 ^ widthOf f.mod := by
    rw [ho]
    exact Nat.mod_lt _ (Nat.two_pow_pos _)
  simp only [State.indexLanes, toInt_lane (hlt _)]

/-- The Misaligned trap of a row (R146, R332). -/
theorem misaligned_row (a : Word) (m : BitVec 4) :
    misaligned a (widthOf m / 8) = { cause := 0x04, addr := a, info := BitVec.ofNat 64 (Nat.log2 (widthOf m / 8)) } := by
  rw [misaligned, log2_laneBytes]

/-- A row that is not aligned, or that crosses an end of the window, faults (R146). -/
theorem row_stops {i : Instr} {a : Word} {trap : Trap} {go : Eff}
    (he : exec i s = .next (concludeSlot c k (opcOf i) i f (if a.toNat % (widthOf f.mod / 8) ≠ 0 then .trap s (misaligned a (widthOf f.mod / 8))
      else if crossesWindow a then .trap s trap else go))) :
    (a.toNat % (widthOf f.mod / 8) ≠ 0 →
      exec i s = .next (s.raise c k { cause := 0x04, addr := a, info := BitVec.ofNat 64 (Nat.log2 (widthOf f.mod / 8)) }))
    ∧ (a.toNat % (widthOf f.mod / 8) = 0 → crossesWindow a = true → exec i s = .next (s.raise c k trap)) := by
  refine ⟨fun ha => ?_, fun ha hx => ?_⟩
  · rw [if_pos ha, misaligned_row] at he
    exact he
  · rw [if_neg (not_not.2 ha), if_pos hx] at he
    exact he

/-- VLD whose lanes have all been read (R146). -/
theorem givesFrom_vld (hd : f.dst = .v d) (h : Issues (.vld f) f (512 / widthOf f.mod) s c k) (hc : t.cur = .slot c k)
    (ha : (s.addrOf f.src1 64).toNat % (widthOf f.mod / 8) = 0) (hx : crossesWindow (s.addrOf f.src1 64) = false)
    (hl : s.loadLanes (s.rowLanes f (s.addrOf f.src1 64) (widthOf f.mod / 8)) (widthOf f.mod / 8) = .ok (xs, t)) :
    GivesFrom (.vld f) s t c k (((t.regs.putV d (putReads (widthOf f.mod) (t.getV d) xs)).updated f.src1 64).advance) := by
  have he := exec_width h (arm_vld f s)
  simp only [ha, hx, ne_eq, not_true_eq_false, Bool.false_eq_true, if_false, hl, Res.fin, hd, vNum] at he
  exact givesFrom_concluded he hc (regsNow_update (regsNow_deliverLanes (regsNow_refl hc) hc d _ xs) hc f.src1 64)

/-- VST whose lanes have all been written (R146). -/
theorem givesFrom_vst (h : Issues (.vst f) f (512 / widthOf f.mod) s c k) (hc : t.cur = .slot c k)
    (ha : (s.addrOf f.dst 64).toNat % (widthOf f.mod / 8) = 0) (hx : crossesWindow (s.addrOf f.dst 64) = false)
    (hl : s.storeLanes (s.rowLanes f (s.addrOf f.dst 64) (widthOf f.mod / 8)) (widthOf f.mod / 8) (s.laneSrc f.src1 (widthOf f.mod)) = .ok ((), t)) :
    GivesFrom (.vst f) s t c k ((t.regs.updated f.dst 64).advance) := by
  have he := exec_width h (arm_vst f s)
  simp only [ha, hx, ne_eq, not_true_eq_false, Bool.false_eq_true, if_false, hl, Res.fin] at he
  exact givesFrom_concluded he hc (regsNow_update (regsNow_refl hc) hc f.dst 64)

/-- VGATH whose lanes have all been read (R147). -/
theorem givesFrom_vgath (hd : f.dst = .v d) (h : Issues (.vgath f) f (512 / widthOf f.mod) s c k) (hc : t.cur = .slot c k)
    (hl : s.loadLanes (s.indexLanes f (s.addrOf f.src1 0) f.src2 (widthOf f.mod)) (widthOf f.mod / 8) = .ok (xs, t)) :
    GivesFrom (.vgath f) s t c k (t.regs.putV d (putReads (widthOf f.mod) (t.getV d) xs)).advance := by
  have he := exec_width h (arm_vgath f s)
  simp only [hl, Res.fin, hd, vNum] at he
  exact givesFrom_concluded he hc (regsNow_deliverLanes (regsNow_refl hc) hc d _ xs)

/-- VSCAT whose lanes have all been written (R147). -/
theorem givesFrom_vscat (h : Issues (.vscat f) f (512 / widthOf f.mod) s c k) (hc : t.cur = .slot c k)
    (hl : s.storeLanes (s.indexLanes f (s.addrOf f.dst 0) f.src1 (widthOf f.mod)) (widthOf f.mod / 8) (s.laneSrc f.src2 (widthOf f.mod)) = .ok ((), t)) :
    GivesFrom (.vscat f) s t c k t.regs.advance := by
  have he := exec_width h (arm_vscat f s)
  simp only [hl, Res.fin] at he
  exact givesFrom_concluded he hc (regsNow_refl hc)

end rows

section inStore
variable {f : Fields} {s : State} {c : CoreId} {k : SlotId} {d : BitVec 4} {x : Nat → Word} {o : Nat → Nat}

/-- The active lanes of an instruction of the Width layout lie in the local store, at the offsets o, and nothing hinders their accesses. -/
structure LanesLocal (s : State) (c : CoreId) (k : SlotId) (f : Fields) (x : Nat → Word) (o : Nat → Nat) : Prop where
  plain : s.chunk.solo = false
  sole : s.soleChunk c k
  room : (s.core c).undoCount + 64 ≤ 204
  lanes : ∀ j ∈ s.lanesOn f (512 / widthOf f.mod), x j = BitVec.ofNat 64 (windowBase + o j) ∧ o j % (widthOf f.mod / 8) = 0
    ∧ o j + widthOf f.mod / 8 ≤ 0x80000 ∧ (s.slot c k).chunk.updateOn c [o j / 64] = false ∧ o j / 64 ∉ (s.core c).lsPoison

/-- There are at most 64 lanes. -/
theorem lanesOn_length_le (s : State) (f : Fields) : (s.lanesOn f (512 / widthOf f.mod)).length ≤ 64 :=
  (List.length_filter_le _ _).trans (List.length_range.trans_le (lanes_le f.mod))

theorem lanesLocal_inWindow (h : LanesLocal s c k f x o) :
    InWindow (s.lanesOn f (512 / widthOf f.mod)) x o (widthOf f.mod / 8) ((s.lanesOn f (512 / widthOf f.mod)).map fun j => o j / 64) :=
  ⟨laneBytes_dvd f.mod, fun j hj => (h.lanes j hj).1, fun j hj => (h.lanes j hj).2.1, fun j hj => (h.lanes j hj).2.2.1,
    fun _ hj => List.mem_map_of_mem hj⟩

theorem lanesLocal_begins (h : LanesLocal s c k f x o) (hc : s.cur = .slot c k) :
    LocalTo s c k ((s.lanesOn f (512 / widthOf f.mod)).map fun j => o j / 64) (s.core c).ls (s.lanesOn f (512 / widthOf f.mod)).length s := by
  have h64 : LocalTo s c k ((s.lanesOn f (512 / widthOf f.mod)).map fun j => o j / 64) (s.core c).ls 64 s := by
    refine ⟨hc, rfl, rfl, h.plain, rfl, h.sole, fun g hg => ?_, fun g hg => ?_, h.room⟩
    · obtain ⟨j, hj, rfl⟩ := List.mem_map.1 hg
      obtain ⟨-, -, -, hu, -⟩ := h.lanes j hj
      rwa [chunk_slot s c k hc]
    · obtain ⟨j, hj, rfl⟩ := List.mem_map.1 hg
      obtain ⟨-, -, -, -, hp⟩ := h.lanes j hj
      exact hp
  exact localTo_fewer h64 (lanesOn_length_le s f)

/-- A load of lanes in the local store completes as the instruction does whose lanes have been read. -/
theorem load_local {i : Instr} {r : State → List (Nat × Nat) → Regs} (h : LanesLocal s c k f x o) (hc : s.cur = .slot c k)
    (hg : ∀ xs t, s.loadLanes ((s.lanesOn f (512 / widthOf f.mod)).map fun j => (j, x j)) (widthOf f.mod / 8) = .ok (xs, t) → t.cur = .slot c k →
      GivesFrom i s t c k (r t xs)) (hr : ∀ t xs, t.regs = s.regs → r t xs = r s xs) :
    ∃ u, exec i s = .next u ∧ (u.core c).ls = (s.core c).ls ∧ u.mem = s.mem
      ∧ (u.slot c k).regs = r s (laneNats (s.core c).ls (s.lanesOn f (512 / widthOf f.mod)) o (widthOf f.mod / 8)) := by
  obtain ⟨t, hl, ht⟩ := loadLanes_local (lanesLocal_inWindow h) (lanesLocal_begins h hc)
  obtain ⟨u, he, hm, hls, hu⟩ := localTo_ends ht (hg _ t hl ht.cur)
  exact ⟨u, he, hls, hm, hu.trans (hr t _ ht.regs)⟩

/-- A store of lanes in the local store completes as the instruction does whose lanes have been written. -/
theorem store_local {i : Instr} {r : State → Regs} {v : Nat → Nat} (h : LanesLocal s c k f x o) (hc : s.cur = .slot c k)
    (hg : ∀ t, s.storeLanes ((s.lanesOn f (512 / widthOf f.mod)).map fun j => (j, x j)) (widthOf f.mod / 8) v = .ok ((), t) → t.cur = .slot c k →
      GivesFrom i s t c k (r t)) (hr : ∀ t, t.regs = s.regs → r t = r s) :
    ∃ u, exec i s = .next u ∧ u.mem = s.mem ∧ (u.slot c k).regs = r s
      ∧ (u.core c).ls = putLanes (s.core c).ls (s.lanesOn f (512 / widthOf f.mod)) o (widthOf f.mod / 8) v := by
  obtain ⟨t, hl, ht⟩ := storeLanes_local (lanesLocal_inWindow h) (lanesLocal_begins h hc) v
  obtain ⟨u, he, hm, hls, hu⟩ := localTo_ends ht (hg t hl ht.cur)
  exact ⟨u, he, hm, hu.trans (hr t ht.regs), hls⟩

end inStore

/-- Settles O42: each instruction is one law of lanes read or written, and lanes in the local store that nothing hinders are. -/
theorem vectorMemory : Obligations.VectorMemory := by
  intro f s t c k w n lanes row index spread put stops ls local_ reads gets puts
  have hrow (a : Word) : s.rowLanes f a (widthOf f.mod / 8) = row a := rowLanes_eq s f a
  have hspread (a : Word) {o : Operand} {b : BitVec 4} (ho : o = .v b) : s.indexLanes f a o (widthOf f.mod) = spread a o := indexLanes_eq s f a ho
  have hlocal {x : Nat → Word} {o : Nat → Nat} (h : local_ x o) : LanesLocal s c k f x o := by
    obtain ⟨hs, hsole, hroom, hlanes⟩ := h
    exact ⟨hs, hsole, hroom, hlanes⟩
  refine ⟨fun d o hd => ⟨fun h ha hx hl => ?vld, fun b hb h hl => ?vgath⟩, fun o => ⟨fun h ha hx hl => ?vst, fun b hb h hl => ?vscat⟩,
    fun hc => ⟨fun h => ⟨row_stops (exec_width h (arm_vld f s)), fun xs d hd ha hx hl => ?vldGives⟩, fun h => ⟨row_stops (exec_width h (arm_vst f s)), fun ha hx hl => ?vstGives⟩,
      fun xs d b hd hb h hl => ?vgathGives, fun b hb h hl => ?vscatGives⟩⟩
  case vld =>
    refine load_local (r := fun t xs => ((t.regs.putV d (putReads w (t.getV d) xs)).updated f.src1 64).advance) (hlocal hl) h.cur
      (fun xs t hl ht => givesFrom_vld hd h ht ha hx ?_) fun t xs hr => ?_
    · exact (congrArg (fun l => s.loadLanes l n) (hrow _)).trans hl
    · simp only [hr, getV_congr hr]
  case vgath =>
    refine load_local (r := fun t xs => (t.regs.putV d (putReads w (t.getV d) xs)).advance) (hlocal hl) h.cur
      (fun xs t hl ht => givesFrom_vgath hd h ht ?_) fun t xs hr => ?_
    · exact (congrArg (fun l => s.loadLanes l n) (hspread _ hb)).trans hl
    · simp only [hr, getV_congr hr]
  case vst =>
    refine store_local (r := fun t => (t.regs.updated f.dst 64).advance) (hlocal hl) h.cur (fun t hl ht => givesFrom_vst h ht ha hx ?_) fun t hr => ?_
    · exact (congrArg (fun l => s.storeLanes l n _) (hrow _)).trans hl
    · simp only [hr]
  case vscat =>
    refine store_local (r := fun t => t.regs.advance) (hlocal hl) h.cur (fun t hl ht => givesFrom_vscat h ht ?_) fun t hr => ?_
    · exact (congrArg (fun l => s.storeLanes l n _) (hspread _ hb)).trans hl
    · simp only [hr]
  case vldGives => exact givesFrom_vld hd h (hc.trans h.cur) ha hx ((congrArg (fun l => s.loadLanes l n) (hrow _)).trans hl)
  case vstGives => exact givesFrom_vst h (hc.trans h.cur) ha hx ((congrArg (fun l => s.storeLanes l n _) (hrow _)).trans hl)
  case vgathGives => exact givesFrom_vgath hd h (hc.trans h.cur) ((congrArg (fun l => s.loadLanes l n) (hspread _ hb)).trans hl)
  case vscatGives => exact givesFrom_vscat h (hc.trans h.cur) ((congrArg (fun l => s.storeLanes l n _) (hspread _ hb)).trans hl)

end Sys2Proof.Machine
end

section
/-! Vector instructions over forms, and form registers (05_vector_forms_functions.md R130, R132 to R139): O43. -/

namespace Sys2Proof.Machine

section turn
variable {i : Instr} {f : Fields} {s s1 s2 : State} {c : CoreId} {k : SlotId} {r : FormRun} {checks : Option Nat} {opc : Nat}

/-- An instruction that is an Illegal Encoding with a check and the number that it fails by (R130, R132, R332). -/
def StopsWith (i : Instr) (s : State) (c : CoreId) (k : SlotId) (check n : Nat) : Prop :=
  exec i s = .next (s.raise c k { cause := 0x01, info := BitVec.ofNat 64 (check + 256 * n) })

/-- The steps of a run of an instruction over forms: one if its sources are staged (R136). -/
def FormRun.steps (r : FormRun) : Nat := if r.staged then 1 else r.total

/-- What step t of a run does (R133, R136). -/
def FormRun.stepEffect (r : FormRun) (t : Nat) (s : State) : Res Unit := r.effect (if r.staged then 0 else t) (if r.staged then r.total else 1) s

/-- The memory that a run watches: the sources outside the local store (R217). -/
def FormRun.regions (r : FormRun) : List (Int × Int) := (r.srcs.filter fun x => !formLsp x && !formEmpty x).map footprint

/-- A turn of an instruction over forms: the checks of step 0, then one step and VPROG (R132 to R136). -/
def Turns (i : Instr) (s s1 s2 : State) (c : CoreId) (k : SlotId) (checks : Option Nat) (r : FormRun) : Prop :=
  let t := s.vprogStep (opcOf i)
  (∀ n, t = 0 → checks = some n → StopsWith i s c k 0x11 n)
  ∧ (∀ n, t = 0 → checks = none → r.check = some n → StopsWith i s c k 0x11 n)
  ∧ (¬ t = 0 ∨ checks = none ∧ r.check = none →
    (formEmpty r.dst = true ∨ r.steps ≤ t → Gives i s c k ({ s.regs with vprog := 0 } : Regs).advance)
    ∧ (formEmpty r.dst = false → s.takeWatches r.regions = .ok ((), s1) → r.stepEffect t s1 = .ok ((), s2) → s2.cur = s.cur →
      (t + 1 < r.steps → GivesFrom i s s2 c k { s2.regs with vprog := mkProg (t + 1) (opcOf i) 0 })
      ∧ (t + 1 = r.steps → GivesFrom i s s2 c k ({ s2.regs with vprog := 0 } : Regs).advance)))

/-- A first step that fails a check is a trap (R132). -/
theorem formTurn_checked {n : Nat} (ht : s.vprogStep r.opc = 0) (hb : checks = some n ∨ checks = none ∧ r.check = some n) :
    s.formTurn checks r = .trap s (formModeTrap n) := by
  obtain rfl | ⟨rfl, hr⟩ := hb
  · simp only [State.formTurn, ht]
  · simp only [State.formTurn, FormRun.turn, ht, if_true, hr]

/-- Where the checks of the instruction are not made or pass, what is left is its run's own turn (R132). -/
theorem formTurn_eq_turn (h : ¬ s.vprogStep r.opc = 0 ∨ checks = none ∧ r.check = none) : s.formTurn checks r = r.turn s := by
  unfold State.formTurn
  split
  next n hb ht =>
    obtain hn | ⟨hn, -⟩ := h
    · exact absurd ht hn
    · cases hn
  next => rfl

theorem firstCheck_none (h : ¬ s.vprogStep r.opc = 0 ∨ checks = none ∧ r.check = none) : (if s.vprogStep r.opc = 0 then r.check else none) = none := by
  obtain ht | ⟨-, hr⟩ := h
  · exact if_neg ht
  · rw [hr, ite_self]

/-- An empty destination, or a step past the last, completes the instruction (R134). -/
theorem formTurn_complete (h : ¬ s.vprogStep r.opc = 0 ∨ checks = none ∧ r.check = none)
    (hd : formEmpty r.dst = true ∨ r.steps ≤ s.vprogStep r.opc) : s.formTurn checks r = .done (s.setVprog 0) := by
  have hlast : (formEmpty r.dst || decide (r.steps ≤ s.vprogStep r.opc)) = true := by simpa using hd
  rw [formTurn_eq_turn h, FormRun.turn]
  simp only [firstCheck_none h]
  exact if_pos hlast

/-- Any other turn is a step, and VPROG after it (R133, R134). -/
theorem formTurn_step (h : ¬ s.vprogStep r.opc = 0 ∨ checks = none ∧ r.check = none) (hd : formEmpty r.dst = false)
    (ht : s.vprogStep r.opc < r.steps) (hw : s.takeWatches r.regions = .ok ((), s1)) (hs : r.stepEffect (s.vprogStep r.opc) s1 = .ok ((), s2)) :
    s.formTurn checks r = s2.stepDone r.opc (s.vprogStep r.opc) r.steps := by
  have hgoes : ¬ (formEmpty r.dst || decide (r.steps ≤ s.vprogStep r.opc)) = true := by simp [hd, ht]
  rw [formTurn_eq_turn h, FormRun.turn]
  rw [FormRun.regions] at hw
  rw [FormRun.stepEffect] at hs
  simp only [firstCheck_none h, hw, State.atomic, hs]
  exact if_neg hgoes

/-- An instruction that comes to a turn over forms turns as its run says. -/
theorem turns_of_formTurn (hc : s.cur = .slot c k) (ho : r.opc = opcOf i)
    (he : exec i s = .next (concludeSlot c k opc i f (s.formTurn checks r))) : Turns i s s1 s2 c k checks r := by
  unfold Turns
  rw [← ho]
  refine ⟨fun n ht hb => ?_, fun n ht hb hr => ?_, fun hp => ?_⟩
  · rw [formTurn_checked ht (.inl hb)] at he
    exact he
  · rw [formTurn_checked ht (.inr ⟨hb, hr⟩)] at he
    exact he
  · refine ⟨fun hd => ?_, fun hd hw hs hc2 => ?_⟩
    · rw [formTurn_complete hp hd] at he
      exact ⟨_, he, ended_done (regsNow_setVprog (regsNow_refl hc) hc 0) hc _ _ _⟩
    · have hend := ended_stepDone (t := s.vprogStep r.opc) (total := r.steps) (hc2.trans hc) r.opc opc i f
      have hstep (ht : s.vprogStep r.opc < r.steps) := formTurn_step hp hd ht hw hs
      refine ⟨fun ht => ?_, fun ht => ?_⟩
      · rw [hstep (by omega)] at he
        exact ⟨_, he, hend.1 ht⟩
      · rw [hstep (by omega)] at he
        exact ⟨_, he, hend.2 ht⟩

end turn

section forms
variable {f : Fields} {s : State} {c : CoreId} {k : SlotId} {n : BitVec 5}

/-- A form register with no valid record fails check 1, wherever it stands among the operands (R132). -/
theorem formsOf_missing {os : List Operand} (hn : .f n ∈ os) (h : s.regs.forms.get n.toFin = none) :
    s.formsOf os = .error (.trap s (formModeTrap 1)) := by
  have hfold (l : List Operand) (acc : List VWord) (hl : .f n ∈ l) :
      foldRes l acc (fun acc o s => (s.form (fNum o)).andThen fun r s => .ok (acc ++ [r], s)) s = .error (.trap s (formModeTrap 1)) := by
    induction l generalizing acc with
    | nil => cases hl
    | cons o l ih =>
      rw [foldRes]
      cases hr : s.regs.forms.get (fNum o).toFin with
      | none => simp only [State.form, hr, Res.andThen]
      | some r =>
        have ho : .f n ≠ o := by
          rintro rfl
          rw [show fNum (.f n) = n from rfl, h] at hr
          cases hr
        simp only [State.form, hr, Res.andThen]
        exact ih _ ((List.mem_cons.1 hl).resolve_left ho)
  exact hfold _ [] (List.mem_filter.2 ⟨hn, rfl⟩)

/-- An element-wise instruction over forms with valid records: its limit where an element is active, or a turn (R128, R132, R133). -/
theorem formWise_eq {opc : Nat} {l : Lane} {needD limit : Bool} {fmtOk : List VWord → Bool} {op : LaneOp} {rs : List VWord}
    (hf : s.formsOf [f.dst, f.src1, f.src2] = .ok (rs, s)) : formWise opc f l needD limit fmtOk op s
      = if !limit && s.anyElem f (rs.headD 0) l.count then .trap s kindLimit
        else s.formTurn (formChecks rs (fmtOk rs) (sameExt rs)) (wiseRun opc f l needD op rs) := by
  rw [formWise, hf]
  rfl

/-- The same with no limit on the lane kind. -/
theorem formWise_unlimited {opc : Nat} {l : Lane} {needD : Bool} {fmtOk : List VWord → Bool} {op : LaneOp} {rs : List VWord}
    (hf : s.formsOf [f.dst, f.src1, f.src2] = .ok (rs, s)) : formWise opc f l needD true fmtOk op s
      = s.formTurn (formChecks rs (fmtOk rs) (sameExt rs)) (wiseRun opc f l needD op rs) := formWise_eq hf

section wise
variable {row : LaneRow} {s1 s2 : State} {rs : List VWord} {d : BitVec 5}

/-- An element-wise instruction over forms stops at a form register with no valid record (R132). -/
theorem row_missing (hr : row ∈ s.laneTable f) (h : Issues row.instr f (512 / row.lane.e) s c k) (hd : isForm f.dst = true)
    (hn : .f n ∈ [f.dst, f.src1, f.src2]) (hf : s.regs.forms.get n.toFin = none) : StopsWith row.instr s c k 0x11 1 := by
  have he := exec_laneRow hr h
  rw [if_pos hd, formWise, formsOf_missing hn hf] at he
  exact he

/-- Over forms with valid records it is a trap for the limit of its lane kind where an element is active, and else turns (R128, R132 to R136). -/
theorem row_turns (hr : row ∈ s.laneTable f) (h : Issues row.instr f (512 / row.lane.e) s c k) (hd : isForm f.dst = true)
    (hf : s.formsOf [f.dst, f.src1, f.src2] = .ok (rs, s)) :
    let limited : Prop := row.limit = false ∧ s.anyElem f (rs.headD 0) (512 / row.lane.e) = true
    (limited → StopsWith row.instr s c k 0x14 0)
    ∧ (¬ limited → Turns row.instr s s1 s2 c k (formChecks rs (wiseFmt (opcOf row.instr) row.lane row.exact rs) (sameExt rs))
      (wiseRun (opcOf row.instr) f row.lane row.old (fun _ => row.op) rs)) := by
  intro limited
  have hiff : (!row.limit && s.anyElem f (rs.headD 0) row.lane.count) = true ↔ limited := by simp [limited, Lane.count]
  have he := exec_laneRow hr h
  rw [if_pos hd, formWise_eq hf] at he
  refine ⟨fun hl => ?_, fun hl => ?_⟩
  · rw [if_pos (hiff.2 hl)] at he
    exact he
  · rw [if_neg (mt hiff.1 hl)] at he
    exact turns_of_formTurn h.cur rfl he

/-- VRED over forms turns unless its lane kind sets a limit and a source element is active (R128, R145). -/
theorem vred_turns (hd : isForm f.dst = true) (h : Issues (.vred f) f (512 / (s.kindLane f.mod).e) s c k) (hf : s.formsOf [f.dst, f.src1] = .ok (rs, s))
    (hl : ((s.kindLane f.mod).flt = true → immNat f.src2 ≤ 2) ∨ formEmpty (rs.headD 0) = true ∨ s.anyElem f ((rs[1]?).getD 0) (s.kindLane f.mod).count = false) :
    Turns (.vred f) s s1 s2 c k (formChecks rs (rs.all ((s.kindLane f.mod).matches true)) (redExt rs)) (redRun f (s.kindLane f.mod) rs) := by
  have hfree : (!(!(s.kindLane f.mod).flt || decide (immNat f.src2 ≤ 2)) && !formEmpty (rs.headD 0)
      && s.anyElem f ((rs[1]?).getD 0) (s.kindLane f.mod).count) = false := by
    rw [← Bool.not_eq_true]
    simp only [Bool.and_eq_true, Bool.not_eq_true', Bool.or_eq_false_iff, decide_eq_false_iff_not, Bool.not_eq_false']
    rintro ⟨⟨⟨hflt, hk⟩, he⟩, ha⟩
    obtain hl | hl | hl := hl
    · exact hk (hl hflt)
    · rw [he] at hl
      cases hl
    · rw [ha] at hl
      cases hl
  have he : exec (.vred f) s = .next (concludeSlot c k (opcOf (.vred f)) (.vred f) f
      (redForm f (s.kindLane f.mod) (!(s.kindLane f.mod).flt || decide (immNat f.src2 ≤ 2)) s)) := by
    rw [arm_vred, execVred, Lane.count, issue_body h]
    simp only [hd, if_true]
  rw [redForm, hf, Res.fin, if_neg (by rw [hfree]; exact Bool.false_ne_true)] at he
  exact turns_of_formTurn h.cur rfl he

/-- VCVT over forms turns (R144). -/
theorem vcvt_turns (hd : isForm f.dst = true) :
    let w := max (cvtWidth (cvtSrc f.src2)) (cvtWidth (cvtDst f.src2))
    Issues (.vcvt f) f (512 / w) s c k → s.formsOf [f.dst, f.src1, .none] = .ok (rs, s) →
      Turns (.vcvt f) s s1 s2 c k (formChecks rs (cvtForms f rs) (sameExt rs)) (wiseRun 0x92 (unaryFields f) ⟨w, false, 0, f16, 0, false⟩ false (cvtOp f) rs) := by
  intro w h hf
  have he : exec (.vcvt f) s = .next (concludeSlot c k (opcOf (.vcvt f)) (.vcvt f) f
      (formWise 0x92 (unaryFields f) ⟨w, false, 0, f16, 0, false⟩ false true (cvtForms f) (cvtOp f) s)) := by
    rw [arm_vcvt, execVcvt]
    simp only [hd, if_true]
    exact issue_body h _
  rw [formWise_unlimited (f := unaryFields f) hf] at he
  exact turns_of_formTurn h.cur rfl he

/-- SFX over forms turns (R151). -/
theorem sfx_turns (hd : isForm f.dst = true) {n : BitVec 21} (hn : f.src2 = .imm n) (h : Issues (.sfx f) f (512 / (modFmt f.mod).width) s c k)
    (hf : s.formsOf [f.dst, f.src1, .none] = .ok (rs, s)) :
    Turns (.sfx f) s s1 s2 c k (formChecks rs (wiseFmt 0xA4 (.fp f.mod) true rs) (sameExt rs)) (wiseRun 0xA4 (unaryFields f) (.fp f.mod) false (sfxOp f) rs) := by
  have he := exec_sfx hn h
  rw [if_pos hd, formWise_unlimited (f := unaryFields f) hf] at he
  exact turns_of_formTurn h.cur rfl he

end wise

section records
variable {s1 : State} {d : BitVec 5} {r : VWord}

/-- A scalar instruction that issues does what its body says. -/
theorem exec_scalar {i : Instr} {body : State → Eff} (h : Issues i f 1 s c k) (he : exec i s = scalar i f s body) :
    exec i s = .next (concludeSlot c k (opcOf i) i f (body s)) := he.trans (issue_body h body)

/-- A form register written (R137, R139). -/
def Regs.withForm (q : Regs) (d : BitVec 5) (r : VWord) : Regs := { q with forms := q.forms.set d.toNat (some r) d.isLt }

theorem regsNow_setForm {u : State} {q : Regs} (h : RegsNow s u c k q) (hc : s.cur = .slot c k) (d : BitVec 5) (r : VWord) :
    RegsNow s (u.setForm d r) c k (q.withForm d r) := by
  rw [State.setForm, regsNow_regs h hc]
  exact regsNow_setRegs h hc _

/-- The place of a record in the local store, aligned and within it (R137, R138). -/
theorem formOffset_ok {o : Operand} {kd : Kind} (ha : (s.addrOf o 64).toNat % 64 = 0) (hl : (s.addrOf o 64).toNat < 0x80000) :
    s.formOffset o kd = .ok ((s.addrOf o 64).toNat, s) := by
  rw [State.formOffset]
  simp only [ha, ne_eq, not_true_eq_false, if_false, if_neg (not_le.2 hl)]

/-- A form register with a valid record. -/
theorem form_ok (h : s.regs.forms.get n.toFin = some r) : s.form n = .ok (r, s) := by
  simp only [State.form, h]

/-- FSET loads the record that its bytes are, if it is a valid one (R130, R137). -/
theorem fset_loads {bs : List Byte} (hd : f.dst = .f d) (h : Issues (.fset f) f 1 s c k) (ha : (s.addrOf f.src1 64).toNat % 64 = 0)
    (hl : (s.addrOf f.src1 64).toNat < 0x80000) (hr : s.readLs c (s.addrOf f.src1 64).toNat 64 = .ok (bs, s1)) (hc : s1.cur = .slot c k) :
    (formCheck (recordOf bs) = none → GivesFrom (.fset f) s s1 c k (((s1.regs.withForm d (recordOf bs)).updated f.src1 64).advance))
    ∧ (∀ m, formCheck (recordOf bs) = some m →
      exec (.fset f) s = .next (s1.raise c k { cause := 0x01, info := BitVec.ofNat 64 (0x10 + 256 * m) })) := by
  have he := exec_scalar h (arm_fset f s)
  have hbytes : BitVec.ofNat 512 (leNat bs) = recordOf bs := rfl
  simp only [formOffset_ok ha hl, Res.fin, curCore_slot h.cur, hr, hd, fNum, hbytes] at he
  refine ⟨fun hv => ?_, fun m hm => ?_⟩
  · simp only [hv] at he
    exact givesFrom_concluded he hc (regsNow_update (regsNow_setForm (regsNow_refl hc) hc d _) hc f.src1 64)
  · simp only [hm] at he
    exact he

/-- FGET reads a word of a record (R138). -/
theorem gives_fget {d : BitVec 5} (hn : f.src1 = .f n) (hf : s.regs.forms.get n.toFin = some r) (hd : f.dst = .g d) (h : Issues (.fget f) f 1 s c k) :
    Gives (.fget f) s c k (s.regs.putG d (r.extractLsb' (64 * immNat f.src2) 64)).advance := by
  have he := exec_scalar h (arm_fget f s)
  simp only [hn, fNum, form_ok hf, Res.fin, hd] at he
  exact ⟨_, he, ended_done (regsNow_setG (regsNow_refl h.cur) h.cur d _) h.cur _ _ _⟩

/-- FGET writes a record to the local store (R138). -/
theorem givesFrom_fget {a : BitVec 3} {m : AddrMode} {o : BitVec 16} (hn : f.src1 = .f n) (hf : s.regs.forms.get n.toFin = some r)
    (hd : f.dst = .mem a m o) (h : Issues (.fget f) f 1 s c k) (ha : (s.addrOf f.dst 64).toNat % 64 = 0) (hl : (s.addrOf f.dst 64).toNat < 0x80000)
    (hw : s.writeLs c (s.addrOf f.dst 64).toNat (leBytes 64 r.toNat) = .ok ((), s1)) (hc : s1.cur = .slot c k) :
    GivesFrom (.fget f) s s1 c k (s1.regs.updated f.dst 64).advance := by
  have he := exec_scalar h (arm_fget f s)
  rw [hd] at ha hl hw ⊢
  simp only [hn, fNum, form_ok hf, Res.fin, hd, formOffset_ok ha hl, curCore_slot h.cur, hw] at he
  exact givesFrom_concluded he hc (regsNow_update (regsNow_refl hc) hc _ 64)

/-- FADJ changes a record to a valid one only (R130, R139). -/
theorem fadj_changes (hn : f.dst = .f n) (hf : s.regs.forms.get n.toFin = some r) (h : Issues (.fadj f) f 1 s c k) :
    let q := adjust r f.mod.toNat (s.src f.src1)
    (formCheck q = none → Gives (.fadj f) s c k (s.regs.withForm n q).advance) ∧ (∀ m, formCheck q = some m → StopsWith (.fadj f) s c k 0x10 m) := by
  intro q
  have he := exec_scalar h (arm_fadj f s)
  have hq : adjust r f.mod.toNat (s.src f.src1) = q := rfl
  simp only [hn, fNum, form_ok hf, Res.fin, hq] at he
  refine ⟨fun hv => ?_, fun m hm => ?_⟩
  · simp only [hv] at he
    exact ⟨_, he, ended_done (regsNow_setForm (regsNow_refl h.cur) h.cur n q) h.cur _ _ _⟩
  · simp only [hm] at he
    exact he

end records

end forms

/-- Settles O43: an instruction over forms stops at its records and limits, or comes to a turn, whose outcomes are those of its checks and its step; FSET, FGET and FADJ are read off. -/
theorem formInstructions : Obligations.FormInstructions := by
  intro f s s1 s2 c k stops turns off
  refine ⟨fun ⟨d, hd⟩ => ?wise, fun d bs hd h ha hl hr hc => fset_loads hd h ha hl hr (hc.trans h.cur), fun n r hn hf h => ⟨fun d hd => gives_fget hn hf hd h,
    fun a m o hd ha hl hw hc => givesFrom_fget hn hf hd h ha hl hw (hc.trans h.cur)⟩, fun n r hn hf h => fadj_changes hn hf h⟩
  case wise =>
    have hform : isForm f.dst = true := by rw [hd]; rfl
    exact ⟨fun row hr h => ⟨fun n hn hf => row_missing hr h hform hn hf, fun rs hf => row_turns hr h hform hf⟩,
      fun rs h hf hl => vred_turns hform h hf hl, fun rs h hf => vcvt_turns hform h hf, fun rs n hn h hf => sfx_turns hform hn h hf⟩

end Sys2Proof.Machine
end

section
/-! Elements and progress of tiles (01_thread_state.md R17, R30, 06_matrix_and_absolute.md R158 to R162): O44. -/

namespace Sys2Proof.Machine

section elements
variable {s s1 : State} {c : CoreId} {k : SlotId} {n : BitVec 2} {q : Nat} {fn : Nat → Nat → Option (Nat × Flags)} {fl : Flags}

/-- An all-zero tile reads as its elements do (R17). -/
theorem tileElem_mkTile (t : List (BitVec 32)) (q : Nat) : tileElem (mkTile t) q = tileElem t q := by
  rw [mkTile]
  split_ifs with h
  · rw [tileElem, tileElem, List.getD_nil, List.getD_eq_getElem?_getD]
    cases hq : t[q]? with
    | none => rfl
    | some x => exact (beq_iff_eq.1 (List.all_eq_true.1 h x (List.mem_of_getElem? hq))).symm
  · rfl

/-- A tile given element by element. -/
theorem tileElem_map_range (g : Nat → BitVec 32) (hq : q < 4096) : tileElem ((List.range 4096).map g) q = g q := by
  rw [tileElem, List.getD_eq_getElem?_getD, List.getElem?_map, List.getElem?_range hq]
  rfl

/-- An element of a tile is the new one where there is one. -/
theorem tileElem_mapTile (old : List (BitVec 32)) (fn : Nat → Nat → Option (Nat × Flags)) {i j : Nat} (hi : i < 64) (hj : j < 64) :
    tileElem (mapTile old fn).1 (64 * i + j) = (fn i j).elim (tileElem old (64 * i + j)) fun v => BitVec.ofNat 32 v.1 := by
  have hdiv : (64 * i + j) / 64 = i := by omega
  have hmod : (64 * i + j) % 64 = j := by omega
  rw [mapTile, List.map_map, tileElem_map_range _ (by omega)]
  simp only [Function.comp, hdiv, hmod]
  cases fn i j <;> rfl

/-- Elements that raise no flag leave the flags of all at none. -/
theorem mapTile_flags_zero (old : List (BitVec 32)) (h : ∀ i j v, fn i j = some v → v.2 = 0) : (mapTile old fn).2 = 0 := by
  unfold mapTile
  dsimp only
  generalize List.range 4096 = l
  induction l with
  | nil => rfl
  | cons q l ih =>
    rw [List.map_cons, List.foldl_cons]
    cases hf : fn (q / 64) (q % 64) with
    | none => exact ih
    | some v =>
      have hv : (0 : Flags) ||| v.2 = 0 := by rw [h _ _ v hf]; rfl
      dsimp only
      rw [hv]
      exact ih

theorem core_setTile (hc : s.cur = .slot c k) (n : BitVec 2) (x : List (BitVec 32)) :
    (s.setTile n x).core c = { s.core c with tiles := (s.core c).tiles.set n.toNat (mkTile x) n.isLt } := by
  rw [State.setTile, curCore_slot hc, core_setCore_same]

theorem mem_setTile (s : State) (n : BitVec 2) (x : List (BitVec 32)) : (s.setTile n x).mem = s.mem := rfl

theorem slot_setTile (hc : s.cur = .slot c k) (n : BitVec 2) (x : List (BitVec 32)) : (s.setTile n x).slot c k = s.slot c k := by
  rw [State.slot, core_setTile hc]
  rfl

theorem core_setMprog (hc : s.cur = .slot c k) (n : BitVec 2) (v : BitVec 32) :
    (s.setMprog n v).core c = { s.core c with mprog := (s.core c).mprog.set n.toNat v n.isLt } := by
  rw [State.setMprog, curCore_slot hc, core_setCore_same]

theorem slot_setMprog (hc : s.cur = .slot c k) (n : BitVec 2) (v : BitVec 32) : (s.setMprog n v).slot c k = s.slot c k := by
  rw [State.slot, core_setMprog hc]
  rfl

theorem regs_setMprog (hc : s.cur = .slot c k) (n : BitVec 2) (v : BitVec 32) : (s.setMprog n v).regs = s.regs := by
  rw [regs_slot (s.setMprog n v) c k hc, slot_setMprog hc, regs_slot s c k hc]

theorem chunk_setMprog (hc : s.cur = .slot c k) (n : BitVec 2) (v : BitVec 32) : (s.setMprog n v).chunk = s.chunk := by
  rw [chunk_slot (s.setMprog n v) c k hc, slot_setMprog hc, chunk_slot s c k hc]

theorem get_set_same {α : Type} (x : Vector α 4) (n : BitVec 2) (v : α) : (x.set n.toNat v n.isLt).get n.toFin = v :=
  Vector.getElem_set_self n.isLt

theorem get_set_ne {α : Type} (x : Vector α 4) {m n : BitVec 2} (h : m ≠ n) (v : α) : (x.set n.toNat v n.isLt).get m.toFin = x.get m.toFin :=
  Vector.getElem_set_ne n.isLt m.isLt fun he => h (BitVec.eq_of_toNat_eq he.symm)

/-- A tile written has its new elements, and their flags are set (R162). -/
theorem writeTile_ok {x : List (BitVec 32) × Flags} {s2 : State} (h : s.writeTile n x = .ok ((), s2)) : s2 = (s.sticky x.2).setTile n x.1 := by
  rw [State.writeTile, State.flags] at h
  split_ifs at h
  · cases h
    rfl
  · cases h

theorem tileOf_setTile (hc : s.cur = .slot c k) (n : BitVec 2) (x : List (BitVec 32)) : (s.setTile n x).tileOf n = mkTile x := by
  have hct : (s.setTile n x).cur = .slot c k := hc
  rw [State.tileOf, curCore_slot hct, core_setTile hc]
  exact get_set_same _ n _

/-- New elements of a tile are exactly those given, and no byte of memory changes (R162). -/
theorem writeTile_elements {s2 : State} (hc : s.cur = .slot c k) (h : s.writeTile n (mapTile (s.tileOf n) fn) = .ok ((), s2)) :
    s2.mem = s.mem ∧ ∀ i j, i < 64 → j < 64 →
      tileElem (s2.tileOf n) (64 * i + j) = (fn i j).elim (tileElem (s.tileOf n) (64 * i + j)) fun v => BitVec.ofNat 32 v.1 := by
  have hk := regsNow_sticky (regsNow_refl hc) hc (mapTile (s.tileOf n) fn).2
  rw [writeTile_ok h]
  refine ⟨(mem_setTile _ n _).trans (onlySlot_mem hk.only), fun i j hi hj => ?_⟩
  rw [tileOf_setTile (regsNow_cur hk hc), tileElem_mkTile, tileElem_mapTile _ _ hi hj]

end elements

section turn
variable {i : Instr} {f : Fields} {o : Operand} {s s1 s2 : State} {c : CoreId} {k : SlotId} {n : BitVec 2} {opc total : Nat}
  {reads : List (BitVec 2)} {regions : List (Int × Int)} {body : Nat → State → Res Unit} {b : State → Eff}

/-- Another slot's progress stands in the tile, or would stand again after a squash (R159, R161). -/
def TileBusy (s : State) (c : CoreId) (k : SlotId) (n : BitVec 2) : Prop :=
  ((s.core c).progs n).any (fun v => progBusy v && progSlot v != k.toNat) = true

/-- The step of the tile's MPROG at which an instruction begins (R159). -/
def State.tileStep (s : State) (c : CoreId) (n : BitVec 2) (opc : Nat) : Nat :=
  let v := (s.core c).mprogOf n
  if progBusy v && progOpc v == opc then progStep v else 0

theorem tileStart_busy (hc : s.cur = .slot c k) (h : TileBusy s c k n) (opc : Nat) : s.tileStart n opc = .error (.stay s) := by
  rw [State.tileStart, State.curSlot, curCore_slot hc, hc]
  exact if_pos h

theorem tileStart_free (hc : s.cur = .slot c k) (h : ¬ TileBusy s c k n) (opc : Nat) : s.tileStart n opc = .ok (s.tileStep c n opc, s) := by
  rw [State.tileStart, State.curSlot, curCore_slot hc, hc]
  exact if_neg h

/-- A turn past the last step ends the instruction and clears MPROG. -/
theorem tileTurn_past (hc : s.cur = .slot c k) (hb : ¬ TileBusy s c k n) (ht : total ≤ s.tileStep c n opc) (hw : s.touchTile n true = .ok ((), s1)) :
    s.tileTurn n opc total reads regions body = .done (s1.setMprog n 0) := by
  rw [State.tileTurn, tileStart_free hc hb, Res.fin]
  dsimp only
  rw [if_pos ht, hw]
  rfl

/-- Any other turn does one step as a whole, and MPROG shows the next one, or 0 at the end (R159 to R162). -/
theorem tileTurn_step (hc : s.cur = .slot c k) (hb : ¬ TileBusy s c k n) (ht : s.tileStep c n opc < total)
    (hw : s.takeWatches regions = .ok ((), s1)) (hr : tileRun reads n (body (s.tileStep c n opc)) s1 = .ok ((), s2)) (hc2 : s2.cur = .slot c k) :
    s.tileTurn n opc total reads regions body = if s.tileStep c n opc + 1 < total then .step (s2.setMprog n (mkProg (s.tileStep c n opc + 1) opc k.toNat))
      else .done ((s2.setMprog n 0).setChunk { s2.chunk with noWatch := false }) := by
  have hk : s2.curSlot = k := by rw [State.curSlot, hc2]
  rw [State.tileTurn, tileStart_free hc hb, Res.fin]
  dsimp only
  rw [if_neg (not_le.2 ht), hw]
  simp only [Res.fin, State.atomic, hr, hk]

/-- A long tile instruction: it waits for another slot's progress in its tile, ends past its last step, and else does one step and leaves MPROG (R159 to R162). -/
def TileSteps (i : Instr) (s s1 s2 : State) (c : CoreId) (k : SlotId) (n : BitVec 2) (total : Nat) (reads : List (BitVec 2))
    (regions : List (Int × Int)) (body : Nat → State → Res Unit) (upd : Regs → Regs) : Prop :=
  let t := s.tileStep c n (opcOf i)
  (TileBusy s c k n → Waits i s s c k)
  ∧ (¬ TileBusy s c k n → total ≤ t → s.touchTile n true = .ok ((), s1) → s1.cur = s.cur → GivesFrom i s (s1.setMprog n 0) c k (upd s1.regs).advance)
  ∧ (¬ TileBusy s c k n → t < total → s.takeWatches regions = .ok ((), s1) → tileRun reads n (body t) s1 = .ok ((), s2) → s2.cur = s.cur →
    (t + 1 < total → GivesFrom i s (s2.setMprog n (mkProg (t + 1) (opcOf i) k.toNat)) c k s2.regs)
    ∧ (t + 1 = total → GivesFrom i s (s2.setMprog n 0) c k (upd s2.regs).advance))

theorem imageEnd_none (e : Eff) : imageEnd .none e = e := by cases e <;> rfl

/-- An instruction whose body is a turn on a tile runs by its steps. -/
theorem tileSteps_of_body (h : Issues i f 1 s c k) (e : exec i s = scalar i f s b)
    (hb : b s = imageEnd o (s.tileTurn n (opcOf i) total reads regions body)) :
    TileSteps i s s1 s2 c k n total reads regions body (·.updated o 16384) := by
  have he := exec_scalar h e
  have hc := h.cur
  rw [hb] at he
  refine ⟨fun hbusy => ?waits, fun hfree ht hw hc1 => ?past, fun hfree ht hw hr hc2 => ?step⟩
  case waits =>
    refine waits_stay h e ?_
    rw [hb, State.tileTurn, tileStart_busy hc hbusy]
    rfl
  case past =>
    have hc1' : (s1.setMprog n 0).cur = .slot c k := hc1.trans hc
    rw [tileTurn_past hc hfree ht hw] at he
    rw [← regs_setMprog (hc1.trans hc) n 0]
    exact givesFrom_concluded he hc1' (regsNow_update (regsNow_refl hc1') hc1' o 16384)
  case step =>
    have hcm (v : BitVec 32) : (s2.setMprog n v).cur = .slot c k := hc2.trans hc
    rw [tileTurn_step hc hfree ht hw hr (hc2.trans hc)] at he
    refine ⟨fun hlt => ?_, fun hlast => ?_⟩
    · rw [if_pos hlt] at he
      rw [← regs_setMprog (hc2.trans hc) n]
      exact ⟨_, he, ended_step (regsNow_refl (hcm _)) (hcm _) _ _ _⟩
    · rw [if_neg hlast.not_lt] at he
      have hk := regsNow_setChunk (regsNow_refl (hcm 0)) (hcm 0) { s2.chunk with noWatch := false }
        (by rw [chunk_setMprog (hc2.trans hc)]; exact ⟨rfl, rfl, rfl, rfl⟩)
      rw [← regs_setMprog (hc2.trans hc) n 0]
      exact givesFrom_concluded he (hcm 0) (regsNow_update hk (hcm 0) o 16384)

/-- The same where the instruction has no memory operand. -/
theorem tileSteps_of_turn (h : Issues i f 1 s c k) (e : exec i s = scalar i f s b) (hb : b s = s.tileTurn n (opcOf i) total reads regions body) :
    TileSteps i s s1 s2 c k n total reads regions body id :=
  tileSteps_of_body (o := .none) h e (hb.trans (imageEnd_none _).symm)

/-- The checks of a first step: forms that fail them are Illegal Encodings, empty ones end the instruction, and any others let it go on (R165). -/
def Checked (i : Instr) (s : State) (c : CoreId) (k : SlotId) (first : Bool) (rs : List VWord) (fmtOk extOk : Bool) (go : Prop) : Prop :=
  (∀ m, first = true → matrixCheck rs fmtOk extOk = some (some m) →
    exec i s = .next (s.raise c k { cause := 0x01, info := BitVec.ofNat 64 (0x11 + 256 * m) }))
  ∧ (first = true → matrixCheck rs fmtOk extOk = some none → Gives i s c k s.regs.advance)
  ∧ (first = false ∨ matrixCheck rs fmtOk extOk = none → go)

theorem checked_passed {first fmtOk extOk : Bool} {rs : List VWord} {P : Prop} (h : Checked i s c k first rs fmtOk extOk P)
    (hp : first = false ∨ matrixCheck rs fmtOk extOk = none) : P := by
  obtain ⟨-, -, hgo⟩ := h
  exact hgo hp

/-- An instruction whose body makes the checks of its forms. -/
theorem checked_of_body {first fmtOk extOk : Bool} {rs : List VWord} {go : State → Eff} {P : Prop} (h : Issues i f 1 s c k)
    (e : exec i s = scalar i f s b) (hb : b s = s.matrixForms first rs fmtOk extOk go) (hgo : b s = go s → P) : Checked i s c k first rs fmtOk extOk P := by
  have he := exec_scalar h e
  refine ⟨fun m hf hm => ?_, fun hf hm => ?_, fun hp => hgo (hb.trans (matrixForms_passed hp go))⟩
  · rw [hb, State.matrixForms, hf, if_pos rfl, hm] at he
    exact he
  · rw [hb, State.matrixForms, hf, if_pos rfl, hm] at he
    exact ⟨_, he, ended_done (regsNow_refl h.cur) h.cur _ _ _⟩

end turn

section instructions
variable {f : Fields} {s s1 s2 : State} {c : CoreId} {k : SlotId} {d n : BitVec 2} {r a b : VWord}

/-- MMA after its checks runs by the blocks of its forms (R165, R167). -/
theorem mma_checked (hd : f.dst = .tile d) (h : Issues (.mma f) f 1 s c k) (hf : s.formsOf [f.src1, f.src2] = .ok ([a, b], s)) :
    Checked (.mma f) s c k (s.tileFirst d 0xB1) [a, b] (formBn a && formBn b) (mmaExt [a, b])
      (TileSteps (.mma f) s s1 s2 c k d ((formE a 0 + 31) / 32) [d] (matrixRegions a ++ matrixRegions b) (mmaStep d a b) id) :=
  checked_of_body h (arm_mma f s) (by rw [hf, hd]; rfl) (tileSteps_of_turn h (arm_mma f s))

/-- MLD after its checks runs by the lines of its form (R165, R170). -/
theorem mld_checked (hd : f.dst = .tile d) (h : Issues (.mld f) f 1 s c k) (hf : s.formsOf [f.src1] = .ok ([r], s)) :
    Checked (.mld f) s c k (s.tileFirst d 0xB2) [r] (tileFmt r) (tileExt r)
      (TileSteps (.mld f) s s1 s2 c k d (formE r 1) [] (matrixRegions r) (mldStep d r) id) :=
  checked_of_body h (arm_mld f s) (by rw [hf, hd]; rfl) (tileSteps_of_turn h (arm_mld f s))

/-- MST after its checks runs by the lines of its form (R165, R171). -/
theorem mst_checked (hn : f.src1 = .tile n) (h : Issues (.mst f) f 1 s c k) (hf : s.formsOf [f.dst] = .ok ([r], s)) :
    Checked (.mst f) s c k (s.tileFirst n 0xB3) [r] (tileFmt r && (f.mod.toNat / 4 == 0 || formFmt r == 0x10 || formFmt r == 0x11)) (tileExt r)
      (TileSteps (.mst f) s s1 s2 c k n (formE r 1) [n] [] (mstStep n r (f.mod.toNat / 4)) id) :=
  checked_of_body h (arm_mst f s) (by rw [hf, hn]; rfl) (tileSteps_of_turn h (arm_mst f s))

/-- MMOV between tiles is one step (R173). -/
theorem mmov_copies (hd : f.dst = .tile d) (hn : f.src1 = .tile n) (h : Issues (.mmov f) f 1 s c k) :
    TileSteps (.mmov f) s s1 s2 c k d 1 [n] [] (tileCopy d n (f.mod.getLsbD 0)) id := by
  have e : exec (.mmov f) s = scalar (.mmov f) f s fun s => s.tileTurn d 0xB4 1 [n] [] (tileCopy d n (f.mod.getLsbD 0)) := by
    rw [arm_mmov, execMmov, hd, hn]
  exact tileSteps_of_turn h e rfl

/-- MMOV from memory is a step for each row of the image (R173). -/
theorem mmov_loads {q : BitVec 3} {m : AddrMode} {o : BitVec 16} (hd : f.dst = .tile d) (hm : f.src1 = .mem q m o) (h : Issues (.mmov f) f 1 s c k) :
    let va := s.addrOf f.src1 16384
    TileSteps (.mmov f) s s1 s2 c k d 64 [] (imageRegion va) (imageLoad d va) (·.updated f.src1 16384) := by
  have e : exec (.mmov f) s = scalar (.mmov f) f s fun s => imageEnd f.src1 (s.tileTurn d 0xB4 64 []
      (imageRegion (s.addrOf f.src1 16384)) (imageLoad d (s.addrOf f.src1 16384))) := by
    rw [arm_mmov, execMmov, hd, hm]
  exact tileSteps_of_body h e rfl

/-- MMOV to memory is a step for each row of the image (R173). -/
theorem mmov_stores {q : BitVec 3} {m : AddrMode} {o : BitVec 16} (hm : f.dst = .mem q m o) (hn : f.src1 = .tile n) (h : Issues (.mmov f) f 1 s c k) :
    let va := s.addrOf f.dst 16384
    TileSteps (.mmov f) s s1 s2 c k n 64 [n] [] (imageStore n va) (·.updated f.dst 16384) := by
  have e : exec (.mmov f) s = scalar (.mmov f) f s fun s => imageEnd f.dst (s.tileTurn n 0xB4 64 [n] [] (imageStore n (s.addrOf f.dst 16384))) := by
    rw [arm_mmov, execMmov, hm, hn]
  exact tileSteps_of_body h e rfl

/-- MZERO waits for another slot's progress in its tile, or clears it (R166). -/
theorem mzero_clears (hd : f.dst = .tile d) (h : Issues (.mzero f) f 1 s c k) : (TileBusy s c k d → Waits (.mzero f) s s c k)
    ∧ (¬ TileBusy s c k d → s.touchTile d true = .ok ((), s1) → s1.cur = s.cur → GivesFrom (.mzero f) s ((s1.setTile d []).setMprog d 0) c k s1.regs.advance) := by
  have e : exec (.mzero f) s = scalar (.mzero f) f s fun s =>
      (s.tileStart d 0xB0).fin fun _ s => (s.touchTile d true).fin fun _ s => .done ((s.setTile d []).setMprog d 0) := by
    rw [arm_mzero, execMzero, hd]
    rfl
  refine ⟨fun hb => waits_stay h e (by rw [tileStart_busy h.cur hb]; rfl), fun hb hw hc => ?_⟩
  have hc1 : s1.cur = .slot c k := hc.trans h.cur
  have hr : ((s1.setTile d []).setMprog d 0).regs = s1.regs := by
    have hct : (s1.setTile d []).cur = .slot c k := hc1
    rw [regs_setMprog hct, regs_slot _ c k hct, slot_setTile hc1, regs_slot s1 c k hc1]
  rw [← hr]
  exact givesFrom_done h e (by simp only [tileStart_free h.cur hb, Res.fin, hw]) hc1 (regsNow_refl hc1)

/-- MSCL after its checks is one step over its tile; it keeps no progress (R165, R174). -/
theorem mscl_checked {rs : List VWord} (hd : f.dst = .tile d) (h : Issues (.mscl f) f 1 s c k) (hf : s.formsOf [f.src2] = .ok (rs, s)) :
    Checked (.mscl f) s c k true rs (rs.all fun r => formFmt r == 0x12) (msclExt rs) ((TileBusy s c k d → Waits (.mscl f) s s c k)
      ∧ (¬ TileBusy s c k d → s.takeWatches (rs.flatMap matrixRegions) = .ok ((), s1) → msclRun f s1 = .ok ((), s2) → s2.cur = s.cur →
        GivesFrom (.mscl f) s s2 c k s2.regs.advance)) := by
  refine checked_of_body h (arm_mscl f s) (by rw [hf]; rfl) fun hgo => ⟨fun hb => waits_stay h (arm_mscl f s) ?_, fun hb hw hr hc => ?_⟩
  · rw [hgo, hd, tNum, tileStart_busy h.cur hb]
    rfl
  · have hc2 := hc.trans h.cur
    refine givesFrom_done h (arm_mscl f s) ?_ hc2 (regsNow_setChunk (regsNow_refl hc2) hc2 { s2.chunk with noWatch := false } ⟨rfl, rfl, rfl, rfl⟩)
    rw [hgo, hd, tNum, tileStart_free h.cur hb]
    simp only [Res.fin, hw, State.atomic, hr]

end instructions

end Sys2Proof.Machine
end

section
/-! Accesses of a matrix step that nothing hinders: tiles, elements and images in the local store (06_matrix_and_absolute.md R161 to R164, 12_memory_levels_translation.md R277, R279): O44. -/

namespace Sys2Proof.Machine

section granules
variable {off n g : Nat} {l : List Nat} {x : Chunk} {c : CoreId}

/-- The granules of a local store (R277). -/
def granules : List Nat := List.range 8192

/-- An access inside the local store touches its granules only. -/
theorem mem_granules (h : off + n ≤ 0x80000) (hg : g ∈ linesOf off n) : g ∈ granules := by
  rw [linesOf] at hg
  split_ifs at hg with hn
  · cases hg
  · obtain ⟨j, hj, rfl⟩ := List.mem_map.1 hg
    have hj := List.mem_range.1 hj
    exact List.mem_range.2 (by omega)

/-- An F32 element touches at most two granules. -/
theorem linesOf_word_le (off : Nat) : (linesOf off 4).length ≤ 2 := by
  rw [linesOf, if_neg (by decide), List.length_map, List.length_range]
  omega

/-- No update is pending on granules when none is on any of them. -/
theorem updateOn_false (h : ∀ g ∈ l, x.updateOn c [g] = false) : x.updateOn c l = false := by
  have hone : ∀ g ∈ l, x.lsA.contains g = false ∧ x.remoteOn c [g] = false := by
    intro g hg
    have hupdate := h g hg
    rw [Chunk.updateOn, Bool.or_eq_false_iff] at hupdate
    obtain ⟨ha, hr⟩ := hupdate
    exact ⟨by simpa using ha, hr⟩
  rw [Chunk.updateOn, Bool.or_eq_false_iff, Chunk.remoteOn, List.any_eq_false, List.any_eq_false]
  refine ⟨fun g hg => by rw [(hone g hg).1]; exact Bool.false_ne_true, fun g hg => ?_⟩
  have hr := (hone g hg).2
  rw [Chunk.remoteOn, List.any_cons, List.any_nil, Bool.or_false] at hr
  rw [hr]
  exact Bool.false_ne_true

/-- Granules with no poison are not found among the poisoned ones (R344). -/
theorem find_poisoned_none {p : List Nat} (h : ∀ g ∈ l, g ∉ p) : p.find? (fun g' => l.contains g') = none := by
  rw [List.find?_eq_none]
  intro g' hg' he
  exact h g' (List.contains_iff_mem.1 he) hg'

theorem length_foldl_cons {α β : Type} (f : α → β) (l : List α) (u : List β) : (l.foldl (fun u g => f g :: u) u).length = u.length + l.length := by
  induction l generalizing u with
  | nil => rfl
  | cons a l ih => rw [List.foldl_cons, ih, List.length_cons, List.length_cons, Nat.add_right_comm, Nat.add_assoc]

end granules

section accesses
variable {s t : State} {c : CoreId} {k : SlotId} {m : Mem} {room d off n : Nat} {x : Chunk} {va : Word}

/-- Accesses of a matrix step have led from s to t: they are local ones that nothing hinders, and the tiles and MPROG stand as before. -/
structure TileTo (s : State) (c : CoreId) (k : SlotId) (m : Mem) (room : Nat) (t : State) : Prop extends LocalTo s c k granules m room t where
  tiles : (t.core c).tiles = (s.core c).tiles
  mprog : (t.core c).mprog = (s.core c).mprog

theorem tileTo_of_calm (h : s.calm c k room) : TileTo s c k (s.core c).ls room s :=
  ⟨⟨h.cur, rfl, rfl, h.plain, rfl, h.sole, fun g _ => by rw [chunk_slot s c k h.cur]; exact h.free [g], fun g _ => by rw [h.clean]; exact List.not_mem_nil,
    h.room⟩, rfl, rfl⟩

theorem tileTo_fewer {room' : Nat} (h : TileTo s c k m room t) (hr : room' ≤ room) : TileTo s c k m room' t :=
  ⟨localTo_fewer h.toLocalTo hr, h.tiles, h.mprog⟩

/-- A chunk that takes notes and at most d undo entries leaves room for the other accesses. -/
theorem tileTo_setChunk (h : TileTo s c k m (room + d) t) (hs : x.solo = t.chunk.solo) (he : x.effects = t.chunk.effects)
    (ha : x.lsA = t.chunk.lsA) (hu : x.undo.length ≤ t.chunk.undo.length + d) : TileTo s c k m room (t.setChunk x) := by
  have hco := core_setChunk h.cur x
  exact ⟨localTo_setChunk h.toLocalTo hs he ha hu, by rw [hco]; exact h.tiles, by rw [hco]; exact h.mprog⟩

theorem tileTo_withLs (h : TileTo s c k m room t) (m' : Mem) : TileTo s c k m' room (t.withLs c m') := by
  have hco : (t.withLs c m').core c = { t.core c with ls := m' } := by rw [State.withLs, core_setCore_same]
  exact ⟨localTo_withLs h.toLocalTo m', by rw [hco]; exact h.tiles, by rw [hco]; exact h.mprog⟩

theorem tileTo_heals (h : TileTo s c k m room t) (bad : List Nat) : TileTo s c k m room (t.heals bad) := by
  unfold State.heals
  split_ifs
  · exact h
  · exact tileTo_setChunk (d := 0) h rfl rfl rfl le_rfl

/-- No memory region needs no watch (R217). -/
theorem takeWatches_none (h : TileTo s c k m room t) : ∃ u, t.takeWatches [] = .ok ((), u) ∧ TileTo s c k m room u := by
  cases hn : t.chunk.noWatch with
  | true => exact ⟨t, by rw [State.takeWatches, hn]; rfl, h⟩
  | false =>
    have hall : t.watchesFor [] = [] := rfl
    unfold State.takeWatches
    simp only [hn, Bool.false_eq_true, if_false, hall, List.foldl_nil, List.length_nil, Nat.zero_le, if_true]
    exact ⟨_, rfl, tileTo_setChunk (d := 0) h rfl rfl rfl le_rfl⟩

/-- An access to a tile is marked in the chunk (R8, R161). -/
theorem tileTo_touchTile (h : TileTo s c k m room t) (n : BitVec 2) (write : Bool) : ∃ u, t.touchTile n write = .ok ((), u) ∧ TileTo s c k m room u := by
  have hch := chunk_slot t c k h.cur
  unfold State.touchTile State.markTile
  simp only [h.cur, contend_sole h.sole (test := fun x => x.tileW.getLsbD n.toNat || (write && x.tileR.getLsbD n.toNat)) (by simp), Bool.not_true,
    Bool.false_eq_true, if_false, if_true, ← setChunk_slot t c k h.cur, ← hch]
  exact ⟨_, rfl, tileTo_setChunk (d := 0) h rfl rfl rfl le_rfl⟩

/-- The accesses of a step to its tiles, then its own effect (R161). -/
theorem tileTo_tileRun {Q : State → Prop} {body : State → Res Unit} (h : TileTo s c k m room t)
    (hb : ∀ t, TileTo s c k m room t → ∃ u, body t = .ok ((), u) ∧ Q u) (reads : List (BitVec 2)) (n : BitVec 2) :
    ∃ u, tileRun reads n body t = .ok ((), u) ∧ Q u := by
  obtain ⟨_, u, hr, hu⟩ := foldRes_completes (f := fun _ r s => State.touchTile s r false) (l := reads) (b := ()) (P := fun _ _ t => TileTo s c k m room t)
    (fun r _ _ _ t ht => by obtain ⟨u, hu⟩ := tileTo_touchTile ht r false; exact ⟨(), u, hu⟩) h
  obtain ⟨v, hw, hv⟩ := tileTo_touchTile hu n true
  obtain ⟨x, hx, hq⟩ := hb v hv
  exact ⟨x, by rw [tileRun, hr, Res.andThen, hw, Res.andThen]; exact hx, hq⟩

/-- The marks of an access inside the local store take at most an undo entry for each granule written (R277, R279). -/
theorem tileTo_touchLs (h : TileTo s c k m (room + d) t) (hin : off + n ≤ 0x80000) (write : Bool) (hd : write = true → (linesOf off n).length ≤ d) :
    ∃ u, t.touchLs off n write = .ok ((), u) ∧ TileTo s c k m room u := by
  have hr := h.room
  have hfree : t.chunk.updateOn c (linesOf off n) = false := updateOn_false fun g hg => h.free g (mem_granules hin hg)
  have hf : (if write then (linesOf off n).filter fun g => !t.chunk.lsW.contains g else []).length ≤ d := by
    cases write
    · exact Nat.zero_le d
    · exact (List.length_filter_le _ _).trans (hd rfl)
  unfold State.touchLs
  simp only [h.cur]
  generalize (if write then (linesOf off n).filter fun g => !t.chunk.lsW.contains g else []) = first at hf ⊢
  rw [if_neg (by rw [hfree]; exact Bool.false_ne_true), if_neg (by simp only [decide_eq_true_eq]; omega), contend_sole h.sole (by simp)]
  refine ⟨_, rfl, tileTo_setChunk h rfl rfl rfl ?_⟩
  rw [length_foldl_cons]
  exact Nat.add_le_add_left hf _

/-- Bytes inside the local store are read. -/
theorem tileTo_readElem (h : TileTo s c k m room t) (hin : off + n ≤ 0x80000) :
    ∃ u, t.readElem (va, .ls c off) n = .ok (m.bytes off n, u) ∧ TileTo s c k m room u := by
  obtain ⟨u, ht, hu⟩ := tileTo_touchLs (d := 0) h hin false fun hw => absurd hw Bool.false_ne_true
  refine ⟨u, ?_, hu⟩
  have hp := find_poisoned_none (p := (t.core c).lsPoison) fun g hg => h.clean g (mem_granules hin hg)
  change t.readLs c off n = _
  unfold State.readLs
  simp only [h.cur, ht, hp, Res.andThen, hu.ls]

/-- Bytes inside the local store are written. -/
theorem tileTo_writeElem {bs : List Byte} (h : TileTo s c k m (room + d) t) (hin : off + bs.length ≤ 0x80000) (hd : (linesOf off bs.length).length ≤ d) :
    ∃ u, t.writeElem (va, .ls c off) bs = .ok ((), u) ∧ TileTo s c k (m.setBytes off bs) room u := by
  obtain ⟨u, ht, hu⟩ := tileTo_touchLs h hin true fun _ => hd
  have hh := tileTo_heals hu
  exact ⟨_, writeLs_touched h.cur ht, by rw [(hh _).ls]; exact tileTo_withLs (hh _) _⟩

/-- The n bytes at an exact address lie in the slot's own local store, at an offset (R27, R135). -/
structure LiesAt (c : CoreId) (k : SlotId) (lsp : Bool) (a : Int) (n off : Nat) : Prop where
  inside : off + n ≤ 0x80000
  located : ∀ (t : State) (kd : Kind), t.cur = .slot c k → t.elemLoc lsp a n kd = .ok ((BitVec.ofInt 64 a, .ls c off), t)

/-- An element of a form of the local store. -/
theorem liesAt_form (c : CoreId) (k : SlotId) {a : Int} (h0 : 0 ≤ a) (h1 : a + n ≤ 0x80000) : LiesAt c k true a n a.toNat := by
  have hn : (BitVec.ofInt 64 a).toNat = a.toNat := by
    rw [BitVec.toNat_ofInt]
    omega
  refine ⟨by omega, fun t kd hc => ?_⟩
  rw [State.elemLoc, if_pos rfl, hn, if_neg (by omega), curCore_slot hc]

/-- Bytes in the window. -/
theorem liesAt_window (c : CoreId) (k : SlotId) (h0 : 0 < n) (h1 : off + n ≤ 0x80000) :
    LiesAt c k false ((windowBase + off : Nat) : Int) n off := by
  have hv : BitVec.ofInt 64 ((windowBase + off : Nat) : Int) = BitVec.ofNat 64 (windowBase + off) := BitVec.ofInt_natCast _ _
  refine ⟨h1, fun t kd hc => ?_⟩
  unfold State.elemLoc
  simp only [Bool.false_eq_true, if_false, locate_window hc hv h0 h1 kd, Res.andThen]

/-- Bytes located and read. -/
theorem tileTo_reads {lsp : Bool} {a : Int} (h : TileTo s c k m room t) (hl : LiesAt c k lsp a n off) : ∃ u, TileTo s c k m room u
    ∧ ∀ {β : Type} (g : List Byte → State → Res β), ((t.elemLoc lsp a n .read).andThen fun w s => (s.readElem w n).andThen g) = g (m.bytes off n) u := by
  obtain ⟨u, hr, hu⟩ := tileTo_readElem (va := BitVec.ofInt 64 a) h hl.inside
  refine ⟨u, hu, fun g => ?_⟩
  rw [hl.located t .read h.cur, Res.andThen, hr, Res.andThen]

/-- A fold of steps that each add one item to a list and keep a property of the state. -/
theorem foldRes_collects {α β : Type} {f : List β → α → State → Res (List β)} {g : α → β} {I : State → Prop} {l : List α}
    (h : ∀ a ∈ l, ∀ acc t, I t → ∃ u, f acc a t = .ok (acc ++ [g a], u) ∧ I u) (h0 : I t) : ∃ u, foldRes l [] f t = .ok (l.map g, u) ∧ I u := by
  obtain ⟨b, u, he, hu, hb⟩ := foldRes_completes (f := f) (l := l) (b := []) (P := fun rest acc t => I t ∧ acc ++ rest.map g = l.map g)
    (fun a ha rest acc t ⟨ht, hacc⟩ => by
      obtain ⟨u, hf, hu⟩ := h a ha acc t ht
      exact ⟨_, u, hf, hu, by rw [← hacc]; simp⟩) ⟨h0, rfl⟩
  rw [List.map_nil, List.append_nil] at hb
  exact ⟨u, by rw [he, hb], hu⟩

end accesses

section stores
variable {ι : Type} {s t : State} {c : CoreId} {k : SlotId} {m : Mem} {room d : Nat} {l : List ι} {lsp : Bool} {addr : ι → Int} {o : ι → Nat} {bs : ι → List Byte}

/-- The bytes of a local store with items written in order. -/
def putBytes (m : Mem) (l : List ι) (o : ι → Nat) (bs : ι → List Byte) : Mem := l.foldl (fun m j => m.setBytes (o j) (bs j)) m

theorem wf_putBytes (h : m.wf = true) (l : List ι) (o : ι → Nat) (bs : ι → List Byte) : (putBytes m l o bs).wf = true := by
  induction l generalizing m with
  | nil => exact h
  | cons j l ih => exact ih (wf_setBytes _ _ _ h)

/-- Bytes outside all items are as before. -/
theorem byte_putBytes_out {a : Nat} (h : m.wf = true) (ha : ∀ j ∈ l, a < o j ∨ o j + (bs j).length ≤ a) : (putBytes m l o bs).byte a = m.byte a := by
  induction l generalizing m with
  | nil => rfl
  | cons j l ih =>
    have ht := ih (wf_setBytes (bs j) m (o j) h) fun j hj => ha j (List.mem_cons_of_mem _ hj)
    exact ht.trans (byte_setBytes_out _ _ _ _ h (ha j List.mem_cons_self))

/-- The last item is written last. -/
theorem putBytes_concat (m : Mem) (l : List ι) (j : ι) (o : ι → Nat) (bs : ι → List Byte) :
    putBytes m (l ++ [j]) o bs = (putBytes m l o bs).setBytes (o j) (bs j) := by
  rw [putBytes, List.foldl_append]
  rfl

/-- Stores of items in the local store, with no flags, write them in order (R162, R171). -/
theorem tileTo_storeAll (h : TileTo s c k m (room + d * l.length) t) (hl : ∀ j ∈ l, LiesAt c k lsp (addr j) (bs j).length (o j))
    (hd : ∀ j ∈ l, (linesOf (o j) (bs j).length).length ≤ d) :
    ∃ u, t.storeAll (l.map fun j => (lsp, addr j, bs j)) 0 = .ok ((), u) ∧ TileTo s c k (putBytes m l o bs) room u := by
  obtain ⟨_, hplace, hv⟩ : ∃ u, foldRes (l.map fun j => (lsp, addr j, bs j)) [] (fun acc x s => (s.elemLoc x.1 x.2.1 x.2.2.length .write).andThen fun w s =>
      (s.touchable w.1 w.2 x.2.2.length .write).andThen fun _ s => .ok (acc ++ [(w, x.2.2)], s)) t
      = .ok (l.map fun j => ((BitVec.ofInt 64 (addr j), Loc.ls c (o j)), bs j), u) ∧ u = t := by
    rw [foldRes_map]
    refine foldRes_collects (I := (· = t)) (fun j hj acc u hu => ⟨u, ?_, hu⟩) rfl
    rw [(hl j hj).located u .write (by rw [hu]; exact h.cur)]
    rfl
  obtain ⟨_, u, hwrite, m', hu, hm⟩ : ∃ b u, foldRes (l.map fun j => ((BitVec.ofInt 64 (addr j), Loc.ls c (o j)), bs j)) ()
      (fun _ x s => s.writeElem x.1 x.2) t = .ok (b, u) ∧ ∃ m', TileTo s c k m' room u ∧ putBytes m' [] o bs = putBytes m l o bs := by
    rw [foldRes_map]
    refine foldRes_completes (P := fun rest _ t => ∃ m', TileTo s c k m' (room + d * rest.length) t ∧ putBytes m' rest o bs = putBytes m l o bs)
      (fun j hj rest _ t ⟨m', ht, ha⟩ => ?_) ⟨m, h, rfl⟩
    rw [List.length_cons, Nat.mul_succ, ← Nat.add_assoc] at ht
    obtain ⟨u, hw, hu⟩ := tileTo_writeElem (va := BitVec.ofInt 64 (addr j)) ht (hl j hj).inside (hd j hj)
    exact ⟨(), u, hw, _, hu, ha⟩
  have hquiet : ¬ enabledFlags t.regs.fpsr 0 ≠ 0 := fun hne => hne (BitVec.zero_and)
  rw [hv] at hplace
  refine ⟨u, ?_, hm ▸ hu⟩
  rw [State.storeAll, hplace]
  dsimp only [Res.andThen]
  rw [if_neg hquiet, hwrite]
  rfl

end stores

section ends
variable {i : Instr} {s t u : State} {c : CoreId} {k : SlotId} {m : Mem} {room total : Nat} {n : BitVec 2} {ts : Vector (List (BitVec 32)) 4}
  {v : BitVec 32} {q r : Regs} {upd : Regs → Regs} {regions : List (Int × Int)} {reads : List (BitVec 2)} {body : Nat → State → Res Unit}

/-- The tiles of a core with one of them written. -/
def Core.tilesWith (x : Core) (n : BitVec 2) (y : List (BitVec 32)) : Vector (List (BitVec 32)) 4 := x.tiles.set n.toNat (mkTile y) n.isLt

/-- A step has led to t: the local store holds m, the tiles are ts and the slot's registers q; memory and MPROG stand as before. -/
structure TileEnd (s : State) (c : CoreId) (k : SlotId) (m : Mem) (ts : Vector (List (BitVec 32)) 4) (q : Regs) (t : State) : Prop where
  cur : t.cur = .slot c k
  mem : t.mem = s.mem
  regs : t.regs = q
  plain : t.chunk.solo = false
  ls : (t.core c).ls = m
  tiles : (t.core c).tiles = ts
  mprog : (t.core c).mprog = (s.core c).mprog

theorem tileEnd_of_tileTo (h : TileTo s c k m room t) : TileEnd s c k m (s.core c).tiles s.regs t :=
  ⟨h.cur, h.mem, h.regs, h.plain, h.ls, h.tiles, h.mprog⟩

theorem tileEnd_setTile (h : TileEnd s c k m (s.core c).tiles q t) (n : BitVec 2) (x : List (BitVec 32)) :
    TileEnd s c k m ((s.core c).tilesWith n x) q (t.setTile n x) := by
  have hc : (t.setTile n x).cur = .slot c k := h.cur
  have hco := core_setTile h.cur n x
  have hsl := slot_setTile h.cur n x
  refine ⟨hc, h.mem, ?_, ?_, by rw [hco]; exact h.ls, by rw [hco, h.tiles]; rfl, by rw [hco]; exact h.mprog⟩
  · rw [regs_slot _ c k hc, hsl, ← regs_slot t c k h.cur, h.regs]
  · rw [chunk_slot _ c k hc, hsl, ← chunk_slot t c k h.cur, h.plain]

theorem tileEnd_sticky (h : TileEnd s c k m ts q t) (fl : Flags) : TileEnd s c k m ts (q.flagged fl) (t.sticky fl) := by
  have hk := regsNow_sticky (regsNow_refl h.cur) h.cur fl
  have hco := hk.only.cores c
  refine ⟨regsNow_cur hk h.cur, (onlySlot_mem hk.only).trans h.mem, by rw [regsNow_regs hk h.cur, h.regs], ?_, (onlySlot_ls hk.only c).trans h.ls,
    (congrArg Core.tiles hco).trans h.tiles, (congrArg Core.mprog hco).trans h.mprog⟩
  exact (regsNow_chunk hk h.cur).solo.trans h.plain

/-- New elements of a tile are written with their flags, none of which is enabled (R44, R162). -/
theorem tileEnd_writeTile {x : List (BitVec 32) × Flags} (h : TileTo s c k m room t) (hq : s.regs.fpsr.extractLsb' 8 5 &&& x.2 = 0) (n : BitVec 2) :
    ∃ u, t.writeTile n x = .ok ((), u) ∧ TileEnd s c k m ((s.core c).tilesWith n x.1) (s.regs.flagged x.2) u := by
  rw [← h.regs] at hq
  exact ⟨_, by rw [State.writeTile, flags_quiet hq]; rfl, tileEnd_setTile (tileEnd_sticky (tileEnd_of_tileTo h) x.2) n x.1⟩

/-- The instruction gives a next state with memory as it was, the bytes m in the local store, the tiles ts, v in the tile's MPROG and the registers r. -/
def TileLeaves (i : Instr) (s : State) (c : CoreId) (k : SlotId) (n : BitVec 2) (m : Mem) (ts : Vector (List (BitVec 32)) 4) (v : BitVec 32) (r : Regs) : Prop :=
  ∃ u, exec i s = .next u ∧ u.mem = s.mem ∧ (u.core c).ls = m ∧ (u.core c).tiles = ts ∧ (u.core c).mprogOf n = v ∧ (u.slot c k).regs = r

/-- What an instruction leaves that has led to the end of a step. -/
theorem tileLeaves_of_tileEnd (h : TileEnd s c k m ts q t) (hg : GivesFrom i s t c k r) : TileLeaves i s c k n m ts ((s.core c).mprogOf n) r := by
  obtain ⟨u, he, hend⟩ := hg
  have hco := hend.only.cores c
  have hp : (u.core c).mprog = (s.core c).mprog := (congrArg Core.mprog hco).trans h.mprog
  exact ⟨u, he, (onlySlot_mem hend.only).trans h.mem, (onlySlot_ls hend.only c).trans h.ls, (congrArg Core.tiles hco).trans h.tiles,
    by rw [Core.mprogOf, hp]; rfl, ended_regs hend (by rw [← chunk_slot t c k h.cur, h.plain])⟩

/-- The same where it has then written MPROG. -/
theorem tileLeaves_of_setMprog (h : TileEnd s c k m ts q t) (hg : GivesFrom i s (t.setMprog n v) c k r) : TileLeaves i s c k n m ts v r := by
  obtain ⟨u, he, hend⟩ := hg
  have hco := hend.only.cores c
  rw [core_setMprog h.cur] at hco
  have hp : (u.core c).mprog = (t.core c).mprog.set n.toNat v n.isLt := congrArg Core.mprog hco
  refine ⟨u, he, (onlySlot_mem hend.only).trans h.mem, (congrArg Core.ls hco).trans h.ls, (congrArg Core.tiles hco).trans h.tiles,
    by rw [Core.mprogOf, hp, get_set_same], ended_regs hend ?_⟩
  rw [slot_setMprog h.cur, ← chunk_slot t c k h.cur, h.plain]

/-- What MPROG of a tile shows after step t of an instruction: the next step, or 0 at the end (R159). -/
def nextProg (t total opc : Nat) (k : SlotId) : BitVec 32 := if t + 1 < total then mkProg (t + 1) opc k.toNat else 0

/-- One step of a long tile instruction, where watches, tiles and the step's own effect meet nothing that hinders them. -/
theorem tileLeaves_of_steps (hs : ∀ s1 s2, TileSteps i s s1 s2 c k n total reads regions body upd) (hc : s.cur = .slot c k) (hb : ¬ TileBusy s c k n)
    (ht : s.tileStep c n (opcOf i) < total) (hw : ∃ s1, s.takeWatches regions = .ok ((), s1) ∧ TileTo s c k (s.core c).ls room s1)
    (hbody : ∀ t, TileTo s c k (s.core c).ls room t → ∃ u, body (s.tileStep c n (opcOf i)) t = .ok ((), u) ∧ TileEnd s c k m ts q u) :
    TileLeaves i s c k n m ts (nextProg (s.tileStep c n (opcOf i)) total (opcOf i) k)
      (if s.tileStep c n (opcOf i) + 1 < total then q else (upd q).advance) := by
  obtain ⟨s1, hw, h1⟩ := hw
  obtain ⟨s2, hr, h2⟩ := tileTo_tileRun h1 hbody reads n
  obtain ⟨-, -, hstep⟩ := hs s1 s2
  obtain ⟨hmore, hlast⟩ := hstep hb ht hw hr (h2.cur.trans hc.symm)
  rw [nextProg]
  split_ifs with hlt
  · rw [← h2.regs]
    exact tileLeaves_of_setMprog h2 (hmore hlt)
  · rw [← h2.regs]
    exact tileLeaves_of_setMprog h2 (hlast (by omega))

end ends

end Sys2Proof.Machine
end

section
/-! Steps of the matrix unit on operands in the local store (06_matrix_and_absolute.md R163 to R174): O44. -/

namespace Sys2Proof.Machine

section copies
variable {s t : State} {c : CoreId} {k : SlotId} {m : Mem} {room : Nat}

theorem tileTo_tileOf (h : TileTo s c k m room t) (n : BitVec 2) : t.tileOf n = (s.core c).tile n := by
  rw [State.tileOf, curCore_slot h.cur, Core.tile, h.tiles]
  rfl

/-- A tile as MMOV copies it, turned or not (R173). -/
def copiedTile (old : List (BitVec 32)) (turned : Bool) : List (BitVec 32) :=
  if turned then (List.range 4096).map fun q => tileElem old (64 * (q % 64) + q / 64) else old

theorem tileElem_copiedTile (old : List (BitVec 32)) (turned : Bool) {i j : Nat} (hi : i < 64) (hj : j < 64) :
    tileElem (copiedTile old turned) (64 * i + j) = if turned then tileElem old (64 * j + i) else tileElem old (64 * i + j) := by
  have hdiv : (64 * i + j) / 64 = i := by omega
  have hmod : (64 * i + j) % 64 = j := by omega
  rw [copiedTile]
  split_ifs
  · rw [tileElem_map_range _ (by omega), hdiv, hmod]
  · rfl

theorem tileCopy_ends (h : TileTo s c k m room t) (d n : BitVec 2) (turned : Bool) (q : Nat) : ∃ u, tileCopy d n turned q t = .ok ((), u)
    ∧ TileEnd s c k m ((s.core c).tilesWith d (copiedTile ((s.core c).tile n) turned)) s.regs u := by
  refine ⟨t.setTile d (copiedTile (t.tileOf n) turned), rfl, ?_⟩
  rw [tileTo_tileOf h]
  exact tileEnd_setTile (tileEnd_of_tileTo h) d _

end copies

section images
variable {s t : State} {c : CoreId} {k : SlotId} {m : Mem} {room w i j q : Nat} {va : Word}

/-- An image that lies in the window at an offset (R17, R27). -/
structure ImageAt (va : Word) (w : Nat) : Prop where
  addr : va = BitVec.ofNat 64 (windowBase + w)
  aligned : w % 64 = 0
  inside : w + 16384 ≤ 0x80000

theorem imageAt_add (h : ImageAt va w) (hq : q < 16384) : (va + BitVec.ofNat 64 q).toNat = windowBase + (w + q) := by
  have hin := h.inside
  rw [BitVec.toNat_add, h.addr, window_toNat (by omega), BitVec.toNat_ofNat]
  simp only [windowBase]
  omega

theorem imageAt_inWindow (h : ImageAt va w) (hq : q < 16384) : inWindow (va + BitVec.ofNat 64 q) = true := by
  have hin := h.inside
  rw [inWindow, imageAt_add h hq, Bool.and_eq_true, decide_eq_true_eq, decide_eq_true_eq]
  simp only [windowBase, windowEnd]
  omega

theorem imageAt_start (h : ImageAt va w) : inWindow va = true := by
  have h0 := imageAt_inWindow h (q := 0) (by decide)
  rwa [show va + BitVec.ofNat 64 0 = va from BitVec.add_zero va] at h0

/-- An image in the window needs no watch (R163, R217). -/
theorem imageRegion_window (h : ImageAt va w) : imageRegion va = [] := by
  rw [imageRegion, imageAt_start h]
  rfl

/-- An image in the window passes the checks of its address (R163, R173). -/
theorem imageAddr_window (h : ImageAt va w) (t : State) (kd : Kind) : t.imageAddr va kd = .ok ((), t) := by
  have ha := h.aligned
  have h64 : va.toNat % 64 = 0 := by
    have h0 := imageAt_add h (q := 0) (by decide)
    rw [show va + BitVec.ofNat 64 0 = va from BitVec.add_zero va] at h0
    rw [h0]
    simp only [windowBase]
    omega
  have hx : imageCrosses va = false := by
    have hlast : inWindow (va + 16383) = true := imageAt_inWindow h (q := 16383) (by decide)
    rw [imageCrosses, imageAt_start h, hlast]
    rfl
  rw [State.imageAddr, if_neg (not_not.2 h64), hx]
  rfl

/-- The pieces of a row lie in the local store (R17). -/
theorem liesAt_piece (c : CoreId) (k : SlotId) (h : ImageAt va w) (hi : i < 64) (hj : j < 4) :
    LiesAt c k false ((va + BitVec.ofNat 64 (256 * i + 64 * j)).toNat : Int) 64 (w + (256 * i + 64 * j)) := by
  have hin := h.inside
  rw [imageAt_add h (by omega)]
  exact liesAt_window c k (by decide) (by omega)

theorem bytes_drop_take (m : Mem) (a : Nat) {n p l : Nat} (h : p + l ≤ n) : ((m.bytes a n).drop p).take l = m.bytes (a + p) l := by
  refine List.ext_getElem (by simp [Mem.bytes]; omega) fun j h1 h2 => ?_
  simp [Mem.bytes, Nat.add_assoc]

/-- A word of the 64 bytes of a piece (R17). -/
theorem fieldNat_piece (m : Mem) (a : Nat) (hq : q < 16) : fieldNat (BitVec.ofNat 512 (m.nat a 64)) (32 * q) 32 = m.nat (a + 4 * q) 4 := by
  have hlen : (m.bytes a 64).length = 64 := by simp [Mem.bytes]
  have hdrop : 4 ≤ ((m.bytes a 64).drop (4 * q)).length := by
    rw [List.length_drop, hlen]
    omega
  have hpow : 2 ^ (32 * q) = 256 ^ (4 * q) := by rw [show (256 : Nat) = 2 ^ 8 from rfl, ← pow_mul, show 8 * (4 * q) = 32 * q by omega]
  rw [fieldNat, Mem.nat, toNat_ofNat_leNat _ 512 (by rw [hlen]), Nat.shiftRight_eq_div_pow, hpow, leNat_div, show 2 ^ 32 = 256 ^ 4 from rfl,
    ← leNat_take _ hdrop, bytes_drop_take m a (by omega)]
  rfl

/-- The pieces of a row as they are read: the first element of each, and its 64 bytes as a number. -/
def readPieces (m : Mem) (w i : Nat) : List (Nat × Nat) := (List.range 4).map fun j => (64 * i + 16 * j, m.nat (w + (256 * i + 64 * j)) 64)

theorem readPieces_word (m : Mem) (w i : Nat) (hj : j < 64) :
    fieldNat (BitVec.ofNat 512 (((readPieces m w i)[j / 16]?).getD (0, 0)).2) (32 * (j % 16)) 32 = m.nat (w + 256 * i + 4 * j) 4 := by
  rw [readPieces, List.getElem?_map, List.getElem?_range (by omega), Option.map_some, Option.getD_some, fieldNat_piece _ _ (by omega),
    show w + (256 * i + 64 * (j / 16)) + 4 * (j % 16) = w + 256 * i + 4 * j by omega]

/-- What a row of an image gives the elements of a tile (R173). -/
def rowElems (m : Mem) (w i a b : Nat) : Option (Nat × Flags) :=
  if a = i then some (fieldNat (BitVec.ofNat 512 (((readPieces m w i)[b / 16]?).getD (0, 0)).2) (32 * (b % 16)) 32, 0) else none

/-- A step of an image's load puts its row into the tile (R173). -/
theorem imageLoad_ends (h : TileTo s c k m room t) (hv : ImageAt va w) (hi : i < 64) (d : BitVec 2) : ∃ u, imageLoad d va i t = .ok ((), u)
    ∧ TileEnd s c k m ((s.core c).tilesWith d (mapTile ((s.core c).tile d) (rowElems m w i)).1) s.regs u := by
  obtain ⟨u, hr, hu⟩ : ∃ u, foldRes (rowPieces va i) [] (fun acc p s => (s.elemLoc false p.1 64 .read).andThen fun w s =>
      (s.readElem w 64).andThen fun bs s => .ok (acc ++ [(p.2, leNat bs)], s)) t = .ok (readPieces m w i, u) ∧ TileTo s c k m room u := by
    rw [rowPieces, foldRes_map]
    refine foldRes_collects (fun j hj acc t ht => ?_) h
    obtain ⟨u, hu, hg⟩ := tileTo_reads ht (liesAt_piece c k hv hi (List.mem_range.1 hj))
    exact ⟨u, hg fun bs s => .ok (acc ++ [(64 * i + 16 * j, leNat bs)], s), hu⟩
  refine ⟨u.setTile d (mapTile (u.tileOf d) (rowElems m w i)).1, ?_, ?_⟩
  · rw [imageLoad, imageAddr_window hv, Res.andThen, hr]
    rfl
  · rw [tileTo_tileOf hu]
    exact tileEnd_setTile (tileEnd_of_tileTo hu) d _

theorem tileElem_rowElems (m : Mem) (w i : Nat) (old : List (BitVec 32)) {a b : Nat} (ha : a < 64) (hb : b < 64) :
    tileElem (mapTile old (rowElems m w i)).1 (64 * a + b)
      = if a = i then BitVec.ofNat 32 (m.nat (w + 256 * a + 4 * b) 4) else tileElem old (64 * a + b) := by
  rw [tileElem_mapTile _ _ ha hb, rowElems]
  split_ifs with hai
  · rw [Option.elim_some, readPieces_word m w i hb, hai]
  · rfl

/-- The bytes of a piece of row i of a tile (R17). -/
def pieceBytes (y : List (BitVec 32)) (i j : Nat) : List Byte := (List.range 16).flatMap fun q => leBytes 4 (tileElem y (64 * i + 16 * j + q)).toNat

theorem pieceBytes_length (y : List (BitVec 32)) (i j : Nat) : (pieceBytes y i j).length = 64 := by
  simp [pieceBytes, List.length_flatMap]

/-- A local store after row i of a tile has been stored as a row of an image. -/
def storedRow (m : Mem) (y : List (BitVec 32)) (w i : Nat) : Mem := putBytes m (List.range 4) (fun j => w + (256 * i + 64 * j)) (pieceBytes y i)

/-- A step of an image's store writes its row (R173). -/
theorem imageStore_ends (h : TileTo s c k m 4 t) (hv : ImageAt va w) (hi : i < 64) (n : BitVec 2) : ∃ u, imageStore n va i t = .ok ((), u)
    ∧ TileEnd s c k (storedRow m ((s.core c).tile n) w i) (s.core c).tiles s.regs u := by
  have hlen := pieceBytes_length (t.tileOf n) i
  have hal := hv.aligned
  obtain ⟨u, hs, hu⟩ := tileTo_storeAll (d := 1) (room := 0) (l := List.range 4) (lsp := false) (bs := pieceBytes (t.tileOf n) i)
    (o := fun j => w + (256 * i + 64 * j)) (addr := fun j => ((va + BitVec.ofNat 64 (256 * i + 64 * j)).toNat : Int)) h
    (fun j hj => by rw [hlen]; exact liesAt_piece c k hv hi (List.mem_range.1 hj))
    (fun j _ => by rw [hlen, linesOf_record (by omega), List.length_singleton])
  refine ⟨u, ?_, ?_⟩
  · rw [imageStore, imageAddr_window hv, Res.andThen, rowPieces]
    dsimp only
    rw [List.map_map]
    exact hs
  · rw [← tileTo_tileOf h]
    exact tileEnd_of_tileTo hu

/-- The bytes outside a stored row are as before. -/
theorem byte_storedRow_out {a : Nat} (h : m.wf = true) (y : List (BitVec 32)) (ha : ∀ j, j < 64 → a < w + 256 * i + 4 * j ∨ w + 256 * i + 4 * j + 4 ≤ a) :
    (storedRow m y w i).byte a = m.byte a := by
  refine byte_putBytes_out h fun j hj => ?_
  have hj := List.mem_range.1 hj
  rw [pieceBytes_length]
  by_contra hin
  have := ha ((a - (w + 256 * i)) / 4) (by omega)
  omega

theorem setBytes_append (m : Mem) (a : Nat) (xs ys : List Byte) : m.setBytes a (xs ++ ys) = (m.setBytes a xs).setBytes (a + xs.length) ys := by
  induction xs generalizing m a with
  | nil => rfl
  | cons x xs ih => rw [List.cons_append, Mem.setBytes, ih, Mem.setBytes, List.length_cons, Nat.add_right_comm, Nat.add_assoc]

/-- The last word of a stored row is the last element of the tile's row. -/
theorem storedRow_last (h : m.wf = true) (y : List (BitVec 32)) (w i : Nat) :
    (storedRow m y w i).nat (w + 256 * i + 4 * 63) 4 = (tileElem y (64 * i + 63)).toNat := by
  have hsplit : pieceBytes y i 3 = (List.range 15).flatMap (fun q => leBytes 4 (tileElem y (64 * i + 16 * 3 + q)).toNat)
      ++ leBytes 4 (tileElem y (64 * i + 63)).toNat := by
    rw [pieceBytes, List.range_succ, List.flatMap_append, List.flatMap_singleton]
  have hlen : ((List.range 15).flatMap fun q => leBytes 4 (tileElem y (64 * i + 16 * 3 + q)).toNat).length = 60 := by simp [List.length_flatMap]
  rw [storedRow, show List.range 4 = List.range 3 ++ [3] from rfl, putBytes_concat, hsplit, setBytes_append, hlen,
    show w + (256 * i + 64 * 3) + 60 = w + 256 * i + 4 * 63 by omega]
  exact nat_setNat _ _ 4 _ (wf_setBytes _ _ _ (wf_putBytes h _ _ _)) (BitVec.isLt _)

end images

section lines
variable {s t : State} {c : CoreId} {k : SlotId} {m : Mem} {room i : Nat} {r : VWord}

/-- A form of F32 in the local store that MLD and MST take, with line i inside (R163, R165). -/
structure LineLocal (r : VWord) (i : Nat) : Prop where
  lsp : formLsp r = true
  fmt : formFmt r = 0x12
  inside : ∀ i0, i0 < formE r 0 → 0 ≤ formAddr r i0 i 0 0 ∧ formAddr r i0 i 0 0 + 4 ≤ 0x80000

theorem formSize_f32 (h : formFmt r = 0x12) : formSize r = 4 := by simp [formSize, h]

theorem formBn_f32 (h : formFmt r = 0x12) : formBn r = false := by simp [formBn, h]

/-- A form of the local store, with its scales there if it has any, reads no memory region (R163). -/
theorem matrixRegions_local (hl : formLsp r = true) (hs : formBn r = true → formSls r = true) : matrixRegions r = [] := by
  rw [matrixRegions]
  split_ifs with hb hsls
  · rfl
  · exact absurd (hs hb) hsls
  · rfl

theorem liesAt_line (c : CoreId) (k : SlotId) (h : LineLocal r i) {i0 : Nat} (h0 : i0 < formE r 0) :
    LiesAt c k (formLsp r) (formAddr r i0 i 0 0) 4 (formAddr r i0 i 0 0).toNat := by
  obtain ⟨hlow, hhigh⟩ := h.inside i0 h0
  rw [h.lsp]
  exact liesAt_form c k hlow hhigh

/-- The values of a line of F32 (R170). -/
def lineValues (m : Mem) (r : VWord) (i : Nat) : List (Nat × Flags) := (List.range (formE r 0)).map fun i0 => (m.nat (formAddr r i0 i 0 0).toNat 4, 0)

theorem lineValues_getElem? (m : Mem) (r : VWord) (i i0 : Nat) :
    (lineValues m r i)[i0]? = if i0 < formE r 0 then some (m.nat (formAddr r i0 i 0 0).toNat 4, 0) else none := by
  rw [lineValues, List.getElem?_map]
  split_ifs with h0
  · rw [List.getElem?_range h0]
    rfl
  · rw [List.getElem?_eq_none (by rw [List.length_range]; omega)]
    rfl

/-- What a line of values gives the elements of a tile: a row of it, or a column (R164). -/
def lineElems (cmj : Bool) (xs : List (Nat × Flags)) (i1 a b : Nat) : Option (Nat × Flags) :=
  if (if cmj then b else a) = i1 then xs[if cmj then a else b]? else none

/-- The elements of a line of F32 are read as they are (R170). -/
theorem loadLine_local (h : TileTo s c k m room t) (hr : LineLocal r i) : ∃ u,
    t.loadLine r i = .ok (lineValues m r i, u) ∧ TileTo s c k m room u := by
  rw [State.loadLine, formBn_f32 hr.fmt, if_neg Bool.false_ne_true]
  refine foldRes_collects (fun i0 hi0 acc t ht => ?_) h
  obtain ⟨u, hu, hg⟩ := tileTo_reads ht (liesAt_line c k hr (List.mem_range.1 hi0))
  have hread : t.readForm r (i0, i, 0, 0) = .ok (m.nat (formAddr r i0 i 0 0).toNat 4, u) := by
    rw [State.readForm]
    simp only [formSize_f32 hr.fmt]
    exact hg fun bs s => .ok (leNat bs, s)
  have hwiden (x : Nat) : widen (formFmt r) x = (x, 0) := by simp [widen, hr.fmt]
  exact ⟨u, by rw [hread, Res.andThen, hwiden], hu⟩

/-- A step of MLD puts a line of F32 into the tile (R164, R170). -/
theorem mldStep_ends (h : TileTo s c k m room t) (hr : LineLocal r i) (d : BitVec 2) : ∃ u, mldStep d r i t = .ok ((), u)
    ∧ TileEnd s c k m ((s.core c).tilesWith d (mapTile ((s.core c).tile d) (lineElems (formCmj r) (lineValues m r i) i)).1) s.regs u := by
  obtain ⟨u, hl, hu⟩ := loadLine_local h hr
  have hzero : (mapTile (u.tileOf d) (lineElems (formCmj r) (lineValues m r i) i)).2 = 0 := by
    refine mapTile_flags_zero _ fun a b v hv => ?_
    rw [lineElems] at hv
    generalize (if formCmj r then a else b) = i0, (if formCmj r then b else a) = j at hv
    split_ifs at hv
    obtain ⟨i0, -, rfl⟩ := List.mem_map.1 (List.mem_of_getElem? hv)
    rfl
  obtain ⟨v, hw, hend⟩ := tileEnd_writeTile (x := mapTile (u.tileOf d) (lineElems (formCmj r) (lineValues m r i) i)) hu
    (by rw [hzero]; exact BitVec.and_zero) d
  rw [hzero, flagged_zero, tileTo_tileOf hu] at hend
  refine ⟨v, ?_, hend⟩
  rw [mldStep, hl, Res.andThen, formBn_f32 hr.fmt]
  exact hw

/-- A line of the form is a row of the tile, or a column (R164). -/
theorem tileElem_lineElems (m : Mem) (r : VWord) (i : Nat) (old : List (BitVec 32)) {a b : Nat} (ha : a < 64) (hb : b < 64) :
    tileElem (mapTile old (lineElems (formCmj r) (lineValues m r i) i)).1 (64 * a + b) = let i0 := if formCmj r then a else b
      if (if formCmj r then b else a) = i ∧ i0 < formE r 0 then BitVec.ofNat 32 (m.nat (formAddr r i0 i 0 0).toNat 4) else tileElem old (64 * a + b) := by
  rw [tileElem_mapTile _ _ ha hb, lineElems, lineValues_getElem?]
  generalize (if formCmj r then a else b) = i0
  by_cases hi : (if formCmj r then b else a) = i
  · by_cases h0 : i0 < formE r 0
    · simp only [hi, h0, and_self, if_true, Option.elim_some]
    · simp only [hi, h0, and_false, if_true, if_false, Option.elim_none]
  · simp only [hi, false_and, if_false, Option.elim_none]

/-- Forms that pass their checks have formats that fit, elements, and extents that fit (R165). -/
theorem matrixCheck_none {rs : List VWord} {fmtOk extOk : Bool} (h : matrixCheck rs fmtOk extOk = none) :
    fmtOk = true ∧ (∀ r ∈ rs, formE r 0 ≠ 0) ∧ extOk = true := by
  rw [matrixCheck] at h
  split_ifs at h with hf he hx
  refine ⟨by simpa using hf, fun r hr h0 => he ?_, by simpa using hx⟩
  exact List.any_eq_true.2 ⟨r, hr, by rw [h0]; rfl⟩

/-- The bytes of one element of a line of F32 (R171). -/
def lineBytes (y : List (BitVec 32)) (r : VWord) (i i0 : Nat) : List Byte := leBytes 4 (tileElem y (tileIndex r i0 i)).toNat

theorem foldl_concat_pairs {α β : Type} (g : α → β) (l : List α) (xs : List β) :
    l.foldl (fun (acc : List β × Flags) a => (acc.1 ++ [g a], acc.2 ||| 0)) (xs, 0) = (xs ++ l.map g, 0) := by
  induction l generalizing xs with
  | nil => rw [List.map_nil, List.append_nil, List.foldl_nil]
  | cons a l ih =>
    have hor : (0 : Flags) ||| 0 = 0 := BitVec.or_zero
    rw [List.foldl_cons, List.map_cons]
    dsimp only
    rw [hor, ih, List.append_assoc, List.singleton_append]

/-- MST of F32 stores the elements of the line as they are, in order (R171). -/
theorem lineStores_f32 (h : formFmt r = 0x12) (y : List (BitVec 32)) (rm i : Nat) :
    lineStores r y rm i = ((List.range (formE r 0)).map fun i0 => (formLsp r, formAddr r i0 i 0 0, lineBytes y r i i0), 0) := by
  rw [lineStores, formBn_f32 h, if_neg Bool.false_ne_true]
  simp only [h, formSize_f32 h, Nat.reduceEqDiff, if_false]
  exact (foldl_concat_pairs _ _ []).trans (by rw [List.nil_append]; rfl)

/-- A local store after a line of F32 has been stored. -/
def storedLine (m : Mem) (y : List (BitVec 32)) (r : VWord) (i : Nat) : Mem :=
  putBytes m (List.range (formE r 0)) (fun i0 => (formAddr r i0 i 0 0).toNat) (lineBytes y r i)

/-- A step of MST writes its line (R171). -/
theorem mstStep_ends (h : TileTo s c k m 128 t) (hr : LineLocal r i) (he : formE r 0 ≤ 64) (n : BitVec 2) (rm : Nat) :
    ∃ u, mstStep n r rm i t = .ok ((), u) ∧ TileEnd s c k (storedLine m ((s.core c).tile n) r i) (s.core c).tiles s.regs u := by
  have hlen (i0 : Nat) : (lineBytes (t.tileOf n) r i i0).length = 4 := leBytes_length 4 _
  have h' : TileTo s c k m (0 + 2 * (List.range (formE r 0)).length) t := tileTo_fewer h (by rw [List.length_range]; omega)
  obtain ⟨u, hs, hu⟩ := tileTo_storeAll (lsp := formLsp r) (bs := lineBytes (t.tileOf n) r i) (addr := fun i0 => formAddr r i0 i 0 0)
    (o := fun i0 => (formAddr r i0 i 0 0).toNat) h' (fun i0 hi0 => by rw [hlen]; exact liesAt_line c k hr (List.mem_range.1 hi0))
    (fun i0 _ => by rw [hlen]; exact linesOf_word_le _)
  refine ⟨u, ?_, ?_⟩
  · rw [mstStep, lineStores_f32 hr.fmt]
    exact hs
  · rw [← tileTo_tileOf h]
    exact tileEnd_of_tileTo hu

/-- The bytes outside a stored line are as before. -/
theorem byte_storedLine_out {a : Nat} (h : m.wf = true) (y : List (BitVec 32))
    (ha : ∀ i0, i0 < formE r 0 → a < (formAddr r i0 i 0 0).toNat ∨ (formAddr r i0 i 0 0).toNat + 4 ≤ a) : (storedLine m y r i).byte a = m.byte a :=
  byte_putBytes_out h fun i0 hi0 => by rw [lineBytes, leBytes_length]; exact ha i0 (List.mem_range.1 hi0)

/-- The last element of a line is written last. -/
theorem storedLine_last (h : m.wf = true) (h0 : formE r 0 ≠ 0) (y : List (BitVec 32)) :
    (storedLine m y r i).nat (formAddr r (formE r 0 - 1) i 0 0).toNat 4 = (tileElem y (tileIndex r (formE r 0 - 1) i)).toNat := by
  obtain ⟨e, he⟩ := Nat.exists_eq_succ_of_ne_zero h0
  rw [storedLine, he, Nat.succ_sub_one, List.range_succ, putBytes_concat]
  exact nat_setNat _ _ 4 _ (wf_putBytes h _ _ _) (BitVec.isLt _)

end lines

section blocks
variable {s t : State} {c : CoreId} {k : SlotId} {m : Mem} {room b i n : Nat} {r x y : VWord}

/-- Where word p of a block record lies, and the word of its scale (R52, R131, R167). -/
def wordAddr (r : VWord) (b i p : Nat) : Int := formAddr r b i 0 0 + 4 * p
def scaleAddr (r : VWord) (b i : Nat) : Int := formScale r + 4 * formOff r b i 0 0

/-- A form of BN whose block b lies in the local store with its scale, in every line (R163). -/
structure BlocksLocal (r : VWord) (b : Nat) : Prop where
  lsp : formLsp r = true
  sls : formSls r = true
  scale : ∀ i, i < formE r 1 → 0 ≤ scaleAddr r b i ∧ scaleAddr r b i + 4 ≤ 0x80000
  word : ∀ i, i < formE r 1 → ∀ p, p < formPr r → 0 ≤ wordAddr r b i p ∧ wordAddr r b i p + 4 ≤ 0x80000

/-- The words and the scale of a block, as the bytes of the local store give them (R52, R54). -/
def blockWords (m : Mem) (r : VWord) (b i p : Nat) : Nat := if p < formPr r then m.nat (wordAddr r b i p).toNat 4 else 0
def blockScale (m : Mem) (r : VWord) (b i : Nat) : Scale := scaleOf (m.nat (scaleAddr r b i).toNat 4)

theorem getD_blockWords (m : Mem) (r : VWord) (b i p : Nat) :
    ((List.range (formPr r)).map fun p => m.nat (wordAddr r b i p).toNat 4).getD p 0 = blockWords m r b i p := by
  rw [blockWords, List.getD_eq_getElem?_getD, List.getElem?_map]
  split_ifs with hp
  · rw [List.getElem?_range hp]
    rfl
  · rw [List.getElem?_eq_none (by rw [List.length_range]; omega)]
    rfl

/-- A block is read with its scale (R52, R167). -/
theorem readBlock_local (h : TileTo s c k m room t) (hr : BlocksLocal r b) (hi : i < formE r 1) :
    ∃ u, t.readBlock r b i = .ok ((blockWords m r b i, blockScale m r b i), u) ∧ TileTo s c k m room u := by
  obtain ⟨u, hws, hu⟩ : ∃ u, foldRes (List.range (formPr r)) [] (fun acc p s => (s.elemLoc (formLsp r) (wordAddr r b i p) 4 .read).andThen fun w s =>
      (s.readElem w 4).andThen fun bs s => .ok (acc ++ [leNat bs], s)) t
      = .ok ((List.range (formPr r)).map fun p => m.nat (wordAddr r b i p).toNat 4, u) ∧ TileTo s c k m room u := by
    refine foldRes_collects (fun p hp acc t ht => ?_) h
    obtain ⟨h0, h1⟩ := hr.word i hi p (List.mem_range.1 hp)
    obtain ⟨u, hu, hg⟩ := tileTo_reads ht (liesAt_form c k h0 h1)
    exact ⟨u, by rw [hr.lsp]; exact hg fun bs s => .ok (acc ++ [leNat bs], s), hu⟩
  obtain ⟨h0, h1⟩ := hr.scale i hi
  obtain ⟨v, hv, hg⟩ := tileTo_reads hu (liesAt_form c k h0 h1)
  refine ⟨v, ?_, hv⟩
  unfold wordAddr at hws
  unfold State.readBlock
  dsimp only
  rw [hws, Res.andThen, hr.sls]
  refine (hg _).trans ?_
  rw [← funext (getD_blockWords m r b i)]
  rfl

/-- The values of block b of a line, n of them, with the scale. -/
def lineBlock (m : Mem) (r : VWord) (b n i : Nat) : List Int × Scale := (blockValues r (blockWords m r b i) n, blockScale m r b i)

/-- Block b of every line is read (R167). -/
theorem readBlocks_local (h : TileTo s c k m room t) (hr : BlocksLocal r b) (n : Nat) :
    ∃ u, t.readBlocks r b n = .ok ((List.range (formE r 1)).map (lineBlock m r b n), u) ∧ TileTo s c k m room u := by
  refine foldRes_collects (fun i hi acc t ht => ?_) h
  obtain ⟨u, hb, hu⟩ := readBlock_local ht hr (List.mem_range.1 hi)
  exact ⟨u, by rw [hb]; rfl, hu⟩

/-- What blocks of lines give the elements of a tile: that of line i of one form with that of line j of the other (R167, R168). -/
def blockElems (old : List (BitVec 32)) (xs ys : List (List Int × Scale)) (i j : Nat) : Option (Nat × Flags) :=
  match xs[i]?, ys[j]? with
  | some x, some y => blockStep (tileElem old (64 * i + j)).toNat x y
  | _, _ => none

theorem blockElems_map_range (old : List (BitVec 32)) (f g : Nat → List Int × Scale) (p q i j : Nat) :
    blockElems old ((List.range p).map f) ((List.range q).map g) i j
      = if i < p ∧ j < q then blockStep (tileElem old (64 * i + j)).toNat (f i) (g j) else none := by
  rw [blockElems, List.getElem?_map, List.getElem?_map]
  by_cases hi : i < p
  · rw [List.getElem?_range hi]
    by_cases hj : j < q
    · rw [List.getElem?_range hj, if_pos ⟨hi, hj⟩]
      rfl
    · rw [List.getElem?_eq_none (l := List.range q) (by rw [List.length_range]; omega), if_neg fun h => hj h.2]
      rfl
  · rw [List.getElem?_eq_none (l := List.range p) (by rw [List.length_range]; omega), if_neg fun h => hi h.1]
    rfl

/-- A tile after step b of MMA, with the flags of all its elements (R167, R168). -/
def mmaTile (m : Mem) (x y : VWord) (b : Nat) (old : List (BitVec 32)) : List (BitVec 32) × Flags :=
  let n := min 32 (formE x 0 - 32 * b)
  mapTile old (blockElems old ((List.range (formE x 1)).map (lineBlock m x b n)) ((List.range (formE y 1)).map (lineBlock m y b n)))

/-- A step of MMA accumulates a block of every pair of lines (R167, R168). -/
theorem mmaStep_ends (h : TileTo s c k m room t) (hx : BlocksLocal x b) (hy : BlocksLocal y b) (hq : s.regs.fpsr.extractLsb' 8 5 = 0) (d : BitVec 2) :
    let z := mmaTile m x y b ((s.core c).tile d)
    ∃ u, mmaStep d x y b t = .ok ((), u) ∧ TileEnd s c k m ((s.core c).tilesWith d z.1) (s.regs.flagged z.2) u := by
  intro z
  obtain ⟨u, hxs, hu⟩ := readBlocks_local h hx (min 32 (formE x 0 - 32 * b))
  obtain ⟨v, hys, hv⟩ := readBlocks_local hu hy (min 32 (formE x 0 - 32 * b))
  obtain ⟨w, hw, hend⟩ := tileEnd_writeTile (x := z) hv (by rw [hq]; exact BitVec.zero_and) d
  refine ⟨w, ?_, hend⟩
  rw [mmaStep, hxs, Res.andThen, hys, Res.andThen, tileTo_tileOf hv]
  exact hw

theorem tileElem_mmaTile (m : Mem) (x y : VWord) (b : Nat) (old : List (BitVec 32)) {i j : Nat} (hi : i < 64) (hj : j < 64) :
    let n := min 32 (formE x 0 - 32 * b)
    tileElem (mmaTile m x y b old).1 (64 * i + j) = if i < formE x 1 ∧ j < formE y 1 then
      (blockStep (tileElem old (64 * i + j)).toNat (lineBlock m x b n i) (lineBlock m y b n j)).elim (tileElem old (64 * i + j)) fun v => BitVec.ofNat 32 v.1
    else tileElem old (64 * i + j) := by
  intro n
  rw [mmaTile, tileElem_mapTile _ _ hi hj, blockElems_map_range]
  split_ifs <;> rfl

end blocks

section scaling
variable {f : Fields} {s t : State} {c : CoreId} {k : SlotId} {m : Mem} {room : Nat} {n d : BitVec 2} {q : BitVec 5}

/-- What scaling by the factors fs gives the elements of a tile: by row, or by column (R174). -/
def scaleElems (f : Fields) (fs : List Nat) (old : List (BitVec 32)) (i j : Nat) : Option (Nat × Flags) :=
  some (fpMul f32 (f.mod.toNat / 4) (tileElem old (64 * i + j)).toNat (fs.getD (if f.mod.toNat % 4 = 2 then j else i) 0))

/-- A tile multiplied by a scalar, with the flags of all its elements (R174). -/
def scaledTile (f : Fields) (x : Word) (old : List (BitVec 32)) : List (BitVec 32) × Flags :=
  mapTile old (scaleElems f (List.replicate 64 (x.toNat % 2 ^ 32)) old)

theorem tileElem_scaledTile (f : Fields) (x : Word) (old : List (BitVec 32)) {i j : Nat} (hi : i < 64) (hj : j < 64) :
    tileElem (scaledTile f x old).1 (64 * i + j)
      = BitVec.ofNat 32 (fpMul f32 (f.mod.toNat / 4) (tileElem old (64 * i + j)).toNat (x.toNat % 2 ^ 32)).1 := by
  have hlt : (if f.mod.toNat % 4 = 2 then j else i) < 64 := by split_ifs <;> assumption
  rw [scaledTile, tileElem_mapTile _ _ hi hj, scaleElems, Option.elim_some, List.getD_replicate _ hlt]

/-- MSCL by a scalar multiplies a tile by it (R174). -/
theorem msclRun_ends (h : TileTo s c k m room t) (hd : f.dst = .tile d) (hn : f.src1 = .tile n) (hs : f.src2 = .g q)
    (hq : s.regs.fpsr.extractLsb' 8 5 = 0) : let z := scaledTile f (s.src f.src2) ((s.core c).tile n)
      ∃ u, msclRun f t = .ok ((), u) ∧ TileEnd s c k m ((s.core c).tilesWith d z.1) (s.regs.flagged z.2) u := by
  intro z
  obtain ⟨u, htn, hu⟩ := tileTo_touchTile h n false
  obtain ⟨v, htd, hv⟩ := tileTo_touchTile hu d true
  have hsrc : v.src f.src2 = s.src f.src2 := by
    rw [hs]
    simp only [State.src, State.getG, hv.regs]
  have hf : v.factors f = .ok (List.replicate 64 ((s.src f.src2).toNat % 2 ^ 32), v) := by
    rw [State.factors, ← hsrc, hs]
  obtain ⟨w, hw, hend⟩ := tileEnd_writeTile (x := z) hv (by rw [hq]; exact BitVec.zero_and) d
  refine ⟨w, ?_, hend⟩
  rw [msclRun, hn, hd, tNum, htn, Res.andThen, tNum, htd, Res.andThen, hf, Res.andThen, tileTo_tileOf hv]
  exact hw

end scaling

end Sys2Proof.Machine
end

section
/-! The matrix unit's instructions (06_matrix_and_absolute.md R159 to R174): O44. -/

namespace Sys2Proof.Machine

section outcomes
variable {i : Instr} {f : Fields} {s : State} {c : CoreId} {k : SlotId} {n d : BitVec 2} {v : BitVec 32} {r : Regs} {w : Nat} {y : List (BitVec 32)}
  {el : Nat → Nat → BitVec 32} {m : Mem}

/-- An element of a tile of a core, by row and column (R17). -/
def Core.elem (x : Core) (n : BitVec 2) (a b : Nat) : BitVec 32 := tileElem (x.tile n) (64 * a + b)

/-- The instruction leaves the elements el in tile n, v in its MPROG and the registers r, and memory, the local store and the other tiles as they were. -/
def TileDone (i : Instr) (s : State) (c : CoreId) (k : SlotId) (n : BitVec 2) (v : BitVec 32) (r : Regs) (el : Nat → Nat → BitVec 32) : Prop :=
  ∃ u, exec i s = .next u ∧ u.mem = s.mem ∧ (u.core c).ls = (s.core c).ls ∧ (u.core c).mprogOf n = v ∧ (u.slot c k).regs = r
    ∧ (∀ m, m ≠ n → (u.core c).tile m = (s.core c).tile m) ∧ ∀ a b, a < 64 → b < 64 → (u.core c).elem n a b = el a b

theorem tileDone_of_leaves (h : TileLeaves i s c k n (s.core c).ls ((s.core c).tilesWith n y) v r)
    (hy : ∀ a b, a < 64 → b < 64 → tileElem y (64 * a + b) = el a b) : TileDone i s c k n v r el := by
  obtain ⟨u, he, hm, hls, hts, hv, hr⟩ := h
  refine ⟨u, he, hm, hls, hv, hr, fun m hmn => ?_, fun a b ha hb => ?_⟩
  · rw [Core.tile, hts, Core.tilesWith, get_set_ne _ hmn]
    rfl
  · rw [Core.elem, Core.tile, hts, Core.tilesWith, get_set_same, tileElem_mkTile, hy a b ha hb]

theorem tileDone_congr {el' : Nat → Nat → BitVec 32} (h : TileDone i s c k n v r el) (he : ∀ a b, el a b = el' a b) : TileDone i s c k n v r el' := by
  rwa [← funext fun a => funext (he a)]

/-- The instruction leaves v in the MPROG of tile n and the registers r, memory and the tiles as they were, a word in the local store, and every byte there outside the words at the places. -/
def TileStored (i : Instr) (s : State) (c : CoreId) (k : SlotId) (n : BitVec 2) (v : BitVec 32) (r : Regs) (places : List Nat) (last : Nat × BitVec 32) : Prop :=
  ∃ u, exec i s = .next u ∧ u.mem = s.mem ∧ (u.core c).tiles = (s.core c).tiles ∧ (u.core c).mprogOf n = v ∧ (u.slot c k).regs = r
    ∧ (u.core c).ls.nat last.1 4 = last.2.toNat ∧ ∀ a, (∀ p ∈ places, a < p ∨ p + 4 ≤ a) → (u.core c).ls.byte a = (s.core c).ls.byte a

theorem tileStored_of_leaves {places : List Nat} {last : Nat × BitVec 32} (h : TileLeaves i s c k n m (s.core c).tiles v r)
    (hlast : m.nat last.1 4 = last.2.toNat) (hout : ∀ a, (∀ p ∈ places, a < p ∨ p + 4 ≤ a) → m.byte a = (s.core c).ls.byte a) :
    TileStored i s c k n v r places last := by
  obtain ⟨u, he, hm, hls, hts, hv, hr⟩ := h
  rw [← hls] at hlast hout
  exact ⟨u, he, hm, hts, hv, hr, hlast, hout⟩

end outcomes

section unhindered
variable {f : Fields} {s : State} {c : CoreId} {k : SlotId} {n d : BitVec 2} {r x y : VWord} {w : Nat}

/-- MZERO clears its tile (R166). -/
theorem mzero_done (h : s.calm c k 128) (hd : f.dst = .tile d) (hi : Issues (.mzero f) f 1 s c k) (hb : ¬ TileBusy s c k d) :
    TileDone (.mzero f) s c k d 0 s.regs.advance fun _ _ => 0 := by
  obtain ⟨t, ht, h1⟩ := tileTo_touchTile (tileTo_of_calm h) d true
  have hend := tileEnd_setTile (tileEnd_of_tileTo h1) d []
  obtain ⟨-, hgo⟩ := mzero_clears (s1 := t) hd hi
  have hg := hgo hb ht (h1.cur.trans h.cur.symm)
  rw [h1.regs] at hg
  exact tileDone_of_leaves (tileLeaves_of_setMprog hend hg) fun _ _ _ _ => rfl

/-- MMOV between tiles copies or turns one into the other (R173). -/
theorem mmov_copies_done (h : s.calm c k 128) (hd : f.dst = .tile d) (hn : f.src1 = .tile n) (hi : Issues (.mmov f) f 1 s c k) (hb : ¬ TileBusy s c k d)
    (hp : progBusy ((s.core c).mprogOf d) = false) :
    TileDone (.mmov f) s c k d 0 s.regs.advance fun i j => if f.mod.getLsbD 0 then (s.core c).elem n j i else (s.core c).elem n i j := by
  have ht : s.tileStep c d (opcOf (.mmov f)) = 0 := by
    rw [State.tileStep, hp]
    rfl
  have hl := tileLeaves_of_steps (fun _ _ => mmov_copies hd hn hi) h.cur hb (by rw [ht]; exact Nat.one_pos) (takeWatches_none (tileTo_of_calm h))
    fun t hto => tileCopy_ends hto d n (f.mod.getLsbD 0) _
  rw [ht] at hl
  exact tileDone_of_leaves hl fun a b ha hb => tileElem_copiedTile _ _ ha hb

/-- MMOV of an image in the window puts a row of it into the tile (R173). -/
theorem mmov_loads_done {a : BitVec 3} {m : AddrMode} {o : BitVec 16} (h : s.calm c k 128) (hd : f.dst = .tile d) (hm : f.src1 = .mem a m o)
    (hv : ImageAt (s.addrOf f.src1 16384) w) (hi : Issues (.mmov f) f 1 s c k) (hb : ¬ TileBusy s c k d) :
    let t := s.tileStep c d 0xB4
    t < 64 → TileDone (.mmov f) s c k d (nextProg t 64 0xB4 k) (if t + 1 < 64 then s.regs else (s.regs.updated f.src1 16384).advance)
      fun i j => if i = t then BitVec.ofNat 32 ((s.core c).ls.nat (w + 256 * i + 4 * j) 4) else (s.core c).elem d i j := by
  intro t ht
  have hl := tileLeaves_of_steps (fun _ _ => mmov_loads hd hm hi) h.cur hb ht
    (by rw [imageRegion_window hv]; exact takeWatches_none (tileTo_of_calm h)) fun u hu => imageLoad_ends hu hv ht d
  exact tileDone_of_leaves hl fun a b ha hb => tileElem_rowElems _ _ _ _ ha hb

/-- MMOV to an image in the window stores a row of the tile (R173). -/
theorem mmov_stores_done {a : BitVec 3} {m : AddrMode} {o : BitVec 16} (h : s.calm c k 128) (hm : f.dst = .mem a m o) (hn : f.src1 = .tile n)
    (hv : ImageAt (s.addrOf f.dst 16384) w) (hi : Issues (.mmov f) f 1 s c k) (hb : ¬ TileBusy s c k n) :
    let t := s.tileStep c n 0xB4
    t < 64 → TileStored (.mmov f) s c k n (nextProg t 64 0xB4 k) (if t + 1 < 64 then s.regs else (s.regs.updated f.dst 16384).advance)
      ((List.range 64).map fun j => w + 256 * t + 4 * j) (w + 256 * t + 4 * 63, (s.core c).elem n t 63) := by
  intro t ht
  have hl := tileLeaves_of_steps (fun _ _ => mmov_stores hm hn hi) h.cur hb ht (takeWatches_none (tileTo_of_calm h))
    fun u hu => imageStore_ends (tileTo_fewer hu (by decide)) hv ht n
  refine tileStored_of_leaves hl (storedRow_last h.wf _ w t) fun a ha => byte_storedRow_out h.wf _ fun j hj => ?_
  exact ha _ (List.mem_map_of_mem (List.mem_range.2 hj))

/-- MLD of a form of F32 in the local store puts a line of it into the tile (R164, R170). -/
theorem mld_done (h : s.calm c k 128) (hd : f.dst = .tile d) (hi : Issues (.mld f) f 1 s c k) (hf : s.formsOf [f.src1] = .ok ([r], s))
    (hm : matrixCheck [r] (tileFmt r) (tileExt r) = none) (hb : ¬ TileBusy s c k d) :
    let t := s.tileStep c d 0xB2
    t < formE r 1 → LineLocal r t → TileDone (.mld f) s c k d (nextProg t (formE r 1) 0xB2 k) (if t + 1 < formE r 1 then s.regs else s.regs.advance)
      fun i j => let i0 := if formCmj r then i else j
        if (if formCmj r then j else i) = t ∧ i0 < formE r 0 then BitVec.ofNat 32 ((s.core c).ls.nat (formAddr r i0 t 0 0).toNat 4) else (s.core c).elem d i j := by
  intro t ht hr
  have hregions : matrixRegions r = [] := matrixRegions_local hr.lsp fun hbn => absurd hbn (by rw [formBn_f32 hr.fmt]; exact Bool.false_ne_true)
  have hl := tileLeaves_of_steps (fun _ _ => checked_passed (mld_checked hd hi hf) (.inr hm)) h.cur hb ht
    (by rw [hregions]; exact takeWatches_none (tileTo_of_calm h)) fun u hu => mldStep_ends hu hr d
  exact tileDone_of_leaves hl fun a b ha hb => tileElem_lineElems _ _ _ _ ha hb

/-- MST to a form of F32 in the local store writes a line of it (R164, R171). -/
theorem mst_done (h : s.calm c k 128) (hn : f.src1 = .tile n) (hi : Issues (.mst f) f 1 s c k) (hf : s.formsOf [f.dst] = .ok ([r], s))
    (hz : f.mod.toNat / 4 = 0) (hm : matrixCheck [r] (tileFmt r) (tileExt r) = none) (hb : ¬ TileBusy s c k n) :
    let t := s.tileStep c n 0xB3
    let last := formE r 0 - 1
    t < formE r 1 → LineLocal r t → TileStored (.mst f) s c k n (nextProg t (formE r 1) 0xB3 k) (if t + 1 < formE r 1 then s.regs else s.regs.advance)
      ((List.range (formE r 0)).map fun i0 => (formAddr r i0 t 0 0).toNat)
      ((formAddr r last t 0 0).toNat, if formCmj r then (s.core c).elem n last t else (s.core c).elem n t last) := by
  intro t last ht hr
  obtain ⟨-, hne, hext⟩ := matrixCheck_none hm
  have hmod : (tileFmt r && (f.mod.toNat / 4 == 0 || formFmt r == 0x10 || formFmt r == 0x11)) = tileFmt r := by rw [hz]; exact Bool.and_true _
  have he : formE r 0 ≤ 64 := by
    simp only [tileExt, Bool.and_eq_true, decide_eq_true_eq] at hext
    obtain ⟨⟨he, -⟩, -⟩ := hext
    exact he
  have hplace : tileElem ((s.core c).tile n) (tileIndex r last t) = if formCmj r then (s.core c).elem n last t else (s.core c).elem n t last := by
    rw [tileIndex, formBn_f32 hr.fmt, Bool.not_false, Bool.true_and]
    split_ifs <;> rfl
  have hl := tileLeaves_of_steps (fun _ _ => checked_passed (mst_checked hn hi hf) (.inr (by rw [hmod, hm]))) h.cur hb ht (takeWatches_none (tileTo_of_calm h))
    fun u hu => mstStep_ends hu hr he n _
  refine tileStored_of_leaves hl ?_ fun a ha => byte_storedLine_out h.wf _ fun i0 h0 => ?_
  · rw [← hplace]
    exact storedLine_last h.wf (hne r List.mem_cons_self) _
  · exact ha _ (List.mem_map_of_mem (List.mem_range.2 h0))

/-- MSCL by a scalar, with no flag enabled (R174). -/
theorem mscl_done {q : BitVec 5} (h : s.calm c k 128) (hd : f.dst = .tile d) (hn : f.src1 = .tile n) (hs : f.src2 = .g q) (hi : Issues (.mscl f) f 1 s c k)
    (hb : ¬ TileBusy s c k d) (hq : s.regs.fpsr.extractLsb' 8 5 = 0) :
    ∃ fl, TileDone (.mscl f) s c k d ((s.core c).mprogOf d) (s.regs.flagged fl).advance fun i j =>
      BitVec.ofNat 32 (fpMul f32 (f.mod.toNat / 4) ((s.core c).elem n i j).toNat ((s.src f.src2).toNat % 2 ^ 32)).1 := by
  have hf : s.formsOf [f.src2] = .ok ([], s) := by
    rw [hs]
    rfl
  obtain ⟨s1, hw, h1⟩ := takeWatches_none (tileTo_of_calm h)
  obtain ⟨s2, hr, h2⟩ := msclRun_ends h1 hd hn hs hq
  obtain ⟨-, hgo⟩ := checked_passed (mscl_checked hd hi hf) (.inr rfl)
  have hg := hgo hb hw hr (h2.cur.trans h.cur.symm)
  rw [h2.regs] at hg
  exact ⟨_, tileDone_of_leaves (tileLeaves_of_tileEnd h2 hg) fun a b ha hb => tileElem_scaledTile _ _ _ ha hb⟩

/-- MMA of forms whose blocks and scales lie in the local store, with no flag enabled (R167, R168). -/
theorem mma_done (h : s.calm c k 128) (hd : f.dst = .tile d) (hi : Issues (.mma f) f 1 s c k) (hf : s.formsOf [f.src1, f.src2] = .ok ([x, y], s))
    (hm : matrixCheck [x, y] (formBn x && formBn y) (mmaExt [x, y]) = none) (hb : ¬ TileBusy s c k d) (hq : s.regs.fpsr.extractLsb' 8 5 = 0) :
    let t := s.tileStep c d 0xB1
    let total := (formE x 0 + 31) / 32
    let n := min 32 (formE x 0 - 32 * t)
    t < total → BlocksLocal x t → BlocksLocal y t →
      ∃ fl, TileDone (.mma f) s c k d (nextProg t total 0xB1 k) (if t + 1 < total then s.regs.flagged fl else (s.regs.flagged fl).advance) fun i j =>
        if i < formE x 1 ∧ j < formE y 1 then
          (blockStep ((s.core c).elem d i j).toNat (lineBlock (s.core c).ls x t n i) (lineBlock (s.core c).ls y t n j)).elim ((s.core c).elem d i j)
            fun v => BitVec.ofNat 32 v.1
        else (s.core c).elem d i j := by
  intro t total n ht hx hy
  have hregions : matrixRegions x ++ matrixRegions y = [] := by
    rw [matrixRegions_local hx.lsp fun _ => hx.sls, matrixRegions_local hy.lsp fun _ => hy.sls]
    rfl
  have hl := tileLeaves_of_steps (fun _ _ => checked_passed (mma_checked hd hi hf) (.inr hm)) h.cur hb ht
    (by rw [hregions]; exact takeWatches_none (tileTo_of_calm h)) fun u hu => mmaStep_ends hu hx hy hq d
  exact ⟨_, tileDone_of_leaves hl fun a b ha hb => tileElem_mmaTile _ _ _ _ _ ha hb⟩

end unhindered

/-- Settles O44: each instruction is the checks of its forms and a turn on its tile, read off from its body; in an unhindered chunk every access of a step in the local store goes through, and the step's new elements or bytes are what the instruction leaves. The order of checks, park and step is that of log entries 44, 45, 100 and 104. -/
theorem matrixInstructions : Obligations.MatrixInstructions := by
  intro f s s1 s2 c k checked busy waits steps
  refine ⟨fun d hd h a b hf => mma_checked hd h hf, fun d hd h r hf => mld_checked hd h hf, fun n hn h r hf => mst_checked hn h hf,
    fun d n hd hn h => mmov_copies hd hn h, fun d a m o hd hm h => mmov_loads hd hm h, fun n a m o hm hn h => mmov_stores hm hn h,
    fun d hd h => mzero_clears hd h, fun d hd h rs hf => mscl_checked hd h hf, fun n fn hc hw => ?elements, fun hcalm => ?calm⟩
  case elements =>
    obtain ⟨hmem, hel⟩ := writeTile_elements hc hw
    exact ⟨hmem, fun i j hi hj => (hel i j hi hj).trans (by cases fn i j <;> rfl)⟩
  case calm =>
    intro ls old at_ next inside quiet did stored
    refine ⟨fun d hd h hb => mzero_done hcalm hd h hb, fun d n hd hn h hb hp => mmov_copies_done hcalm hd hn h hb hp,
      fun d a m o w hd hm hv ha hin h hb => mmov_loads_done hcalm hd hm ⟨hv, ha, hin⟩ h hb,
      fun n a m o w hm hn hv ha hin h hb => mmov_stores_done hcalm hm hn ⟨hv, ha, hin⟩ h hb,
      fun d r hd h hf hlsp hfmt hm hb ht hin => mld_done hcalm hd h hf hm hb ht ⟨hlsp, hfmt, hin⟩,
      fun n r hn h hf hlsp hfmt hz hm hb ht hin => mst_done hcalm hn h hf hz hm hb ht ⟨hlsp, hfmt, hin⟩,
      fun d n q hd hn hs h hb hq => mscl_done hcalm hd hn hs h hb hq, fun d a b hd h hf hls hm hb hq => ?mma⟩
    intro t total word scale block ht hin
    have hlocal (r : VWord) (hr : r ∈ [a, b]) : BlocksLocal r t := by
      obtain ⟨hlsp, hsls⟩ := hls r hr
      exact ⟨hlsp, hsls, fun i hi => (hin r hr i hi).1, fun i hi => (hin r hr i hi).2⟩
    obtain ⟨fl, hdone⟩ := mma_done hcalm hd h hf hm hb hq ht (hlocal a (by simp)) (hlocal b (by simp))
    refine ⟨fl, tileDone_congr hdone fun i j => ?_⟩
    change (if _ then (blockStep (old d i j).toNat (block a i) (block b j)).elim _ _ else _) = _
    cases blockStep (old d i j).toNat (block a i) (block b j) <;> rfl

end Sys2Proof.Machine
end

section
/-! BARSET, BARARR and BARWAIT (08_cores_launches_scheduling.md R202 to R206): O31. -/

namespace Sys2Proof.Machine

section bars
variable (s : State) (c : CoreId) (b : BitVec 3) (v : Barrier)

@[simp] theorem bar_setBar_same : (s.setBar c b v).bar c b = v := by
  rw [State.bar, State.setBar, core_setCore_same]
  exact Vector.getElem_set_self b.isLt

theorem bar_setBar_ne {b' : BitVec 3} (h : b' ≠ b) : (s.setBar c b v).bar c b' = s.bar c b' := by
  have hn : b.toNat ≠ b'.toNat := fun e => h (BitVec.eq_of_toNat_eq e.symm)
  rw [State.bar, State.setBar, core_setCore_same]
  exact Vector.getElem_set_ne b.isLt b'.isLt hn

@[simp] theorem slot_setBar (c' : CoreId) (k : SlotId) : (s.setBar c b v).slot c' k = s.slot c' k :=
  (kept_setCore s c ((s.core c).setBar b v) rfl).slot

end bars

section sweep
variable {s t u : State} {c : CoreId} {k : SlotId} {b : BitVec 3}

theorem bar_of_cores (h : t.cores = s.cores) (c : CoreId) (b : BitVec 3) : t.bar c b = s.bar c b := by
  simp only [State.bar, State.core, h]

theorem slot_of_cores (h : t.cores = s.cores) (c : CoreId) (k : SlotId) : t.slot c k = s.slot c k := by
  simp only [State.slot, State.core, h]

/-- What happens to one slot leaves the barriers alone. -/
theorem bar_onlySlot (h : OnlySlot s t c k) (c' : CoreId) (b : BitVec 3) : t.bar c' b = s.bar c' b := by
  have hbar := congrArg (Core.bar · b) (h.cores c')
  exact hbar

/-- The cores are as before, but that barrier b of core c may have been marked as sent. -/
def State.sentOr (s : State) (c : CoreId) (b : BitVec 3) (t : State) : Prop :=
  t.cores = s.cores ∨ t.cores = (s.setBar c b { s.bar c b with sent := true }).cores

/-- A sweep only marks its barrier as sent, where a message leaves (R204). -/
theorem sentOr_sweep (s : State) (c : CoreId) (b : BitVec 3) : s.sentOr c b (s.sweep c b) := by
  have stays : s.sentOr c b s := .inl rfl
  have sends {t : State} (h : t.cores = (s.setBar c b { s.bar c b with sent := true }).cores) : s.sentOr c b t := .inr h
  unfold State.sweep
  split
  · exact stays
  · refine iteInduction (fun _ => stays) fun _ => iteInduction (fun _ => stays) fun _ => iteInduction (fun _ => ?row) fun _ =>
      iteInduction (fun _ => stays) fun _ => iteInduction (fun _ => ?column) fun _ => iteInduction (fun _ => iteInduction (fun _ => ?own) fun _ => ?far) fun _ => ?release
    case far => exact sends rfl
    case row | column => exact sends (postAfter_cores _ _ _)
    case own | release => exact sends (postEvent_cores _ _ _)

theorem slot_sweep (s : State) (c c' : CoreId) (k : SlotId) (b : BitVec 3) : (s.sweep c b).slot c' k = s.slot c' k := by
  rcases sentOr_sweep s c b with h | h
  · exact slot_of_cores h _ _
  · exact (slot_of_cores h _ _).trans (slot_setBar s c b _ c' k)

/-- A sweep changes nothing of the barrier but whether it has sent. -/
theorem bar_sweep (s : State) (c : CoreId) (b : BitVec 3) : (s.sweep c b).bar c b = { s.bar c b with sent := ((s.sweep c b).bar c b).sent } := by
  rcases sentOr_sweep s c b with h | h
  · rw [bar_of_cores h]
  · rw [bar_of_cores h, bar_setBar_same]

theorem bar_sweep_ne (s : State) (c : CoreId) {b b' : BitVec 3} (hb : b' ≠ b) : (s.sweep c b).bar c b' = s.bar c b' := by
  rcases sentOr_sweep s c b with h | h
  · exact bar_of_cores h _ _
  · rw [bar_of_cores h, bar_setBar_ne _ _ _ _ hb]

theorem sweep_cur (s : State) (c : CoreId) (b : BitVec 3) : (s.sweep c b).cur = s.cur := (eased_sweep s c c b).cur

theorem sweep_mem (s : State) (c : CoreId) (b : BitVec 3) : (s.sweep c b).mem = s.mem := (settled_sweep s c b).mem

/-- A barrier that is set while no token is held for it takes none (R204). -/
theorem retakeTokens_none {v : Barrier} (h : ∀ x ∈ (s.core c).tokens, x.b ≠ b) : (s.setBar c b v).retakeTokens c b = s.setBar c b v := by
  have hx : (s.setBar c b v).core c = (s.core c).setBar b v := core_setCore_same s c _
  have hn : (s.core c).tokens.filter (fun t => t.b == b) = [] := List.filter_eq_nil_iff.2 fun x hx => by simp [h x hx]
  have hk : (s.core c).tokens.filter (fun t => t.b != b) = (s.core c).tokens := List.filter_eq_self.2 fun x hx => by simp [h x hx]
  have ht : ((s.core c).setBar b v).tokens = (s.core c).tokens := rfl
  simp only [State.retakeTokens, hx, ht, hn, hk, List.foldl_nil]
  exact setCore_setCore s c _ _

end sweep

section instructions
variable {f : Fields} {s u : State} {c : CoreId} {k : SlotId} {b : BitVec 3} {l : Launch} {g : Byte}

/-- The shape of an operand of BARSET fits the gang of a launch (R203). -/
def Launch.fits (l : Launch) (shape : Word) : Prop :=
  shape.toNat < 64 ∧ 2 ^ (shape.toNat % 8) ≤ 2 ^ descLw l.desc ∧ 2 ^ (shape.toNat / 8 % 8) ≤ 2 ^ descLh l.desc

theorem fits_iff (shape : Word) :
    l.fits shape ↔ ¬ (shape.toNat / 64 ≠ 0 ∨ descW l.desc < 2 ^ fieldNat shape 0 3 ∨ descH l.desc < 2 ^ fieldNat shape 3 3) := by
  have h0 : fieldNat shape 0 3 = shape.toNat % 8 := rfl
  have h3 : fieldNat shape 3 3 = shape.toNat / 8 % 8 := by rw [fieldNat, Nat.shiftRight_eq_div_pow]; rfl
  rw [h0, h3, Launch.fits, descW, descH]
  simp only [not_or, not_lt, ne_eq, not_not]
  exact and_congr_left' (by omega)

/-- A shape that does not fit is an operand out of range (R203). -/
theorem barsetTrap_unfit {shape : Word} (hl : s.launch s.curSeq = some l) (h : ¬ l.fits shape) :
    s.barsetTrap b shape = some (illegal 0x13 1 0) := by
  rw [fits_iff, not_not] at h
  simp only [State.barsetTrap, hl, if_pos h]

/-- A shape that fits is refused while slots have arrived, and outside a gang (R203). -/
theorem barsetTrap_fit {shape : Word} (hl : s.launch s.curSeq = some l) (h : l.fits shape) (hs : s.spans (descCtx l.desc) b = false) :
    s.barsetTrap b shape = if (s.bar s.curCore b).arrv ≠ 0 ∨ ¬ descGang l.desc then some (illegal 0x14 0 0) else none := by
  simp only [State.barsetTrap, hl, if_neg ((fits_iff shape).1 h), hs, Bool.false_eq_true, false_and, if_false]

theorem barset_refused {t : Trap} (hd : f.dst = .bar b) (h : Issues (.barset f) f 1 s c k) (ht : s.barsetTrap b (s.src f.src1) = some t) :
    exec (.barset f) s = .next (s.raise c k t) := by
  refine scalar_trap h (arm_barset f s) ?_
  simp only [hd, barNum, ht]

/-- The barrier with a shape. -/
def Barrier.shaped (v : Barrier) (shape : Word) : Barrier :=
  { v with valid := true, lw := shape.extractLsb' 0 3, lh := shape.extractLsb' 3 3 }

/-- BARSET gives the barrier its shape, and sweeps it; no other barrier changes (R203, R204). -/
theorem barset_sets (hd : f.dst = .bar b) (h : Issues (.barset f) f 1 s c k) (ht : s.barsetTrap b (s.src f.src1) = none)
    (hn : ∀ x ∈ (s.core c).tokens, x.b ≠ b) (hs : s.chunk.solo = false) :
    ∃ u, exec (.barset f) s = .next u ∧ (u.slot c k).regs = s.regs.advance ∧ u.mem = s.mem
      ∧ u.bar c b = { (s.bar c b).shaped (s.src f.src1) with sent := (u.bar c b).sent } ∧ ∀ b', b' ≠ b → u.bar c b' = s.bar c b' := by
  set t := s.setBar c b ((s.bar c b).shaped (s.src f.src1))
  have hc : (t.sweep c b).cur = .slot c k := (sweep_cur t c b).trans h.cur
  have hk : (t.sweep c b).slot c k = s.slot c k := (slot_sweep t c c k b).trans (slot_setBar s c b _ c k)
  have hr : (t.sweep c b).regs = s.regs := by rw [regs_slot _ c k hc, hk, regs_slot s c k h.cur]
  obtain ⟨u, he, hu⟩ : GivesFrom (.barset f) s (t.sweep c b) c k (t.sweep c b).regs.advance := by
    refine givesFrom_done h (arm_barset f s) ?_ hc (regsNow_refl hc)
    simp only [hd, barNum, ht, curCore_slot h.cur]
    rw [← Barrier.shaped, retakeTokens_none hn]
  have hb := bar_onlySlot hu.only c
  refine ⟨u, he, ?_, (onlySlot_mem hu.only).trans (sweep_mem t c b), ?_, fun b' hne => ?_⟩
  · rw [ended_regs hu (by rw [hk, ← chunk_slot s c k h.cur, hs]), hr]
  · rw [hb, bar_sweep, bar_setBar_same]
  · rw [hb, bar_sweep_ne _ _ hne, bar_setBar_ne _ _ _ _ hne]

/-- The registers after BARARR: with a destination, it holds the generation (R205). -/
def Regs.afterArrival (r : Regs) (f : Fields) (g : Byte) : Regs := if f.mod.getLsbD 0 then r.putG (gNum f.dst) (g.setWidth 64) else r

/-- BARARR where the slot may arrive: it alone in its chunk, at a barrier that has been set (R205). -/
theorem bararr_arrives (hb : f.src1 = .bar b) (h : Issues (.bararr f) f 1 s c k) (hv : (s.bar c b).valid = true) (ha : s.isAlone = true)
    (he : s.arriveAt c k b = (g, u)) (hc : u.cur = .slot c k) : GivesFrom (.bararr f) s u c k (u.regs.afterArrival f g).advance := by
  have hslot : s.curSlot = k := by simp [State.curSlot, h.cur]
  have hr : RegsNow u (if f.mod.getLsbD 0 then u.setG (gNum f.dst) (g.setWidth 64) else u) c k (u.regs.afterArrival f g) := by
    unfold Regs.afterArrival
    split_ifs
    · exact regsNow_setG (regsNow_refl hc) hc _ _
    · exact regsNow_refl hc
  refine givesFrom_done h (arm_bararr f s) ?_ hc hr
  simp only [hb, barNum, curCore_slot h.cur, hslot, hv, State.beginsChunk, ha, he, Bool.not_true, Bool.false_eq_true, if_false, if_true]

theorem bararr_refused (hb : f.src1 = .bar b) (h : Issues (.bararr f) f 1 s c k) (hv : (s.bar c b).valid = false) :
    exec (.bararr f) s = .next (s.raise c k (illegal 0x14 0 0)) := by
  refine scalar_trap h (arm_bararr f s) ?_
  simp [hb, barNum, curCore_slot h.cur, hv]

/-- The slot's arrival noted in the slot and in the barrier (R205). -/
def State.arrived (s : State) (c : CoreId) (k : SlotId) (b : BitVec 3) : State :=
  (s.setSlot c k { s.slot c k with barred := some ((s.slot c k).seq, b, (s.bar c b).gen) }).setBar c b
    { s.bar c b with arrv := (s.bar c b).arrv ||| (1#16 <<< k.toNat) }

theorem arriveAt_new (h : (s.slot c k).barred = none) : s.arriveAt c k b = ((s.bar c b).gen, (s.arrived c k b).sweep c b) := by
  simp only [State.arriveAt, h]
  rfl

theorem arriveAt_again (h : (s.slot c k).barred = some ((s.slot c k).seq, b, g)) : s.arriveAt c k b = (g, s) := by
  simp [State.arriveAt, h]

/-- BARARR of a slot that has not arrived sets its bit, and notes the arrival with the generation (R205). -/
theorem bararr_sets (hb : f.src1 = .bar b) (h : Issues (.bararr f) f 1 s c k) (hv : (s.bar c b).valid = true) (ha : s.isAlone = true)
    (hn : (s.slot c k).barred = none) (hs : s.chunk.solo = false) :
    ∃ u, exec (.bararr f) s = .next u ∧ u.mem = s.mem
      ∧ u.bar c b = { s.bar c b with arrv := (s.bar c b).arrv ||| (1#16 <<< k.toNat), sent := (u.bar c b).sent }
      ∧ (u.slot c k).barred = some ((s.slot c k).seq, b, (s.bar c b).gen)
      ∧ (u.slot c k).regs = (s.regs.afterArrival f (s.bar c b).gen).advance := by
  have hc : ((s.arrived c k b).sweep c b).cur = .slot c k := (sweep_cur _ c b).trans h.cur
  have hk : ((s.arrived c k b).sweep c b).slot c k = { s.slot c k with barred := some ((s.slot c k).seq, b, (s.bar c b).gen) } := by
    rw [slot_sweep, State.arrived, slot_setBar, slot_setSlot_same]
  have hr : ((s.arrived c k b).sweep c b).regs = s.regs := by rw [regs_slot _ c k hc, hk, regs_slot s c k h.cur]
  obtain ⟨u, he, hu⟩ := bararr_arrives hb h hv ha (arriveAt_new hn) hc
  refine ⟨u, he, (onlySlot_mem hu.only).trans (sweep_mem _ c b), ?_, by rw [hu.slot, hk], ?_⟩
  · rw [bar_onlySlot hu.only, bar_sweep, State.arrived, bar_setBar_same]
  · rw [ended_regs hu (by rw [hk, ← chunk_slot s c k h.cur, hs]), hr]

/-- The state in which a serialising instruction acts: its chunk is a chunk of its own (R214). -/
def State.asSolo (s : State) : State := s.setChunk { s.chunk with solo := true }

theorem serial_alone (ha : s.isAlone = true) (code : Byte) (body : State → Eff) : s.serial code body = body s.asSolo := if_pos ha

theorem asSolo_slot (hc : s.cur = .slot c k) : s.asSolo.slot c k = { s.slot c k with chunk := { (s.slot c k).chunk with solo := true } } := by
  rw [State.asSolo, setChunk_slot s c k hc, slot_setSlot_same, chunk_slot s c k hc]

theorem asSolo_only (hc : s.cur = .slot c k) : OnlySlot s s.asSolo c k := by
  rw [State.asSolo, setChunk_slot s c k hc]
  exact onlySlot_setSlot s c k _

theorem asSolo_regs (hc : s.cur = .slot c k) : s.asSolo.regs = s.regs := by
  rw [regs_slot _ c k ((onlySlot_cur (asSolo_only hc)).trans hc), asSolo_slot hc, regs_slot s c k hc]

theorem asSolo_src (hc : s.cur = .slot c k) (o : Operand) : s.asSolo.src o = s.src o := by
  cases o <;> simp only [State.src, State.getG, State.getA, asSolo_regs hc]

/-- After a step that ran alone the slot stays parked as it was. -/
theorem park_counted_solo (hs : (s.slot c k).chunk.solo = true) (cb : Bool) : ((s.counted c k cb).slot c k).park = (s.slot c k).park := by
  have hf : ((s.freshChunk c k).slot c k).park = (s.slot c k).park := by rw [State.freshChunk, slot_setSlot_same]
  simp only [State.counted, hs, if_true]
  split_ifs
  · rw [slot_postTurn, hf]
  · exact hf

/-- A serialising instruction that completes leaves its slot parked as it was. -/
theorem park_done_solo {i : Instr} (hc : u.cur = .slot c k) (hs : (u.slot c k).chunk.solo = true) :
    ((concludeSlot c k (opcOf i) i f (.done u)).slot c k).park = (u.slot c k).park := by
  have hx := regsNow_setRegs (regsNow_hint (regsNow_refl hc) hc (opcOf i) f) hc (u.hint (opcOf i) f).regs.advance
  rw [concludeSlot, park_counted_solo (hx.chunk.solo.trans hs), hx.slot]

/-- BARWAIT on a barrier whose generation has passed completes in a chunk of its own (R206). -/
theorem barwait_passes (hb : f.src1 = .bar b) (h : Issues (.barwait f) f 1 s c k) (ha : s.isAlone = true)
    (hg : (s.bar c b).gen ≠ (s.src f.src2).setWidth 8) :
    ∃ u, exec (.barwait f) s = .next u ∧ OnlySlot s u c k ∧ (u.slot c k).regs.butDead s.regs.advance ∧ (u.slot c k).park = (s.slot c k).park := by
  have ho := asSolo_only h.cur
  have hc := (onlySlot_cur ho).trans h.cur
  have hk := asSolo_slot h.cur
  have he := ended_done (i := .barwait f) (f := f) (regsNow_refl hc) hc (opcOf (.barwait f))
  refine ⟨concludeSlot c k (opcOf (.barwait f)) (.barwait f) f (.done s.asSolo), ?_, onlySlot_trans ho he.only, ?_, ?_⟩
  · rw [arm_barwait, execBarwait, scalar, issue_body h, serial_alone ha]
    simp only [hb, barNum, curCore_slot hc, asSolo_src h.cur, bar_onlySlot ho, if_pos hg]
  · rw [he.slot, asSolo_regs h.cur]
    rfl
  · rw [park_done_solo hc (by rw [hk]), hk]

/-- BARWAIT on a barrier in the generation it names parks its slot (R206). -/
theorem barwait_parks (hb : f.src1 = .bar b) (h : Issues (.barwait f) f 1 s c k) (ha : s.isAlone = true)
    (hg : (s.bar c b).gen = (s.src f.src2).setWidth 8) :
    ∃ u, exec (.barwait f) s = .next u ∧ OnlySlot s u c k ∧ (u.slot c k).regs = s.regs
      ∧ (u.slot c k).park = .barwait b ((s.src f.src2).setWidth 8) := by
  have ho := asSolo_only h.cur
  have hc := (onlySlot_cur ho).trans h.cur
  refine ⟨s.asSolo.setSlot c k { s.asSolo.slot c k with park := .barwait b ((s.src f.src2).setWidth 8), chunk := {} }, ?_,
    onlySlot_trans ho (onlySlot_setSlot _ c k _), ?_, ?_⟩
  · have hp (y : State) (z : Slot) (hz : z.park.performs = false) :
        concludeSlot c k (opcOf (.barwait f)) (.barwait f) f (.left (y.setSlot c k z)) = y.setSlot c k z := by
      rw [concludeSlot, slot_setSlot_same, hz]
      rfl
    rw [arm_barwait, execBarwait, scalar, issue_body h, serial_alone ha]
    simp only [hb, barNum, curCore_slot hc, asSolo_src h.cur, bar_onlySlot ho, hg, ne_eq, not_true, if_false, hc]
    rw [hp _ _ rfl]
  · rw [slot_setSlot_same, asSolo_slot h.cur, regs_slot s c k h.cur]
  · rw [slot_setSlot_same]

end instructions

/-- Settles O31: BARSET and BARARR write the barrier, which a sweep then only marks as sent; BARWAIT compares the generation in a chunk of its own. -/
theorem barrierInstructions : Obligations.BarrierInstructions := by
  intro f s c k b l v shape bad fits
  refine ⟨fun hd hl h => ⟨fun hfit hs ha hg hn hsolo => ?set, fun hfit => ?unfit, fun hfit hs hbad => ?refused⟩,
    fun hb h => ⟨fun hv => bararr_refused hb h hv, fun hv ha hnone hsolo => ?arrives, fun g hv ha hsome hm => ?again⟩,
    fun hb h ha => ⟨fun hg => barwait_passes hb h ha hg, fun hg => barwait_parks hb h ha hg⟩⟩
  case unfit => exact barset_refused hd h (barsetTrap_unfit hl hfit)
  case refused =>
    refine barset_refused hd h ((barsetTrap_fit hl hfit hs).trans (if_pos ?_))
    rw [curCore_slot h.cur]
    exact hbad.imp_right fun hg => by simp [hg]
  case set =>
    have hnone : s.barsetTrap b shape = none := by
      refine (barsetTrap_fit hl hfit hs).trans (if_neg ?_)
      rw [curCore_slot h.cur, not_or]
      exact ⟨not_not.2 ha, not_not.2 hg⟩
    obtain ⟨u, he, hr, hm, hb, hne⟩ := barset_sets hd h hnone hn hsolo
    exact ⟨u, he, hr, hm, by rw [hb]; rfl, by rw [hb]; rfl, by rw [hb]; rfl, hne⟩
  case arrives =>
    obtain ⟨u, he, hm, hbar, hbd, hr⟩ := bararr_sets hb h hv ha hnone hsolo
    refine ⟨u, he, hm, by rw [hbar], by rw [hbar], hbd, fun hm => ?_, fun d hd hm => ?_⟩
    · rw [hr, Regs.afterArrival, hm]
      rfl
    · rw [hr, Regs.afterArrival, hm, hd]
      rfl
  case again =>
    have hu := bararr_arrives hb h hv ha (arriveAt_again hsome) h.cur
    rw [Regs.afterArrival, hm] at hu
    exact hu

end Sys2Proof.Machine
end

section
/-! What squashes, deliveries and looks at the command queues reach, and what they leave alone (09_chunks_and_consistency.md R221 to R226, 08_cores_launches_scheduling.md R190, R192): O52, O53. -/

namespace Sys2Proof.Machine

section queues
variable (s : State) (t d : TowerId) (q p : QueueId) (y : Queue)

theorem queueNo_inj (h : queueNo d p = queueNo t q) : d = t ∧ p = q := by
  have hq := q.isLt
  have hp := p.isLt
  unfold queueNo at h
  exact ⟨BitVec.eq_of_toNat_eq (by omega), BitVec.eq_of_toNat_eq (by omega)⟩

theorem queue_setQueue_ne (h : (d, p) ≠ (t, q)) : (s.setQueue t q y).queue d p = s.queue d p := by
  refine tab_look_put_ne _ _ _ _ _ fun e => h ?_
  obtain ⟨rfl, rfl⟩ := queueNo_inj _ _ _ _ e
  rfl

/-- A property of queues that an update of one keeps. -/
theorem queue_setQueue_keeps {α : Type} (g : Queue → α) (h : g y = g (s.queue t q)) : g ((s.setQueue t q y).queue d p) = g (s.queue d p) := by
  by_cases e : (d, p) = (t, q)
  · obtain ⟨rfl, rfl⟩ := Prod.ext_iff.1 e
    rw [queue_setQueue_same, h]
  · rw [queue_setQueue_ne _ _ _ _ _ _ e]

end queues

/-- What stands in a slot's entry, and what the Nose has written to it. -/
def Slot.table (y : Slot) : BitVec 128 × Option (BitVec 128) := (y.entry, y.entryNext)

theorem table_park (y : Slot) (p : Park) : Slot.table { y with park := p } = y.table := rfl

/-- A queue but for EN, for the event that is posted for its record, and for the ring entries that LAUNCH instructions have reserved. -/
def Queue.record (y : Queue) : Queue := { y with en := false, busy := false, reserved := 0 }

theorem record_fields {x y : Queue} (h : x.record = y.record) : x.head = y.head ∧ x.tail = y.tail ∧ x.taking = y.taking ∧ x.lastseq = y.lastseq := by
  simp only [Queue.record, Queue.mk.injEq, true_and, and_true] at h
  obtain ⟨-, -, -, -, -, htail, hhead, hlast, htaking⟩ := h
  exact ⟨hhead, htail, htaking, hlast⟩

/-- The state with other bytes in memory. -/
def State.withMem (s : State) (m : Mem) : State := { s with mem := m }

/-- What a squash or a delivery reaches: the agents and their requests, the caches and the host port. Of a queue it reaches only the reservations, of the slot table nothing. -/
structure Confined (s t : State) : Prop where
  rest : t = { s with
    agenda := t.agenda, tape := t.tape, cores := t.cores, engines := t.engines, requests := t.requests, tokenQ := t.tokenQ, queues := t.queues
    dirty := t.dirty, l1 := t.l1, llc := t.llc, dir := t.dir, poison := t.poison, host := t.host, outputs := t.outputs }
  queue : ∀ d q, (t.queue d q).record = (s.queue d q).record
  table : ∀ c k, (t.slot c k).table = (s.slot c k).table

section confined
variable {s t u : State}

theorem confined_refl (s : State) : Confined s s := ⟨rfl, fun _ _ => rfl, fun _ _ => rfl⟩

theorem confined_trans (h : Confined s t) (h' : Confined t u) : Confined s u :=
  ⟨by rw [h'.rest, h.rest], fun d q => (h'.queue d q).trans (h.queue d q), fun c k => (h'.table c k).trans (h.table c k)⟩

theorem confined_ite {p : Prop} [Decidable p] (h : Confined s t) (h' : Confined s u) : Confined s (if p then t else u) := by
  split_ifs
  · exact h
  · exact h'

theorem confined_foldl {α : Type} {f : State → α → State} (hf : ∀ u a, Confined u (f u a)) (l : List α) (s : State) :
    Confined s (l.foldl f s) := by
  induction l generalizing s with
  | nil => exact confined_refl s
  | cons a l ih => exact confined_trans (hf s a) (ih _)

theorem confined_posts (h : Posts s t) : Confined s t :=
  ⟨by rw [h.rest], fun d q => by rw [h.rest]; rfl, fun c k => by rw [h.rest]; rfl⟩

theorem posts_post (s : State) (p : Pick) : Posts s (s.post p) := by
  unfold State.post State.choose
  cases s.tape <;> exact ⟨rfl⟩

theorem posts_postTurn (s : State) (c : CoreId) (k : SlotId) : Posts s (s.postTurn c k) := posts_ite (posts_refl s) (posts_post s _)
theorem posts_postEturn (s : State) (e : EngineId) : Posts s (s.postEturn e) := posts_ite (posts_refl s) (posts_post s _)

theorem confined_postEvent (s : State) (a : Agent) (i : Instr) : Confined s (s.postEvent a i) := confined_posts (posts_post s _)
theorem confined_postOnce (s : State) (a : Agent) (i : Instr) : Confined s (s.postOnce a i) := confined_posts (posts_postOnce s a i)
theorem confined_withCaches (s u : State) : Confined s (s.withCaches u) := ⟨rfl, fun _ _ => rfl, fun _ _ => rfl⟩
theorem confined_setEngine (s : State) (e : EngineId) (x : Engine) : Confined s (s.setEngine e x) := ⟨rfl, fun _ _ => rfl, fun _ _ => rfl⟩

theorem confined_setQueue (s : State) (d : TowerId) (q : QueueId) {y : Queue} (h : y.record = (s.queue d q).record) :
    Confined s (s.setQueue d q y) :=
  ⟨rfl, fun e p => queue_setQueue_keeps s d e q p y Queue.record h, fun _ _ => rfl⟩

theorem confined_setCore (s : State) (c : CoreId) {x : Core} (h : ∀ k, (x.slot k).table = (s.slot c k).table) : Confined s (s.setCore c x) := by
  refine ⟨rfl, fun _ _ => rfl, fun c' k => ?_⟩
  rw [State.slot, core_setCore]
  split_ifs with hc
  · rw [h, hc]
  · rfl

theorem confined_setSlot (s : State) (c : CoreId) (k : SlotId) {y : Slot} (h : y.table = (s.slot c k).table) : Confined s (s.setSlot c k y) := by
  refine confined_setCore s c fun j => ?_
  by_cases hj : j = k
  · rw [hj, slot_setSlot_core, h]
  · rw [slot_setSlot_core_ne _ _ _ _ hj, State.slot]

/-- A change of the requests, of the queue for the token or of the host port. -/
theorem confined_requests (s : State) (r : List Request) : Confined s { s with requests := r } := ⟨rfl, fun _ _ => rfl, fun _ _ => rfl⟩
theorem confined_tokenQ (s : State) (r : List Request) : Confined s { s with tokenQ := r } := ⟨rfl, fun _ _ => rfl, fun _ _ => rfl⟩
theorem confined_host (s : State) (p : HostPort) : Confined s { s with host := p } := ⟨rfl, fun _ _ => rfl, fun _ _ => rfl⟩

theorem confined_unreserve (s : State) (l : List Deferred) : Confined s (s.unreserve l) := by
  refine confined_foldl (fun u d => ?_) l s
  cases d
  case kick e m => exact confined_setEngine u e _
  case launch t q va => exact confined_setQueue u t q rfl
  all_goals exact confined_refl u

theorem confined_askToken (s : State) (r : Request) : Confined s (s.askToken r) :=
  confined_ite (confined_refl s) (confined_trans (confined_tokenQ s _) (confined_postEvent _ _ _))

theorem confined_squashSlot (s : State) (c : CoreId) (k : SlotId) (whole : Bool) : Confined s (s.squashSlot c k whole) := by
  unfold State.squashSlot
  extract_lets y x effects n eff lost
  split
  rename_i x' chk waiting effects' requests heq
  have hx : x'.slots = (s.core c).slots := by
    have h0 : x.slots = (s.core c).slots := slot_core_undo _ _
    split at heq
    · split_ifs at heq <;> rw [← show _ = x' from congrArg Prod.fst heq]
      · rw [slot_core_undo, h0]
      · exact h0
      · exact h0
    · rw [← show _ = x' from congrArg Prod.fst heq, h0]
  extract_lets y' _ s0 s1 s2 s3
  have h0 : Confined s s0 := by
    refine confined_trans (confined_trans (confined_setCore s c fun j => ?_) (confined_unreserve _ effects'))
      (confined_requests ((s.setCore c (x'.setSlot k y')).unreserve effects') requests)
    by_cases hj : j = k
    · rw [hj, slot_setSlot_core]
      rfl
    · rw [slot_setSlot_core_ne _ _ _ _ hj, Core.slot, hx]
      rfl
  have h1 : Confined s s1 := confined_trans h0 (confined_withCaches _ _)
  have h2 : Confined s s2 := confined_ite (confined_trans h1 (confined_askToken _ _)) h1
  have h3 : Confined s s3 := confined_ite (confined_trans h2 (confined_postEvent _ _ _)) h2
  refine confined_ite (confined_trans h3 (confined_posts (posts_postTurn s3 c k))) (confined_trans h3 ?_)
  exact confined_trans (confined_setSlot s3 c k (table_park (s3.slot c k) .idle)) (confined_postOnce _ _ _)

theorem confined_squashEngine (s : State) (e : EngineId) : Confined s (s.squashEngine e) := by
  unfold State.squashEngine
  extract_lets y n x _ s0 s1 s2
  have h0 : Confined s s0 := confined_trans (confined_setEngine s e x) (confined_requests (s.setEngine e x) _)
  have h1 : Confined s s1 := confined_ite (confined_trans h0 (confined_askToken _ _)) h0
  have h2 : Confined s s2 := confined_ite (confined_trans h1 (confined_postEvent _ _ _)) h1
  exact confined_trans h2 (confined_posts (posts_postEturn s2 e))

theorem confined_squashWhere (s : State) (test : CoreId → Chunk → Bool) (etest : Chunk → Bool) (pass : List Request) :
    Confined s (s.squashWhere test etest pass) := by
  refine confined_trans (confined_foldl (fun u a => confined_ite (confined_refl u) ?_) _ s)
    (confined_foldl (fun u e => confined_ite (confined_refl u) (confined_ite (confined_squashEngine u e) (confined_refl u))) _ _)
  split
  · exact confined_squashSlot _ _ _ _
  · exact confined_refl u

theorem confined_squashReaders (s : State) (c : CoreId) (gs : List Nat) : Confined s (s.squashReaders c gs) :=
  confined_foldl (fun u e => confined_ite (confined_squashEngine u e) (confined_refl u)) _ s

theorem confined_wakeLines (s : State) (lines : List Nat) : Confined s (s.wakeLines lines) := by
  refine confined_foldl (fun u a => ?_) _ s
  have wakes (b : Bool) (i : Instr) : Confined u (if b = true then u.postOnce (.slot a.1 a.2) i else u) :=
    confined_ite (confined_postOnce u _ _) (confined_refl u)
  dsimp only
  split
  · exact wakes _ _
  · exact wakes _ _
  · exact confined_refl u

theorem confined_wakeGranules (s : State) (c : CoreId) (gs : List Nat) : Confined s (s.wakeGranules c gs) := by
  refine confined_foldl (fun u a => ?_) _ s
  have wakes (b : Bool) (i : Instr) : Confined u (if b = true then u.postOnce (.slot c (BitVec.ofNat 4 a.1)) i else u) :=
    confined_ite (confined_postOnce u _ _) (confined_refl u)
  dsimp only
  split
  · exact wakes _ _
  · exact wakes _ _
  · exact confined_refl u

theorem confined_send (s : State) (o : Out) : Confined s (s.send o) := ⟨rfl, fun _ _ => rfl, fun _ _ => rfl⟩

theorem confined_snoopHost (s : State) (lines : List Nat) : Confined s (s.snoopHost lines) := by
  unfold State.snoopHost
  exact confined_trans (confined_host s _) (confined_foldl (fun u n => confined_send u _) _ _)

theorem confined_deliver (s : State) (lines : List Nat) (keep : Option CoreId) (pass : List Request) : Confined s (s.deliver lines keep pass) := by
  refine confined_ite (confined_refl s) ?_
  exact confined_trans (confined_trans (confined_squashWhere s _ _ pass) (confined_withCaches _ _))
    (confined_trans (confined_wakeLines _ lines) (confined_snoopHost _ lines))

/-- A write to a local store from outside squashes and wakes, and changes nothing else but the bytes. -/
theorem confined_lsOutside (s : State) (c : CoreId) (off : Nat) (bs : List Byte) : Confined s (s.lsOutside c off bs) := by
  unfold State.lsOutside
  extract_lets gs s0 x whole s1
  have h0 : Confined s s0 := confined_trans (confined_squashWhere s _ _ _) (confined_squashReaders _ _ _)
  have h1 : Confined s0 s1 := confined_setCore s0 c fun _ => rfl
  exact confined_trans (confined_trans h0 h1) (confined_wakeGranules s1 c gs)

/-- Bytes written to a stack that takes them are committed, and delivered (R229). -/
theorem confined_commitWrite {pa : Nat} (h : (s.stack (stackOf pa)).st ≠ .fenced) (bs : List Byte) (holder : Option CoreId) :
    Confined (s.withMem (s.mem.setBytes pa bs)) (s.commitWrite pa bs holder) := by
  rw [State.commitWrite, if_neg h]
  refine confined_trans ?_ (confined_deliver _ _ _ _)
  exact ⟨rfl, fun _ _ => rfl, fun _ _ => rfl⟩

end confined

/-- What a look at the command queues reaches: the events posted, and of queues EN and whether an event is posted for the record at HEAD. -/
structure Poked (s t : State) : Prop where
  rest : t = { s with agenda := t.agenda, tape := t.tape, queues := t.queues }
  queue : ∀ d q, (t.queue d q).record = (s.queue d q).record
  agenda : ∀ p ∈ s.agenda, p ∈ t.agenda

section poked
variable {s t u : State}

theorem poked_refl (s : State) : Poked s s := ⟨rfl, fun _ _ => rfl, fun _ => id⟩

theorem poked_trans (h : Poked s t) (h' : Poked t u) : Poked s u :=
  ⟨by rw [h'.rest, h.rest], fun d q => (h'.queue d q).trans (h.queue d q), fun p hp => h'.agenda p (h.agenda p hp)⟩

theorem poked_ite {p : Prop} [Decidable p] (h : Poked s t) (h' : Poked s u) : Poked s (if p then t else u) := by
  split_ifs
  · exact h
  · exact h'

theorem poked_foldl {α : Type} {f : State → α → State} (hf : ∀ u a, Poked u (f u a)) (l : List α) (s : State) : Poked s (l.foldl f s) := by
  induction l generalizing s with
  | nil => exact poked_refl s
  | cons a l ih => exact poked_trans (hf s a) (ih _)

theorem poked_posts (h : Posts s t) (ha : ∀ p ∈ s.agenda, p ∈ t.agenda) : Poked s t :=
  ⟨by rw [h.rest], fun d q => by rw [h.rest]; rfl, ha⟩

theorem poked_postEvent (s : State) (a : Agent) (i : Instr) : Poked s (s.postEvent a i) :=
  poked_posts (posts_post s _) fun _ hp => mem_postEvent.2 (.inr hp)

theorem poked_postOnce (s : State) (a : Agent) (i : Instr) : Poked s (s.postOnce a i) :=
  poked_posts (posts_postOnce s a i) fun _ hp => mem_postOnce.2 (.inr hp)

theorem poked_setQueue (s : State) (d : TowerId) (q : QueueId) {y : Queue} (h : y.record = (s.queue d q).record) : Poked s (s.setQueue d q y) :=
  ⟨rfl, fun e p => queue_setQueue_keeps s d e q p y Queue.record h, fun _ => id⟩

theorem poked_stopQueue (s : State) (d : TowerId) (q : QueueId) : Poked s (s.stopQueue d q) := poked_setQueue s d q rfl

theorem poked_queueNext (s : State) (d : TowerId) (q : QueueId) : Poked s (s.queueNext d q) := by
  have looks (i : Instr) : Poked s ((s.setQueue d q { s.queue d q with busy := true }).postEvent (.queue d q) i) :=
    poked_trans (poked_setQueue s d q (y := { s.queue d q with busy := true }) rfl) (poked_postEvent _ _ _)
  unfold State.queueNext
  refine poked_ite (poked_refl s) ?_
  split
  · exact poked_stopQueue s d q
  · exact looks _
  · exact looks _

theorem poked_pokeQueue (s : State) (d : TowerId) (q : QueueId) : Poked s (s.pokeQueue d q) := by
  unfold State.pokeQueue
  refine poked_ite (poked_queueNext s d q) ?_
  split
  · exact poked_stopQueue s d q
  · exact poked_postOnce _ _ _
  · exact poked_postOnce _ _ _

theorem poked_pokeQueues (s : State) : Poked s s.pokeQueues := poked_foldl (fun u _ => poked_pokeQueue u _ _) _ s

end poked

end Sys2Proof.Machine
end

section
/-! The records of a command queue (08_cores_launches_scheduling.md R188 to R192, 14_faults_preemption.md R423): O52. -/

namespace Sys2Proof.Machine

section nose
variable {s t u : State} {d : TowerId} {q : QueueId} {pa : Nat}

/-- A place in local memory to which the Nose has access lies in a stack that its die owns (R190). -/
theorem noseAt_owned {n : CtxId} {va : Word} {w : Bool} (h : s.noseAt d n va w = .at_ (.mem pa)) : (s.stack (stackOf pa)).st = .owned := by
  unfold State.noseAt at h
  split at h
  · cases h
  · cases hx : s.xlateWalk d (s.ctx n).ptroot va (if w then .write else .read) false false with
    | ok p l =>
      rw [hx] at h
      dsimp only at h
      cases hr : s.region p <;> rw [hr] at h <;> dsimp only at h
      case mem p' =>
        cases hs : (s.stack (stackOf p')).st <;> rw [hs] at h <;> cases h
        exact hs
      all_goals cases h
    | _ => rw [hx] at h; cases h

/-- No list without a line is barred by the holder of the token (R225). -/
theorem tokenBars_nil (s : State) : s.tokenBars [] = false := by
  unfold State.tokenBars State.tokenHit
  split
  · unfold Slot.struck
    split <;> rfl
  · rfl
  · rfl

/-- The record at HEAD has ended with the bytes m in memory: HEAD moves on, and the queue is free for the next record (R192). -/
structure RecordEnds (s u : State) (d : TowerId) (q : QueueId) (m : Mem) : Prop where
  mem : u.mem = m
  head : (u.queue d q).head = (s.queue d q).head + 1
  taking : (u.queue d q).taking = none
  tail : (u.queue d q).tail = (s.queue d q).tail
  launches : u.launches = s.launches

theorem recordEnds_next (s : State) (d : TowerId) (q : QueueId) : RecordEnds s (s.nextRecord d q) d q s.mem := by
  have h := poked_queueNext (s.setQueue d q { s.queue d q with head := (s.queue d q).head + 1, busy := false, taking := none }) d q
  have hq := h.queue d q
  rw [queue_setQueue_same] at hq
  obtain ⟨hhead, htail, htaking, -⟩ := record_fields hq
  exact ⟨by rw [State.nextRecord, h.rest]; rfl, hhead, htaking, htail, by rw [State.nextRecord, h.rest]; rfl⟩

theorem stackOf_succ (h : pa % 32 = 0) : stackOf (pa + 1) = stackOf pa := by
  unfold stackOf
  congr 1
  omega

/-- A record in local memory ends with its STATUS at byte 1 (R191). -/
theorem recordEnds_mem (h : (s.stack (stackOf pa)).st = .owned) (ha : pa % 32 = 0) (status : Byte) :
    RecordEnds s (s.endRecord d q (.mem pa) status) d q (s.mem.setBytes (pa + 1) [status]) := by
  have hw : Confined (s.withMem (s.mem.setBytes (pa + 1) [status])) (s.commitWrite (pa + 1) [status] none) :=
    confined_commitWrite (by rw [stackOf_succ ha, h]; decide) _ _
  have he := recordEnds_next (s.commitWrite (pa + 1) [status] none) d q
  obtain ⟨hhead, htail, -, -⟩ := record_fields (hw.queue d q)
  exact ⟨he.mem.trans (by rw [hw.rest]; rfl), he.head.trans (by rw [hhead]; rfl), he.taking, he.tail.trans htail, he.launches.trans (by rw [hw.rest]; rfl)⟩

end nose

section command
variable {s : State} {d : TowerId} {q : QueueId} {pa : Nat} {me : Instr} {body : TowerId → QueueId → Loc → BitVec 256 → State}

/-- The queue may take its next record: it is enabled and holds one, and neither an alarm nor a pre-emption stops it (R190, R423). -/
def State.takes (s : State) (d : TowerId) (q : QueueId) : Prop :=
  (s.queue d q).en = true ∧ (s.queue d q).head ≠ (s.queue d q).tail ∧ s.svc.halted = false ∧ s.ctxStopped (s.queue d q).ctx = false

/-- Where the record at HEAD lies. -/
def State.recordAt (s : State) (d : TowerId) (q : QueueId) (write : Bool) : NoseAt :=
  s.noseAt d (s.queue d q).ctx ((s.queue d q).slotAt (s.queue d q).head) write

/-- The bits of a record in local memory. -/
def State.recordBits (s : State) (pa : Nat) : BitVec 256 := BitVec.ofNat 256 (s.mem.nat pa 32)

theorem takes_iff : s.takes d q ↔ (!(s.queue d q).en || (s.queue d q).head == (s.queue d q).tail || s.svc.halted || s.ctxStopped (s.queue d q).ctx) = false := by
  simp only [State.takes, Bool.or_eq_false_iff, Bool.not_eq_false', beq_eq_false_iff_ne, and_assoc]

/-- The condition under which a command event leaves the queue. -/
theorem idle_iff : (!(s.queue d q).en || !(s.queue d q).busy || (s.queue d q).head == (s.queue d q).tail || s.svc.halted || s.ctxStopped (s.queue d q).ctx) = true
    ↔ ¬ s.takes d q ∨ (s.queue d q).busy = false := by
  rw [takes_iff, Bool.not_eq_false, ← Bool.not_eq_true', ← Bool.or_eq_true]
  cases (s.queue d q).busy <;> simp

theorem not_idle (hg : s.takes d q) (hb : (s.queue d q).busy = true) :
    (!(s.queue d q).en || !(s.queue d q).busy || (s.queue d q).head == (s.queue d q).tail || s.svc.halted || s.ctxStopped (s.queue d q).ctx) = false := by
  rw [← Bool.not_eq_true, idle_iff, hb]
  simp [hg]

theorem cmdOp_idle (hc : s.cur = .queue d q) (h : ¬ s.takes d q ∨ (s.queue d q).busy = false) :
    cmdOp me s body = .next (s.setQueue d q { s.queue d q with busy := false }) := by
  simp only [cmdOp, hc, if_pos (idle_iff.2 h)]

theorem cmdOp_fails (hc : s.cur = .queue d q) (hg : s.takes d q) (hb : (s.queue d q).busy = true) (hl : s.recordAt d q true = .fail) :
    cmdOp me s body = .next (s.stopQueue d q) := by
  rw [State.recordAt] at hl
  simp only [cmdOp, hc, not_idle hg hb, hl, Bool.false_eq_true, if_false]

theorem cmdOp_waits (hc : s.cur = .queue d q) (hg : s.takes d q) (hb : (s.queue d q).busy = true) (hl : s.recordAt d q true = .wait) :
    cmdOp me s body = .next (s.postEvent (.queue d q) me) := by
  rw [State.recordAt] at hl
  simp only [cmdOp, hc, not_idle hg hb, hl, Bool.false_eq_true, if_false]

/-- With a record that can be read and written, the event performs its own operation, or is posted again (R191, R225). -/
theorem cmdOp_found {l : Loc} (hc : s.cur = .queue d q) (hg : s.takes d q) (hb : (s.queue d q).busy = true) (hl : s.recordAt d q true = .at_ l) :
    cmdOp me s body =
      let r : BitVec 256 := BitVec.ofNat 256 (leNat (s.bytesAt l 32))
      let real := cmdEvent (fieldNat r 0 8)
      if real ≠ me then .next (s.postEvent (.queue d q) real)
      else if s.tokenBars (l.lines 32) then .next (s.postEvent (.queue d q) me)
      else .next (body d q l r) := by
  rw [State.recordAt] at hl
  simp only [cmdOp, hc, not_idle hg hb, hl, Bool.false_eq_true, if_false]

/-- The record at HEAD lies in local memory, its operation is the event's own, and nothing bars a write to it. -/
structure Takes (s : State) (d : TowerId) (q : QueueId) (pa : Nat) (me : Instr) : Prop where
  cur : s.cur = .queue d q
  takes : s.takes d q
  busy : (s.queue d q).busy = true
  place : s.recordAt d q true = .at_ (.mem pa)
  aligned : pa % 32 = 0
  operation : cmdEvent (fieldNat (s.recordBits pa) 0 8) = me
  free : s.tokenBars (linesOf pa 32) = false

theorem cmdOp_taken (h : Takes s d q pa me) : cmdOp me s body = .next (body d q (.mem pa) (s.recordBits pa)) := by
  rw [cmdOp_found h.cur h.takes h.busy h.place]
  exact (if_neg (not_not.2 h.operation)).trans (if_neg (by rw [Loc.lines, h.free]; decide))

theorem takes_owned (h : Takes s d q pa me) : (s.stack (stackOf pa)).st = .owned := noseAt_owned h.place

theorem exec_cmd : ∀ i ∈ [Instr.cmdNop, .cmdLaunch, .cmdWait, .cmdSignal, .cmdBadOperation], ∃ body, exec i s = cmdOp i s body := by
  simp only [List.mem_cons, List.not_mem_nil, or_false, forall_eq_or_imp, forall_eq]
  exact ⟨⟨_, arm_cmdNop s⟩, ⟨_, arm_cmdLaunch s⟩, ⟨_, arm_cmdWait s⟩, ⟨_, arm_cmdSignal s⟩, ⟨_, arm_cmdBadOperation s⟩⟩

end command

section operations
variable {s : State} {d : TowerId} {q : QueueId} {pa : Nat}

/-- A launch that has been issued and is not over still stands in the table, not completed (R192). -/
theorem launchOver_iff (n : SeqNo) : s.launchOver n = true ↔ (s.lastSeq - n).toNat < 2 ^ 31 ∧ ∀ l, s.launch n = some l → l.completed = true := by
  unfold State.launchOver seqAtOrBefore
  cases s.launch n <;> simp

theorem queueDrained_iff : s.queueDrained d q = true ↔ ∀ e ∈ s.launches, e.2.completed = true ∨ e.2.t ≠ d ∨ e.2.q ≠ q := by
  simp only [State.queueDrained, List.all_eq_true, Bool.or_eq_true, bne_iff_ne, or_assoc]

/-- WAIT ends with 01 once its launch is over, and waits till then (R192). -/
theorem cmdWait_ends (h : Takes s d q pa .cmdWait) (ho : s.launchOver ((recArg (s.recordBits pa)).extractLsb' 0 32) = true) :
    ∃ u, exec .cmdWait s = .next u ∧ RecordEnds s u d q (s.mem.setBytes (pa + 1) [1]) :=
  ⟨_, by rw [arm_cmdWait, execCmdWait, cmdOp_taken h, if_pos ho], recordEnds_mem (takes_owned h) h.aligned 1⟩

theorem cmdWait_waits (h : Takes s d q pa .cmdWait) (ho : ¬ s.launchOver ((recArg (s.recordBits pa)).extractLsb' 0 32) = true) :
    exec .cmdWait s = .next s := by
  rw [arm_cmdWait, execCmdWait, cmdOp_taken h, if_neg ho]

/-- SIGNAL of an operand that is not aligned ends with 04 (R192). -/
theorem cmdSignal_misaligned (h : Takes s d q pa .cmdSignal) (ha : (recArg (s.recordBits pa)).toNat % 8 ≠ 0) :
    ∃ u, exec .cmdSignal s = .next u ∧ RecordEnds s u d q (s.mem.setBytes (pa + 1) [4]) :=
  ⟨_, by rw [arm_cmdSignal, execCmdSignal, cmdOp_taken h, if_pos ha], recordEnds_mem (takes_owned h) h.aligned 4⟩

/-- SIGNAL waits for the launches of its queue (R192). -/
theorem cmdSignal_waits (h : Takes s d q pa .cmdSignal) (ha : (recArg (s.recordBits pa)).toNat % 8 = 0) (hd : ¬ s.queueDrained d q = true) :
    exec .cmdSignal s = .next s := by
  rw [arm_cmdSignal, execCmdSignal, cmdOp_taken h, if_neg (not_not.2 ha), if_pos (by rw [Bool.not_eq_true] at hd; rw [hd]; rfl)]

section signals
variable (h : Takes s d q pa .cmdSignal) (ha : (recArg (s.recordBits pa)).toNat % 8 = 0) (hd : s.queueDrained d q = true)
include h ha hd

/-- SIGNAL to a place that cannot be written ends with 04 (R190, R192). -/
theorem cmdSignal_fails (hp : s.noseAt d (s.queue d q).ctx (recArg (s.recordBits pa)) true = .fail) :
    ∃ u, exec .cmdSignal s = .next u ∧ RecordEnds s u d q (s.mem.setBytes (pa + 1) [4]) := by
  refine ⟨_, ?_, recordEnds_mem (takes_owned h) h.aligned 4⟩
  rw [arm_cmdSignal, execCmdSignal, cmdOp_taken h]
  simp only [ha, hd, hp, ne_eq, not_true, if_false, Bool.not_true, Bool.false_eq_true]

variable {a : Nat} (hp : s.noseAt d (s.queue d q).ctx (recArg (s.recordBits pa)) true = .at_ (.mem a))
include hp

theorem cmdSignal_barred (hb : s.tokenBars (linesOf a 8) = true) : exec .cmdSignal s = .next (s.postEvent (.queue d q) .cmdSignal) := by
  rw [arm_cmdSignal, execCmdSignal, cmdOp_taken h]
  simp only [ha, hd, hp, Loc.lines, hb, ne_eq, not_true, if_false, if_true, Bool.not_true, Bool.false_eq_true]

/-- SIGNAL writes its value, and ends with 01 (R192). -/
theorem cmdSignal_writes (hb : s.tokenBars (linesOf a 8) = false) : ∃ u, exec .cmdSignal s = .next u
    ∧ RecordEnds s u d q ((s.mem.setBytes a (leBytes 8 ((s.recordBits pa).extractLsb' 128 64).toNat)).setBytes (pa + 1) [1]) := by
  set bs := leBytes 8 ((s.recordBits pa).extractLsb' 128 64).toNat
  have hw : Confined (s.withMem (s.mem.setBytes a bs)) (s.commitWrite a bs none) :=
    confined_commitWrite (by rw [noseAt_owned hp]; decide) _ _
  have hst : ((s.commitWrite a bs none).stack (stackOf pa)).st = .owned := by
    have hstks : (s.commitWrite a bs none).stks = s.stks := by rw [hw.rest]; rfl
    have hown : (s.stack (stackOf pa)).st = .owned := takes_owned h
    rw [State.stack, hstks]
    exact hown
  have he := recordEnds_mem (d := d) (q := q) hst h.aligned 1
  obtain ⟨hhead, htail, -, -⟩ := record_fields (hw.queue d q)
  refine ⟨(s.commitWrite a bs none).endRecord d q (.mem pa) 1, ?_, he.mem.trans (by rw [hw.rest]; rfl), he.head.trans (by rw [hhead]; rfl), he.taking,
    he.tail.trans htail, he.launches.trans (by rw [hw.rest]; rfl)⟩
  rw [arm_cmdSignal, execCmdSignal, cmdOp_taken h]
  simp only [ha, hd, hp, Loc.lines, hb, ne_eq, not_true, if_false, Bool.not_true, Bool.false_eq_true, State.noseWrite, bs]

end signals

section launch
variable (h : Takes s d q pa .cmdLaunch)
include h

/-- A launch that is taken but not bound on every core keeps its record (R192). -/
theorem cmdLaunch_waits {n : SeqNo} {l : Launch} (hn : (s.queue d q).taking = some n) (hl : s.launch n = some l) (hb : l.allBound = false) (hc : l.completed = false) :
    exec .cmdLaunch s = .next s := by
  rw [arm_cmdLaunch, execCmdLaunch, cmdOp_taken h]
  simp only [hn, hl, hb, hc, Bool.or_false, Bool.false_eq_true, if_false]

/-- A launch that is bound, or complete already, gives up its record (R192). -/
theorem cmdLaunch_bound {n : SeqNo} {l : Launch} (hn : (s.queue d q).taking = some n) (hl : s.launch n = some l) (hb : l.allBound = true ∨ l.completed = true) :
    ∃ u, exec .cmdLaunch s = .next u ∧ RecordEnds s u d q s.mem := by
  refine ⟨s.nextRecord d q, ?_, recordEnds_next s d q⟩
  rw [arm_cmdLaunch, execCmdLaunch, cmdOp_taken h]
  simp only [hn, hl, Bool.or_eq_true, if_pos hb]

variable (hn : (s.queue d q).taking = none)
include hn

/-- A descriptor that is not aligned, or that cannot be read, ends the record with 02 (R189). -/
theorem cmdLaunch_unread (ha : (recArg (s.recordBits pa)).toNat % 128 ≠ 0 ∨ s.noseAt d (s.queue d q).ctx (recArg (s.recordBits pa)) false = .fail) :
    ∃ u, exec .cmdLaunch s = .next u ∧ RecordEnds s u d q (s.mem.setBytes (pa + 1) [2]) := by
  refine ⟨_, ?_, recordEnds_mem (takes_owned h) h.aligned 2⟩
  rw [arm_cmdLaunch, execCmdLaunch, cmdOp_taken h]
  by_cases hm : (recArg (s.recordBits pa)).toNat % 128 ≠ 0
  · simp only [hn, if_pos hm]
  · simp only [hn, if_neg hm, ha.resolve_left hm]

variable {a : Nat} (ha : (recArg (s.recordBits pa)).toNat % 128 = 0) (hp : s.noseAt d (s.queue d q).ctx (recArg (s.recordBits pa)) false = .at_ (.mem a))
include ha hp

/-- A descriptor that fails a check ends the record with the check's STATUS (R189). -/
theorem cmdLaunch_fails (hs : s.checkDescriptor (BitVec.ofNat 1024 (s.mem.nat a 128)) (s.queue d q).ctx ≠ 1) : ∃ u, exec .cmdLaunch s = .next u
    ∧ RecordEnds s u d q (s.mem.setBytes (pa + 1) [s.checkDescriptor (BitVec.ofNat 1024 (s.mem.nat a 128)) (s.queue d q).ctx]) := by
  refine ⟨_, ?_, recordEnds_mem (takes_owned h) h.aligned _⟩
  rw [arm_cmdLaunch, execCmdLaunch, cmdOp_taken h]
  simp only [hn, if_neg (not_not.2 ha), hp]
  exact congrArg Host.Outcome.next (if_pos hs)

/-- A descriptor that passes the checks is accepted (R192). -/
theorem cmdLaunch_accepts (hs : s.checkDescriptor (BitVec.ofNat 1024 (s.mem.nat a 128)) (s.queue d q).ctx = 1) :
    exec .cmdLaunch s = .next (s.acceptLaunch d q (BitVec.ofNat 1024 (s.mem.nat a 128)) (.mem pa) (s.recordBits pa)) := by
  rw [arm_cmdLaunch, execCmdLaunch, cmdOp_taken h]
  simp only [hn, if_neg (not_not.2 ha), hp]
  exact congrArg Host.Outcome.next (if_neg (not_not.2 hs))

end launch

end operations

section accepted

/-- Bytes of a bit vector from byte j on. -/
theorem leBytes_extract {w : Nat} (v : BitVec w) (j n : Nat) : leBytes n (v.toNat / 256 ^ j) = leBytes n (v.extractLsb' (8 * j) (8 * n)).toNat := by
  rw [BitVec.extractLsb'_toNat, Nat.shiftRight_eq_div_pow, pow_mul, pow_mul, show 2 ^ 8 = 256 from rfl, leBytes_mod]

/-- Bytes 1 to 7 of a record once its launch is accepted: STATUS 01, bytes 2 and 3 as they were, and the sequence number (R192). -/
theorem leBytes_accepted (m : Mem) (pa : Nat) (n : SeqNo) :
    leBytes 7 ((setField (setField (BitVec.ofNat 256 (m.nat pa 32)) 8 8 1) 32 32 n.toNat).toNat / 256) = 1 :: m.bytes (pa + 2) 2 ++ leBytes 4 n.toNat := by
  set r := BitVec.ofNat 256 (m.nat pa 32)
  set v := setField (setField r 8 8 1) 32 32 n.toNat with hv
  have hstatus : v.extractLsb' 8 8 = 1#8 := by
    refine BitVec.eq_of_getLsbD_eq fun i hi => ?_
    rw [BitVec.getLsbD_extractLsb', hv, getLsbD_setField_outside _ _ (by omega) (by omega), getLsbD_setField _ _ _ _ (by omega), if_pos (by omega),
      decide_eq_true hi, Bool.true_and, Nat.add_sub_cancel_left, BitVec.getLsbD_ofNat, decide_eq_true hi, Bool.true_and]
  have hkept : v.extractLsb' 16 16 = r.extractLsb' 16 16 := by
    refine BitVec.eq_of_getLsbD_eq fun i hi => ?_
    rw [BitVec.getLsbD_extractLsb', BitVec.getLsbD_extractLsb', hv, getLsbD_setField_outside _ _ (by omega) (by omega),
      getLsbD_setField_outside _ _ (by omega) (by omega)]
  have hseq : v.extractLsb' 32 32 = n := by
    refine BitVec.eq_of_getLsbD_eq fun i hi => ?_
    rw [BitVec.getLsbD_extractLsb', hv, getLsbD_setField _ _ _ _ (by omega), if_pos (by omega), decide_eq_true hi, Bool.true_and, Nat.add_sub_cancel_left,
      BitVec.getLsbD]
  have hbytes : leBytes 2 (r.toNat / 256 ^ 2) = m.bytes (pa + 2) 2 := by
    have hlen : (m.bytes pa 32).length = 32 := by simp [Mem.bytes]
    rw [show r = BitVec.ofNat 256 (leNat (m.bytes pa 32)) from rfl, toNat_ofNat_leNat _ _ (by omega), leNat_div,
      leBytes_leNat _ _ (by simp [hlen]), bytes_part m pa 32 2 2 (by decide)]
  calc leBytes 7 (v.toNat / 256)
      = leBytes 1 (v.toNat / 256 ^ 1) ++ (leBytes 2 (v.toNat / 256 ^ 2) ++ leBytes 4 (v.toNat / 256 ^ 4)) := by
        rw [show 7 = 1 + (2 + 4) from rfl, leBytes_add, leBytes_add, pow_one, Nat.div_div_eq_div_mul, Nat.div_div_eq_div_mul]
        rfl
    _ = leBytes 1 (1#8).toNat ++ (m.bytes (pa + 2) 2 ++ leBytes 4 n.toNat) := by
        rw [leBytes_extract v 1 1, hstatus, leBytes_extract v 2 2, hkept, ← leBytes_extract r 2 2, hbytes, leBytes_extract v 4 4, hseq]
    _ = _ := rfl

variable {s : State} {d : TowerId} {q : QueueId} {pa : Nat}

/-- A launch that is accepted takes the next sequence number, and its placement begins; the record stays at HEAD (R192). -/
theorem acceptLaunch_effect (ho : (s.stack (stackOf pa)).st = .owned) (ha : pa % 32 = 0) (desc : BitVec 1024) :
    let n := s.lastSeq + 1
    let u := s.acceptLaunch d q desc (.mem pa) (s.recordBits pa)
    u.lastSeq = n ∧ u.launch n = some { desc := desc, t := d, q := q }
      ∧ u.mem = s.mem.setBytes (pa + 1) (1 :: s.mem.bytes (pa + 2) 2 ++ leBytes 4 n.toNat) ∧ (u.queue d q).lastseq = n
      ∧ (u.queue d q).taking = some n ∧ (u.queue d q).head = (s.queue d q).head ∧ .event (.launch n) .launchPlacement ∈ u.agenda := by
  intro n u
  set s1 : State := { s with lastSeq := n, launches := s.launches.put n.toNat { desc := desc, t := d, q := q } } with hs1
  set s2 := s1.setQueue d q { s.queue d q with lastseq := n, taking := some n } with hs2
  set s3 := s2.commitWrite (pa + 1) (1 :: s.mem.bytes (pa + 2) 2 ++ leBytes 4 n.toNat) none with hs3
  have hu : u = (s3.postEvent (.launch n) .launchPlacement).pokeQueues := by
    rw [hs3, ← leBytes_accepted]
    rfl
  have hw : Confined (s2.withMem (s2.mem.setBytes (pa + 1) _)) s3 := confined_commitWrite (by
    rw [stackOf_succ ha]
    exact fun e => StackState.noConfusion (ho.symm.trans e)) _ none
  have hp : Poked s3 u := hu ▸ poked_trans (poked_postEvent s3 _ _) (poked_pokeQueues _)
  have hq : (u.queue d q).record = Queue.record { s.queue d q with lastseq := n, taking := some n } :=
    (hp.queue d q).trans ((hw.queue d q).trans (congrArg Queue.record (queue_setQueue_same s1 d q _)))
  obtain ⟨hhead, -, htaking, hlast⟩ := record_fields hq
  have hlaunches : u.launches = s.launches.put n.toNat { desc := desc, t := d, q := q } := by rw [hp.rest, hw.rest]; rfl
  refine ⟨by rw [hp.rest, hw.rest]; rfl, ?_, by rw [hp.rest, hw.rest]; rfl, hlast, htaking, hhead, ?_⟩
  · rw [State.launch, hlaunches]
    exact tab_find_put_same _ _ _
  · rw [hu]
    exact (poked_pokeQueues _).agenda _ (mem_postEvent.2 (.inl rfl))

end accepted

section checks

/-- A chain of checks, each with a STATUS of its own, gives 01 when none of them fails. -/
theorem check_passes {p : Prop} [Decidable p] {x y : Byte} (hx : x ≠ 1) : (if p then x else y) = 1 ↔ ¬ p ∧ y = 1 := by
  split_ifs with h
  · exact ⟨fun e => absurd e hx, fun e => absurd h e.1⟩
  · exact ⟨fun e => ⟨h, e⟩, And.right⟩

/-- A descriptor passes the checks of R189. -/
theorem checkDescriptor_one_iff (s : State) (d : BitVec 1024) (ctx : CtxId) : s.checkDescriptor d ctx = 1 ↔ d &&& ~~~descMask = 0 ∧ (descEntry d).toNat % 4 = 0 ∧ descPtroot d &&& 0xFFF0000000000FFF = 0
      ∧ (descCompl d).toNat % 8 = 0 ∧ descLw d ≤ 5 ∧ descLh d ≤ 5 ∧ 1 ≤ descSlots d ∧ descSlots d + bit (descCaps d) + bit (descMsg d) ≤ 16
      ∧ 1 ≤ descLskib d ∧ descLskib d ≤ 512 ∧ descLslo d + descLskib d ≤ 512
      ∧ (descPin d = true → descOx d % descW d = 0 ∧ descOy d % descH d = 0) ∧ descCtx d = ctx ∧ s.origins d ≠ [] := by
  have hentry : fieldNat d 0 2 = (descEntry d).toNat % 4 := by
    rw [fieldNat, descEntry, BitVec.extractLsb'_toNat]
    omega
  have hcompl : fieldNat d 640 3 = (descCompl d).toNat % 8 := by
    rw [fieldNat, descCompl, BitVec.extractLsb'_toNat]
    omega
  rw [State.checkDescriptor, hentry, hcompl, ptrootRz]
  rw [check_passes (by decide), check_passes (by decide), check_passes (by decide), check_passes (by decide), check_passes (by decide)]
  simp only [not_or, not_and, ne_eq, not_not, Nat.not_lt, Nat.one_le_iff_ne_zero, List.isEmpty_iff, and_assoc, and_true]

end checks

section plain
variable {s : State} {d : TowerId} {q : QueueId} {pa : Nat}

theorem cmdNop_ends (h : Takes s d q pa .cmdNop) : ∃ u, exec .cmdNop s = .next u ∧ RecordEnds s u d q (s.mem.setBytes (pa + 1) [1]) :=
  ⟨_, by rw [arm_cmdNop, execCmdNop, cmdOp_taken h], recordEnds_mem (takes_owned h) h.aligned 1⟩

theorem cmdBadOperation_ends (h : Takes s d q pa .cmdBadOperation) :
    ∃ u, exec .cmdBadOperation s = .next u ∧ RecordEnds s u d q (s.mem.setBytes (pa + 1) [4]) :=
  ⟨_, by rw [arm_cmdBadOperation, execCmdBadOperation, cmdOp_taken h], recordEnds_mem (takes_owned h) h.aligned 4⟩

/-- The operation of a record is its first byte (R191). -/
theorem fieldNat_firstByte (m : Mem) (a : Nat) : fieldNat (BitVec.ofNat 256 (leNat (m.bytes a 32))) 0 8 = (m.byte a).toNat := by
  have hlen : (m.bytes a 32).length = 32 := by simp [Mem.bytes]
  have htake : (m.bytes a 32).take 1 = [m.byte a] := bytes_part m a 32 0 1 (by decide)
  calc fieldNat (BitVec.ofNat 256 (leNat (m.bytes a 32))) 0 8
      = leNat (m.bytes a 32) % 256 ^ 1 := by rw [fieldNat, toNat_ofNat_leNat _ _ (by omega), Nat.shiftRight_zero]; rfl
    _ = leNat [m.byte a] := by rw [← leNat_take _ (by omega), htake]
    _ = (m.byte a).toNat := by simp [leNat]

/-- A NOP in memory of the host ends there with 01 (R190, R191). -/
theorem cmdNop_host {hpa : Nat} (hc : s.cur = .queue d q) (hg : s.takes d q) (hb : (s.queue d q).busy = true) (hl : s.recordAt d q true = .at_ (.host true hpa))
    (h0 : s.hostMem.byte hpa = 0) : ∃ u, exec .cmdNop s = .next u ∧ u.hostMem = s.hostMem.setBytes (hpa + 1) [1] ∧ u.mem = s.mem
      ∧ (u.queue d q).head = (s.queue d q).head + 1 := by
  have hop : cmdEvent (fieldNat (BitVec.ofNat 256 (leNat (s.bytesAt (.host true hpa) 32))) 0 8) = .cmdNop := by
    rw [State.bytesAt, fieldNat_firstByte, h0]
    rfl
  set t : State := { s with hostMem := s.hostMem.setBytes (hpa + 1) [1] }
  have he := recordEnds_next t d q
  refine ⟨t.nextRecord d q, ?_, ?_, he.mem, he.head⟩
  · rw [arm_cmdNop, execCmdNop, cmdOp_found hc hg hb hl]
    exact (if_neg (not_not.2 hop)).trans (if_neg (by rw [show (Loc.host true hpa).lines 32 = [] from rfl, tokenBars_nil]; decide))
  · rw [State.nextRecord, (poked_queueNext _ d q).rest]
    rfl

end plain

section doorbell
variable {s : State} {d : TowerId} {q : QueueId}

theorem queue_postEvent (s : State) (a : Agent) (i : Instr) (d : TowerId) (q : QueueId) : (s.postEvent a i).queue d q = s.queue d q := by
  rw [State.postEvent, (posts_post s _).rest]
  rfl

/-- The Nose takes up the record at HEAD (R192). -/
theorem queueNext_looks {l : Loc} (hg : s.takes d q) (hb : (s.queue d q).busy = false) (hl : s.recordAt d q false = .at_ l) :
    s.queueNext d q = (s.setQueue d q { s.queue d q with busy := true }).postEvent (.queue d q) (cmdEvent (leNat (s.bytesAt l 1))) := by
  obtain ⟨hen, hne, hsvc, hctx⟩ := hg
  rw [State.recordAt] at hl
  simp only [State.queueNext, hen, hb, beq_eq_false_iff_ne.2 hne, hsvc, hctx, hl, Bool.not_true, Bool.or_self, Bool.false_eq_true, if_false]

theorem queueNext_stops (hg : s.takes d q) (hb : (s.queue d q).busy = false) (hl : s.recordAt d q false = .fail) : s.queueNext d q = s.stopQueue d q := by
  obtain ⟨hen, hne, hsvc, hctx⟩ := hg
  rw [State.recordAt] at hl
  simp only [State.queueNext, hen, hb, beq_eq_false_iff_ne.2 hne, hsvc, hctx, hl, Bool.not_true, Bool.or_self, Bool.false_eq_true, if_false]

/-- The event of an operation code (R191). -/
theorem cmdEvent_code (b : Nat) : (b = 0 → cmdEvent b = .cmdNop) ∧ (b = 1 → cmdEvent b = .cmdLaunch) ∧ (b = 2 → cmdEvent b = .cmdWait)
    ∧ (b = 3 → cmdEvent b = .cmdSignal) ∧ (3 < b → cmdEvent b = .cmdBadOperation) := by
  refine ⟨?_, ?_, ?_, ?_, fun h => ?_⟩
  · rintro rfl; rfl
  · rintro rfl; rfl
  · rintro rfl; rfl
  · rintro rfl; rfl
  · obtain ⟨n, rfl⟩ := Nat.exists_eq_add_of_lt h
    rw [show 3 + n + 1 = n + 4 by omega]
    rfl

/-- The doorbell sets TAIL (R190). -/
theorem poked_doorbell (s : State) (d : TowerId) (q : QueueId) (tail : BitVec 32) :
    Poked (s.setQueue d q { s.queue d q with tail := tail }) (s.doorbell d q tail) := poked_queueNext _ d q

theorem noseAt_setQueue (s : State) (d e : TowerId) (q : QueueId) (y : Queue) (n : CtxId) (va : Word) (w : Bool) :
    (s.setQueue d q y).noseAt e n va w = s.noseAt e n va w := rfl

theorem recordAt_rung (s : State) (d : TowerId) (q : QueueId) (tail : BitVec 32) (w : Bool) :
    (s.setQueue d q { s.queue d q with tail := tail }).recordAt d q w = s.recordAt d q w := by
  simp only [State.recordAt, queue_setQueue_same, noseAt_setQueue, Queue.slotAt, Queue.size]

section rung
variable {tail : BitVec 32} (hen : (s.queue d q).en = true) (hne : (s.queue d q).head ≠ tail)
  (hsvc : s.svc.halted = false) (hctx : s.ctxStopped (s.queue d q).ctx = false)
include hen hne hsvc hctx

theorem takes_rung : (s.setQueue d q { s.queue d q with tail := tail }).takes d q := by
  rw [State.takes, queue_setQueue_same]
  exact ⟨hen, hne, hsvc, hctx⟩

variable (hb : (s.queue d q).busy = false)
include hb

/-- Rung on a free queue, the doorbell sends the Nose to the record at HEAD (R190, R192). -/
theorem doorbell_looks {l : Loc} (hl : s.recordAt d q false = .at_ l) : let u := s.doorbell d q tail
    (u.queue d q).en = true ∧ (u.queue d q).busy = true ∧ .event (.queue d q) (cmdEvent (leNat (s.bytesAt l 1))) ∈ u.agenda := by
  intro u
  have hu : u = _ := queueNext_looks (takes_rung hen hne hsvc hctx) (by rw [queue_setQueue_same]; exact hb) ((recordAt_rung s d q tail false).trans hl)
  have hq : u.queue d q = { s.queue d q with tail := tail, busy := true } := by
    rw [hu, queue_postEvent, queue_setQueue_same, queue_setQueue_same]
  rw [hq]
  exact ⟨hen, rfl, hu ▸ mem_postEvent.2 (.inl rfl)⟩

/-- A record that cannot be read stops the queue (R190). -/
theorem doorbell_stops (hl : s.recordAt d q false = .fail) : ((s.doorbell d q tail).queue d q).en = false := by
  rw [State.doorbell, queueNext_stops (takes_rung hen hne hsvc hctx) (by rw [queue_setQueue_same]; exact hb) ((recordAt_rung s d q tail false).trans hl),
    State.stopQueue, queue_setQueue_same]

end rung

end doorbell

/-- Settles O52: each command event takes its record through one shared path, and only what the operation writes and the step to the next record remain. -/
theorem launchCommands : Obligations.LaunchCommands := by
  unfold Obligations.LaunchCommands
  intro s d q pa hc y at_ goes r opc found taken arg ends
  have hopc : opc = cmdEvent (fieldNat r 0 8) := by
    rw [fieldNat_eq_extract]
    simp only [opc]
    generalize (BitVec.extractLsb' 0 8 r).toNat = b
    obtain _ | _ | _ | _ | b := b <;> rfl
  have htaken {i : Instr} (h : taken i) : Takes s d q pa i := by
    obtain ⟨⟨hg, hb, hl⟩, ha, ho, hf⟩ := h
    exact ⟨hc, hg, hb, hl, ha, hopc.symm.trans ho, hf⟩
  have hends {i : Instr} {status : Byte} {m : Mem} (h : ∃ u, exec i s = .next u ∧ RecordEnds s u d q (m.setBytes (pa + 1) [status])) : ends i status m := by
    obtain ⟨u, he, hmem, hhead, htaking, htail, hlaunches⟩ := h
    exact ⟨u, he, hmem, hhead, htaking, htail, hlaunches⟩
  refine ⟨fun tail => ?doorbell, fun i hi => ?path, fun h => hends (cmdNop_ends (htaken h)), fun h => hends (cmdBadOperation_ends (htaken h)),
    fun hpa hg hb hl h0 => cmdNop_host hc hg hb hl h0, fun h => ?wait, fun h => ?signal, fun h => ?launch, fun desc ctx => checkDescriptor_one_iff s desc ctx⟩
  case doorbell =>
    have hp := poked_doorbell s d q tail
    obtain ⟨hhead, htail, -, -⟩ := record_fields (hp.queue d q)
    rw [queue_setQueue_same] at hhead htail
    refine ⟨s.doorbell d q tail, by rw [arm_queueTailDoorbell, execQueueTailDoorbell, hc], by rw [hp.rest]; rfl, htail, hhead, fun hen hb hne hsvc hctx => ?_⟩
    refine ⟨fun l hl => ?_, doorbell_stops hen hne hsvc hctx hb⟩
    obtain ⟨hen', hbusy, hev⟩ := doorbell_looks hen hne hsvc hctx hb hl
    exact ⟨hen', hbusy, _, hev, cmdEvent_code _⟩
  case path =>
    obtain ⟨body, hi⟩ := exec_cmd (s := s) i hi
    rw [hi]
    refine ⟨cmdOp_idle hc, cmdOp_fails hc, cmdOp_waits hc, fun hf ho => ?_, fun hf ho hbar => ?_⟩
    · obtain ⟨hg, hb, hl⟩ := hf
      rw [cmdOp_found hc hg hb hl, hopc]
      exact if_pos (hopc ▸ ho)
    · obtain ⟨hg, hb, hl⟩ := hf
      rw [cmdOp_found hc hg hb hl]
      exact (if_neg (not_not.2 (hopc.symm.trans ho))).trans (if_pos hbar)
  case wait =>
    intro n issued
    refine ⟨fun ho => hends (cmdWait_ends (htaken h) ((launchOver_iff n).2 ho)), fun ho => cmdWait_waits (htaken h) fun hover => ?_⟩
    obtain ⟨hissued, hdone⟩ := (launchOver_iff n).1 hover
    obtain hno | ⟨l, hl, hopen⟩ := ho
    · exact hno hissued
    · rw [hdone l hl] at hopen
      cases hopen
  case signal =>
    intro drained
    have hdrained : s.queueDrained d q = true ↔ drained := queueDrained_iff
    refine ⟨fun ha => hends (cmdSignal_misaligned (htaken h) ha), fun ha hd => cmdSignal_waits (htaken h) ha (mt hdrained.1 hd), fun ha hd => ?_⟩
    exact ⟨fun hp => hends (cmdSignal_fails (htaken h) ha (hdrained.2 hd) hp), fun a hp => ⟨cmdSignal_barred (htaken h) ha (hdrained.2 hd) hp,
      fun hb => hends (cmdSignal_writes (htaken h) ha (hdrained.2 hd) hp hb)⟩⟩
  case launch =>
    refine ⟨fun n l hn hl hb hd => cmdLaunch_waits (htaken h) hn hl hb hd, fun n l hn hl hb => ?bound, fun hn ha => hends (cmdLaunch_unread (htaken h) hn ha),
      fun da hn ha hp => ⟨fun hs => hends (cmdLaunch_fails (htaken h) hn ha hp hs), fun hs => ?accepted⟩⟩
    case bound =>
      obtain ⟨u, he, hends⟩ := cmdLaunch_bound (htaken h) hn hl hb
      exact ⟨u, he, hends.mem, hends.head, hends.taking⟩
    case accepted => exact ⟨_, cmdLaunch_accepts (htaken h) hn ha hp hs, acceptLaunch_effect (takes_owned (htaken h)) (htaken h).aligned _⟩

end Sys2Proof.Machine
end

section
/-! The slot table: what the Nose writes to it, placement and binding, and the queue that takes a free slot (08_cores_launches_scheduling.md R185, R187, R192 to R200): O53. -/

namespace Sys2Proof.Machine

section table
variable {s t u : State}

/-- A slot has at most a write by the Nose to come, and none if it runs (R194). -/
structure Rewritten (x y : Slot) : Prop where
  next : y = { x with entryNext := y.entryNext }
  run : x.isRun = true → y = x

theorem rewritten_refl (x : Slot) : Rewritten x x := ⟨rfl, fun _ => rfl⟩

theorem rewritten_trans {x y z : Slot} (h : Rewritten x y) (h' : Rewritten y z) : Rewritten x z := by
  refine ⟨by rw [h'.next, h.next], fun hr => ?_⟩
  obtain rfl := h.run hr
  exact h'.run hr

/-- Committed memory is as before, and of the slots only what the Nose writes to entries that are not RUN (R194). -/
structure TableOnly (s t : State) : Prop where
  mem : t.mem = s.mem
  slot : ∀ c k, Rewritten (s.slot c k) (t.slot c k)

theorem tableOnly_trans (h : TableOnly s t) (h' : TableOnly t u) : TableOnly s u :=
  ⟨h'.mem.trans h.mem, fun c k => rewritten_trans (h.slot c k) (h'.slot c k)⟩

theorem tableOnly_slots (hm : t.mem = s.mem) (hs : ∀ c k, t.slot c k = s.slot c k) : TableOnly s t := ⟨hm, fun c k => hs c k ▸ rewritten_refl _⟩

theorem tableOnly_refl (s : State) : TableOnly s s := tableOnly_slots rfl fun _ _ => rfl

theorem tableOnly_ite {p : Prop} [Decidable p] (h : TableOnly s t) (h' : TableOnly s u) : TableOnly s (if p then t else u) := by
  split_ifs
  · exact h
  · exact h'

theorem tableOnly_foldl {α : Type} {f : State → α → State} (hf : ∀ u a, TableOnly u (f u a)) (l : List α) (s : State) : TableOnly s (l.foldl f s) := by
  induction l generalizing s with
  | nil => exact tableOnly_refl s
  | cons a l ih => exact tableOnly_trans (hf s a) (ih _)

theorem slot_posts (h : Posts s t) (c : CoreId) (k : SlotId) : t.slot c k = s.slot c k := by
  rw [h.rest]
  rfl

theorem slot_poked (h : Poked s t) (c : CoreId) (k : SlotId) : t.slot c k = s.slot c k := by
  rw [h.rest]
  rfl

theorem tableOnly_posts (h : Posts s t) : TableOnly s t := tableOnly_slots (by rw [h.rest]) (slot_posts h)
theorem tableOnly_poked (h : Poked s t) : TableOnly s t := tableOnly_slots (by rw [h.rest]) (slot_poked h)

theorem posts_choose (s : State) (n : Nat) : Posts s (s.choose n).2 := by
  unfold State.choose
  cases s.tape <;> exact ⟨rfl⟩

theorem posts_pickSlots (s : State) (n : Nat) (l : List SlotId) : Posts s (s.pickSlots n l).2 := by
  induction n generalizing s l with
  | zero => exact posts_refl s
  | succ n ih => exact posts_trans (posts_choose s l.length) (ih _ _)

/-- The Nose does not write a RUN entry (R194). -/
theorem writeTable_run {c : CoreId} {k : SlotId} (h : (s.slot c k).isRun = true) (e : BitVec 128) : s.writeTable c k e = s := by
  rw [State.writeTable, h]
  rfl

theorem writeTable_free {c : CoreId} {k : SlotId} (h : (s.slot c k).isRun = false) (e : BitVec 128) :
    s.writeTable c k e = (s.setSlot c k { s.slot c k with entryNext := some (e &&& entryMask) }).postOnce (.slot c k) .slotDispatch := by
  rw [State.writeTable, h]
  rfl

theorem tableOnly_writeTable (s : State) (c : CoreId) (k : SlotId) (e : BitVec 128) : TableOnly s (s.writeTable c k e) := by
  cases h : (s.slot c k).isRun
  case true =>
    rw [writeTable_run h]
    exact tableOnly_refl s
  case false =>
    rw [writeTable_free h]
    refine tableOnly_trans (t := s.setSlot c k { s.slot c k with entryNext := some (e &&& entryMask) }) ⟨rfl, fun c' k' => ?_⟩
      (tableOnly_posts (posts_postOnce _ _ _))
    by_cases hk : (c', k') = (c, k)
    · obtain ⟨rfl, rfl⟩ := Prod.ext_iff.1 hk
      rw [slot_setSlot_same]
      exact ⟨rfl, fun hr => absurd hr (by rw [h]; decide)⟩
    · rw [slot_setSlot_ne _ _ _ _ _ _ hk]
      exact rewritten_refl _

theorem tableOnly_setLaunch (s : State) (n : SeqNo) (l : Launch) : TableOnly s (s.setLaunch n l) := tableOnly_slots rfl fun _ _ => rfl

theorem tableOnly_modLaunch (s : State) (n : SeqNo) (f : Launch → Launch) : TableOnly s (s.modLaunch n f) := by
  unfold State.modLaunch
  split
  · exact tableOnly_setLaunch s n _
  · exact tableOnly_refl s

/-- A core that keeps its slots. -/
theorem tableOnly_setCore (s : State) (c : CoreId) {x : Core} (h : x.slots = (s.core c).slots) : TableOnly s (s.setCore c x) :=
  tableOnly_slots rfl fun _ _ => (kept_setCore s c x h).slot

theorem tableOnly_releaseGang (s : State) (m : SeqNo) (b : Option SeqNo) : TableOnly s (s.releaseGang m b) :=
  tableOnly_trans (tableOnly_foldl (fun u _ => tableOnly_ite (tableOnly_writeTable u _ _ _) (tableOnly_refl u)) _ s) (tableOnly_modLaunch _ _ _)

theorem tableOnly_reserveCore (s : State) (n : SeqNo) (l : Launch) (c : CoreId) : TableOnly s (s.reserveCore n l c) := by
  unfold State.reserveCore
  split
  · exact tableOnly_releaseGang s _ _
  · have hpick := tableOnly_posts (posts_pickSlots s ((s.gangParts l c).filter fun p => decide (p < 16)).length (s.gangFree l c))
    exact tableOnly_trans hpick (tableOnly_trans (tableOnly_foldl (fun u _ => tableOnly_writeTable u _ _ _) _ _) (tableOnly_modLaunch _ _ _))

theorem tableOnly_bindGang (s : State) (n : SeqNo) (l : Launch) : TableOnly s (s.bindGang n l) := by
  refine tableOnly_trans (tableOnly_foldl (fun u r => ?_) l.resv s) (tableOnly_trans (tableOnly_setLaunch _ _ _)
    (tableOnly_trans (tableOnly_poked (poked_pokeQueue _ _ _)) (tableOnly_posts (posts_pokeLaunches _))))
  exact tableOnly_trans (tableOnly_setCore u r.1 (x := { u.core r.1 with bars := Vector.replicate 8 {}, tokens := [] }) rfl)
    (tableOnly_foldl (fun v _ => tableOnly_writeTable v _ _ _) _ _)

theorem tableOnly_gangStep (s : State) (n : SeqNo) (l : Launch) : TableOnly s (s.gangStep n l) := by
  unfold State.gangStep
  split
  · exact tableOnly_refl s
  · rename_i c cs _
    have hreserve := tableOnly_trans (tableOnly_posts (posts_choose s (c :: cs).length)) (tableOnly_reserveCore _ n l ((c :: cs).getD (s.choose (c :: cs).length).1 c))
    dsimp only
    split
    · exact tableOnly_trans hreserve (tableOnly_ite (tableOnly_bindGang _ _ _) (tableOnly_posts (posts_postOnce _ _ _)))
    · exact hreserve

theorem tableOnly_bindPart (s : State) (c : CoreId) (k : SlotId) (n : SeqNo) (l : Launch) (p : Nat) : TableOnly s (s.bindPart c k n l p) := by
  unfold State.bindPart
  extract_lets rest all t
  have ht : TableOnly s t := tableOnly_trans (tableOnly_setLaunch s n _) (tableOnly_writeTable _ _ _ _)
  exact tableOnly_ite (tableOnly_trans ht (tableOnly_poked (poked_pokeQueue _ _ _))) ht

theorem tableOnly_bindRole (s : State) (c : CoreId) (k : SlotId) (role : Nat) : TableOnly s (s.bindRole c k role) := by
  unfold State.bindRole
  split
  · exact tableOnly_refl s
  · exact tableOnly_ite (tableOnly_bindPart _ _ _ _ _ _) (tableOnly_refl s)

theorem tableOnly_weigh (s : State) (c : CoreId) (e : List (TowerId × QueueId)) : TableOnly s (s.weigh c e).2 := by
  unfold State.weigh
  cases e <;> exact tableOnly_slots rfl fun _ _ => rfl

theorem tableOnly_bindFree (s : State) (c : CoreId) (k : SlotId) : TableOnly s (s.bindFree c k) := by
  have hw := tableOnly_weigh s c (s.contenders c)
  unfold State.bindFree
  refine tableOnly_ite (tableOnly_refl s) ?_
  split
  · rename_i heq
    rwa [heq] at hw
  · rename_i heq
    rw [heq] at hw
    dsimp only
    split
    · exact hw
    · exact tableOnly_trans hw (tableOnly_trans (tableOnly_posts (posts_choose _ _)) (tableOnly_bindPart _ _ _ _ _ _))

variable {c : CoreId} {k : SlotId} {n : SeqNo} {l : Launch}

/-- Placing a gang writes the slot table, and no entry that is RUN (R194, R198 to R200). -/
theorem gangPlacement_tableOnly (hc : s.cur = .launch n) (hl : s.launch n = some l) : ∃ u, exec .gangPlacement s = .next u ∧ TableOnly s u := by
  refine ⟨if s.gangWaits l then s.gangStep n l else s, ?_, tableOnly_ite (tableOnly_gangStep s n l) (tableOnly_refl s)⟩
  rw [arm_gangPlacement, execGangPlacement, hc]
  simp only [hl]

/-- A gang that is bound, over, aborted or not placed asks for nothing (R199). -/
theorem gangPlacement_idle (hc : s.cur = .launch n) (hl : s.launch n = some l)
    (h : l.allBound = true ∨ l.completed = true ∨ l.aborted = true ∨ l.origin = none) : exec .gangPlacement s = .next s := by
  have hw : s.gangWaits l = false := by
    obtain h | h | h | h := h <;> simp [State.gangWaits, h]
  rw [arm_gangPlacement, execGangPlacement, hc]
  simp only [hl, hw, Bool.false_eq_true, if_false]

/-- Binding by weight writes the slot table, and no entry that is RUN (R194, R197). -/
theorem rebindByWeight_tableOnly (hc : s.cur = .core c) : ∃ u, exec .rebindByWeight s = .next u ∧ TableOnly s u := by
  refine ⟨_, by rw [arm_rebindByWeight, execRebindByWeight, hc], ?_⟩
  exact tableOnly_trans (tableOnly_trans (tableOnly_bindRole s c 14 16) (tableOnly_bindRole _ c 15 17)) (tableOnly_foldl (fun u k => tableOnly_bindFree u c k) _ _)

theorem slotTableWrite_run (hc : s.cur = .slot c k) (hr : (s.slot c k).isRun = true) (e : BitVec 128) : exec (.slotTableWrite e) s = .next s := by
  rw [arm_slotTableWrite, execSlotTableWrite, hc]
  exact congrArg Host.Outcome.next (writeTable_run hr e)

/-- A Nose write to an entry that is not RUN waits for the next rotation boundary (R194). -/
theorem slotTableWrite_free (hc : s.cur = .slot c k) (hr : (s.slot c k).isRun = false) (e : BitVec 128) : ∃ u, exec (.slotTableWrite e) s = .next u
    ∧ OnlySlot s u c k ∧ u.slot c k = { s.slot c k with entryNext := some (e &&& entryMask) } ∧ .event (.slot c k) .slotDispatch ∈ u.agenda := by
  refine ⟨s.writeTable c k e, by rw [arm_slotTableWrite, execSlotTableWrite, hc], ?_⟩
  rw [writeTable_free hr]
  exact ⟨onlySlot_trans (onlySlot_setSlot _ _ _ _) (onlySlot_postOnce _ _ _ _ _), by rw [slot_postOnce, slot_setSlot_same], mem_postOnce.2 (.inl rfl)⟩

end table

section placement
variable {s : State} {n : SeqNo} {l : Launch}

/-- A launch that may not be placed now stays as it is (R192, R423). -/
theorem launchPlacement_idle (hc : s.cur = .launch n) (hl : s.launch n = some l)
    (h : l.origin ≠ none ∨ l.completed = true ∨ l.aborted = true ∨ s.ctxStopped (descCtx l.desc) = true) : exec .launchPlacement s = .next s := by
  have hi : (l.origin.isSome || l.completed || l.aborted || s.ctxStopped (descCtx l.desc)) = true := by
    obtain h | h | h | h := h
    · simp [Option.isSome_iff_ne_none.2 h]
    · simp [h]
    · simp [h]
    · simp [h]
  rw [arm_launchPlacement, execLaunchPlacement, hc]
  simp only [hl, State.placeLaunch, if_pos hi]

/-- A launch waits for the launch that it names in AFTER (R192). -/
theorem launchPlacement_after (hc : s.cur = .launch n) (hl : s.launch n = some l) (ha : descAftv l.desc = true)
    (ho : s.launchOver (descAfter l.desc) = false) : exec .launchPlacement s = .next s := by
  rw [arm_launchPlacement, execLaunchPlacement, hc]
  simp only [hl, State.placeLaunch, ha, ho, Bool.not_false, Bool.and_self, if_true, ite_self]

theorem mem_parts {p : Nat} : p ∈ l.parts ↔ p < descSlots l.desc ∨ (p = 16 ∧ descCaps l.desc = true) ∨ (p = 17 ∧ descMsg l.desc = true) := by
  unfold Launch.parts
  cases descCaps l.desc <;> cases descMsg l.desc <;> simp [or_comm, or_assoc]

theorem mem_unbound_placedAt {o : Nat × Nat} {x : CoreId} {p : Nat} : (x, p) ∈ (l.placedAt o).unbound ↔ x ∈ (l.placedAt o).cores ∧ p ∈ l.parts := by
  have hu : (l.placedAt o).unbound = (l.placedAt o).cores.flatMap fun c => l.parts.map fun p => (c, p) := rfl
  simp [hu]

theorem posts_postPlaced (s : State) (n : SeqNo) (l : Launch) : Posts s (s.postPlaced n l) :=
  posts_ite (posts_postOnce _ _ _) (posts_foldl (fun u _ => posts_postOnce u _ _) _ s)

/-- A gang that has been placed is bound as a whole, another launch on each of its cores (R197, R198). -/
theorem postPlaced_agenda (s : State) (n : SeqNo) (l : Launch) :
    (descGang l.desc = true → .event (.launch n) .gangPlacement ∈ (s.postPlaced n l).agenda)
      ∧ (descGang l.desc = false → ∀ x ∈ l.cores, .event (.core x) .rebindByWeight ∈ (s.postPlaced n l).agenda) := by
  refine ⟨fun h => ?_, fun h x hx => ?_⟩
  · rw [State.postPlaced, if_pos h]
    exact mem_postOnce.2 (.inl rfl)
  · rw [State.postPlaced, if_neg (by rw [h]; decide)]
    exact foldl_reaches (p := fun u : State => .event (.core x) .rebindByWeight ∈ u.agenda) hx (fun u => mem_postOnce.2 (.inl rfl))
      (fun u c hu => mem_postOnce.2 (.inr hu)) s

theorem choose_lt (s : State) {m : Nat} (h : m ≠ 0) : (s.choose m).1 < m := by
  obtain ⟨m, rfl⟩ := Nat.exists_eq_succ_of_ne_zero h
  exact Nat.lt_succ_of_le (choose_le s m)

/-- A launch whose AFTER is over is placed at one of its origins (R187, R192, R422). -/
theorem launchPlacement_places (hc : s.cur = .launch n) (hl : s.launch n = some l) (horigin : l.origin = none) (hdone : l.completed = false)
    (hab : l.aborted = false) (hctx : s.ctxStopped (descCtx l.desc) = false)
    (hafter : descAftv l.desc = true → s.launchOver (descAfter l.desc) = true) (hos : s.origins l.desc ≠ []) :
    ∃ o ∈ s.origins l.desc, ∃ t, Posts s t ∧ exec .launchPlacement s = .next ((t.setLaunch n (l.placedAt o)).postPlaced n (l.placedAt o)) := by
  have hlen : (s.origins l.desc).length ≠ 0 := fun h => hos (List.length_eq_zero_iff.1 h)
  have hi := choose_lt s hlen
  have hwait : (descAftv l.desc && !s.launchOver (descAfter l.desc)) = false := by
    cases ha : descAftv l.desc
    · rfl
    · simp [hafter ha]
  refine ⟨(s.origins l.desc).getD (s.choose (s.origins l.desc).length).1 (0, 0), ?_, (s.choose (s.origins l.desc).length).2, posts_choose _ _, ?_⟩
  · rw [List.getD_eq_getElem _ _ hi]
    exact List.getElem_mem hi
  · rw [arm_launchPlacement, execLaunchPlacement, hc]
    simp only [hl, State.placeLaunch, horigin, hdone, hab, hctx, hwait, List.isEmpty_eq_false_iff.2 hos, Option.isSome_none, Bool.or_self, Bool.false_eq_true, if_false]

end placement

section weight
variable {s : State} {c : CoreId}

/-- The least of a list of numbers, begun at m. -/
theorem foldl_min_le {α : Type} (f : α → Nat) (l : List α) (m : Nat) :
    l.foldl (fun m x => min m (f x)) m ≤ m ∧ ∀ x ∈ l, l.foldl (fun m x => min m (f x)) m ≤ f x := by
  induction l generalizing m with
  | nil => simp
  | cons a l ih =>
    obtain ⟨hm, hl⟩ := ih (min m (f a))
    refine ⟨hm.trans (Nat.min_le_left _ _), fun x hx => ?_⟩
    obtain rfl | hx := List.mem_cons.1 hx
    · exact hm.trans (Nat.min_le_right _ _)
    · exact hl x hx

/-- Every queue has its number. -/
theorem queueNo_split (d : TowerId) (q : QueueId) : queueNo d q < 256 ∧ BitVec.ofNat 2 (queueNo d q / 64) = d ∧ BitVec.ofNat 6 (queueNo d q % 64) = q := by
  have hd := d.isLt
  have hq := q.isLt
  unfold queueNo
  refine ⟨by omega, BitVec.eq_of_toNat_eq ?_, BitVec.eq_of_toNat_eq ?_⟩
  · rw [BitVec.toNat_ofNat]
    omega
  · rw [BitVec.toNat_ofNat]
    omega

/-- The queues that contend for a core's free slots have a launch slot to bind there, and no such queue is of a higher class (R197). -/
theorem contenders_spec {x : TowerId × QueueId} (hx : x ∈ s.contenders c) :
    (∃ e ∈ s.bindable c fun p => decide (p < 16), e.2.t = x.1 ∧ e.2.q = x.2)
      ∧ ∀ e ∈ s.bindable c fun p => decide (p < 16), min 2 (s.queue x.1 x.2).cls.toNat ≤ min 2 (s.queue e.2.t e.2.q).cls.toNat := by
  unfold State.contenders at hx
  extract_lets ls qs cls best at hx
  obtain ⟨hq, hbest⟩ := List.mem_filter.1 hx
  have hmem {y : TowerId × QueueId} : y ∈ qs ↔ ∃ e ∈ ls, e.2.t = y.1 ∧ e.2.q = y.2 := by
    have hall : y ∈ (List.range 256).map fun i => ((BitVec.ofNat 2 (i / 64) : TowerId), (BitVec.ofNat 6 (i % 64) : QueueId)) := by
      obtain ⟨hlt, hd, hq⟩ := queueNo_split y.1 y.2
      exact List.mem_map.2 ⟨_, List.mem_range.2 hlt, Prod.ext hd hq⟩
    simp [qs, List.mem_filter, hall]
  refine ⟨hmem.1 hq, fun e he => ?_⟩
  have hle := (foldl_min_le cls qs 3).2 (e.2.t, e.2.q) (hmem.2 ⟨e, he, rfl, rfl⟩)
  exact (beq_iff_eq.1 hbest).le.trans hle

/-- The first element of a list with the greatest value. -/
theorem foldl_greatest {α : Type} (f : α → Int) (l : List α) (x : α) :
    l.foldl (fun a b => if f a < f b then b else a) x ∈ x :: l ∧ ∀ y ∈ x :: l, f y ≤ f (l.foldl (fun a b => if f a < f b then b else a) x) := by
  induction l generalizing x with
  | nil => simp
  | cons a l ih =>
    obtain ⟨hmem, hle⟩ := ih (if f x < f a then a else x)
    rw [List.foldl_cons]
    set w := l.foldl (fun a b => if f a < f b then b else a) (if f x < f a then a else x)
    have hhead := hle _ List.mem_cons_self
    refine ⟨?_, fun y hy => ?_⟩
    · obtain h | h := List.mem_cons.1 hmem
      · rw [h]
        split_ifs <;> simp
      · simp [h]
    · obtain rfl | rfl | hy := List.mem_cons.1 hy |>.imp id List.mem_cons.1
      · refine le_trans ?_ hhead
        split_ifs with h
        · exact h.le
        · exact le_rfl
      · refine le_trans ?_ hhead
        split_ifs with h
        · exact le_rfl
        · exact not_lt.1 h
      · exact hle y (List.mem_cons_of_mem _ hy)

theorem creditNo_inj {x y : TowerId × QueueId} (h : creditNo c x.1 x.2 = creditNo c y.1 y.2) : x = y := by
  unfold creditNo at h
  obtain ⟨hd, hq⟩ := queueNo_inj _ _ _ _ (show queueNo x.1 x.2 = queueNo y.1 y.2 by omega)
  exact Prod.ext hd hq

/-- The queue that takes a free slot has the most credit, before it pays for the slot (R197). -/
theorem weigh_spec {e : List (TowerId × QueueId)} {w : TowerId × QueueId} {v : State} (h : s.weigh c e = (some w, v)) : w ∈ e
    ∧ ∀ x ∈ e, x ≠ w → Tab.look v.credits 0 (creditNo c x.1 x.2)
      ≤ Tab.look v.credits 0 (creditNo c w.1 w.2) + (e.map fun x => (max 1 (s.queue x.1 x.2).weight.toNat : Int)).sum := by
  unfold State.weigh at h
  extract_lets inE kept weight credits cr total at h
  cases e with
  | nil => cases h
  | cons y ys =>
    obtain ⟨hw, hv⟩ := Prod.mk.inj h
    obtain rfl := Option.some.inj hw
    obtain ⟨hmem, hmost⟩ := foldl_greatest cr ys y
    refine ⟨hmem, fun x hx hne => ?_⟩
    rw [← hv, tab_look_put_same, tab_look_put_ne _ _ _ _ _ fun e => hne (creditNo_inj e)]
    exact (hmost x hx).trans (sub_add_cancel _ total).symm.le

end weight

end Sys2Proof.Machine
end

section
/-! The rotation boundary at which one slot is dispatched (08_cores_launches_scheduling.md R194, 01_thread_state.md R19, R20, R32): O53. -/

namespace Sys2Proof.Machine

section rotation
variable {s t u : State} {c : CoreId} {k : SlotId}

/-- The state at the next rotation boundary, before any slot is dispatched. -/
def State.rotated (s : State) : State := { s with rot := s.rot + 1, phase := 0 }

theorem slot_dispatches_mem (h : (s.slot c k).dispatches = true) : (c, k) ∈ s.allSlots := by
  have hx : s.cores.find c.toNat = some (s.core c) := by
    cases hf : s.cores.find c.toNat with
    | none =>
      rw [State.slot, State.core, Tab.look, hf] at h
      cases h
    | some x => rw [State.core, Tab.look, hf]; rfl
  have hy : (s.core c).slots.find k.toNat = some (s.slot c k) := by
    cases hf : (s.core c).slots.find k.toNat with
    | none =>
      rw [State.slot, Core.slot, Tab.look, hf] at h
      cases h
    | some y => rw [State.slot, Core.slot, Tab.look, hf]; rfl
  refine List.mem_flatMap.2 ⟨_, tab_find_mem _ _ _ hx, List.mem_map.2 ⟨_, tab_find_mem _ _ _ hy, ?_⟩⟩
  simp

/-- A list of which every element is x, and x is one, comes down to x. -/
theorem eraseDups_of_all {α : Type} [BEq α] [LawfulBEq α] {l : List α} {x : α} (hx : x ∈ l) (h : ∀ y ∈ l, y = x) : l.eraseDups = [x] := by
  cases l with
  | nil => cases hx
  | cons a l =>
    obtain rfl := h a List.mem_cons_self
    have hrest : l.filter (fun b => !b == a) = [] := List.filter_eq_nil_iff.2 fun b hb => by simp [h b (List.mem_cons_of_mem _ hb)]
    rw [List.eraseDups_cons, hrest]
    rfl

theorem poked_pokeLaunches (s : State) : Poked s s.pokeLaunches := by
  refine poked_foldl (fun u e => ?_) _ s
  have hr := poked_refl u
  refine poked_ite hr (poked_ite (poked_postOnce _ _ _) (poked_ite (poked_ite hr (poked_postOnce _ _ _)) ?_))
  exact poked_foldl (fun v _ => poked_postOnce v _ _) _ u

/-- When one slot alone waits for the boundary, the rotation dispatches it, and posts (R194). -/
theorem nextRotation_alone (hd : (s.slot c k).dispatches = true) (ho : ∀ c' k', (c', k') ≠ (c, k) → (s.slot c' k').dispatches = false) :
    ∃ t, Posts s.rotated t ∧ Poked (t.dispatch c k) s.nextRotation := by
  unfold State.nextRotation
  extract_lets s1 s2 due freed s3
  have h2 : Posts s.rotated s2 := posts_ite (posts_refl _) (posts_post _ _)
  have hslot (c' : CoreId) (k' : SlotId) : s2.slot c' k' = s.slot c' k' := slot_posts h2 c' k'
  have hdue : due = [(c, k)] := by
    have hd : (s2.slot c k).dispatches = true := by rw [hslot]; exact hd
    refine eraseDups_of_all (List.mem_filter.2 ⟨slot_dispatches_mem hd, hd⟩) fun x hx => ?_
    by_contra hne
    have hx : (s2.slot x.1 x.2).dispatches = true := (List.mem_filter.1 hx).2
    rw [hslot, ho _ _ hne] at hx
    cases hx
  have h3 : s3 = s2.dispatch c k := by
    simp only [s3, hdue]
    rfl
  refine ⟨s2, h2, ?_⟩
  rw [h3]
  exact poked_ite (poked_pokeLaunches _) (poked_refl _)

theorem slotDispatch_idle (hc : s.cur = .slot c k) (h : (s.slot c k).dispatches = false) : exec .slotDispatch s = .next s := by
  rw [arm_slotDispatch, execSlotDispatch, hc]
  simp only [h, Bool.false_eq_true, if_false]

theorem slotDispatch_rotates (hc : s.cur = .slot c k) (h : (s.slot c k).dispatches = true) : exec .slotDispatch s = .next s.nextRotation := by
  rw [arm_slotDispatch, execSlotDispatch, hc]
  simp only [h, if_true]

end rotation

section runs
variable {s t u : State} {c : CoreId} {k : SlotId} {l : Launch} {b : Start}

/-- A BOUND slot turns RUN in the state of R19 (R194). -/
theorem dispatch_starts (hn : (s.slot c k).entryNext = none) (hs : entryState (s.slot c k).entry = 2) (hb : (s.slot c k).starting = some b)
    (hl : s.launch (entrySeq (s.slot c k).entry) = some l) (ha : l.aborted = false) :
    s.dispatch c k = (s.setSlot c k ((s.slot c k).begin b)).postTurn c k := by
  simp only [State.dispatch, hn, if_pos (show entryState (s.slot c k).entry = stBound from hs), State.runSlot, hl, hb, ha, Bool.false_eq_true, if_false]

/-- A BOUND launch slot turns RUN with the registers of R32. -/
theorem dispatch_binds (hn : (s.slot c k).entryNext = none) (hs : entryState (s.slot c k).entry = 2) (hb : (s.slot c k).starting = none)
    (hcap : entryCapr (s.slot c k).entry = false) (hmsg : entryMsgr (s.slot c k).entry = false)
    (hl : s.launch (entrySeq (s.slot c k).entry) = some l) (ha : l.aborted = false) :
    s.dispatch c k = (s.setSlot c k ((s.slot c k).begin
      { regs := bindRegs l c (entryLslot (s.slot c k).entry) (entryPc (s.slot c k).entry) })).postTurn c k := by
  simp only [State.dispatch, hn, if_pos (show entryState (s.slot c k).entry = stBound from hs), State.runSlot, hl, hb, ha, hcap, hmsg, Bool.or_self,
    Bool.false_eq_true, if_false]

/-- The rotation after which slot k of core c is z, and every other slot as it was. -/
structure Passes (s u : State) (c : CoreId) (k : SlotId) (z : Slot) : Prop where
  mem : u.mem = s.mem
  rot : u.rot = s.rot + 1
  phase : u.phase = 0
  turn : .turn c k ∈ u.agenda
  slot : u.slot c k = z
  others : ∀ c' k', (c', k') ≠ (c, k) → u.slot c' k' = s.slot c' k'

theorem passes_of_runs {z : Slot} (hd : (s.slot c k).dispatches = true) (ho : ∀ c' k', (c', k') ≠ (c, k) → (s.slot c' k').dispatches = false)
    (hz : ∀ t, Posts s.rotated t → t.dispatch c k = (t.setSlot c k z).postTurn c k) : Passes s s.nextRotation c k z := by
  obtain ⟨t, ht, hp⟩ := nextRotation_alone hd ho
  rw [hz t ht] at hp
  have hturn := posts_postTurn (t.setSlot c k z) c k
  refine ⟨(lasting_nextRotation s).mem, by rw [hp.rest, hturn.rest, ht.rest]; rfl, by rw [hp.rest, hturn.rest, ht.rest]; rfl,
    hp.agenda _ (turn_postTurn _ c k), ?_, fun c' k' hne => ?_⟩
  · rw [slot_poked hp, slot_postTurn, slot_setSlot_same]
  · rw [slot_poked hp, slot_postTurn, slot_setSlot_ne _ _ _ _ _ _ hne, slot_posts ht]
    rfl

theorem launch_posts (h : Posts s t) (n : SeqNo) : t.launch n = s.launch n := by
  rw [h.rest]
  rfl

theorem slot_rotated (h : Posts s.rotated t) (c : CoreId) (k : SlotId) : t.slot c k = s.slot c k := slot_posts h c k

variable (ho : ∀ c' k', (c', k') ≠ (c, k) → (s.slot c' k').dispatches = false) (hn : (s.slot c k).entryNext = none)
  (hs : entryState (s.slot c k).entry = 2) (hl : s.launch (entrySeq (s.slot c k).entry) = some l) (ha : l.aborted = false)
include ho hn hs hl ha

theorem passes_starts (hb : (s.slot c k).starting = some b) :
    (s.slot c k).dispatches = true ∧ Passes s s.nextRotation c k ((s.slot c k).begin b) := by
  have hd : (s.slot c k).dispatches = true := by simp [Slot.dispatches, stBound, hs, hb]
  refine ⟨hd, passes_of_runs hd ho fun t ht => ?_⟩
  have ht' := slot_rotated ht c k
  rw [← ht'] at hn hs hb hl ⊢
  exact dispatch_starts hn hs hb ((launch_posts ht _).trans hl) ha

theorem passes_binds (hb : (s.slot c k).starting = none) (hcap : entryCapr (s.slot c k).entry = false) (hmsg : entryMsgr (s.slot c k).entry = false) :
    (s.slot c k).dispatches = true ∧ Passes s s.nextRotation c k ((s.slot c k).begin
      { regs := bindRegs l c (entryLslot (s.slot c k).entry) (entryPc (s.slot c k).entry) }) := by
  have hd : (s.slot c k).dispatches = true := by simp [Slot.dispatches, stBound, hs, hcap, hmsg]
  refine ⟨hd, passes_of_runs hd ho fun t ht => ?_⟩
  have ht' := slot_rotated ht c k
  rw [← ht'] at hn hs hb hl hcap hmsg ⊢
  exact dispatch_binds hn hs hb hcap hmsg ((launch_posts ht _).trans hl) ha

end runs

section registers
variable (l : Launch) (c : CoreId) (lslot : Nat) (pc : Word)

/-- The values that a launch slot finds in G0 to G6 (R32). -/
def Launch.bindValues (l : Launch) (c : CoreId) (lslot : Nat) : List Word :=
  [descParam l.desc, BitVec.ofNat 64 (l.logical c).1, BitVec.ofNat 64 (l.logical c).2, BitVec.ofNat 64 lslot, BitVec.ofNat 64 (descW l.desc),
    BitVec.ofNat 64 (descH l.desc), BitVec.ofNat 64 (descSlots l.desc)]

theorem bindRegs_eq : bindRegs l c lslot pc = (startRegs l pc).withG (l.bindValues c lslot) := rfl

theorem bindRegs_g (i : Fin 32) : (bindRegs l c lslot pc).g[i] = (l.bindValues c lslot).getD i.val 0 := by
  rw [bindRegs_eq, Regs.withG]
  exact Vector.getElem_ofFn ..

theorem bindRegs_g_rest (i : Fin 32) (hi : 7 ≤ i.val) : (bindRegs l c lslot pc).g[i] = 0 := by
  rw [bindRegs_g]
  exact List.getD_eq_default _ _ hi

end registers

section write
variable {s t u : State} {c : CoreId} {k : SlotId} {n : SeqNo}

/-- What a waking core changes: its barriers, and the parks of slots that wait at them (R380, R381). -/
structure Roused (s t : State) : Prop where
  rest : t = { s with agenda := t.agenda, tape := t.tape, cores := t.cores }
  slot : ∀ c k, t.slot c k = { s.slot c k with park := (t.slot c k).park }
  imaged : ∀ c, (t.core c).imaged = (s.core c).imaged

theorem roused_refl (s : State) : Roused s s := ⟨rfl, fun _ _ => rfl, fun _ => rfl⟩

theorem roused_trans (h : Roused s t) (h' : Roused t u) : Roused s u :=
  ⟨by rw [h'.rest, h.rest], fun c k => by rw [h'.slot, h.slot], fun c => (h'.imaged c).trans (h.imaged c)⟩

theorem roused_ite {p : Prop} [Decidable p] (h : Roused s t) (h' : Roused s u) : Roused s (if p then t else u) := by
  split_ifs
  · exact h
  · exact h'

theorem roused_foldl {α : Type} {f : State → α → State} (hf : ∀ u a, Roused u (f u a)) (l : List α) (s : State) : Roused s (l.foldl f s) := by
  induction l generalizing s with
  | nil => exact roused_refl s
  | cons a l ih => exact roused_trans (hf s a) (ih _)

theorem roused_posts (h : Posts s t) : Roused s t := ⟨by rw [h.rest], fun c k => by rw [slot_posts h], fun c => by rw [h.rest]; rfl⟩

theorem roused_setCore (s : State) (c : CoreId) {x : Core} (hx : x.slots = (s.core c).slots) (hi : x.imaged = (s.core c).imaged) : Roused s (s.setCore c x) := by
  refine ⟨rfl, fun _ _ => by rw [(kept_setCore s c x hx).slot], fun c' => ?_⟩
  rw [core_setCore]
  split_ifs with h
  · rw [hi, h]
  · rfl

theorem roused_wake (s : State) (c : CoreId) (k : SlotId) : Roused s (s.wake c k) := by
  refine roused_trans (t := s.setSlot c k { s.slot c k with park := .ready }) ⟨rfl, fun c' k' => ?_, fun c' => ?_⟩ (roused_posts (posts_postTurn _ c k))
  · by_cases h : (c', k') = (c, k)
    · obtain ⟨rfl, rfl⟩ := Prod.ext_iff.1 h
      rw [slot_setSlot_same]
    · rw [slot_setSlot_ne _ _ _ _ _ _ h]
  · rw [State.setSlot, core_setCore]
    split_ifs with h
    · rw [h]
      rfl
    · rfl

theorem roused_setBar (s : State) (c : CoreId) (b : BitVec 3) (v : Barrier) : Roused s (s.setBar c b v) := roused_setCore s c rfl rfl

theorem roused_wakeBarrier (s : State) (c : CoreId) (b : BitVec 3) : Roused s (s.wakeBarrier c b) := by
  refine roused_foldl (fun u e => ?_) _ s
  split
  · exact roused_ite (roused_wake u c _) (roused_refl u)
  · exact roused_refl u

theorem roused_freshen (s : State) (c : CoreId) (b : BitVec 3) : Roused s (s.freshen c b) := by
  unfold State.freshen
  refine roused_ite (roused_refl s) ?_
  split
  · exact roused_setBar s c b _
  · exact roused_trans (roused_setBar s c b _) (roused_wakeBarrier _ c b)

theorem roused_rouse (s : State) (c : CoreId) : Roused s (s.rouse c) :=
  roused_ite (roused_trans (roused_setCore s c (x := { s.core c with asleep := false }) rfl rfl) (roused_foldl (fun u _ => roused_freshen u c _) _ _)) (roused_refl s)

theorem confined_roused (h : Roused s t) : Confined s t :=
  ⟨by rw [h.rest], fun d q => by rw [h.rest]; rfl, fun c k => by rw [h.slot, table_park]⟩

theorem imageDue_roused (h : Roused s t) (c : CoreId) (n : SeqNo) : t.imageDue c n = s.imageDue c n := by
  have hl : t.launch n = s.launch n := by rw [h.rest]; rfl
  have hi : t.lsImages = s.lsImages := by rw [h.rest]
  rw [State.imageDue, State.imageDue, hl, hi, h.imaged]

/-- A core that wakes is not in the way of the token's holder, nor it of the core (R225). -/
theorem tokenBarsLs_roused (h : Roused s t) (c : CoreId) (gs : List Nat) : t.tokenBarsLs c gs = s.tokenBarsLs c gs := by
  have htoken : t.token = s.token := by rw [h.rest]
  have hengine (e : EngineId) : t.engine e = s.engine e := by rw [h.rest]; rfl
  have hstruck (c : CoreId) (k : SlotId) (test : Chunk → Bool) : (t.slot c k).struck test = (s.slot c k).struck test := by
    rw [h.slot]
    rfl
  simp only [State.tokenBarsLs, State.tokenHit, State.tokenReadsLs, State.engineRead, htoken, hengine, hstruck]

theorem imageBarred_roused (h : Roused s t) (c : CoreId) (n : SeqNo) : t.imageBarred c n = s.imageBarred c n := by
  simp only [State.imageBarred, imageDue_roused h, tokenBarsLs_roused h]

theorem confined_enterCtx (s : State) (c : CoreId) (n : CtxId) : Confined s (s.enterCtx c n) :=
  confined_ite (confined_refl s) (confined_setCore s c fun _ => rfl)

theorem confined_writeImage (s : State) (c : CoreId) (n : SeqNo) : Confined s (s.writeImage c n) := by
  unfold State.writeImage
  extract_lets image x t
  have ht : Confined s t := confined_ite (confined_refl s) (confined_setCore s c fun _ => rfl)
  clear_value image
  split
  · exact confined_trans ht (confined_lsOutside _ _ _ _)
  · exact ht

/-- A write of the Nose takes effect: but for the entry, the slot table stays (R194). -/
theorem applyWrite_takes {e : BitVec 128} (hr : (s.slot c k).isRun = false) (hb : entryState e = 2 → s.imageBarred c (entrySeq e) = false) :
    ∃ t z, Confined s t ∧ z.table = (e, none) ∧ Confined (t.setSlot c k z) (s.applyWrite c k e) := by
  have hrouse := roused_rouse s c
  unfold State.applyWrite
  extract_lets y t cls _ s2 s3 s4
  have posted {v w : State} (h : Confined v w) (a : Agent) (i : Instr) : Confined v (w.postOnce a i) := confined_trans h (confined_postOnce w a i)
  rw [if_neg (show ¬ y.isRun = true by rw [hr]; decide)]
  by_cases hst : entryState e = stBound
  · have hbar : t.imageBarred c (entrySeq e) = false := (imageBarred_roused hrouse c _).trans (hb hst)
    have h3 : Confined s2 s3 := confined_trans (confined_enterCtx s2 c _) (confined_writeImage _ c _)
    rw [if_pos hst, if_neg (show ¬ t.imageBarred c (entrySeq e) = true by rw [hbar]; decide)]
    refine ⟨t, _, confined_roused hrouse, ?_, confined_ite (posted h3 _ _) (confined_ite (posted h3 _ _) (confined_ite (posted h3 _ _) (posted h3 _ _)))⟩
    rfl
  · rw [if_neg hst]
    refine ⟨t, _, confined_roused hrouse, ?_, confined_ite (posted (confined_refl s4) _ _) (confined_refl s4)⟩
    rfl

/-- An entry that the Nose has written is in force after the boundary (R194). -/
theorem nextRotation_writes {e : BitVec 128} (ho : ∀ c' k', (c', k') ≠ (c, k) → (s.slot c' k').dispatches = false) (he : (s.slot c k).entryNext = some e)
    (hr : (s.slot c k).isRun = false) (hb : entryState e = 2 → s.imageBarred c (entrySeq e) = false) :
    (s.slot c k).dispatches = true ∧ (s.nextRotation.slot c k).table = (e, none) ∧ s.nextRotation.rot = s.rot + 1 ∧ s.nextRotation.phase = 0 := by
  have hd : (s.slot c k).dispatches = true := by simp [Slot.dispatches, he]
  obtain ⟨t, ht, hp⟩ := nextRotation_alone hd ho
  have hslot := slot_rotated ht c k
  have hbar : entryState e = 2 → t.imageBarred c (entrySeq e) = false := fun h => by
    rw [ht.rest]
    exact hb h
  have hdisp : t.dispatch c k = t.applyWrite c k e := by simp only [State.dispatch, hslot, he]
  obtain ⟨t', z, ht', hz, hz'⟩ := applyWrite_takes (s := t) (c := c) (k := k) (by rw [hslot]; exact hr) hbar
  rw [hdisp] at hp
  refine ⟨hd, ?_, by rw [hp.rest, hz'.rest, State.setSlot, State.setCore, ht'.rest, ht.rest]; rfl,
    by rw [hp.rest, hz'.rest, State.setSlot, State.setCore, ht'.rest, ht.rest]; rfl⟩
  rw [slot_poked hp, hz'.table, slot_setSlot_same, hz]

end write

end Sys2Proof.Machine
end

section
/-! The completion of a launch (08_cores_launches_scheduling.md R196): O53. -/

namespace Sys2Proof.Machine

section frees
variable {s t u : State} {n : SeqNo} {l : Launch}

/-- Only cores, requests and what is posted differ, and every slot has its entry still. -/
structure Frees (s t : State) : Prop where
  rest : t = { s with agenda := t.agenda, tape := t.tape, cores := t.cores, requests := t.requests }
  entry : ∀ c k, (t.slot c k).entry = (s.slot c k).entry

theorem frees_refl (s : State) : Frees s s := ⟨rfl, fun _ _ => rfl⟩
theorem frees_trans (h : Frees s t) (h' : Frees t u) : Frees s u := ⟨by rw [h'.rest, h.rest], fun c k => (h'.entry c k).trans (h.entry c k)⟩

theorem frees_ite {p : Prop} [Decidable p] (h : Frees s t) (h' : Frees s u) : Frees s (if p then t else u) := by
  split_ifs
  · exact h
  · exact h'

theorem frees_foldl {α : Type} {f : State → α → State} (hf : ∀ u a, Frees u (f u a)) (l : List α) (s : State) : Frees s (l.foldl f s) := by
  induction l generalizing s with
  | nil => exact frees_refl s
  | cons a l ih => exact frees_trans (hf s a) (ih _)

theorem frees_setSlot (s : State) (c : CoreId) (k : SlotId) {y : Slot} (h : y.entry = (s.slot c k).entry) : Frees s (s.setSlot c k y) := by
  refine ⟨rfl, fun c' k' => ?_⟩
  by_cases e : (c', k') = (c, k)
  · obtain ⟨rfl, rfl⟩ := Prod.ext_iff.1 e
    rw [slot_setSlot_same, h]
  · rw [slot_setSlot_ne _ _ _ _ _ _ e]

theorem frees_posts (h : Posts s t) : Frees s t := ⟨by rw [h.rest], fun c k => by rw [slot_posts h]⟩

theorem frees_dropRead (s : State) (c : CoreId) (k : SlotId) : Frees s (s.dropRead c k) :=
  frees_trans (frees_setSlot s c k (y := { s.slot c k with waiting := none, park := .idle }) rfl) ⟨rfl, fun _ _ => rfl⟩

theorem frees_writeTable (s : State) (c : CoreId) (k : SlotId) (e : BitVec 128) : Frees s (s.writeTable c k e) := by
  cases h : (s.slot c k).isRun
  case true =>
    rw [writeTable_run h]
    exact frees_refl s
  case false =>
    rw [writeTable_free h]
    exact frees_trans (frees_setSlot s c k (y := { s.slot c k with entryNext := some (e &&& entryMask) }) rfl) (frees_posts (posts_postOnce _ _ _))

/-- An entry of a launch that completes: the chunk of a request that a reserved slot serves is given up, and the entry is to be freed (R196). -/
def State.freeEntry (s : State) (x : CoreId × SlotId) : State :=
  (if entryState (s.slot x.1 x.2).entry = stBound then s.dropRead x.1 x.2 else s).writeTable x.1 x.2 0

theorem frees_freeEntry (s : State) (x : CoreId × SlotId) : Frees s (s.freeEntry x) :=
  frees_trans (frees_ite (frees_dropRead s _ _) (frees_refl s)) (frees_writeTable _ _ _ _)

theorem slot_freeEntry_ne (s : State) {x y : CoreId × SlotId} (h : y ≠ x) : (s.freeEntry x).slot y.1 y.2 = s.slot y.1 y.2 := by
  have hwrite (t : State) : (t.writeTable x.1 x.2 0).slot y.1 y.2 = t.slot y.1 y.2 := by
    cases hr : (t.slot x.1 x.2).isRun
    case true => rw [writeTable_run hr]
    case false => rw [writeTable_free hr, slot_postOnce, slot_setSlot_ne _ _ _ _ _ _ h]
  rw [State.freeEntry, hwrite]
  split_ifs
  · exact slot_setSlot_ne _ _ _ _ _ _ h
  · rfl

/-- An entry that is not RUN is to be freed. -/
def State.freed (s : State) (x : CoreId × SlotId) : Prop := (s.slot x.1 x.2).isRun = false → (s.slot x.1 x.2).entryNext = some 0

theorem isRun_of_entry {x y : Slot} (h : x.entry = y.entry) : x.isRun = y.isRun := by rw [Slot.isRun, Slot.isRun, h]

theorem freed_freeEntry (s : State) (x : CoreId × SlotId) : (s.freeEntry x).freed x := by
  intro hr
  rw [isRun_of_entry ((frees_freeEntry s x).entry x.1 x.2)] at hr
  set t := if entryState (s.slot x.1 x.2).entry = stBound then s.dropRead x.1 x.2 else s with ht
  have hrun : (t.slot x.1 x.2).isRun = false := by
    rw [isRun_of_entry ((frees_ite (frees_dropRead s _ _) (frees_refl s) : Frees s t).entry x.1 x.2), hr]
  rw [State.freeEntry, ← ht, writeTable_free hrun, slot_postOnce, slot_setSlot_same]
  exact congrArg some BitVec.zero_and

/-- Every entry of a completed launch that is not RUN is to be freed (R196). -/
theorem freed_foldl (s : State) {xs : List (CoreId × SlotId)} {x : CoreId × SlotId} (hx : x ∈ xs) : (xs.foldl State.freeEntry s).freed x := by
  refine foldl_reaches (p := fun u : State => u.freed x) hx (fun u => freed_freeEntry u x) (fun u y hu => ?_) s
  by_cases h : x = y
  · subst h
    exact freed_freeEntry u x
  · rw [State.freed, slot_freeEntry_ne u h]
    exact hu

end frees

section completion
variable {s t u : State} {n : SeqNo} {l : Launch}

/-- A launch that has completed. -/
def Launch.finished (l : Launch) : Launch := { l with completed := true, drops := 0, resv := [], unbound := [] }

/-- The end of a completion: a recording of the launch ends, the launch is over, and what waited for it is looked at again (R196, R241). -/
def State.endLaunch (s : State) (n : SeqNo) (l : Launch) : State :=
  let t := if (s.journal (descCtx l.desc)).rec_ && (s.journal (descCtx l.desc)).seq == n then s.journalOff (descCtx l.desc) else s
  ((t.setLaunch n l.finished).pokeQueues.pokeLaunches).preCheck (descCtx l.desc)

theorem poked_preCheck (s : State) (n : CtxId) : Poked s (s.preCheck n) := poked_ite (poked_postOnce _ _ _) (poked_refl s)

theorem poked_endLaunch (h : (s.journal (descCtx l.desc)).rec_ = false) : Poked (s.setLaunch n l.finished) (s.endLaunch n l) := by
  simp only [State.endLaunch, h, Bool.false_and, Bool.false_eq_true, if_false]
  exact poked_trans (poked_pokeQueues _) (poked_trans (poked_pokeLaunches _) (poked_preCheck _ _))

/-- The entries, barriers and messages of a launch are given up, then its completion word is counted, and the launch ends (R196). -/
theorem completeLaunch_steps (s : State) (n : SeqNo) (l : Launch) :
    ∃ t, Frees s t ∧ (∀ x ∈ s.entriesOf n, t.freed x) ∧ s.completeLaunch n l = (t.countCompletion l).endLaunch n l := by
  unfold State.completeLaunch
  extract_lets s1 s2 s3 s4 ctx s5 s6
  have h1 : Frees s s1 := frees_foldl frees_freeEntry _ s
  have h2 : Frees s1 s2 := frees_ite ⟨rfl, fun _ _ => rfl⟩ (frees_refl s1)
  have hslot2 (c : CoreId) (k : SlotId) : s2.slot c k = s1.slot c k := by
    simp only [s2]
    split_ifs <;> rfl
  have hslot3 (c : CoreId) (k : SlotId) : s3.slot c k = s2.slot c k :=
    foldl_keeps (g := fun u : State => u.slot c k) (fun x _ u => (kept_setCore u x _ (by split_ifs <;> rfl)).slot) s2
  have h3 : Frees s2 s3 := frees_foldl (fun u x => ⟨rfl, fun c k => congrArg Slot.entry (kept_setCore u x _ (by split_ifs <;> rfl)).slot⟩) _ s2
  refine ⟨s3, frees_trans h1 (frees_trans h2 h3), fun x hx => ?_, rfl⟩
  have hfreed : s1.freed x := freed_foldl s hx
  rw [State.freed, hslot3, hslot2]
  exact hfreed

theorem completionAt_frees (h : Frees s t) (l : Launch) : t.completionAt l = s.completionAt l := by
  rw [h.rest]
  rfl

theorem launch_poked (h : Poked s t) (n : SeqNo) : t.launch n = s.launch n := by
  rw [h.rest]
  rfl

/-- A launch that has completed is over. -/
theorem launch_endLaunch (h : (s.journal (descCtx l.desc)).rec_ = false) : (s.endLaunch n l).launch n = some l.finished := by
  rw [launch_poked (poked_endLaunch h), launch_setLaunch_same]

section place
variable {pa : Nat} (hp : s.noseAt l.t (descCtx l.desc) (descCompl l.desc) true = .at_ (.mem pa)) (hz : descCompl l.desc ≠ 0)
include hp hz

theorem completionAt_mem : s.completionAt l = .at_ (.mem pa) := by rw [State.completionAt, if_neg hz, hp]

/-- A completion word in memory rises by 1 (R196). -/
theorem completeLaunch_counts (hj : (s.journal (descCtx l.desc)).rec_ = false) :
    (s.completeLaunch n l).launch n = some l.finished ∧ (s.completeLaunch n l).mem = s.mem.setBytes pa (leBytes 8 ((s.mem.nat pa 8 + 1) % 2 ^ 64)) := by
  obtain ⟨t, ht, -, he⟩ := completeLaunch_steps s n l
  have hmem : t.mem = s.mem := by rw [ht.rest]
  have hcount : t.countCompletion l = t.commitWrite pa (leBytes 8 ((s.mem.nat pa 8 + 1) % 2 ^ 64)) none := by
    rw [State.countCompletion, completionAt_frees ht, completionAt_mem hp hz, ← hmem]
    rfl
  have hst : (t.stack (stackOf pa)).st ≠ .fenced := by
    have hstks : t.stks = s.stks := by rw [ht.rest]
    have hown : (s.stack (stackOf pa)).st = .owned := noseAt_owned hp
    rw [State.stack, hstks]
    exact fun e => StackState.noConfusion (hown.symm.trans e)
  have hw := confined_commitWrite hst (leBytes 8 ((s.mem.nat pa 8 + 1) % 2 ^ 64)) none
  have hj' : ((t.countCompletion l).journal (descCtx l.desc)).rec_ = false := by
    have hjs : (t.countCompletion l).journals = s.journals := by rw [hcount, hw.rest, State.withMem, ht.rest]
    rw [State.journal, hjs]
    exact hj
  rw [he]
  refine ⟨launch_endLaunch hj', ?_⟩
  rw [(poked_endLaunch hj').rest, hcount, hw.rest, ← hmem]
  rfl

end place

/-- Without a completion word no byte of memory changes (R196). -/
theorem completeLaunch_uncounted (hz : descCompl l.desc = 0) (hj : (s.journal (descCtx l.desc)).rec_ = false) :
    (s.completeLaunch n l).launch n = some l.finished ∧ (s.completeLaunch n l).mem = s.mem
      ∧ ∀ x ∈ s.entriesOf n, (s.slot x.1 x.2).isRun = false → ((s.completeLaunch n l).slot x.1 x.2).entryNext = some 0 := by
  obtain ⟨t, ht, hfreed, he⟩ := completeLaunch_steps s n l
  have hcount : t.countCompletion l = t := by rw [State.countCompletion, State.completionAt, if_pos hz]
  have hj' : (t.journal (descCtx l.desc)).rec_ = false := by
    have hjs : t.journals = s.journals := by rw [ht.rest]
    rw [State.journal, hjs]
    exact hj
  have hp := poked_endLaunch (n := n) hj'
  rw [he, hcount]
  refine ⟨launch_endLaunch hj', by rw [hp.rest, State.setLaunch, ht.rest], fun x hx hr => ?_⟩
  rw [slot_poked hp]
  exact hfreed x hx ((isRun_of_entry (ht.entry x.1 x.2)).trans hr)

variable (hc : s.cur = .launch n) (hl : s.launch n = some l)
include hc hl

theorem launchCompletion_over (hdone : l.completed = true) : exec .launchCompletion s = .next s := by
  rw [arm_launchCompletion, execLaunchCompletion, hc]
  simp only [hl, hdone, if_true]

variable (hd : l.drops = 0)
include hd

theorem launchCompletion_early (hm : s.mayComplete n l = false) : exec .launchCompletion s = .next s := by
  rw [arm_launchCompletion, execLaunchCompletion, hc]
  simp only [hl, hd, hm, ne_eq, not_true, if_false, if_true, Bool.not_false, ite_self]

theorem launchCompletion_due (hdone : l.completed = false) (hm : s.mayComplete n l = true) (hb : s.completionBarred l = false) :
    exec .launchCompletion s = .next (s.completeLaunch n l) := by
  rw [arm_launchCompletion, execLaunchCompletion, hc]
  simp only [hl, hd, hdone, hm, hb, ne_eq, not_true, if_false, if_true, Bool.not_true, Bool.false_eq_true]

end completion

/-- The three conditions under which a launch completes (R196). -/
theorem mayComplete_iff (s : State) (n : SeqNo) {l : Launch} (h : l.aborted = false) : s.mayComplete n l = true
    ↔ l.origin.isSome = true ∧ l.done.length = descSlots l.desc * l.cores.length ∧ l.population = 0 ∧ l.commands = 0 := by
  simp only [State.mayComplete, h, Bool.false_eq_true, if_false, Bool.and_eq_true, beq_iff_eq, and_assoc]

/-- Settles O53: placement and binding reach the slot table alone, a rotation at which one slot waits dispatches just that slot, and a completion frees entries, counts and ends. -/
theorem launchEvents : Obligations.LaunchEvents := by
  unfold Obligations.LaunchEvents
  intro s n l c k y tableOnly
  have only {u : State} (h : TableOnly s u) : tableOnly u := ⟨h.mem, fun c' k' => ⟨(h.slot c' k').next, (h.slot c' k').run⟩⟩
  refine ⟨fun hc e => ⟨fun hr => slotTableWrite_run hc hr e, fun hr => slotTableWrite_free hc hr e⟩, fun hc hl => ⟨fun h => launchPlacement_idle hc hl h,
    fun ha ho => launchPlacement_after hc hl ha ho, fun horigin hdone hab hctx hafter hos => ?placed, ?gang, fun h => gangPlacement_idle hc hl h⟩,
    fun hc => ?rebind, fun x hx => contenders_spec hx, fun e w v h => weigh_spec h, fun hc => ⟨slotDispatch_idle hc, fun ho => ?dispatch⟩, fun hc hl hd => ?completion⟩
  case placed =>
    obtain ⟨o, ho, t, ht, he⟩ := launchPlacement_places hc hl horigin hdone hab hctx hafter hos
    have hp := posts_postPlaced (t.setLaunch n (l.placedAt o)) n (l.placedAt o)
    obtain ⟨hgang, hcores⟩ := postPlaced_agenda (t.setLaunch n (l.placedAt o)) n (l.placedAt o)
    refine ⟨_, o, ho, he, by rw [hp.rest, ht.rest]; rfl, by rw [hp.rest, ht.rest]; rfl, l.placedAt o, ?_, rfl, fun x p => ?_, hgang, hcores⟩
    · rw [launch_posts hp, launch_setLaunch_same]
    · rw [mem_unbound_placedAt, mem_parts]
  case gang =>
    obtain ⟨u, he, hu⟩ := gangPlacement_tableOnly hc hl
    exact ⟨u, he, only hu⟩
  case rebind =>
    obtain ⟨u, he, hu⟩ := rebindByWeight_tableOnly hc
    exact ⟨u, he, only hu⟩
  case completion =>
    refine ⟨launchCompletion_over hc hl, launchCompletion_early hc hl hd, mayComplete_iff s n, fun hdone hm hj => ⟨fun pa hz hp hb => ?_, fun hz => ?_⟩⟩
    · have hbar : s.completionBarred l = false := by
        rw [State.completionBarred, completionAt_mem hp hz]
        exact hb
      obtain ⟨hover, hmem⟩ := completeLaunch_counts hp hz hj
      exact ⟨_, launchCompletion_due hc hl hd hdone hm hbar, ⟨_, hover, rfl, rfl⟩, hmem⟩
    · have hbar : s.completionBarred l = false := by rw [State.completionBarred, State.completionAt, if_pos hz]
      obtain ⟨hover, hmem, hfreed⟩ := completeLaunch_uncounted hz hj
      exact ⟨_, launchCompletion_due hc hl hd hdone hm hbar, hmem, ⟨_, hover, rfl, rfl⟩, hfreed⟩
  case dispatch =>
    intro passes
    have pass {z : Slot} (h : y.dispatches = true ∧ Passes s s.nextRotation c k z) : passes z := by
      obtain ⟨hd, hp⟩ := h
      exact ⟨_, slotDispatch_rotates hc hd, hp.mem, hp.rot, hp.phase, hp.turn, hp.slot, hp.others⟩
    refine ⟨fun hn hs hb hcap hmsg hl ha => ?binds, fun b hn hs hb hl ha => ?starts, fun e he hr hb => ?writes⟩
    case binds =>
      refine ⟨_, pass (passes_binds ho hn hs hl ha hb hcap hmsg), entryState_setEntryState _ (by decide), rfl, rfl, rfl, rfl, rfl, rfl, rfl, ?_⟩
      have hg (i : Fin 32) := bindRegs_g l c (entryLslot y.entry) (entryPc y.entry) i
      exact ⟨hg 0, hg 1, hg 2, hg 3, hg 4, hg 5, hg 6, fun i hi => bindRegs_g_rest _ _ _ _ i hi, rfl, rfl, rfl, rfl, rfl, rfl, rfl⟩
    case starts => exact ⟨_, pass (passes_starts ho hn hs hl ha hb), entryState_setEntryState _ (by decide), rfl, rfl, rfl, rfl, rfl⟩
    case writes =>
      obtain ⟨hd, htable, hrot, hphase⟩ := nextRotation_writes ho he hr hb
      obtain ⟨hentry, hnext⟩ := Prod.ext_iff.1 htable
      exact ⟨_, slotDispatch_rotates hc hd, hentry, hnext, (lasting_nextRotation s).mem, hrot, hphase⟩

end Sys2Proof.Machine
end

section
/-! Loads and stores of local memory as the slot sees them (09_chunks_and_consistency.md R212, R216, R230): O24. -/

namespace Sys2Proof.Machine

section frame
variable {s s' t : State} {c : CoreId} {k : SlotId} {va : Word} {pa align : Nat}

/-- A load that completes in local memory is a read there, from where its place was found. -/
theorem load_mem {n : Nat} {bs : List Byte} (hl : s.locate va n .read = .ok (.mem pa, s')) (h : s.load va n align = .ok (bs, t)) :
    s'.readMem va pa n false = .ok (bs, t) := by
  unfold State.load at h
  split_ifs at h
  rwa [hl] at h

/-- A store that completes in local memory is a write there, from where its place was found. -/
theorem store_mem {bs : List Byte} (hl : s.locate va bs.length .write = .ok (.mem pa, s')) (h : s.store va bs align = .ok ((), t)) :
    s'.writeMem va pa bs = .ok ((), t) := by
  unfold State.store at h
  split_ifs at h
  rwa [hl] at h

/-- With bytes added to the open chunk, the slot sees these, and elsewhere what it saw (R230). -/
theorem seenByte_setSpecs {bs : List Byte} (hc : s.cur = .slot c k) (ht : t.cur = .slot c k) (hm : t.mem = s.mem)
    (hs : t.slot c k = { s.slot c k with chunk := t.chunk }) (hw : t.chunk.wr = setSpecs s.chunk.wr pa bs) (a : Nat) :
    t.seenByte a = if h : pa ≤ a ∧ a < pa + bs.length then bs[a - pa]'(by omega) else s.seenByte a := by
  have hwait : t.waitingBytes = s.waitingBytes := by simp only [State.waitingBytes, hc, ht, hs]
  rw [State.seenByte, State.seenByte, hw, specByte_setSpecs, hwait, hm]
  split_ifs <;> rfl

end frame

/-- Settles O24: a load reads what the slot sees and notes it; a store adds its bytes to the open chunk, which is looked at first. -/
theorem memoryAccessFrame : Obligations.MemoryAccessFrame := by
  intro s s' t c k va pa align hc hsolo
  refine ⟨fun n bs hl h => ?_, fun bs hl h => ?_⟩
  · have ho := own_locate hc hl
    obtain ⟨hbs, hk⟩ := readMem_ok (ho.cur.trans hc) (load_mem hl h)
    refine ⟨?_, own_trans ho hk, seen_own hc (own_trans ho hk)⟩
    rw [hbs]
    exact List.map_congr_left fun j _ => seen_own hc ho (pa + j)
  · have ho := own_locate hc hl
    have hc' : s'.cur = .slot c k := ho.cur.trans hc
    have hsolo' : s'.chunk.solo = false := by
      rw [chunk_slot s' c k hc', ho.bytes.2.1, ← chunk_slot s c k hc, hsolo]
    obtain ⟨-, -, htc, hm, hslot, hwr, -⟩ := writeMem_ok hc' hsolo' (store_mem hl h)
    have ht : t.cur = .slot c k := htc.trans hc'
    have hseen (a : Nat) := seenByte_setSpecs hc' ht hm hslot hwr a
    refine ⟨hm.trans ho.mem, ?_, fun a ha => ?_, fun j hj => ?_⟩
    · rw [regs_slot t c k ht, hslot, ← regs_slot s' c k hc', regs_own hc ho]
    · rw [hseen, dif_neg (by omega), seen_own hc ho]
    · rw [hseen, dif_pos (by omega)]
      simp

end Sys2Proof.Machine
end

section
/-! FENCE and FENCE.SYS (09_chunks_and_consistency.md R239, 17_host_and_links.md R393): O28. -/

namespace Sys2Proof.Machine

section fences
variable {f : Fields} {s t : State} {c : CoreId} {k : SlotId}

/-- An instruction that completes from a state in which only its slot differs changes that slot alone, and of its registers the dead bits besides. -/
theorem givesFrom_only {i : Instr} {r : Regs} (ho : OnlySlot s t c k) (h : GivesFrom i s t c k r) :
    ∃ u, exec i s = .next u ∧ OnlySlot s u c k ∧ (u.slot c k).regs.butDead r ∧ (u.slot c k).posted = (t.slot c k).posted := by
  obtain ⟨u, he, hu⟩ := h
  refine ⟨u, he, onlySlot_trans ho hu.only, ?_, by rw [hu.slot]⟩
  rw [hu.slot]
  rfl

/-- The state in which FENCE.SYS reports: in a chunk of its own, with the slot's posted writes forgotten (R393). -/
def State.fenced (s : State) (c : CoreId) (k : SlotId) : State := s.asSolo.setSlot c k { s.asSolo.slot c k with posted := {} }

theorem onlySlot_fenced (hc : s.cur = .slot c k) : OnlySlot s (s.fenced c k) c k :=
  onlySlot_trans (asSolo_only hc) (onlySlot_setSlot _ c k _)

theorem posted_fenced (s : State) (c : CoreId) (k : SlotId) : ((s.fenced c k).slot c k).posted = {} := by
  rw [State.fenced, slot_setSlot_same]

theorem regs_fenced (hc : s.cur = .slot c k) : ((s.fenced c k).slot c k).regs = s.regs := by
  rw [State.fenced, slot_setSlot_same, asSolo_slot hc, regs_slot s c k hc]

/-- The status that FENCE.SYS finds where an error stands: that error (R393). -/
theorem fenceStatus_error {p : Posted} (h : p.err ≠ 0) : s.fenceStatus p = (p.err.toNat, s) := if_pos h

/-- Where no error stands and the host's port is up, the status is the answer to FENCE.SYS's own read (R393). -/
theorem fenceStatus_answer {p : Posted} {a : Nat} (h : p.err = 0) (hup : s.host.up = true) (ha : s.answer = some a) : s.fenceStatus p = (a, s) := by
  simp [State.fenceStatus, h, hup, ha]

/-- FENCE.SYS with no posted write outstanding completes in a chunk of its own (R239). -/
theorem fenceSys_none (h : Issues (.fenceSys f) f 1 s c k) (ha : s.isAlone = true) (hn : (s.slot c k).posted.count = 0) :
    GivesFrom (.fenceSys f) s s.asSolo c k s.regs.advance := by
  have hc : s.asSolo.cur = .slot c k := (onlySlot_cur (asSolo_only h.cur)).trans h.cur
  have hp : (s.asSolo.slot c k).posted.count = 0 := by rw [asSolo_slot h.cur, hn]
  rw [← asSolo_regs h.cur]
  refine givesFrom_done h (arm_fenceSys f s) ?_ hc (regsNow_refl hc)
  simp only [h.cur, ha, Bool.not_true, Bool.false_eq_true, if_false]
  exact if_pos hp

/-- FENCE.SYS once every posted write has completed: with status 0 it completes, else it is an Edge Completion Error at the first posted address; either way the writes are forgotten (R393). -/
theorem fenceSys_reports {st : Nat} (h : Issues (.fenceSys f) f 1 s c k) (ha : s.isAlone = true) (hn : (s.slot c k).posted.count ≠ 0)
    (ho : (s.slot c k).posted.open_ = 0) (hst : s.asSolo.fenceStatus (s.slot c k).posted = (st, s.asSolo)) :
    (st = 0 → GivesFrom (.fenceSys f) s (s.fenced c k) c k s.regs.advance)
      ∧ (st ≠ 0 → exec (.fenceSys f) s = .next ((s.fenced c k).raise c k (edgeTrap (s.slot c k).posted.first true st))) := by
  have hc : (s.fenced c k).cur = .slot c k := (onlySlot_cur (onlySlot_fenced h.cur)).trans h.cur
  have hp : (s.asSolo.slot c k).posted = (s.slot c k).posted := by rw [asSolo_slot h.cur]
  have hr : (s.fenced c k).regs = s.regs := by rw [regs_slot _ c k hc, regs_fenced h.cur]
  refine ⟨fun hz => ?_, fun hz => ?_⟩
  · rw [← hr]
    refine givesFrom_done h (arm_fenceSys f s) ?_ hc (regsNow_refl hc)
    simp only [h.cur, ha, Bool.not_true, Bool.false_eq_true, if_false]
    rw [← State.asSolo, hp, if_neg hn, if_neg (not_not.2 ho), hst, ← State.fenced]
    exact if_pos hz
  · refine scalar_trap h (arm_fenceSys f s) ?_
    simp only [h.cur, ha, Bool.not_true, Bool.false_eq_true, if_false]
    rw [← State.asSolo, hp, if_neg hn, if_neg (not_not.2 ho), hst, ← State.fenced]
    exact if_neg hz

end fences

/-- Settles O28: FENCE completes at once; FENCE.SYS, alone, by the posted writes that the slot has outstanding and the status that they have left. -/
theorem fences : Obligations.Fences := by
  intro f s c k p
  have hrest (hc : s.cur = .slot c k) : s.asSolo.host = s.host ∧ s.asSolo.answer = s.answer := by
    rw [(asSolo_only hc).rest]
    exact ⟨rfl, rfl⟩
  refine ⟨fun h => scalar_done h (arm_fence f s) rfl (regsNow_refl h.cur), fun h ha hn => ?none, fun h ha hn ho he hup hans => ?good,
    fun h ha hn ho he => ?bad⟩
  case none =>
    obtain ⟨u, hu, honly, hregs, -⟩ := givesFrom_only (asSolo_only h.cur) (fenceSys_none h ha hn)
    exact ⟨u, hu, honly, hregs⟩
  case good =>
    obtain ⟨hhost, hanswer⟩ := hrest h.cur
    have hst := fenceStatus_answer (s := s.asSolo) he (by rw [hhost, hup]) (hanswer.trans hans)
    obtain ⟨u, hu, honly, hregs, hposted⟩ := givesFrom_only (onlySlot_fenced h.cur) ((fenceSys_reports h ha hn ho hst).1 rfl)
    exact ⟨u, hu, honly, hregs, hposted.trans (posted_fenced s c k)⟩
  case bad =>
    have hst : p.err.toNat ≠ 0 := fun hz => he (BitVec.eq_of_toNat_eq hz)
    exact ⟨s.fenced c k, onlySlot_fenced h.cur, posted_fenced s c k, regs_fenced h.cur, (fenceSys_reports h ha hn ho (fenceStatus_error he)).2 hst⟩

end Sys2Proof.Machine
end

section
/-! Atomics that return nothing (09_chunks_and_consistency.md R233 to R235, R295): O26. -/

namespace Sys2Proof.Machine

section table
variable {f : Fields} {s : State} {ty : BitVec 2} {e m v w : Nat} {num : Nat → Int} {a : Instr × Byte × (Nat → Nat → Nat → Nat)}

/-- The e bits of an atomic's operand as its type reads them (R233). -/
def atomicNum (ty : BitVec 2) (e x : Nat) : Int := if ty.getLsbD 1 && decide (2 ^ (e - 1) ≤ x) then (x : Int) - 2 ^ e else x

/-- Each instruction of the table is an atomic, with the opcode that stands beside it. -/
theorem exec_atomic (ha : a ∈ atomicTable f e num) : exec a.1 s = atomicOp a.1 f s ∧ opcOf a.1 = a.2.1.toNat := by
  have rows : (atomicTable f e num).Forall fun a => exec a.1 s = atomicOp a.1 f s ∧ opcOf a.1 = a.2.1.toNat :=
    ⟨⟨arm_aadd f s, rfl⟩, ⟨arm_aand f s, rfl⟩, ⟨arm_aor f s, rfl⟩, ⟨arm_axor f s, rfl⟩,
      ⟨arm_amin f s, rfl⟩, ⟨arm_amax f s, rfl⟩, ⟨arm_axchg f s, rfl⟩, ⟨arm_acas f s, rfl⟩⟩
  exact List.forall_iff_forall_mem.1 rows a ha

/-- Of the operand and the compare value an atomic reads the low e bits (R234). -/
theorem atomicNew_mod (opc : Nat) (ty : BitVec 2) (e m v w : Nat) : atomicNew opc ty e m (v % 2 ^ e) (w % 2 ^ e) = atomicNew opc ty e m v w := by
  simp only [atomicNew, Nat.mod_mod]

/-- The operation that each opcode performs on values of e bits (R234). -/
theorem atomicNew_table (he : 0 < e) (ha : a ∈ atomicTable f e (atomicNum ty e)) (hm : m < 2 ^ e) (hv : v < 2 ^ e) (hw : w < 2 ^ e) :
    atomicNew a.2.1.toNat ty e m v w = a.2.2 m v w := by
  have hhalf : 2 ^ e / 2 = 2 ^ (e - 1) := by
    obtain ⟨n, rfl⟩ := Nat.exists_eq_succ_of_ne_zero he.ne'
    rw [pow_succ, Nat.mul_div_cancel _ (by decide)]
    rfl
  have hnum (x : Nat) : (if ty.getLsbD 1 && decide (2 ^ e / 2 ≤ x) then (x : Int) - (2 ^ e : Nat) else x) = atomicNum ty e x := by
    rw [atomicNum, hhalf, Nat.cast_pow]
    rfl
  have rows : (atomicTable f e (atomicNum ty e)).Forall fun a => atomicNew a.2.1.toNat ty e m v w = a.2.2 m v w := by
    simp only [atomicNew, Nat.mod_eq_of_lt hm, Nat.mod_eq_of_lt hv, Nat.mod_eq_of_lt hw, hnum]
    exact ⟨rfl, rfl, rfl, rfl, rfl, rfl, rfl, rfl⟩
  exact List.forall_iff_forall_mem.1 rows a ha

end table

section deferred
variable {f : Fields} {s s' t : State} {c : CoreId} {k : SlotId} {i : Instr} {ty : BitVec 2} {va x : Word} {opc : Byte} {pa off : Nat}

/-- A core in which only one slot differs is the same but for its slots. -/
theorem core_onlySlot (h : OnlySlot s t c k) (c' : CoreId) : t.core c' = { s.core c' with slots := (t.core c').slots } :=
  congrArg (fun x : Core => { x with slots := (t.core c').slots }) (h.cores c')

theorem defer_room (h : s.chunk.deferredCount < 64) (d : Deferred) : s.defer d = .ok ((), s.noted d) := if_neg (Nat.not_le.2 h)

/-- The stack of a place noted in the agent's chunk (R371). -/
def State.notedStack (s : State) (pa : Nat) : State := s.setChunk { s.chunk with stks := s.chunk.stks ||| (1#16 <<< (stackOf pa).toNat) }

/-- An accumulate-only mark noted in the agent's chunk (R175). -/
def State.notedGranule (s : State) (g : Nat) : State := s.setChunk { s.chunk with lsA := insertOnce s.chunk.lsA g }

/-- With no chunk of another slot on the core, an accumulate-only mark is noted in the chunk alone (R175). -/
theorem markAccumulate_sole (hc : s.cur = .slot c k) (hs : s.soleChunk c k) (g : Nat) :
    s.markAccumulate g = .ok ((), s.notedGranule g) := by
  simp [State.markAccumulate, State.notedGranule, hc, contend_sole hs]

/-- An update is noted in the agent's chunk: nothing else of the package but notes there has changed (R235). -/
structure Defers (s t : State) (c : CoreId) (k : SlotId) (d : Deferred) : Prop where
  only : OnlySlot s t c k
  regs : t.regs = s.regs
  effects : t.chunk.effects = s.chunk.effects ++ [d]

theorem defers_noted (hc : s.cur = .slot c k) (d : Deferred) : Defers s (s.noted d) c k d :=
  ⟨onlySlot_noted hc d, regs_setChunk hc _, by rw [State.noted, chunk_setChunk hc]⟩

/-- Further notes in the chunk. -/
theorem defers_setChunk {d : Deferred} {w : Chunk} (h : Defers s t c k d) (hc : s.cur = .slot c k) (hw : w.effects = t.chunk.effects) :
    Defers s (t.setChunk w) c k d := by
  have ht : t.cur = .slot c k := (onlySlot_cur h.only).trans hc
  refine ⟨onlySlot_trans h.only ?_, (regs_setChunk ht w).trans h.regs, by rw [chunk_setChunk ht, hw, h.effects]⟩
  rw [setChunk_slot t c k ht]
  exact onlySlot_setSlot t c k _

/-- A deferred atomic in local memory is noted, with the stack of its place (R235, R371). -/
theorem deferAtomic_mem (hc : s'.cur = .slot c k) (hl : s.locateInside va (atomicBits ty / 8) .write = .ok (.mem pa, s'))
    (hn : s'.chunk.deferredCount < 64) : ∃ t, s.deferAtomic opc ty va x = .ok ((), t) ∧ Defers s' t c k (.atomic opc ty pa x) := by
  refine ⟨(s'.noted (.atomic opc ty pa x)).notedStack pa, ?_, defers_setChunk (defers_noted hc _) hc rfl⟩
  simp only [State.deferAtomic, hl, Res.andThen, defer_room hn]
  rfl

/-- A deferred atomic in the slot's own local store is noted, with its granule marked (R175, R235). -/
theorem deferAtomic_ls (hc : s'.cur = .slot c k) (hl : s.locateInside va (atomicBits ty / 8) .write = .ok (.ls c off, s'))
    (hn : s'.chunk.deferredCount < 64) (hr : s'.chunk.remoteOn c [off / 64] = false) (hs : s'.soleChunk c k) :
    ∃ t, s.deferAtomic opc ty va x = .ok ((), t) ∧ Defers s' t c k (.lsAtomic opc ty off x) := by
  have hd := defers_noted hc (.lsAtomic opc ty off x)
  have hmark := markAccumulate_sole ((onlySlot_cur hd.only).trans hc) (soleChunk_setChunk hc hs) (off / 64)
  refine ⟨(s'.noted (.lsAtomic opc ty off x)).notedGranule (off / 64), ?_, defers_setChunk hd hc rfl⟩
  simp only [State.deferAtomic, hl, Res.andThen, hr, Bool.false_eq_true, if_false, defer_room hn]
  exact hmark

/-- An atomic that returns nothing completes once it is noted (R234). -/
theorem givesFrom_deferred {d : Deferred} (h : Issues i f 1 s c k) (he : exec i s = atomicOp i f s) (hret : f.mod.getLsbD 2 = false)
    (hsys : f.mod.getLsbD 3 = false) (hty : f.mod.extractLsb' 0 2 = ty) (hva : s.addrOf f.src1 (atomicBits ty / 8) = va)
    (hal : va.toNat % (atomicBits ty / 8) = 0) (hs : OwnKept s s' c k)
    (hd : s.deferAtomic (BitVec.ofNat 8 (opcOf i)) ty va (s.src f.src2) = .ok ((), t)) (ht : Defers s' t c k d) :
    t.mem = s.mem ∧ t.chunk.effects = s.chunk.effects ++ [d] ∧ GivesFrom i s t c k s.regs.advance := by
  have hc : s'.cur = .slot c k := hs.cur.trans h.cur
  have htc : t.cur = .slot c k := (onlySlot_cur ht.only).trans hc
  have hr : t.regs = s.regs := ht.regs.trans (regs_own h.cur hs)
  refine ⟨(onlySlot_mem ht.only).trans hs.mem, ?_, ?_⟩
  · rw [ht.effects, chunk_slot s' c k hc, chunk_slot s c k h.cur, hs.bytes.2.2.2]
  · rw [← hr]
    refine givesFrom_done h he ?_ htc (regsNow_refl htc)
    subst hty hva
    simp only [hret, hsys, Bool.not_false, Bool.and_self, if_true, hal, ne_eq, not_true, if_false, hd, Res.fin]

end deferred

/-- Settles O26: each row's operation is read off from its opcode, and the update is noted in the chunk, in memory with its stack and in the local store with its granule. -/
theorem deferredAtomics : Obligations.DeferredAtomics := by
  intro f s s' c k ty e num va a ha h hal hret hsys
  obtain ⟨hexec, hopc⟩ := exec_atomic (s := s) ha
  have hpos : 0 < e := by
    dsimp only [e]
    split_ifs <;> decide
  have hcode : BitVec.ofNat 8 (opcOf a.1) = a.2.1 := by rw [hopc, BitVec.ofNat_toNat, BitVec.setWidth_eq]
  have gives {t : State} {d : Deferred} (hs : OwnKept s s' c k) (hd : s.deferAtomic a.2.1 ty va (s.src f.src2) = .ok ((), t))
      (ht : Defers s' t c k d) := givesFrom_deferred h hexec hret hsys rfl rfl hal hs (by rw [hcode]; exact hd) ht
  refine ⟨fun m v w hm hv hw => atomicNew_table hpos ha hm hv hw, fun pa hl hn => ?_, fun off hl hn hr hsole => ?_⟩
  · obtain ⟨-, hs⟩ := looked_inside h.cur hl
    obtain ⟨t, hd, ht⟩ := deferAtomic_mem (opc := a.2.1) (x := s.src f.src2) (hs.cur.trans h.cur) hl hn
    exact ⟨t, gives hs hd ht⟩
  · obtain ⟨-, hs⟩ := looked_inside h.cur hl
    obtain ⟨t, hd, ht⟩ := deferAtomic_ls (opc := a.2.1) (x := s.src f.src2) (hs.cur.trans h.cur) hl hn hr hsole
    obtain ⟨hm, heff, hg⟩ := gives hs hd ht
    exact ⟨t, hm, core_onlySlot ht.only c, heff, hg⟩

end Sys2Proof.Machine
end

section
/-! Events of a slot at a home in memory (09_chunks_and_consistency.md R228, R230, R236): O27. -/

namespace Sys2Proof.Machine

section place
variable {s s' t : State} {c : CoreId} {k : SlotId} {va : Word} {n pa : Nat} {kd : Kind} {l : Loc}

/-- An address is translated without a change to a core. -/
theorem lookup_cores (s : State) (n : CtxId) (root va : Word) : (s.lookup n root va).2.cores = s.cores := by
  unfold State.lookup
  extract_lets hits
  split
  rename_i m s1 heq
  have h1 : s1.cores = s.cores := by
    have h2 : (if hits.isEmpty then (0, s) else s.choose (hits.length + 1)).2.cores = s.cores := by
      split_ifs
      · rfl
      · exact choose_cores s _
    rw [heq] at h2
    exact h2
  split
  · exact h1
  · split
    · dsimp only
      split_ifs
      · exact h1
      · exact h1
    · exact h1

/-- Of the slot, finding where an access lies changes only the translations that its chunk has used (R302). -/
theorem slot_locate (hc : s.cur = .slot c k) (h : s.locate va n kd = .ok (l, t)) :
    ∃ w, t.slot c k = { s.slot c k with chunk := { (s.slot c k).chunk with tlb := w } } := by
  obtain rfl | ⟨lf, rfl⟩ := locate_ok h
  · exact ⟨_, rfl⟩
  · have hcur := (own_lookup (c := c) (k := k) s s.curCtx s.curPtroot va).cur.trans hc
    have hs := slot_of_cores (lookup_cores s s.curCtx s.curPtroot va) c k
    refine ⟨insertOnce (s.slot c k).chunk.tlb ((s.lookup s.curCtx s.curPtroot va).2.curCtx, va.toNat / 2 ^ lf.size, lf.size), ?_⟩
    rw [State.noteTlb, setChunk_slot _ c k hcur, slot_setSlot_same, chunk_slot _ c k hcur, hs]

theorem reachMem_yes {x : Unit} (h : s.reachMem va pa = .ok (x, t)) : s.reach s.curDie (stackOf pa) = .yes := by
  unfold State.reachMem at h
  split at h
  · assumption
  · cases h
  · cases h

/-- A stack that requests reach is owned (R367). -/
theorem stack_owned {d : DieId} {m : StackId} (h : s.reach d m = .yes) : (s.stack m).st = .owned := by
  unfold State.reach at h
  dsimp only at h
  split at h
  · assumption
  · cases h
  · cases h

/-- A place in memory inside the package: it was located, and its stack is reached there. -/
theorem locateInside_mem (h : s.locateInside va n kd = .ok (.mem pa, s')) :
    s.locate va n kd = .ok (.mem pa, s') ∧ s'.reach s'.curDie (stackOf pa) = .yes := by
  unfold State.locateInside at h
  obtain ⟨l, s1, h1, h⟩ := andThen_ok h
  cases l with
  | mem pa' =>
    dsimp only at h
    obtain ⟨x, s2, h2, h⟩ := andThen_ok h
    have he := own_reachMem h2
    simp only [Except.ok.injEq, Prod.mk.injEq, Loc.mem.injEq] at h
    obtain ⟨rfl, rfl⟩ := h
    rw [he]
    exact ⟨h1, reachMem_yes h2⟩
  | _ =>
    dsimp only at h
    cases h

end place

section home
variable {s s' t : State} {c : CoreId} {k : SlotId} {va : Word} {n pa opc : Nat} {new : Nat → Nat}

/-- A list none of whose lines hits a chunk squashes no slot that holds that chunk alone (R222). -/
theorem struck_unhit {y : Slot} {lines : List Nat} (hw : y.waiting = none) (h : y.chunk.hit lines = false) (s : State) (c : CoreId) :
    y.struck (s.listHits lines c) = none := by
  have hl : s.listHits lines c y.chunk = false := by
    refine List.any_eq_false.2 fun n hn => ?_
    have hb : y.chunk.hitBy n = false := by simpa using List.any_eq_false.1 h n hn
    have hwatch : y.chunk.watched n = false := (Bool.or_eq_false_iff.1 hb).2
    simp [hwatch, hb]
  simp only [Slot.struck, hw, hl, Bool.false_eq_true, if_false]

/-- Nothing hinders an event of the slot on the n bytes of memory at pa: the stack takes it, the token's holder does not bar it, no line is poisoned or hits the slot's own chunk, no chunk waits, and no journal is in force (R225, R236, R345, R367). -/
structure HomeFree (s : State) (c : CoreId) (k : SlotId) (pa n : Nat) : Prop where
  cur : s.cur = .slot c k
  owned : (s.stack (stackOf pa)).st = .owned
  unbarred : s.tokenBars (linesOf pa n) = false
  clean : s.poisoned (linesOf pa n) = none
  unhit : (s.slot c k).chunk.hit (linesOf pa n) = false
  waiting : (s.slot c k).waiting = none
  recording : (s.journal s.curCtx).rec_ = false
  replaying : (s.journal s.curCtx).rpl = false

theorem eventGate_free (h : (s.journal s.curCtx).rpl = false) (hc : s.cur = .slot c k) : s.eventGate = .ok ((), s) := by
  simp only [State.eventGate, hc, State.replayAdmits, h, Bool.not_false, if_true]

theorem homeRead_mem (h : s.poisoned (linesOf pa n) = none) : s.homeRead va (.mem pa) n = .ok (s.mem.bytes pa n, s) := by
  simp only [State.homeRead, h]

/-- With no journal in force, the event of an access is only that its chunk is a chunk of its own (R228, R242). -/
theorem edgeEvent_free (h : HomeFree s c k pa n) : s.edgeEvent = s.asSolo := by
  have ho := asSolo_only h.cur
  have hc := (onlySlot_cur ho).trans h.cur
  have hctx : s.asSolo.curCtx = s.curCtx := by simp only [State.curCtx, hc, h.cur, asSolo_slot h.cur]
  have hj : s.asSolo.journal s.curCtx = s.journal s.curCtx := by
    rw [ho.rest]
    rfl
  unfold State.edgeEvent
  rw [← State.asSolo]
  simp only [hc, hctx]
  exact journalGrant_none s.curCtx (by rw [hj, h.recording]) (by rw [hj, h.replaying]) _ _ _ _ _

/-- An event that nothing hinders gives the old value of its bytes, and writes the new one at once (R236). -/
theorem atomicEvent_free (h : HomeFree s c k pa n) : ∃ t, s.atomicEvent opc va (.mem pa) n new = .ok (s.mem.nat pa n, t)
    ∧ t.cur = .slot c k ∧ t.mem = s.mem.setBytes pa (leBytes n (new (s.mem.nat pa n))) ∧ t.regs = s.regs := by
  have hk := asSolo_slot h.cur
  have hc : s.asSolo.cur = .slot c k := (onlySlot_cur (asSolo_only h.cur)).trans h.cur
  have hstack : (s.asSolo.stack (stackOf pa)).st ≠ .fenced := by
    rw [(asSolo_only h.cur).rest]
    exact fun e => StackState.noConfusion (h.owned.symm.trans e)
  set bs := leBytes n (new (s.mem.nat pa n)) with hbs
  have hlen : bs.length = n := leBytes_length _ _
  obtain ⟨hcur, hmem, hslot, -⟩ := commitWrite_ok (c := c) (k := k) s.asSolo pa bs none
    (struck_unhit (by rw [hk, h.waiting]) (by rw [hk, hlen]; exact h.unhit) _ c)
  refine ⟨s.asSolo.commitWrite pa bs none, ?_, hcur.trans hc, ?_, ?_⟩
  · simp only [State.atomicEvent, eventGate_free h.replaying h.cur, Res.andThen, State.atomicStatus, State.homeBarred, h.unbarred,
      homeRead_mem h.clean, ne_eq, not_true, Bool.false_eq_true, if_false, edgeEvent_free h]
    rfl
  · rw [hmem, if_neg hstack, onlySlot_mem (asSolo_only h.cur)]
  · rw [regs_slot _ c k (hcur.trans hc), hslot, hk, regs_slot s c k h.cur]

/-- An aligned atomic of an instruction that is alone acts at its home (R236). -/
theorem atomicAlone_free {f : Fields} (hsys : f.mod.getLsbD 3 = false) (hal : va.toNat % n = 0) (ha : s.isAlone = true)
    (hl : s.locateInside va n .write = .ok (.mem pa, s')) (hs : OwnKept s s' c k) (hf : HomeFree s' c k pa n) :
    ∃ t, s.atomicAlone f opc va n new = .ok (s.mem.nat pa n, t)
      ∧ t.cur = .slot c k ∧ t.mem = s.mem.setBytes pa (leBytes n (new (s.mem.nat pa n))) ∧ t.regs = s.regs := by
  obtain ⟨t, he, hc, hm, hr⟩ := atomicEvent_free (va := va) (opc := opc) (new := new) hf
  rw [hs.mem] at he hm
  have hcs : s.cur = .slot c k := hs.cur.symm.trans hf.cur
  refine ⟨t, ?_, hc, hm, hr.trans (regs_own hcs hs)⟩
  simp only [State.atomicAlone, hal, hsys, ha, hl, Res.andThen, he, ne_eq, not_true, Bool.not_true, Bool.false_eq_true, if_false]

/-- What an access of an instruction that is alone needs beside its place, for nothing to hinder its event. -/
theorem homeFree_inside (hc : s.cur = .slot c k) (hl : s.locateInside va n .write = .ok (.mem pa, s')) (ha : s.isAlone = true)
    (hb : s'.tokenBars (linesOf pa n) = false) (hp : s'.poisoned (linesOf pa n) = none) (hh : (s.slot c k).chunk.hit (linesOf pa n) = false)
    (hrec : (s'.journal s'.curCtx).rec_ = false) (hrpl : (s'.journal s'.curCtx).rpl = false) : HomeFree s' c k pa n := by
  obtain ⟨hloc, hreach⟩ := locateInside_mem hl
  obtain ⟨w, hw⟩ := slot_locate hc hloc
  have hwait : (s.slot c k).waiting = none := by
    have : (s.slot c k).alone = true := by simpa only [State.isAlone, hc] using ha
    simp only [Slot.alone, Bool.and_eq_true, Option.isNone_iff_eq_none] at this
    exact this.2
  exact ⟨(own_locate hc hloc).cur.trans hc, stack_owned hreach, hb, hp, by rw [hw]; exact hh, by rw [hw]; exact hwait, hrec, hrpl⟩

end home

section returning
variable {f : Fields} {s s' : State} {c : CoreId} {k : SlotId} {d b : BitVec 5} {pa e : Nat} {ty : BitVec 2}

theorem atomicBits_cases (ty : BitVec 2) : atomicBits ty = 32 ∨ atomicBits ty = 64 := by
  unfold atomicBits
  split_ifs
  · exact .inr rfl
  · exact .inl rfl

/-- The bytes of an atomic's place make a number of its width. -/
theorem nat_lt_atomic (m : Mem) (pa : Nat) (he : e = 32 ∨ e = 64) : m.nat pa (e / 8) < 2 ^ e := by
  have h := leNat_lt (m.bytes pa (e / 8))
  have hl : (m.bytes pa (e / 8)).length = e / 8 := by simp [Mem.bytes]
  rw [hl] at h
  rcases he with rfl | rfl
  · exact h
  · exact h

/-- The value that an atomic returns is the old one, extended by its type (R86, R234). -/
theorem atomicOld_eq {m : Nat} (h : m < 2 ^ atomicBits ty) : atomicOld ty m = BitVec.ofInt 64 (atomicNum ty (atomicBits ty) m) := by
  have hsign : m.testBit (atomicBits ty - 1) = decide (2 ^ (atomicBits ty - 1) ≤ m) := by
    rw [Nat.testBit_eq_decide_div_mod_eq, decide_eq_decide]
    rcases atomicBits_cases ty with he | he
    · rw [he] at h ⊢
      omega
    · rw [he] at h ⊢
      omega
  unfold atomicOld atomicNum
  dsimp only
  rw [Nat.mod_eq_of_lt h, hsign]
  split_ifs
  · rfl
  · exact (BitVec.ofInt_natCast 64 m).symm

/-- A pair of G registers as one number (R117). -/
theorem pair_toNat {o : Operand} (ho : o = .g d) : (s.pair o).toNat = (s.getG d).toNat + 2 ^ 64 * (s.getG (d + 1)).toNat := by
  subst ho
  have h := (s.getG d).isLt
  rw [State.pair, gNum, BitVec.toNat_append, ← Nat.shiftLeft_add_eq_or_of_lt h, Nat.shiftLeft_eq]
  omega

/-- An atomic that returns its old value gives it to its destination; memory takes the new value at once (R236). -/
theorem givesFrom_atomic {num : Nat → Int} {a : Instr × Byte × (Nat → Nat → Nat → Nat)} (hd : f.dst = .g d) (hty : f.mod.extractLsb' 0 2 = ty)
    (he : e = atomicBits ty) (hnum : num = atomicNum ty e) (ha : a ∈ atomicTable f e num) (h : Issues a.1 f 1 s c k) (hret : f.mod.getLsbD 2 = true)
    (hsys : f.mod.getLsbD 3 = false) (hal : (s.addrOf f.src1 (e / 8)).toNat % (e / 8) = 0) (halone : s.isAlone = true)
    (hl : s.locateInside (s.addrOf f.src1 (e / 8)) (e / 8) .write = .ok (.mem pa, s')) (hf : HomeFree s' c k pa (e / 8)) :
    ∃ t, t.mem = s.mem.setBytes pa (leBytes (e / 8) (a.2.2 (s.mem.nat pa (e / 8)) ((s.src f.src2).toNat % 2 ^ e) ((s.getG d).toNat % 2 ^ e)))
      ∧ GivesFrom a.1 s t c k (s.regs.putG d (BitVec.ofInt 64 (num (s.mem.nat pa (e / 8))))).advance := by
  subst hnum he
  obtain ⟨hexec, hopc⟩ := exec_atomic (s := s) ha
  have hbits := atomicBits_cases ty
  have hm := nat_lt_atomic s.mem pa hbits
  have hpos : 0 < atomicBits ty := by omega
  have hlt (x : Nat) : x % 2 ^ atomicBits ty < 2 ^ atomicBits ty := Nat.mod_lt _ (Nat.two_pow_pos _)
  have hnew := atomicNew_table hpos ha hm (hlt (s.src f.src2).toNat) (hlt (s.getG d).toNat)
  rw [atomicNew_mod, ← hopc] at hnew
  obtain ⟨t, hat, hc, hmem, hr⟩ := atomicAlone_free (opc := opcOf a.1) hsys hal halone hl (looked_inside h.cur hl).2 hf
    (new := fun m => atomicNew (opcOf a.1) ty (atomicBits ty) m (s.src f.src2).toNat (s.getG d).toNat)
  refine ⟨t, by rw [hmem, hnew], ?_⟩
  rw [← hr, ← atomicOld_eq hm]
  refine givesFrom_done h hexec ?_ hc (regsNow_setG (regsNow_refl hc) hc d _)
  simp only [hret, hd, hty, gNum, Bool.not_true, Bool.false_and, Bool.false_eq_true, if_false, if_true, hat, Res.fin]

/-- ACAS2 gives the pair that memory held, and writes the new pair where that was the one awaited (R234). -/
theorem givesFrom_acas2 (hd : f.dst = .g d) (h : Issues (.acas2 f) f 1 s c k) (hsys : f.mod.getLsbD 3 = false)
    (hal : (s.addrOf f.src1 16).toNat % 16 = 0) (halone : s.isAlone = true)
    (hl : s.locateInside (s.addrOf f.src1 16) 16 .write = .ok (.mem pa, s')) (hf : HomeFree s' c k pa 16) :
    ∃ t, t.mem = s.mem.setBytes pa (leBytes 16 (if s.mem.nat pa 16 = (s.pair f.dst).toNat then (s.pair f.src2).toNat else s.mem.nat pa 16))
      ∧ GivesFrom (.acas2 f) s t c k
        ((s.regs.putG d (BitVec.ofNat 64 (s.mem.nat pa 16))).putG (d + 1) (BitVec.ofNat 64 (s.mem.nat pa 16 / 2 ^ 64))).advance := by
  set m := s.mem.nat pa 16
  have hlow : (BitVec.ofNat 128 m).extractLsb' 0 64 = BitVec.ofNat 64 m := by
    apply BitVec.eq_of_toNat_eq
    simp only [BitVec.extractLsb'_toNat, BitVec.toNat_ofNat, Nat.shiftRight_zero]
    omega
  have hhigh : (BitVec.ofNat 128 m).extractLsb' 64 64 = BitVec.ofNat 64 (m / 2 ^ 64) := by
    apply BitVec.eq_of_toNat_eq
    simp only [BitVec.extractLsb'_toNat, BitVec.toNat_ofNat, Nat.shiftRight_eq_div_pow]
    omega
  obtain ⟨t, hat, hc, hmem, hr⟩ := atomicAlone_free (opc := 0x70) hsys hal halone hl (looked_inside h.cur hl).2 hf
    (new := fun m => if m = (s.pair f.dst).toNat then (s.pair f.src2).toNat else m)
  refine ⟨t, hmem, ?_⟩
  rw [← hr, ← hlow, ← hhigh]
  refine givesFrom_done h (arm_acas2 f s) ?_ hc (regsNow_setPair (regsNow_refl hc) hc hd _)
  simp only [hat, Res.fin]
  rfl

end returning

/-- Settles O27: an atomic that is alone acts on memory in one event that nothing hinders, by the operation of its row, or by the comparison of its pair. -/
theorem returningAtomics : Obligations.ReturningAtomics := by
  intro f s s' c k d pa ty e num free hd
  have hfree {n : Nat} {va : Word} (hc : s.cur = .slot c k) (hl : s.locateInside va n .write = .ok (.mem pa, s')) (h : free n) :
      s.isAlone = true ∧ HomeFree s' c k pa n := by
    obtain ⟨hb, hp, hh, ha, hrec, hrpl⟩ := h
    exact ⟨ha, homeFree_inside hc hl ha hb hp hh hrec hrpl⟩
  refine ⟨fun a ha h hret hsys hal hl hf => ?_, fun b hb h hsys hal hl hf => ?_⟩
  · obtain ⟨halone, hhome⟩ := hfree h.cur hl hf
    exact givesFrom_atomic hd rfl rfl rfl ha h hret hsys hal halone hl hhome
  · obtain ⟨halone, hhome⟩ := hfree h.cur hl hf
    intro m w v
    have hgives := givesFrom_acas2 hd h hsys hal halone hl hhome
    rwa [pair_toNat hd, pair_toNat hb] at hgives

end Sys2Proof.Machine
end

section
/-! WAITV, its wake and its time-out (09_chunks_and_consistency.md R240): O29. -/

namespace Sys2Proof.Machine

section waitv
variable {f : Fields} {s s' : State} {c : CoreId} {k : SlotId} {d : BitVec 5} {pa n : Nat} {ex : Option Nat}

theorem addrOf_congr {t : State} (h : t.regs = s.regs) (o : Operand) (n : Nat) : t.addrOf o n = s.addrOf o n := by
  cases o <;> simp only [State.addrOf, State.memAddr, State.getA, h]

theorem src_congr {t : State} (h : t.regs = s.regs) (o : Operand) : t.src o = s.src o := by
  cases o <;> simp only [State.src, State.getG, State.getA, h]

/-- The bytes of a WAITV's place (R240). -/
def waitBytes (f : Fields) : Nat := if f.mod.getLsbD 0 then 8 else 4

/-- What WAITV comes to once the value at its place in memory is read: it completes with a value that differs, and parks on an equal one (R240). -/
def State.waitEnd (s : State) (f : Fields) (pa v : Nat) : Eff :=
  if v ≠ (s.src f.src2).toNat % 2 ^ (8 * waitBytes f) then .done (s.setG (gNum f.dst) (BitVec.ofNat 64 v))
  else .left (s.parkUntil (.waitv (gNum f.dst) false pa (waitBytes f) s.waitExpiry) s.waitExpiry .waitvTimeout)

/-- WAITV, alone, reads its place at its home in an event of its own (R236, R240). -/
theorem exec_waitv (h : Issues (.waitv f) f 1 s c k) (ha : s.isAlone = true) (hal : (s.addrOf f.src1 (waitBytes f)).toNat % waitBytes f = 0)
    (hl : s.asSolo.locateInside (s.addrOf f.src1 (waitBytes f)) (waitBytes f) .read = .ok (.mem pa, s'))
    (hp : s'.poisoned (linesOf pa (waitBytes f)) = none) :
    exec (.waitv f) s = .next (concludeSlot c k (opcOf (.waitv f)) (.waitv f) f (s'.waitEnd f pa (s'.mem.nat pa (waitBytes f)))) := by
  have hgate : s.soloGate 0x06 = .ok ((), s.asSolo) := if_pos ha
  have hvalue : s.asSolo.waitValue (s.asSolo.addrOf f.src1 (waitBytes f)) (waitBytes f) = .ok ((.mem pa, s'.mem.nat pa (waitBytes f)), s') := by
    rw [addrOf_congr (asSolo_regs h.cur)]
    simp only [State.waitValue, hal, hl, homeRead_mem hp, Res.andThen, ne_eq, not_true, if_false]
    rfl
  have hbytes : (if f.mod.getLsbD 0 then 8 else 4) = waitBytes f := rfl
  rw [arm_waitv, execWaitv, scalar, issue_body h, hgate]
  simp only [Res.fin, hbytes, hvalue]
  rfl

/-- WAITV on a value that differs completes with it (R240). -/
theorem givesFrom_waitv {v : Nat} {r : Regs} (hd : f.dst = .g d) (hc : s'.cur = .slot c k) (hr : s'.regs = r)
    (he : exec (.waitv f) s = .next (concludeSlot c k (opcOf (.waitv f)) (.waitv f) f (s'.waitEnd f pa v)))
    (hv : v ≠ (s'.src f.src2).toNat % 2 ^ (8 * waitBytes f)) : GivesFrom (.waitv f) s s' c k (r.putG d (BitVec.ofNat 64 v)).advance := by
  rw [State.waitEnd, if_pos hv, hd] at he
  rw [← hr]
  exact givesFrom_concluded he hc (regsNow_setG (regsNow_refl hc) hc d _)

theorem agenda_hint (s : State) (opc : Nat) (f : Fields) : (s.hint opc f).agenda = s.agenda := by
  unfold State.hint
  dsimp only
  split_ifs
  · rfl
  · exact setChunk_agenda s _

/-- The slot parked by an instruction that is being performed: its chunk holds nothing more but the translation of its place, and a time-out is posted where there is one (R240, R302). -/
structure ParkedFor (s t : State) (c : CoreId) (k : SlotId) (p : Park) (ex : Option Nat) (ev : Instr) : Prop where
  only : OnlySlot s t c k
  slot : t.slot c k = { s.slot c k with park := p, chunk := { tlb := (s.slot c k).chunk.tlb, deadSet := (t.slot c k).chunk.deadSet } }
  timeout : ex.isSome = true → .event (.slot c k) ev ∈ t.agenda

theorem parkedFor_parkUntil (hc : s.cur = .slot c k) (p : Park) (ex : Option Nat) (ev : Instr) : ParkedFor s (s.parkUntil p ex ev) c k p ex ev := by
  set t := s.setSlot c k { s.slot c k with park := p, chunk := { tlb := s.chunk.tlb } } with ht
  have ho : OnlySlot s t c k := onlySlot_setSlot s c k _
  have hslot : t.slot c k = { s.slot c k with park := p, chunk := { tlb := (s.slot c k).chunk.tlb } } := by
    rw [ht, slot_setSlot_same, chunk_slot s c k hc]
  have he : s.parkUntil p ex ev = if ex.isSome then t.postEvent (.slot c k) ev else t := by simp only [State.parkUntil, hc, ht]
  rw [he]
  split_ifs with hs
  · exact ⟨onlySlot_trans ho (onlySlot_postEvent t _ _ c k), by rw [slot_postEvent, hslot], fun _ => mem_postEvent.2 (.inl rfl)⟩
  · exact ⟨ho, by rw [hslot], fun h => absurd h hs⟩

/-- The hints of an instruction count from its parking on (R72). -/
theorem parkedFor_hint {t : State} {p : Park} {ev : Instr} (h : ParkedFor s t c k p ex ev) (hc : s.cur = .slot c k) (opc : Nat) (f : Fields) :
    ParkedFor s (t.hint opc f) c k p ex ev := by
  have ht : t.cur = .slot c k := (onlySlot_cur h.only).trans hc
  obtain ⟨m, hm⟩ := slot_hint ht opc f
  refine ⟨onlySlot_trans h.only (regsNow_hint (regsNow_refl ht) ht opc f).only, ?_, fun hs => by rw [agenda_hint]; exact h.timeout hs⟩
  rw [hm, h.slot]

/-- WAITV on the value that it names parks its slot (R240). -/
theorem waitv_parks {v : Nat} (hd : f.dst = .g d) (hc : s'.cur = .slot c k) (hex : s'.waitExpiry = ex)
    (he : exec (.waitv f) s = .next (concludeSlot c k (opcOf (.waitv f)) (.waitv f) f (s'.waitEnd f pa v)))
    (hv : v = (s'.src f.src2).toNat % 2 ^ (8 * waitBytes f)) :
    ∃ u, exec (.waitv f) s = .next u ∧ ParkedFor s' u c k (.waitv d false pa (waitBytes f) ex) ex .waitvTimeout := by
  have hp := parkedFor_parkUntil hc (.waitv d false pa (waitBytes f) ex) ex .waitvTimeout
  have hperforms : ((s'.parkUntil (.waitv d false pa (waitBytes f) ex) ex .waitvTimeout).slot c k).park.performs = true := by
    rw [hp.slot]
    rfl
  rw [State.waitEnd, if_neg (not_not.2 hv), hd, hex, gNum, concludeSlot, if_pos hperforms] at he
  exact ⟨_, he, parkedFor_hint hp hc _ f⟩

end waitv

section wake
variable {s : State} {c : CoreId} {k : SlotId} {d : BitVec 5} {pa n : Nat} {ex : Option Nat}

/-- A slot after a register write: the register's value, and what its chunk notes of it (R72). -/
theorem slot_setG (hc : s.cur = .slot c k) (n : BitVec 5) (x : Word) : (s.setG n x).slot c k = { s.slot c k with
    regs := s.regs.putG n x
    chunk := { (s.slot c k).chunk with
      deadSet := (s.slot c k).chunk.deadSet &&& ~~~(1#64 <<< deadG n), written := (s.slot c k).chunk.written ||| ~~~(~~~(1#64 <<< deadG n)) } } := by
  simp [State.setG, State.alive, State.setRegs, State.setChunk, State.regs, State.chunk, hc, Regs.putG]

/-- The registers after a wait: the value in its register, and the dead bits that the wait noted in force (R72, R240). -/
def State.waited (s : State) (d : BitVec 5) (x : Word) : Regs :=
  let r := (s.regs.putG d x).advance
  { r with dead := r.dead ||| (s.chunk.deadSet &&& ~~~(1#64 <<< deadG d)) }

/-- A slot goes on after its wait with the value that it has read (R240). -/
structure Woken (s u : State) (c : CoreId) (k : SlotId) (d : BitVec 5) (x : Word) : Prop where
  only : OnlySlot s u c k
  park : (u.slot c k).park = .ready
  regs : (u.slot c k).regs = s.waited d x
  turn : .turn c k ∈ u.agenda

/-- A wait on memory ends with the value there, if no poison is met and its stack is reached (R240). -/
theorem woken_endWait (hc : s.cur = .slot c k) (ha : (s.core c).asleep = false) (hp : s.poisoned (linesOf pa n) = none)
    (hr : s.reach (dieOf c) (stackOf pa) = .yes) (ev : Instr) :
    Woken s (s.endWait c k d false pa n ev) c k d (BitVec.ofNat 64 (leNat ((s.mem.bytes pa n).take 8))) := by
  set x := BitVec.ofNat 64 (leNat ((s.mem.bytes pa n).take 8)) with hx
  have hrouse : s.rouse c = s := by simp only [State.rouse, ha, Bool.false_eq_true, if_false]
  have hcur : { s with cur := .slot c k } = s := by rw [← hc]
  have hend : s.endWait c k d false pa n ev = (((s.setG d x).setRegs (s.setG d x).regs.advance).freshChunk c k).wake c k := by
    simp only [State.endWait, hrouse, hcur, State.waitReach, Bool.false_eq_true, if_false, hr, homeRead_mem hp, hx]
  have hg := regsNow_setG (regsNow_refl hc) hc d x
  have hgc := regsNow_cur hg hc
  have hadv := regsNow_setRegs hg hc (s.setG d x).regs.advance
  obtain ⟨ho, hslot, hturn⟩ := wake_ready (((s.setG d x).setRegs (s.setG d x).regs.advance).freshChunk c k) c k
  rw [hend]
  refine ⟨onlySlot_trans (onlySlot_trans hadv.only (onlySlot_setSlot _ c k _)) ho, by rw [hslot], ?_, hturn⟩
  rw [hslot, State.freshChunk, slot_setSlot_same, setRegs_slot _ c k hgc, slot_setSlot_same, slot_setG hc, regsNow_regs hg hc, State.waited,
    chunk_slot s c k hc]

/-- The wake of a WAITV, and its time-out once its rotation has come, end the wait (R240). -/
theorem waitv_ends (hc : s.cur = .slot c k) (hp : (s.slot c k).park = .waitv d false pa n ex) :
    exec .waitvWake s = .next (s.endWait c k d false pa n .waitvWake)
      ∧ ∀ r, ex = some r → r ≤ s.rot → exec .waitvTimeout s = .next (s.endWait c k d false pa n .waitvWake) := by
  have hw : s.wakeWaiter c k = s.endWait c k d false pa n .waitvWake := by simp only [State.wakeWaiter, hp]
  refine ⟨?_, fun r hr hrot => ?_⟩
  · rw [arm_waitvWake, execWaitvWake]
    simp only [hc, hp, hw]
  · rw [arm_waitvTimeout, execWaitvTimeout]
    simp only [hc, hp, hr, timed_due hrot, hw]

end wake

/-- Settles O29: WAITV reads its place in an event of its own and compares; its wake and its time-out end the wait alike. -/
theorem waitsOnMemory : Obligations.WaitsOnMemory := by
  intro f s s' c k d pa n v ex
  refine ⟨fun hd h ha hal hl hp => ?_, fun m e hc has hpark hp hreach => ?_⟩
  · have hsolo := asSolo_only h.cur
    have hc : s.asSolo.cur = .slot c k := (onlySlot_cur hsolo).trans h.cur
    obtain ⟨hlook, hown⟩ := looked_inside hc hl
    have hc' : s'.cur = .slot c k := hown.cur.trans hc
    have hr : s'.regs = s.regs := (regs_own hc hown).trans (asSolo_regs h.cur)
    have hv : s'.mem.nat pa n = v := by rw [hown.mem, onlySlot_mem hsolo]
    have hx : s'.waitExpiry = ex := by
      have hrot : s'.rot = s.rot := by rw [hlook, hsolo.rest]
      rw [State.waitExpiry, hr, hrot]
    have he := exec_waitv h ha hal hl hp
    rw [show s'.mem.nat pa (waitBytes f) = v from hv] at he
    refine ⟨fun hne => givesFrom_waitv hd hc' hr he (by rw [src_congr hr]; exact hne), fun heq => ?_⟩
    obtain ⟨u, hu, hpk⟩ := waitv_parks hd hc' hx he (by rw [src_congr hr]; exact heq)
    refine ⟨u, hu, hpk.only, by rw [hpk.slot]; rfl, ?_, ?_, hpk.timeout⟩
    · rw [hpk.slot, ← regs_slot s' c k hc', hr]
    · rw [hpk.slot]
  · have hend := woken_endWait (d := d) hc has hp hreach .waitvWake
    obtain ⟨hwake, htimeout⟩ := waitv_ends hc hpark
    exact ⟨⟨_, hwake, hend.only, hend.park, hend.regs, hend.turn⟩,
      fun r hr hrot => ⟨_, htimeout r hr hrot, hend.only, hend.park, hend.regs, hend.turn⟩⟩

end Sys2Proof.Machine
end

section
/-! JRNL and what its grant does (09_chunks_and_consistency.md R241, R242): O30. -/

namespace Sys2Proof.Machine

section words

/-- Bits written one behind the other make the number of their fields. -/
theorem append_toNat {w v : Nat} (x : BitVec w) (y : BitVec v) : (x ++ y).toNat = x.toNat * 2 ^ v + y.toNat := by
  rw [BitVec.toNat_append, ← Nat.shiftLeft_add_eq_or_of_lt y.isLt, Nat.shiftLeft_eq]

theorem ofBool_toNat (b : Bool) : (BitVec.ofBool b).toNat = bit b := by cases b <;> rfl

/-- The fields of the JRNL status word (R241). -/
theorem status_eq (j : Journal) : j.status
    = BitVec.ofNat 64 (bit j.rec_ + 2 * bit j.rpl + 4 * bit j.full + 8 * bit j.div + 2 ^ 32 * j.count.toNat) := by
  have hcount := j.count.isLt
  have hrec := bit_le_one j.rec_
  have hrpl := bit_le_one j.rpl
  have hfull := bit_le_one j.full
  have hdiv := bit_le_one j.div
  apply BitVec.eq_of_toNat_eq
  simp only [Journal.status, append_toNat, ofBool_toNat, BitVec.toNat_ofNat]
  omega

/-- The fields of the header of a finished recording (R242). -/
theorem mkJournalHeader_toNat (count : BitVec 32) (n : CtxId) (full : Bool) :
    (mkJournalHeader count n full).toNat = count.toNat + 2 ^ 32 * n.toNat + 2 ^ 62 * bit full + 2 ^ 63 := by
  simp only [mkJournalHeader, append_toNat, ofBool_toNat, BitVec.toNat_ofNat]
  omega

/-- A journal header is good for a replay of a context in a buffer of some pages (R241, R243). -/
def goodHeader (h : Nat) (n : CtxId) (pages : Nat) : Prop :=
  h.testBit 63 = true ∧ h / 2 ^ 32 % 4096 = n.toNat ∧ h % 2 ^ 32 ≤ (4096 * pages - 64) / 16

/-- The test that JRNL.RPL makes of a header. -/
def badHeader (h : BitVec 512) (n : CtxId) (pages : Nat) : Bool :=
  !h.getLsbD 63 || h.extractLsb' 32 12 != n || decide (journalRoom pages < (h.extractLsb' 0 32).toNat)

theorem badHeader_iff (h : BitVec 512) (n : CtxId) (pages : Nat) : badHeader h n pages = false ↔ goodHeader h.toNat n pages := by
  have hctx : h.extractLsb' 32 12 = n ↔ h.toNat / 2 ^ 32 % 4096 = n.toNat := by
    rw [← BitVec.toNat_inj, BitVec.extractLsb'_toNat, Nat.shiftRight_eq_div_pow]
  have hcount : (h.extractLsb' 0 32).toNat = h.toNat % 2 ^ 32 := by rw [BitVec.extractLsb'_toNat, Nat.shiftRight_zero]
  simp only [badHeader, goodHeader, Bool.or_eq_false_iff, Bool.not_eq_false', bne_eq_false_iff_eq, decide_eq_false_iff_not, not_lt, hctx, hcount,
    journalRoom, BitVec.getLsbD, and_assoc]

end words

section cuts
variable {i : Instr} {f : Fields} {s s' t : State} {c : CoreId} {k : SlotId} {d : Cut} {r : Regs} {w : Chunk} {effects : List Deferred}

/-- The slot of s with the registers r, and with these effects noted in its chunk besides. -/
structure Notes (s t : State) (c : CoreId) (k : SlotId) (r : Regs) (effects : List Deferred) : Prop where
  only : OnlySlot s t c k
  slot : t.slot c k = { s.slot c k with regs := r, chunk := (t.slot c k).chunk }
  effects : (t.slot c k).chunk.effects = (s.slot c k).chunk.effects ++ effects
  solo : (t.slot c k).chunk.solo = (s.slot c k).chunk.solo
  len : (t.slot c k).chunk.len = (s.slot c k).chunk.len
  wr : (t.slot c k).chunk.wr = (s.slot c k).chunk.wr

theorem notes_setG (hc : s.cur = .slot c k) (n : BitVec 5) (x : Word) : Notes s (s.setG n x) c k (s.regs.putG n x) [] := by
  have hs := slot_setG hc n x
  exact ⟨(regsNow_setG (regsNow_refl hc) hc n x).only, by rw [hs], by rw [hs, List.append_nil], by rw [hs], by rw [hs], by rw [hs]⟩

theorem notes_noted (hc : s.cur = .slot c k) (x : Deferred) : Notes s (s.noted x) c k s.regs [x] := by
  have hs := slot_noted hc x
  exact ⟨onlySlot_noted hc x, by rw [hs, regs_slot s c k hc], by rw [hs], by rw [hs], by rw [hs], by rw [hs]⟩

/-- An instruction that has noted its effects and completes with a cut due after it ends its chunk (R214). -/
theorem cutAfter_noted (hc : s.cur = .slot c k) (hy : (s.slot c k).uncut) (h : Notes s t c k r effects) (hr : r.d = (s.slot c k).regs.d) :
    CutAfter s (concludeSlot c k (opcOf i) i f (.done (t.setDue d.code d.after))) c k r.advance d effects := by
  have htc : t.cur = .slot c k := (onlySlot_cur h.only).trans hc
  have htr : t.regs = r := by rw [regs_slot t c k htc, h.slot]
  have hu := regsNow_setDue (regsNow_refl htc) htc d.code d.after
  have hh := regsNow_hint hu htc (opcOf i) f
  have hq : ((t.setDue d.code d.after).hint (opcOf i) f).regs = r := (regsNow_regs hh htc).trans htr
  have hx := regsNow_setRegs hh htc r.advance
  obtain ⟨m, hm⟩ := slot_hint (regsNow_cur hu htc) (opcOf i) f
  rw [slot_setDue htc (by rw [h.slot]; exact hy.due)] at hm
  rw [concludeSlot, hq]
  refine cutAfter_counted (w := { (t.slot c k).chunk with deadSet := m }) hy ?_ ?_ (h.solo.trans hy.solo) h.effects h.len h.wr
    (onlySlot_trans h.only hx.only) f.cb
  · rw [setRegs_slot _ c k (regsNow_cur hh htc), slot_setSlot_same, hm, h.slot]
  · rw [advance_d, hr]

/-- A serialising instruction that is alone does what its body says, and is the last of its chunk (R214). -/
theorem ownChunk_alone (ha : s.isAlone = true) (body : State → Eff) : s.ownChunk body = (body s).due 0x0E := if_pos ha

/-- The cut after a serialising instruction (R214). -/
def ownCut : Cut := { code := 0x0E, after := none }

variable {body : State → Eff}

/-- A serialising instruction that has noted its effects ends its chunk (R214). -/
theorem cutAfter_ownChunk (h : Issues i f 1 s c k) (he : exec i s = scalar i f s fun s => s.ownChunk body) (ha : s.isAlone = true)
    (hb : body s = .done t) (hc : s'.cur = .slot c k) (hy : (s'.slot c k).uncut) (hn : Notes s' t c k r effects)
    (hr : r.d = (s'.slot c k).regs.d) : ∃ u, exec i s = .next u ∧ CutAfter s' u c k r.advance ownCut effects :=
  ⟨_, by rw [he, scalar, issue_body h, ownChunk_alone ha, hb]; rfl, cutAfter_noted hc hy hn hr⟩

/-- A serialising instruction that faults leaves no chunk to cut (R214, R227). -/
theorem ownChunk_traps {x : Trap} (h : Issues i f 1 s c k) (he : exec i s = scalar i f s fun s => s.ownChunk body) (ha : s.isAlone = true)
    (hb : body s = .trap t x) : exec i s = .next (t.raise c k x) :=
  scalar_trap h he (by rw [ownChunk_alone ha, hb]; rfl)

end cuts

section buffer
variable {f : Fields} {s t : State} {c : CoreId} {k : SlotId} {kd : Kind} {va : Word} {n : Nat} {frames : List Nat}

theorem looked_refl (s : State) : Looked s s := rfl

/-- The frames of a buffer's pages are found without a change to committed memory, the journals or the slot but for notes. -/
theorem looked_bufferFrames (hc : s.cur = .slot c k) (h : s.bufferFrames va kd n = .ok (frames, t)) : Looked s t ∧ OwnKept s t c k := by
  induction n generalizing s va frames with
  | zero =>
    cases h
    exact ⟨rfl, own_refl _ c k⟩
  | succ n ih =>
    obtain ⟨l, s1, h1, h⟩ := andThen_ok h
    obtain ⟨hl, ho⟩ := looked_inside hc h1
    cases l with
    | mem pa =>
      obtain ⟨fs, s2, h2, h⟩ := andThen_ok h
      cases h
      obtain ⟨hl', ho'⟩ := ih (ho.cur.trans hc) h2
      exact ⟨looked_trans hl hl', own_trans ho ho'⟩
    | _ => cases h

theorem looked_journalBuffer (hc : s.cur = .slot c k) (h : s.journalBuffer f kd = .ok (frames, t)) : Looked s t ∧ OwnKept s t c k := by
  unfold State.journalBuffer at h
  dsimp only at h
  split_ifs at h
  exact looked_bufferFrames hc h

/-- A buffer that is misaligned or empty is an operand out of range (R241). -/
theorem journalBuffer_misaligned (h : (s.addrOf f.src1 8).toNat % 4096 ≠ 0) : s.journalBuffer f kd = .error (.trap s (illegal 0x13 1 0)) := if_pos h

theorem journalBuffer_empty (h : (s.addrOf f.src1 8).toNat % 4096 = 0) (hn : (s.src f.src2).toNat = 0) :
    s.journalBuffer f kd = .error (.trap s (illegal 0x13 2 0)) := (if_neg (not_not.2 h)).trans (if_pos hn)

end buffer

section issue
variable {f : Fields} {s s' : State} {c : CoreId} {k : SlotId} {d : BitVec 5} {frames : List Nat}

theorem uncut_own (h : OwnKept s s' c k) (hy : (s.slot c k).uncut) : (s'.slot c k).uncut := by
  obtain ⟨hzero, hwaiting, hdue, hpark, hsolo⟩ := hy
  have hs := h.slot
  exact ⟨by rw [hs]; exact hzero, by rw [hs]; exact hwaiting, by rw [hs]; exact hdue, by rw [hs]; exact hpark, h.bytes.2.1.trans hsolo⟩

theorem curCtx_own (hc : s.cur = .slot c k) (h : OwnKept s s' c k) : s'.curCtx = s.curCtx := by
  have hc' : s'.cur = .slot c k := h.cur.trans hc
  simp only [State.curCtx, hc, hc']
  rw [h.slot]

/-- JRNL has noted these effects and ended its chunk, of which it is the only instruction; nothing is committed (R214, R221, R241). -/
structure JrnlNotes (s u : State) (c : CoreId) (k : SlotId) (r : Regs) (effects : List Deferred) : Prop where
  mem : u.mem = s.mem
  journals : u.journals = s.journals
  regs : (u.slot c k).regs = r
  cut : (u.slot c k).cut = 0x0E
  park : (u.slot c k).park = .ready
  request : .slot c k ∈ u.requests
  waiting : ∃ w, (u.slot c k).waiting = some w ∧ w.len = 1 ∧ w.effects = (s.slot c k).chunk.effects ++ effects ∧ w.wr = (s.slot c k).chunk.wr

theorem jrnlNotes_cut {u : State} {r : Regs} {effects : List Deferred} (hc : s.cur = .slot c k) (ha : s.isAlone = true) (hl : Looked s s')
    (ho : OwnKept s s' c k) (h : CutAfter s' u c k r ownCut effects) : JrnlNotes s u c k r effects := by
  have hlen : (s.slot c k).chunk.len = 0 := by
    have halone : (s.slot c k).alone = true := by simpa only [State.isAlone, hc] using ha
    simpa [Chunk.isEmpty] using (Bool.and_eq_true_iff.1 halone).1
  obtain ⟨hwr, -, hlen', heff⟩ := ho.bytes
  obtain ⟨w, hw, he, hn, hwr'⟩ := h.waiting
  exact ⟨(onlySlot_mem h.only).trans ho.mem, by rw [h.only.rest, hl], h.regs, h.cut, h.park, h.request,
    w, hw, by rw [hn, hlen', hlen], by rw [he, heff], by rw [hwr', hwr]⟩

theorem jrnlStat_notes (hd : f.dst = .g d) (h : Issues (.jrnlStat f) f 1 s c k) (ha : s.isAlone = true) (hy : (s.slot c k).uncut) :
    ∃ u, exec (.jrnlStat f) s = .next u ∧ JrnlNotes s u c k (s.regs.putG d (s.journal s.curCtx).status).advance [] := by
  obtain ⟨u, he, hu⟩ := cutAfter_ownChunk h (arm_jrnlStat f s) ha (t := s.setG d (s.journal s.curCtx).status) (by rw [hd]; rfl) h.cur hy
    (notes_setG h.cur d _) (by rw [regs_slot s c k h.cur]; rfl)
  exact ⟨u, he, jrnlNotes_cut h.cur ha (looked_refl s) (own_refl s c k) hu⟩

theorem jrnlOff_notes (h : Issues (.jrnlOff f) f 1 s c k) (ha : s.isAlone = true) (hy : (s.slot c k).uncut) :
    ∃ u, exec (.jrnlOff f) s = .next u ∧ JrnlNotes s u c k s.regs.advance [.jrnlOff] := by
  obtain ⟨u, he, hu⟩ := cutAfter_ownChunk h (arm_jrnlOff f s) ha rfl h.cur hy (notes_noted h.cur .jrnlOff) (by rw [regs_slot s c k h.cur])
  exact ⟨u, he, jrnlNotes_cut h.cur ha (looked_refl s) (own_refl s c k) hu⟩

theorem jrnlRec_notes (h : Issues (.jrnlRec f) f 1 s c k) (ha : s.isAlone = true) (hy : (s.slot c k).uncut)
    (hb : s.journalBuffer f .write = .ok (frames, s')) :
    ∃ u, exec (.jrnlRec f) s = .next u ∧ JrnlNotes s u c k s.regs.advance [.jrnlOn false frames 0] := by
  obtain ⟨hl, ho⟩ := looked_journalBuffer h.cur hb
  have hc : s'.cur = .slot c k := ho.cur.trans h.cur
  obtain ⟨u, he, hu⟩ := cutAfter_ownChunk h (arm_jrnlRec f s) ha (t := s'.noted (.jrnlOn false frames 0)) (by rw [hb]; rfl) hc (uncut_own ho hy)
    (notes_noted hc _) (by rw [regs_slot s' c k hc])
  rw [regs_own h.cur ho] at hu
  exact ⟨u, he, jrnlNotes_cut h.cur ha hl ho hu⟩

/-- The number of a header's bytes. -/
theorem header_toNat (m : Mem) (pa : Nat) : (BitVec.ofNat 512 (m.nat pa 64)).toNat = m.nat pa 64 :=
  toNat_ofNat_leNat _ _ (by simp [Mem.bytes])

/-- The count of records in a header is its low word. -/
theorem extract_count (h : Nat) : (BitVec.ofNat 512 h).extractLsb' 0 32 = BitVec.ofNat 32 h := by
  rw [← BitVec.setWidth_eq_extractLsb' (by decide), BitVec.setWidth_ofNat_of_le (by decide)]

/-- The test of the header at the beginning of a buffer. -/
theorem badHeader_read (hc : s.cur = .slot c k) (ho : OwnKept s s' c k) (pa pages : Nat) :
    badHeader (BitVec.ofNat 512 (s'.mem.nat pa 64)) s'.curCtx pages = false ↔ goodHeader (s.mem.nat pa 64) s.curCtx pages := by
  rw [badHeader_iff, header_toNat, ho.mem, curCtx_own hc ho]

/-- JRNL.RPL with a good header at the beginning of its buffer notes the replay of the records that the header counts (R241). -/
theorem jrnlRpl_notes (h : Issues (.jrnlRpl f) f 1 s c k) (ha : s.isAlone = true) (hy : (s.slot c k).uncut)
    (hb : s.journalBuffer f .read = .ok (frames, s')) (hp : s'.poisoned (linesOf (frames.headD 0) 64) = none)
    (hg : goodHeader (s.mem.nat (frames.headD 0) 64) s.curCtx frames.length) :
    ∃ u, exec (.jrnlRpl f) s = .next u
      ∧ JrnlNotes s u c k s.regs.advance [.jrnlOn true frames (BitVec.ofNat 32 (s.mem.nat (frames.headD 0) 64))] := by
  obtain ⟨hl, ho⟩ := looked_journalBuffer h.cur hb
  have hc : s'.cur = .slot c k := ho.cur.trans h.cur
  have hgood := Bool.not_eq_true _ ▸ (badHeader_read h.cur ho (frames.headD 0) frames.length).2 hg
  obtain ⟨u, he, hu⟩ := cutAfter_ownChunk h (arm_jrnlRpl f s) ha
    (t := s'.noted (.jrnlOn true frames ((BitVec.ofNat 512 (s'.mem.nat (frames.headD 0) 64)).extractLsb' 0 32)))
    (by simp only [hb, Res.fin, homeRead_mem hp]; exact if_neg hgood) hc (uncut_own ho hy) (notes_noted hc _) (by rw [regs_slot s' c k hc])
  rw [regs_own h.cur ho, extract_count, ho.mem] at hu
  exact ⟨u, he, jrnlNotes_cut h.cur ha hl ho hu⟩

/-- JRNL.RPL with a header that is not good is an operand out of range (R241). -/
theorem jrnlRpl_traps (h : Issues (.jrnlRpl f) f 1 s c k) (ha : s.isAlone = true)
    (hb : s.journalBuffer f .read = .ok (frames, s')) (hp : s'.poisoned (linesOf (frames.headD 0) 64) = none)
    (hg : ¬ goodHeader (s.mem.nat (frames.headD 0) 64) s.curCtx frames.length) :
    exec (.jrnlRpl f) s = .next (s'.raise c k (illegal 0x14 0 0)) := by
  obtain ⟨-, ho⟩ := looked_journalBuffer h.cur hb
  have hbad := Bool.eq_true_of_not_eq_false (mt (badHeader_read h.cur ho (frames.headD 0) frames.length).1 hg)
  exact ownChunk_traps h (arm_jrnlRpl f s) ha (by simp only [hb, Res.fin, homeRead_mem hp]; exact if_pos hbad)

/-- A buffer that is misaligned or empty is refused by JRNL.REC and JRNL.RPL alike. -/
theorem jrnlBuffer_traps {i : Instr} {x : Trap} (hi : i ∈ [Instr.jrnlRec f, .jrnlRpl f]) (h : Issues i f 1 s c k) (ha : s.isAlone = true)
    (hb : ∀ kd, s.journalBuffer f kd = .error (.trap s x)) : exec i s = .next (s.raise c k x) := by
  simp only [List.mem_cons, List.not_mem_nil, or_false] at hi
  obtain rfl | rfl := hi
  · exact ownChunk_traps h (arm_jrnlRec f s) ha (by simp only [hb, Res.fin])
  · exact ownChunk_traps h (arm_jrnlRpl f s) ha (by simp only [hb, Res.fin])

end issue

section grants
variable {s : State} {n : CtxId} {q : SeqNo} {frames : List Nat} {total : BitVec 32}

/-- With no recording or replay in force there is nothing to end. -/
theorem journalOff_idle (hrec : (s.journal n).rec_ = false) (hrpl : (s.journal n).rpl = false) : s.journalOff n = s := by
  simp only [State.journalOff, hrec, hrpl, Bool.or_self, Bool.false_eq_true, if_false]

/-- A replay that ends commits nothing. -/
theorem journalOff_replay (hrec : (s.journal n).rec_ = false) (hrpl : (s.journal n).rpl = true) :
    s.journalOff n = s.setJournal n { s.journal n with rec_ := false, rpl := false, part := 0 } := by
  simp only [State.journalOff, hrec, hrpl, Bool.false_or, Bool.false_eq_true, if_false, if_true]

/-- A recording that ends writes its header (R242). -/
theorem journalOff_recording (hrec : (s.journal n).rec_ = true) :
    ∃ x : Journal, x.rec_ = false ∧ x.rpl = false ∧ s.journalOff n = (s.commitWrite ((s.journal n).at 0)
      (leBytes 64 (mkJournalHeader (s.journal n).count n (s.journal n).full).toNat) none).setJournal n x := by
  simp only [State.journalOff, hrec, Bool.true_or, if_true]
  exact ⟨_, rfl, rfl, rfl⟩

/-- After JRNL.OFF neither a recording nor a replay is in force (R241). -/
theorem journalOff_ends (s : State) (n : CtxId) : ((s.journalOff n).journal n).rec_ = false ∧ ((s.journalOff n).journal n).rpl = false := by
  cases hrec : (s.journal n).rec_ with
  | true =>
    obtain ⟨x, hxrec, hxrpl, hx⟩ := journalOff_recording hrec
    rw [hx, journal_setJournal_same]
    exact ⟨hxrec, hxrpl⟩
  | false =>
    cases hrpl : (s.journal n).rpl with
    | true =>
      rw [journalOff_replay hrec hrpl, journal_setJournal_same]
      exact ⟨rfl, rfl⟩
    | false =>
      rw [journalOff_idle hrec hrpl]
      exact ⟨hrec, hrpl⟩

/-- Without a recording in force, JRNL.OFF reaches only the context's journal. -/
theorem journalOff_unrecorded (hrec : (s.journal n).rec_ = false) : (s.journalOff n).mem = s.mem ∧ (s.journalOff n).stks = s.stks := by
  cases hrpl : (s.journal n).rpl with
  | true =>
    rw [journalOff_replay hrec hrpl]
    exact ⟨rfl, rfl⟩
  | false =>
    rw [journalOff_idle hrec hrpl]
    exact ⟨rfl, rfl⟩

/-- A committed write takes its bytes where the stack is not fenced. -/
theorem commitWrite_mem {pa : Nat} (h : (s.stack (stackOf pa)).st ≠ .fenced) (bs : List Byte) (holder : Option CoreId) :
    (s.commitWrite pa bs holder).mem = s.mem.setBytes pa bs := by
  rw [(confined_commitWrite h bs holder).rest]
  rfl

/-- The end of a recording writes its header and no other byte (R242). -/
theorem journalOff_mem (hrec : (s.journal n).rec_ = true) (h : (s.stack (stackOf ((s.journal n).at 0))).st ≠ .fenced) :
    (s.journalOff n).mem = s.mem.setBytes ((s.journal n).at 0)
      (leBytes 64 ((s.journal n).count.toNat + 2 ^ 32 * n.toNat + 2 ^ 62 * bit (s.journal n).full + 2 ^ 63)) := by
  obtain ⟨x, -, -, hx⟩ := journalOff_recording hrec
  rw [hx, setJournal_mem, commitWrite_mem h, mkJournalHeader_toNat]

/-- JRNL.REC and JRNL.RPL first end what is in force, as JRNL.OFF does (R241). -/
theorem journalOn_journalOff (s : State) (n : CtxId) (q : SeqNo) (rpl : Bool) (frames : List Nat) (total : BitVec 32) :
    s.journalOn n q rpl frames total = (s.journalOff n).journalOn n q rpl frames total := by
  obtain ⟨hrec, hrpl⟩ := journalOff_ends s n
  rw [State.journalOn, State.journalOn, journalOff_idle hrec hrpl]

/-- A recording begins with a header of zeros (R241). -/
theorem journalOn_recording (hrec : (s.journal n).rec_ = false) (h : (s.stack (stackOf (frames.headD 0))).st ≠ .fenced) :
    (s.journalOn n q false frames total).mem = s.mem.setBytes (frames.headD 0) (leBytes 64 0)
      ∧ (s.journalOn n q false frames total).journal n = { rec_ := true, frames := frames, seq := q } := by
  obtain ⟨hmem, hstks⟩ := journalOff_unrecorded hrec
  have hopen : ((s.journalOff n).stack (stackOf (frames.headD 0))).st ≠ .fenced := by rwa [State.stack, hstks]
  rw [State.journalOn, if_neg Bool.false_ne_true, setJournal_mem, commitWrite_mem hopen, hmem, journal_setJournal_same]
  exact ⟨rfl, rfl⟩

/-- A replay of some records begins (R241). -/
theorem journalOn_replay (hrec : (s.journal n).rec_ = false) :
    (s.journalOn n q true frames total).mem = s.mem
      ∧ (s.journalOn n q true frames total).journal n = { rpl := decide (total ≠ 0), frames := frames, total := total, seq := q } := by
  rw [State.journalOn, if_pos rfl, setJournal_mem, (journalOff_unrecorded hrec).1, journal_setJournal_same, bne_eq_decide_ne]
  exact ⟨rfl, rfl⟩

end grants

/-- What JrnlNotes says, in the words of the statement. -/
theorem jrnlNotes_words {s : State} {c : CoreId} {k : SlotId} {r : Regs} {effects : List Deferred} {o : Host.Outcome State Fault Refusal}
    (h : ∃ u, o = .next u ∧ JrnlNotes s u c k r effects) :
    ∃ u w, o = .next u ∧ u.mem = s.mem ∧ u.journals = s.journals ∧ (u.slot c k).regs = r ∧ (u.slot c k).cut = 0x0E
      ∧ (u.slot c k).park = .ready ∧ (u.slot c k).waiting = some w ∧ w.len = 1 ∧ w.effects = (s.slot c k).chunk.effects ++ effects
      ∧ w.wr = (s.slot c k).chunk.wr ∧ .slot c k ∈ u.requests := by
  obtain ⟨u, he, hu⟩ := h
  obtain ⟨w, hw, hn, heff, hwr⟩ := hu.waiting
  exact ⟨u, w, he, hu.mem, hu.journals, hu.regs, hu.cut, hu.park, hw, hn, heff, hwr, hu.request⟩

/-- A slot that is alone with no cut before it is at the beginning of a chunk. -/
theorem uncut_alone {s : State} {c : CoreId} {k : SlotId} (hc : s.cur = .slot c k) (ha : s.isAlone = true) (hz : (s.slot c k).dZero = true)
    (hd : (s.slot c k).cutDue = none) (hp : (s.slot c k).park = .ready) (hs : (s.slot c k).chunk.solo = false) : (s.slot c k).uncut := by
  have halone : (s.slot c k).alone = true := by simpa only [State.isAlone, hc] using ha
  exact ⟨hz, Option.isNone_iff_eq_none.1 (Bool.and_eq_true_iff.1 halone).2, hd, hp, hs⟩

/-- Settles O30: each JRNL notes its effect in a chunk of its own, and the grant of the effect ends what is in force before it begins anew. -/
theorem journalInstructions : Obligations.JournalInstructions := by
  unfold Obligations.JournalInstructions
  intro f s s' c k d y bad notes va size
  refine ⟨fun ha hz hd hp hs => ⟨?stat, ?off, ?refused, ?record, ?replay⟩, ?grant⟩
  case stat =>
    rintro j rfl hdst h
    rw [← status_eq]
    exact jrnlNotes_words (jrnlStat_notes hdst h ha (uncut_alone h.cur ha hz hd hp hs))
  case off => exact fun h => jrnlNotes_words (jrnlOff_notes h ha (uncut_alone h.cur ha hz hd hp hs))
  case refused =>
    exact fun i hi h => ⟨fun hva => jrnlBuffer_traps hi h ha fun _ => journalBuffer_misaligned hva,
      fun hva hn => jrnlBuffer_traps hi h ha fun _ => journalBuffer_empty hva hn⟩
  case record => exact fun frames h hb => jrnlNotes_words (jrnlRec_notes h ha (uncut_alone h.cur ha hz hd hp hs) hb)
  case replay =>
    exact fun frames h hb hclean => ⟨fun hg => jrnlNotes_words (jrnlRpl_notes h ha (uncut_alone h.cur ha hz hd hp hs) hb hclean hg),
      fun hg => jrnlRpl_traps h ha hb hclean hg⟩
  case grant =>
    obtain ⟨hrec, hrpl⟩ := journalOff_ends s (entryCtx y.entry)
    refine ⟨hrec, hrpl, fun hj => (journalOff_unrecorded hj).1, journalOff_mem, fun rpl frames total => ⟨?_, ?_, ?_⟩⟩
    · exact journalOn_journalOff s _ _ rpl frames total
    · rintro hj rfl hopen
      exact journalOn_recording (total := total) hj hopen
    · rintro hj rfl
      exact journalOn_replay hj

end Sys2Proof.Machine
end

section
/-! Fields of capsule headers, and what the areas named by an instruction come to (10_capsules.md R244, R246, R260 to R263): O46. -/

namespace Sys2Proof.Machine

section fields
variable {w : Nat} (v : BitVec w) {lo n lo' n' x : Nat}

theorem testBit_fieldNat (lo n i : Nat) : (fieldNat v lo n).testBit i = (decide (i < n) && v.getLsbD (lo + i)) := by
  rw [fieldNat, Nat.testBit_mod_two_pow, Nat.testBit_shiftRight, BitVec.testBit_toNat]

/-- A field that has been replaced reads as its new value. -/
theorem fieldNat_setField_same (h : lo + n ≤ w) : fieldNat (setField v lo n x) lo n = x % 2 ^ n := by
  refine Nat.eq_of_testBit_eq fun i => ?_
  rw [testBit_fieldNat, Nat.testBit_mod_two_pow]
  by_cases hi : i < n
  · rw [getLsbD_setField v lo n x (by omega), if_pos (by omega), Nat.add_sub_cancel_left]
  · simp [hi]

/-- A field beside the one that is replaced reads as before. -/
theorem fieldNat_setField_ne (h : lo' + n' ≤ lo ∨ lo + n ≤ lo') (hw : lo' + n' ≤ w) :
    fieldNat (setField v lo n x) lo' n' = fieldNat v lo' n' := by
  refine Nat.eq_of_testBit_eq fun i => ?_
  rw [testBit_fieldNat, testBit_fieldNat]
  by_cases hi : i < n'
  · rw [getLsbD_setField_outside v x (by omega) (by omega)]
  · simp [hi]

theorem fieldNat_zero (lo n : Nat) : fieldNat (0 : BitVec w) lo n = 0 := by simp [fieldNat]

end fields

/-- The header of a new capsule: the identifier, the core, the slot, the priority, the launch and the context, and zeros elsewhere (R263). -/
theorem newHeader_fields (cid : Word) (c : CoreId) (k : SlotId) (prio : Nat) (seq : SeqNo) (ctx : CtxId) :
    ∀ e ∈ [(0, 64, cid.toNat), (64, 10, c.toNat), (74, 4, k.toNat), (78, 2, prio % 4), (80, 112, 0), (192, 32, seq.toNat), (224, 12, ctx.toNat), (236, 276, 0)],
      fieldNat (newHeader cid c k prio seq ctx) e.1 e.2.1 = e.2.2 := by
  have hc := cid.isLt
  have hcore := c.isLt
  have hk := k.isLt
  have hs := seq.isLt
  have hx := ctx.isLt
  simp only [List.forall_mem_cons, List.not_mem_nil, false_implies, implies_true, and_true, newHeader]
  refine ⟨?_, ?_, ?_, ?_, ?_, ?_, ?_, ?_⟩ <;>
    simp (discharger := omega) only [fieldNat_setField_same, fieldNat_setField_ne, fieldNat_zero, Nat.mod_eq_of_lt, Nat.reducePow]

section rules
variable {i : Instr} {f : Fields} {s s1 s2 t : State} {c : CoreId} {k : SlotId} {code : Byte} {eff : Eff} {body : State → Eff} {go : Prop} {a : Nat}
  {d : Deferred}

/-- The instruction issues, and its body comes to an effect. -/
def Comes (i : Instr) (f : Fields) (s : State) (c : CoreId) (k : SlotId) (e : Eff) : Prop := exec i s = .next (concludeSlot c k (opcOf i) i f e)

theorem comes_scalar (h : Issues i f 1 s c k) (e : exec i s = scalar i f s body) : Comes i f s c k (body s) := by
  rw [Comes, e, scalar, issue_body h]

theorem comes_body (h : Issues i f 1 s c k) (e : exec i s = scalar i f s body) (hb : body s = eff) : Comes i f s c k eff := hb ▸ comes_scalar h e

/-- The instruction is a Capsule trap with a code, which CAPSTAT.FCODE takes (R260). -/
def CapTraps (i : Instr) (s : State) (c : CoreId) (k : SlotId) (code : Byte) : Prop :=
  exec i s = .next ((s.setRegs { s.regs with fcode := code }).raise c k { cause := 0x0A, info := code.setWidth 64 })

theorem capTraps (h : Comes i f s c k (s.capTrap code)) : CapTraps i s c k code := h

/-- An instruction that completes where its accesses have led ends there. -/
theorem givesFrom_comes (h : Comes i f s c k (.done s2)) (hc : s2.cur = .slot c k) : GivesFrom i s s2 c k s2.regs.advance :=
  givesFrom_concluded h hc (regsNow_refl hc)

/-- An instruction whose turn is idle where its accesses have led waits there (R22). -/
theorem waits_comes (h : Comes i f s c k (.stay t)) (hc : t.cur = .slot c k) : Waits i s t c k := by
  refine ⟨_, h, ?_, ?_, fun hs => ?_⟩
  · refine onlySlot_trans ?_ (onlySlot_postTurn _ c k c k)
    split_ifs
    · exact onlySlot_setSlot t c k _
    · exact onlySlot_refl t c k
  · rw [concludeSlot, slot_postTurn, regs_slot t c k hc]
    split_ifs
    · rw [State.freshChunk, slot_setSlot_same]
      rfl
    · rfl
  · rw [chunk_slot t c k hc] at hs
    rw [concludeSlot, slot_postTurn, hs, regs_slot t c k hc]
    rfl

/-- A staging area only: the live bay is code 0x58, and what is no area 0x51 (R263, R266, R270). -/
def InStaging (i : Instr) (s : State) (c : CoreId) (k : SlotId) (a : Nat) (go : Prop) : Prop :=
  (s.liveBay a = true → CapTraps i s c k 0x58) ∧ (s.liveBay a = false → s.curLaunch.staging a = false → CapTraps i s c k 0x51)
    ∧ (s.liveBay a = false → s.curLaunch.staging a = true → go)

theorem stagingArea_staging (hl : s.liveBay a = false) (hs : s.curLaunch.staging a = true) : s.stagingArea a = .ok ((), s) := by
  simp [State.stagingArea, hl, hs]

theorem inStaging {rest : Unit → State → Eff} (h : Comes i f s c k ((s.stagingArea a).fin rest)) (hgo : Comes i f s c k (rest () s) → go) :
    InStaging i s c k a go := by
  refine ⟨fun hl => capTraps (f := f) ?_, fun hl hs => capTraps (f := f) ?_, fun hl hs => hgo ?_⟩
  · simpa only [State.stagingArea, hl, if_true, Res.fin] using h
  · simpa only [State.stagingArea, hl, hs, Bool.false_eq_true, if_false, Res.fin] using h
  · rwa [stagingArea_staging hl hs] at h

/-- The live bay or a staging area (R262). -/
theorem capArea_named (h : s.liveBay a = true ∨ s.curLaunch.staging a = true) : s.capArea a = .ok (s.liveBay a, s) := by
  rcases hl : s.liveBay a
  · simp [State.capArea, hl, h.resolve_left (by simp [hl])]
  · simp [State.capArea, hl]

theorem capArea_unnamed (hl : s.liveBay a = false) (hs : s.curLaunch.staging a = false) : s.capArea a = .error (s.capTrap 0x51) := by
  simp [State.capArea, hl, hs]

theorem atomic_ok {α : Type} {r : State → Res α} {x : α × State} (h : r s = .ok x) : s.atomic r = .ok x := by rw [State.atomic, h]

/-- The instruction notes a deferred effect and ends where its accesses have led (R221). -/
theorem noted_gives (h : Comes i f s c k (.done (s1.noted d))) (hc : s1.cur = .slot c k) : GivesFrom i s (s1.noted d) c k s1.regs.advance := by
  have hct := (onlySlot_cur (onlySlot_noted hc d)).trans hc
  have hr : (s1.noted d).regs = s1.regs := by rw [regs_slot _ c k hct, slot_noted hc, regs_slot s1 c k hc]
  exact hr ▸ givesFrom_comes h hct

/-- The visit's end is noted for the grant, which the slot waits for, and the chunk is cut with the instruction (R267). -/
def EndsVisit (i : Instr) (s s1 : State) (c : CoreId) (k : SlotId) (d : Deferred) : Prop :=
  ∃ t, exec i s = .next t ∧ CutAfter s1 t c k (s1.slot c k).regs { code := 0x0C, after := some .stop } [d]

theorem endsVisit_comes (h : Comes i f s c k (s1.endVisit d)) (hc : s1.cur = .slot c k) (hy : (s1.slot c k).uncut) (ha : (s1.slot c k).awaiting = none) :
    EndsVisit i s s1 c k d := by
  have ho := onlySlot_noted hc d
  have hk := slot_noted hc d
  have hct := (onlySlot_cur ho).trans hc
  have he : s1.endVisit d = .step ((s1.noted d).setDue 0x0C (some .stop)) := by
    simp only [State.endVisit, State.curCore, State.curSlot, hc, ha, Option.isSome_none, Bool.false_eq_true, if_false]
    rfl
  rw [he] at h
  refine ⟨_, h, cutAfter_counted (w := { (s1.slot c k).chunk with effects := (s1.slot c k).chunk.effects ++ [d] }) hy ?_ rfl hy.solo rfl rfl rfl
    (onlySlot_trans ho (regsNow_setDue (regsNow_refl hct) hct _ _).only) false⟩
  rw [slot_setDue hct (by rw [hk]; exact hy.due), hk]

end rules

end Sys2Proof.Machine
end

section
/-! What the capsule instructions come to (10_capsules.md R263 to R270): O46. -/

namespace Sys2Proof.Machine

theorem curSlot_slot {s : State} {c : CoreId} {k : SlotId} (h : s.cur = .slot c k) : s.curSlot = k := by simp [State.curSlot, h]

section rules
variable {f : Fields} {s s1 s2 t : State} {c : CoreId} {k : SlotId} {x : BitVec 512} {h j n : Nat} {e : BitVec 128} {i : Instr} {inj : Bool}

/-- CAPNEW in a launch that has no capsules (R263). -/
theorem capnew_unavailable (hi : Issues (.capnew f) f 1 s c k) (hok : s.curLaunch.capsOk = false) : CapTraps (.capnew f) s c k 0x57 :=
  capTraps (comes_body hi (arm_capnew f s) (if_pos (by rw [hok]; rfl)))

/-- CAPNEW writes a new header to a staging area (R263). -/
theorem capnew_inStaging (hi : Issues (.capnew f) f 1 s c k) (hok : s.curLaunch.capsOk = true) :
    InStaging (.capnew f) s c k (s.src f.src1).toNat (∀ s2, s2.cur = s.cur →
      s.writeHeader (s.src f.src1).toNat (newHeader (s.src f.src2) c k f.mod.toNat s.curSeq s.curCtx) = .ok ((), s2) →
      GivesFrom (.capnew f) s s2 c k s2.regs.advance) := by
  refine inStaging (comes_body hi (arm_capnew f s) (if_neg (by rw [hok]; exact Bool.false_ne_true))) fun hx s2 hc hw => ?_
  rw [curCore_slot hi.cur, curSlot_slot hi.cur] at hx
  dsimp only at hx
  rw [hw] at hx
  exact givesFrom_comes hx (hc.trans hi.cur)

section itinerary
variable {body : Nat → BitVec 512 → Nat → State → Eff}

/-- An itinerary instruction on what is no area (R262, R264). -/
theorem itineraryOp_unnamed (hi : Issues i f 1 s c k) (he : exec i s = itineraryOp i f s body) (hl : s.liveBay (s.src f.src1).toNat = false)
    (hs : s.curLaunch.staging (s.src f.src1).toNat = false) : CapTraps i s c k 0x51 := by
  refine capTraps (comes_body hi he ?_)
  simp only [State.itinerary, capArea_unnamed hl hs, Res.andThen, Res.fin]

/-- An itinerary instruction that may not make its change (R264). -/
theorem itineraryOp_refuses (hi : Issues i f 1 s c k) (he : exec i s = itineraryOp i f s body) (hx : s.itinerary (s.src f.src1).toNat = .ok ((x, j), s1))
    {code : Byte} (hb : body (s.src f.src1).toNat x j s1 = s1.capTrap code) : CapTraps i s c k code := by
  refine capTraps (comes_body hi he ?_)
  simp only [hx, Res.fin, hb, State.capTrap, if_true, BitVec.setWidth_setWidth_of_le, Nat.reduceLeDiff, BitVec.setWidth_eq]

/-- An itinerary instruction that makes its change (R264). -/
theorem itineraryOp_comes (hi : Issues i f 1 s c k) (he : exec i s = itineraryOp i f s body) (hx : s.itinerary (s.src f.src1).toNat = .ok ((x, j), s1))
    (hb : body (s.src f.src1).toNat x j s1 = .done s2) : Comes i f s c k (.done s2) := by
  refine comes_body hi he ?_
  simp only [hx, Res.fin, hb]

end itinerary

/-- CAPPUSH appends an entry (R264). -/
theorem cappush_comes (hi : Issues (.cappush f) f 1 s c k) (hx : s.itinerary (s.src f.src1).toNat = .ok ((x, j), s1)) (hn : capIlen x < 16)
    (hr : pushRun (s.src f.src1).toNat x (s1.pair f.src2) s1 = .ok ((), s2)) : Comes (.cappush f) f s c k (.done s2) := by
  refine itineraryOp_comes hi (arm_cappush f s) hx ?_
  simp only [if_neg (Nat.not_le_of_lt hn), atomic_ok hr, Res.fin]

/-- CAPHEAD puts an entry in at the first index that it may change (R264). -/
theorem caphead_comes (hi : Issues (.caphead f) f 1 s c k) (hx : s.itinerary (s.src f.src1).toNat = .ok ((x, j), s1)) (hn : capIlen x < 16)
    (hr : headRun (s.src f.src1).toNat x j (s1.pair f.src2) s1 = .ok ((), s2)) : Comes (.caphead f) f s c k (.done s2) := by
  refine itineraryOp_comes hi (arm_caphead f s) hx ?_
  simp only [if_neg (Nat.not_le_of_lt hn), atomic_ok hr, Res.fin]

/-- CAPPOP gives the last entry to a pair of registers and clears it (R264). -/
theorem cappop_comes (hi : Issues (.cappop f) f 1 s c k) (hx : s.itinerary (s.src f.src1).toNat = .ok ((x, j), s1)) (hn : j < capIlen x)
    (he : s1.readEntry (s.src f.src1).toNat (capIlen x - 1) = .ok (e, t)) (hr : popRun (s.src f.src1).toNat x t = .ok ((), s2)) :
    Comes (.cappop f) f s c k (.done (s2.setPair f.dst e)) := by
  refine itineraryOp_comes hi (arm_cappop f s) hx ?_
  simp only [if_neg (Nat.not_le_of_lt hn), he, atomic_ok hr, Res.fin]

/-- CAPSET replaces an entry (R264). -/
theorem capset_comes (hi : Issues (.capset f) f 1 s c k) (hx : s.itinerary (s.src f.src1).toNat = .ok ((x, j), s1)) (hj : j ≤ f.mod.toNat)
    (hn : f.mod.toNat < capIlen x) (hw : s1.writeEntry (s.src f.src1).toNat f.mod.toNat (s1.pair f.src2) = .ok ((), s2)) :
    Comes (.capset f) f s c k (.done s2) := by
  refine itineraryOp_comes hi (arm_capset f s) hx ?_
  simp only [if_neg (show ¬ (f.mod.toNat < j ∨ capIlen x ≤ f.mod.toNat) by omega), hw, Res.fin]

/-- An instruction that writes a pair of registers where its accesses have led. -/
theorem givesFrom_pair (h : Comes i f s c k (.done (s2.setPair f.dst e))) (hc : s2.cur = .slot c k) : GivesFrom i s s2 c k
    ((s2.regs.putG (gNum f.dst) (e.extractLsb' 0 64)).putG (gNum f.dst + 1) (e.extractLsb' 64 64)).advance :=
  givesFrom_concluded h hc (regsNow_setG (regsNow_setG (regsNow_refl hc) hc _ _) hc _ _)

section capsplit
variable (hi : Issues (.capsplit f) f 1 s c k)
include hi

/-- CAPSPLIT writes to a staging area (R265). -/
theorem capsplit_inStaging {go : Prop} (hgo : s.liveBay (s.src f.dst).toNat = false → s.curLaunch.staging (s.src f.dst).toNat = true → go) :
    InStaging (.capsplit f) s c k (s.src f.dst).toNat go := by
  obtain ⟨hlive, hnone, -⟩ := inStaging (go := True) (comes_scalar hi (arm_capsplit f s)) fun _ => trivial
  exact ⟨hlive, hnone, hgo⟩

variable (hl : s.liveBay (s.src f.dst).toNat = false) (hs : s.curLaunch.staging (s.src f.dst).toNat = true)
include hl hs

/-- CAPSPLIT from what is no area (R262). -/
theorem capsplit_unnamed (hlh : s.liveBay (s.src f.src1).toNat = false) (hsh : s.curLaunch.staging (s.src f.src1).toNat = false) :
    CapTraps (.capsplit f) s c k 0x51 := by
  refine capTraps (comes_body hi (arm_capsplit f s) ?_)
  simp only [stagingArea_staging hl hs, capArea_unnamed hlh hsh, Res.fin]

variable (hn : s.liveBay (s.src f.src1).toNat = true ∨ s.curLaunch.staging (s.src f.src1).toNat = true)
include hn

/-- CAPSPLIT between areas that overlap (R265). -/
theorem capsplit_overlaps (ho : (s.src f.dst).toNat < (s.src f.src1).toNat + capBytes ∧ (s.src f.src1).toNat < (s.src f.dst).toNat + capBytes) :
    CapTraps (.capsplit f) s c k 0x59 := by
  refine capTraps (comes_body hi (arm_capsplit f s) ?_)
  simp only [stagingArea_staging hl hs, capArea_named hn, Res.fin, if_pos ho]

variable (ho : ¬ ((s.src f.dst).toNat < (s.src f.src1).toNat + capBytes ∧ (s.src f.src1).toNat < (s.src f.dst).toNat + capBytes))
  (hx : s.readHeader (s.src f.src1).toNat = .ok (x, s1))
include ho hx

/-- CAPSPLIT of a malformed capsule, or of one whose visit is its last (R265). -/
theorem capsplit_refuses (hb : capMalformed x = true ∨ s.liveBay (s.src f.src1).toNat = true ∧ capIlen x ≤ capHead x) :
    CapTraps (.capsplit f) s c k 0x55 := by
  refine capTraps (comes_body hi (arm_capsplit f s) ?_)
  simp only [stagingArea_staging hl hs, capArea_named hn, Res.fin, if_neg ho, hx, Bool.or_eq_true, Bool.and_eq_true, decide_eq_true_eq, if_pos hb]

/-- The first entry of an itinerary that is still to be visited, which an instruction may change (R264, R265). -/
def State.firstEntry (s : State) (a : Nat) (x : BitVec 512) : Nat := if s.liveBay a then capHead x + 1 else capHead x

/-- CAPSPLIT of a sound capsule (R265). -/
theorem capsplit_comes (hm : capMalformed x = false) (hv : s.liveBay (s.src f.src1).toNat = true → capHead x < capIlen x)
    (hr : splitRun (s.src f.dst).toNat (s.src f.src1).toNat x (s.firstEntry (s.src f.src1).toNat x)
      (splitHeader x (s.firstEntry (s.src f.src1).toNat x) (s.src f.src2) c k) s1 = .ok ((), s2)) : Comes (.capsplit f) f s c k (.done s2) := by
  have hb : ¬ (s.liveBay (s.src f.src1).toNat = true ∧ capIlen x ≤ capHead x) := fun h => Nat.not_le_of_lt (hv h.1) h.2
  refine comes_body hi (arm_capsplit f s) ?_
  rw [← curCore_slot hi.cur, ← curSlot_slot hi.cur] at hr
  simp only [stagingArea_staging hl hs, capArea_named hn, Res.fin, if_neg ho, hx, hm, Bool.false_or, Bool.and_eq_true, decide_eq_true_eq, if_neg hb]
  rw [State.firstEntry] at hr
  rw [atomic_ok hr]

end capsplit

/-- CAPSEND and CAPINJ are one operation (R266). -/
theorem exec_send {e : Instr × Bool} (he : e ∈ [(Instr.capsend f, false), (.capinj f, true)]) (s : State) : exec e.1 s = capSendOp e.1 f s e.2 := by
  obtain rfl | rfl : e = (.capsend f, false) ∨ e = (.capinj f, true) := by simpa using he
  · exact arm_capsend f s
  · exact arm_capinj f s

section send
variable (hi : Issues i f 1 s c k) (he : exec i s = capSendOp i f s inj)
include hi he

/-- A departure from a launch that has no capsules (R266). -/
theorem send_unavailable (hok : s.curLaunch.capsOk = false) : CapTraps i s c k 0x57 :=
  capTraps (comes_body hi he (if_pos (by rw [hok]; rfl)))

variable (hok : s.curLaunch.capsOk = true)
include hok

/-- A capsule departs from a staging area (R266). -/
theorem send_inStaging {go : Prop} (hgo : s.liveBay (s.src f.src1).toNat = false → s.curLaunch.staging (s.src f.src1).toNat = true → go) :
    InStaging i s c k (s.src f.src1).toNat go := by
  obtain ⟨hlive, hnone, -⟩ := inStaging (go := True) (comes_body hi he (if_neg (by rw [hok]; exact Bool.false_ne_true))) fun _ => trivial
  exact ⟨hlive, hnone, hgo⟩

variable (hl : s.liveBay (s.src f.src1).toNat = false) (hs : s.curLaunch.staging (s.src f.src1).toNat = true)
  (hx : s.readHeader (s.src f.src1).toNat = .ok (x, s1))
include hl hs hx

/-- A departure of a malformed capsule (R266). -/
theorem send_malformed (hm : capMalformed x = true) : CapTraps i s c k 0x55 := by
  refine capTraps (comes_body hi he ?_)
  simp only [hok, Bool.not_true, Bool.false_eq_true, if_false, stagingArea_staging hl hs, Res.fin, hx, hm, if_true]

variable (hm : capMalformed x = false)
include hm

/-- CAPSEND of a capsule whose FCODE is not zero (R266). -/
theorem send_faulted (hinj : inj = false) (hf : capFcode x ≠ 0) : CapTraps i s c k 0x56 := by
  refine capTraps (comes_body hi he ?_)
  simp only [hok, Bool.not_true, Bool.false_eq_true, if_false, stagingArea_staging hl hs, Res.fin, hx, hm, hinj, Bool.not_false, Bool.true_and,
    bne_iff_ne, ne_eq, if_pos hf]

variable (hf : inj = true ∨ capFcode x = 0)
include hf

/-- A departure waits while a spill of the launch waits for a page (R257). -/
theorem send_waits (hw : s.spillWaits s.curSeq = true) : Waits i s s c k := by
  have hf' : ¬ (inj = false ∧ ¬ capFcode x = 0) := by rcases hf with h | h <;> simp [h]
  refine waits_stay hi he ?_
  simp only [hok, Bool.not_true, Bool.false_eq_true, if_false, stagingArea_staging hl hs, Res.fin, hx, hm, Bool.and_eq_true, Bool.not_eq_true',
    bne_iff_ne, ne_eq, if_neg hf', hw, if_true]

/-- A departure is noted for the grant (R266). -/
theorem send_comes (hw : s.spillWaits s.curSeq = false) : Comes i f s c k (.done (s1.noted (.capsend (s.src f.src1).toNat inj))) := by
  have hf' : ¬ (inj = false ∧ ¬ capFcode x = 0) := by rcases hf with h | h <;> simp [h]
  refine comes_body hi he ?_
  simp only [hok, Bool.not_true, Bool.false_eq_true, if_false, stagingArea_staging hl hs, Res.fin, hx, hm, Bool.and_eq_true, Bool.not_eq_true',
    bne_iff_ne, ne_eq, if_neg hf', hw, State.noted]

end send

section visits

/-- CAPEND with no visit in progress (R267). -/
theorem capend_unavailable (hi : Issues (.capend f) f 1 s c k) (hv : s.inVisit = false) : CapTraps (.capend f) s c k 0x50 :=
  capTraps (comes_body hi (arm_capend f s) (if_pos (by rw [hv]; rfl)))

theorem capend_body (hv : s.inVisit = true) {d : Deferred} : (if !s.inVisit then s.capTrap 0x50 else s.endVisit d) = s.endVisit d :=
  if_neg (by rw [hv]; exact Bool.false_ne_true)

/-- CAPEND waits for a remote result that an ERET awaits (R24). -/
theorem capend_awaits (hi : Issues (.capend f) f 1 s c k) (hv : s.inVisit = true) (ha : (s.slot c k).awaiting.isSome = true) (hs : s.chunk.solo = false) :
    exec (.capend f) s = .next (s.postTurn c k) := by
  rw [chunk_slot s c k hi.cur] at hs
  refine exec_stay hi hs (arm_capend f s) ((capend_body hv).trans ?_)
  rw [State.endVisit, curCore_slot hi.cur, curSlot_slot hi.cur, if_pos ha]

/-- CAPEND ends the visit (R267). -/
theorem capend_comes (hi : Issues (.capend f) f 1 s c k) (hv : s.inVisit = true) : Comes (.capend f) f s c k (s.endVisit (.capend s.regs.bay)) :=
  comes_body hi (arm_capend f s) (capend_body hv)

/-- CAPNEXT with no visit in progress (R267). -/
theorem capnext_unavailable (hi : Issues (.capnext f) f 1 s c k) (hv : s.inVisit = false) : CapTraps (.capnext f) s c k 0x50 :=
  capTraps (comes_body hi (arm_capnext f s) (if_pos (by rw [hv]; rfl)))

/-- The index that CAPNEXT goes to, and the state that has found it: that of SRC1, or the one after the index visited (R267). -/
def NextIndex (f : Fields) (s s1 : State) (n : Nat) : Prop :=
  if f.mod.getLsbD 0 then s1 = s ∧ n = (s.src f.src1).toNat else ∃ x, s.readHeader (s.regs.bayOff.toNat * 64) = .ok (x, s1) ∧ n = capHead x + 1

/-- CAPNEXT ends the visit with the next index, which must be one of an itinerary (R267). -/
theorem capnext_comes (hi : Issues (.capnext f) f 1 s c k) (hv : s.inVisit = true) (hn : NextIndex f s s1 n) :
    Comes (.capnext f) f s c k (if 15 < n then s.capTrap 0x54 else s1.endVisit (.capnext s.regs.bay n)) := by
  refine comes_body hi (arm_capnext f s) ((if_neg (by rw [hv]; exact Bool.false_ne_true)).trans ?_)
  unfold NextIndex at hn
  split_ifs at hn with hm
  · obtain ⟨rfl, rfl⟩ := hn
    exact if_pos hm
  · obtain ⟨x, hx, rfl⟩ := hn
    simp only [hm, Bool.false_eq_true, if_false, hx, Res.fin]

end visits

end rules
end Sys2Proof.Machine
end

section
/-! Places, keys and stranded records (10_capsules.md R248, R268 to R270): O46. -/

namespace Sys2Proof.Machine

section places
variable {f : Fields} {s s1 : State} {c : CoreId} {k : SlotId} {d : BitVec 5} {orig : CoreId}

/-- The number of two bit vectors put together. -/
theorem toNat_append_add {v w : Nat} (x : BitVec v) (y : BitVec w) : (x ++ y).toNat = x.toNat * 2 ^ w + y.toNat := by
  rw [BitVec.toNat_append, ← Nat.shiftLeft_add_eq_or_of_lt y.isLt, Nat.shiftLeft_eq]

/-- The result of CAPPLACE for a core: its number and its logical coordinates (R268). -/
theorem placeWord_core (l : Launch) (c : CoreId) : placeWord l (.core c)
    = BitVec.ofNat 64 ((l.logical c).2 % 32 * 2 ^ 21 + (l.logical c).1 % 32 * 2 ^ 16 + c.toNat) := by
  have hc := c.isLt
  apply BitVec.eq_of_toNat_eq
  simp only [placeWord, toNat_append_add, BitVec.toNat_ofNat]
  omega

/-- The result of CAPPLACE for a place that fails: its code, with bit 63 set (R268). -/
theorem placeWord_fail (l : Launch) (e : Byte) : placeWord l (.fail e) = BitVec.ofNat 64 (2 ^ 63 + e.toNat) := by
  have he := e.isLt
  apply BitVec.eq_of_toNat_eq
  simp only [placeWord, toNat_append_add, BitVec.toNat_ofNat]
  omega

/-- The core that CAPPLACE takes for the origin: in a visit the capsule's, else its own (R268). -/
def OriginOf (s s1 : State) (c orig : CoreId) : Prop :=
  if s.regs.vis then ∃ x, s.readHeader (s.regs.bayOff.toNat * 64) = .ok (x, s1) ∧ orig = capOrig x else s1 = s ∧ orig = c

/-- The place that CAPPLACE resolves (R248, R268). -/
def State.placeOf (s s1 : State) (f : Fields) (c orig : CoreId) : Place :=
  if (s.src f.src1).toNat / 2 ^ 32 ≠ 0 then .fail 0x40 else s1.resolve s1.curLaunch c ((s.src f.src1).setWidth 32) (s1.src f.src2) orig

/-- CAPPLACE gives the word of its place, or waits for a stack that is handed over (R248, R268). -/
theorem capplace_comes (hi : Issues (.capplace f) f 1 s c k) (ho : OriginOf s s1 c orig) (hc : s1.cur = s.cur) :
    Comes (.capplace f) f s c k (if s.placeOf s1 f c orig = .wait then .stay s1
      else .done (s1.setG (gNum f.dst) (placeWord s1.curLaunch (s.placeOf s1 f c orig)))) := by
  refine comes_body hi (arm_capplace f s) ?_
  have hc1 := curCore_slot (hc.trans hi.cur)
  unfold OriginOf at ho
  split_ifs at ho with hv
  · obtain ⟨x, hx, rfl⟩ := ho
    simp only [hv, if_true, hx, Res.andThen, Res.fin, hc1]
    rfl
  · obtain ⟨rfl, rfl⟩ := ho
    simp only [hv, Bool.false_eq_true, if_false, Res.fin, hc1]
    rfl

/-- CAPPLACE of a place that does not wait (R268). -/
theorem capplace_gives (hi : Issues (.capplace f) f 1 s c k) (hd : f.dst = .g d) (ho : OriginOf s s1 c orig) (hc : s1.cur = s.cur)
    (hp : s.placeOf s1 f c orig ≠ .wait) :
    GivesFrom (.capplace f) s s1 c k (s1.regs.putG d (placeWord s1.curLaunch (s.placeOf s1 f c orig))).advance := by
  have hx := capplace_comes hi ho hc
  have hc1 := hc.trans hi.cur
  rw [if_neg hp, hd] at hx
  exact givesFrom_concluded hx hc1 (regsNow_setG (regsNow_refl hc1) hc1 d _)

/-- CAPPLACE whose place waits is issued again (R248). -/
theorem capplace_waits (hi : Issues (.capplace f) f 1 s c k) (ho : OriginOf s s1 c orig) (hc : s1.cur = s.cur) (hp : s.placeOf s1 f c orig = .wait) :
    Waits (.capplace f) s s1 c k := by
  have hx := capplace_comes hi ho hc
  rw [if_pos hp] at hx
  exact waits_comes hx (hc.trans hi.cur)

/-- CAPKEY gives the hash of a key (R269). -/
theorem capkey_gives (hi : Issues (.capkey f) f 1 s c k) (hd : f.dst = .g d) : Gives (.capkey f) s c k (s.regs.putG d (BitVec.ofNat 64
    (if (s.src f.src2).toNat % 64 = 0 then 0
      else (s.src f.src1 * 0x9F3AC58DE1B27365#64).toNat / 2 ^ (64 - (s.src f.src2).toNat % 64)))).advance := by
  rw [← Nat.shiftRight_eq_div_pow]
  refine scalar_done hi (arm_capkey f s) ?_ (regsNow_setG (regsNow_refl hi.cur) hi.cur d _)
  rw [hd]
  rfl

end places

section capget
variable {f : Fields} {s s1 s2 t : State} {c : CoreId} {k : SlotId} {d : BitVec 5} {bs : List Byte} {x : Word}

/-- The fields of a stranded list's first bytes (R261). -/
theorem fieldNat_word (h : bs.length = 64) (j : Nat) (hj : 4 * j + 4 ≤ 64) :
    fieldNat (BitVec.ofNat 512 (leNat bs)) (32 * j) 32 = leNat ((bs.drop (4 * j)).take 4) := by
  have hpow : 2 ^ (32 * j) = 256 ^ (4 * j) := by rw [show (256 : Nat) = 2 ^ 8 from rfl, ← pow_mul, show 8 * (4 * j) = 32 * j by omega]
  rw [fieldNat, toNat_ofNat_leNat _ 512 (by rw [h]), Nat.shiftRight_eq_div_pow, hpow, leNat_div, leNat_take _ (by rw [List.length_drop]; omega)]
  rfl

/-- CAPGET without a record gives all ones (R270). -/
def State.noRecord (s : State) (f : Fields) : Eff := .done (s.setG (gNum f.dst) (BitVec.allOnes 64))

/-- What CAPGET comes to once it is alone (R270). -/
def State.takesStrand (s : State) (f : Fields) (h : Nat) : Eff :=
  if descStrand s.curLaunch.desc = 0 then s.noRecord f
  else (s.listRead (descStrand s.curLaunch.desc) 64).fin fun bs t =>
    let b : BitVec 512 := BitVec.ofNat 512 (leNat bs)
    if fieldNat b 0 32 = fieldNat b 32 32 ∨ fieldNat b 64 32 = 0 then t.noRecord f
    else (t.takeRecord (descStrand s.curLaunch.desc) h (fieldNat b 32 32) (fieldNat b 64 32)).fin fun x t => .done (t.setG (gNum f.dst) x)

/-- CAPGET takes a record into a staging area, alone (R236, R270). -/
theorem capget_inStaging (hi : Issues (.capget f) f 1 s c k) {go : Prop}
    (hgo : (∀ s1, s.soloGate 0x08 = .ok ((), s1) → Comes (.capget f) f s c k (s1.takesStrand f (s.src f.src1).toNat)) → go) :
    InStaging (.capget f) s c k (s.src f.src1).toNat go := by
  refine inStaging (comes_scalar hi (arm_capget f s)) fun hx => hgo fun s1 hs => ?_
  rw [hs] at hx
  exact hx

theorem noRecord_gives (hx : Comes (.capget f) f s c k (t.noRecord f)) (hd : f.dst = .g d) (hc : t.cur = .slot c k) :
    GivesFrom (.capget f) s t c k (t.regs.putG d (BitVec.allOnes 64)).advance := by
  rw [State.noRecord, hd] at hx
  exact givesFrom_concluded hx hc (regsNow_setG (regsNow_refl hc) hc d _)

/-- A launch without a stranded list has no record (R270). -/
theorem takesStrand_unlisted (ha : descStrand s.curLaunch.desc = 0) (h : Nat) : s.takesStrand f h = s.noRecord f := if_pos ha

section listed
variable (ha : descStrand s.curLaunch.desc ≠ 0) (hr : s.listRead (descStrand s.curLaunch.desc) 64 = .ok (bs, t)) (hlen : bs.length = 64) (h : Nat)
include ha hr hlen

/-- A stranded list read: PROD, CONS and NREC are its first three words (R261, R270). -/
theorem takesStrand_listed : s.takesStrand f h = if leNat (bs.take 4) = leNat ((bs.drop 4).take 4) ∨ leNat ((bs.drop 8).take 4) = 0 then t.noRecord f
    else (t.takeRecord (descStrand s.curLaunch.desc) h (leNat ((bs.drop 4).take 4)) (leNat ((bs.drop 8).take 4))).fin
      fun x t => .done (t.setG (gNum f.dst) x) := by
  have hprod : fieldNat (BitVec.ofNat 512 (leNat bs)) 0 32 = leNat (bs.take 4) := fieldNat_word hlen 0 (by decide)
  have hcons : fieldNat (BitVec.ofNat 512 (leNat bs)) 32 32 = leNat ((bs.drop 4).take 4) := fieldNat_word hlen 1 (by decide)
  have hnrec : fieldNat (BitVec.ofNat 512 (leNat bs)) 64 32 = leNat ((bs.drop 8).take 4) := fieldNat_word hlen 2 (by decide)
  rw [State.takesStrand, if_neg ha, hr]
  simp only [Res.fin, hprod, hcons, hnrec]

/-- An empty list has no record (R270). -/
theorem takesStrand_empty (he : leNat (bs.take 4) = leNat ((bs.drop 4).take 4) ∨ leNat ((bs.drop 8).take 4) = 0) : s.takesStrand f h = t.noRecord f :=
  (takesStrand_listed ha hr hlen h).trans (if_pos he)

/-- The oldest record of a list is taken (R270). -/
theorem takesStrand_takes (hp : leNat (bs.take 4) ≠ leNat ((bs.drop 4).take 4)) (hn : leNat ((bs.drop 8).take 4) ≠ 0)
    (hx : t.takeRecord (descStrand s.curLaunch.desc) h (leNat ((bs.drop 4).take 4)) (leNat ((bs.drop 8).take 4)) = .ok (x, s2)) :
    s.takesStrand f h = .done (s2.setG (gNum f.dst) x) := by
  rw [takesStrand_listed ha hr hlen h, if_neg (not_or.2 ⟨hp, hn⟩), hx]
  rfl

end listed

end capget
end Sys2Proof.Machine
end

section
/-! Accesses of capsule instructions to areas of the local store that nothing hinders (10_capsules.md R244, R262, 12_memory_levels_translation.md R277, R279): O46. -/

namespace Sys2Proof.Machine

section granules

/-- The granules that an area's image touches (R244, R262). -/
def areaGranules (a : Nat) : List Nat := (List.range 133).map (a / 64 + ·)

theorem mem_areaGranules {a o : Nat} (ha : a % 64 = 0) (ho : o < capBytes) : (a + o) / 64 ∈ areaGranules a := by
  have hb : capBytes = 8512 := rfl
  exact List.mem_map.2 ⟨o / 64, List.mem_range.2 (by omega), by omega⟩

/-- Bytes that do not cross the end of a granule lie in one (R277). -/
theorem linesOf_one {off n : Nat} (hn : 0 < n) (h : off % 64 + n ≤ 64) : linesOf off n = [off / 64] := by
  have hlast : (off + n - 1) / 64 - off / 64 + 1 = 1 := by omega
  rw [linesOf, if_neg hn.ne', hlast]
  simp

/-- A granule marked as written is one fewer to be written. -/
theorem filter_insertOnce_length {ws l : List Nat} {g : Nat} (hg : g ∈ ws) (h : l.contains g = false) :
    (ws.filter fun x => !(insertOnce l g).contains x).length + 1 ≤ (ws.filter fun x => !l.contains x).length := by
  have hl : g ∉ l := by simpa using h
  have he : (ws.filter fun x => !(insertOnce l g).contains x) = (ws.filter fun x => !l.contains x).filter (· != g) := by
    rw [List.filter_filter]
    refine List.filter_congr fun x _ => ?_
    rw [insertOnce, if_neg hl]
    by_cases hx : x = g <;> simp [hx]
  rw [he]
  exact List.length_filter_lt_length_iff_exists.2 ⟨g, List.mem_filter.2 ⟨hg, by simp [hl]⟩, by simp⟩

end granules

/-- How many of the granules ws the open chunk has not written yet, each of which takes an undo entry (R279). -/
def State.unwritten (t : State) (ws : List Nat) : Nat := (ws.filter fun g => !t.chunk.lsW.contains g).length

section areas
variable {s t u : State} {c : CoreId} {k : SlotId} {h d o n : Nat} {m : Mem} {i : Nat} {e : BitVec 128} {x : BitVec 512}

/-- Accesses to the image at h and writes to the one at d have led from s to t, with the bytes m in the local store; nothing hinders further ones, and undo entries for the granules at d fit. -/
structure AreaTo (s : State) (c : CoreId) (k : SlotId) (h d : Nat) (m : Mem) (t : State) : Prop
    extends LocalTo s c k (areaGranules h ++ areaGranules d) m (t.unwritten (areaGranules d)) t where
  wf : m.wf = true

theorem areaTo_of_calm (hc : s.calm c k 134) (h d : Nat) : AreaTo s c k h d (s.core c).ls s := by
  have hl : s.unwritten (areaGranules d) ≤ 134 := (List.length_filter_le _ _).trans (by simp [areaGranules])
  refine ⟨⟨hc.cur, rfl, rfl, hc.plain, rfl, hc.sole, fun g _ => ?_, fun g _ => ?_, (Nat.add_le_add_left hl _).trans hc.room⟩, hc.wf⟩
  · rw [chunk_slot s c k hc.cur]
    exact hc.free [g]
  · rw [hc.clean]
    exact List.not_mem_nil

/-- The marks of an access to one granule of the areas (R277, R279). -/
theorem areaTo_touchLs {g : Nat} (ht : AreaTo s c k h d m t) (hl : linesOf o n = [g]) (hg : g ∈ areaGranules h ++ areaGranules d) (write : Bool)
    (hw : write = true → g ∈ areaGranules d) : ∃ u, t.touchLs o n write = .ok ((), u) ∧ AreaTo s c k h d m u := by
  have hr := ht.room
  have hfew : ∃ first, (if write then [g].filter fun g => !t.chunk.lsW.contains g else []) = first
      ∧ first.length + ((areaGranules d).filter fun x => !(if write then [g].foldl insertOnce t.chunk.lsW else t.chunk.lsW).contains x).length
        ≤ t.unwritten (areaGranules d) := by
    cases write with
    | false => exact ⟨_, rfl, by simp [State.unwritten]⟩
    | true =>
      cases hin : t.chunk.lsW.contains g with
      | true =>
        have hin' : g ∈ t.chunk.lsW := by simpa using hin
        exact ⟨[], by simp [hin'], by simp [State.unwritten, insertOnce, hin']⟩
      | false =>
        have hin' : g ∉ t.chunk.lsW := by simpa using hin
        exact ⟨[g], by simp [hin'], by simpa [State.unwritten, Nat.add_comm] using filter_insertOnce_length (hw rfl) hin⟩
  obtain ⟨first, hfirst, hlen⟩ := hfew
  unfold State.touchLs
  simp only [ht.cur, hl, hfirst]
  rw [if_neg (by rw [ht.free g hg]; exact Bool.false_ne_true), if_neg (by simp only [decide_eq_true_eq]; omega), contend_sole ht.sole (by simp)]
  refine ⟨_, rfl, ⟨localTo_setChunk (d := first.length) (localTo_fewer ht.toLocalTo ?_) rfl rfl rfl ?_, ht.wf⟩⟩
  · rw [State.unwritten, chunk_setChunk ht.cur, Nat.add_comm]
    exact hlen
  · exact (length_foldl_cons _ _ _).le

/-- A part of the image at h that does not cross the end of a granule is read. -/
theorem areaTo_readLs (ht : AreaTo s c k h d m t) (hh : h % 64 = 0) (hn : 0 < n) (hone : o % 64 + n ≤ 64) (ho : o + n ≤ capBytes) :
    ∃ u, t.readLs c (h + o) n = .ok (m.bytes (h + o) n, u) ∧ AreaTo s c k h d m u := by
  have hl : linesOf (h + o) n = [(h + o) / 64] := linesOf_one hn (by omega)
  have hg : (h + o) / 64 ∈ areaGranules h ++ areaGranules d := List.mem_append_left _ (mem_areaGranules hh (by omega))
  obtain ⟨u, htouch, hu⟩ := areaTo_touchLs ht hl hg false fun hw => absurd hw Bool.false_ne_true
  refine ⟨u, ?_, hu⟩
  unfold State.readLs
  simp only [ht.cur, hl, htouch, find_poison_none (ht.clean _ hg), Res.andThen, hu.ls]

/-- A note of poisoned bytes that a write replaces, and the bytes, leave what is to be written. -/
theorem unwritten_heals (hc : t.cur = .slot c k) (bad ws : List Nat) (m' : Mem) : ((t.heals bad).withLs c m').unwritten ws = t.unwritten ws := by
  have hch : (t.heals bad).chunk.lsW = t.chunk.lsW ∧ (t.heals bad).cur = .slot c k := by
    unfold State.heals
    split_ifs
    · exact ⟨rfl, hc⟩
    · exact ⟨by rw [chunk_setChunk hc], by simpa using hc⟩
  have hw : ((t.heals bad).withLs c m').chunk = (t.heals bad).chunk := by
    rw [chunk_slot _ c k (show ((t.heals bad).withLs c m').cur = .slot c k from hch.2), withLs_slot, chunk_slot _ c k hch.2]
  rw [State.unwritten, hw, hch.1, State.unwritten]

/-- A part of the image at d that does not cross the end of a granule is written. -/
theorem areaTo_writeLs {bs : List Byte} (ht : AreaTo s c k h d m t) (hd : d % 64 = 0) (hn : 0 < bs.length) (hone : o % 64 + bs.length ≤ 64)
    (ho : o + bs.length ≤ capBytes) : ∃ u, t.writeLs c (d + o) bs = .ok ((), u) ∧ AreaTo s c k h d (m.setBytes (d + o) bs) u := by
  have hl : linesOf (d + o) bs.length = [(d + o) / 64] := linesOf_one hn (by omega)
  have hg : (d + o) / 64 ∈ areaGranules d := mem_areaGranules hd (by omega)
  obtain ⟨u, htouch, hu⟩ := areaTo_touchLs ht hl (List.mem_append_right _ hg) true fun _ => hg
  have hh := localTo_heals hu.toLocalTo
  refine ⟨_, writeLs_touched ht.cur htouch, ?_, wf_setBytes _ _ _ ht.wf⟩
  rw [(hh _).ls, unwritten_heals hu.cur]
  exact localTo_withLs (hh _) _

end areas
end Sys2Proof.Machine
end

section
/-! Headers and itinerary entries in a local store, and the steps that change them (10_capsules.md R244, R245, R264, R265): O46. -/

namespace Sys2Proof.Machine

section images
variable (m : Mem) {a b i j n : Nat} {e : BitVec 128} {x : BitVec 512}

/-- The header of the image at a (R244). -/
def Mem.header (a : Nat) : BitVec 512 := BitVec.ofNat 512 (leNat (m.bytes a 64))

/-- Entry i of the itinerary of the image at a (R245). -/
def Mem.entry (a i : Nat) : BitVec 128 := BitVec.ofNat 128 (leNat (m.bytes (a + entAt i) 16))

/-- The image at a with its header or an entry replaced. -/
def Mem.putHeader (a : Nat) (x : BitVec 512) : Mem := m.setBytes a (leBytes 64 x.toNat)
def Mem.putEntry (a i : Nat) (e : BitVec 128) : Mem := m.setBytes (a + entAt i) (leBytes 16 e.toNat)

theorem bytes_length (a n : Nat) : (m.bytes a n).length = n := by simp [Mem.bytes]

/-- An entry as a number of 16 bytes. -/
theorem entry_toNat (a i : Nat) : (m.entry a i).toNat = m.nat (a + 0x40 + 16 * i) 16 := by
  rw [Mem.entry, toNat_ofNat_leNat _ 128 (by rw [bytes_length]), Mem.nat, entAt, Nat.add_assoc]

/-- An entry from its number, and an entry that is written, at the offset that the layout gives it (R244). -/
theorem ofNat_entry (a i : Nat) : BitVec.ofNat 128 (m.nat (a + 0x40 + 16 * i) 16) = m.entry a i := by
  rw [← entry_toNat, BitVec.ofNat_toNat, BitVec.setWidth_eq]
theorem putEntry_eq (a i : Nat) (e : BitVec 128) : m.putEntry a i e = m.setBytes (a + 0x40 + 16 * i) (leBytes 16 e.toNat) := by
  rw [Mem.putEntry, entAt, Nat.add_assoc]

/-- The bytes of an entry. -/
theorem leBytes_entry (a i : Nat) : leBytes 16 (m.entry a i).toNat = m.bytes (a + entAt i) 16 := by
  rw [Mem.entry, toNat_ofNat_leNat _ 128 (by rw [bytes_length]), leBytes_leNat _ _ (by rw [bytes_length]), List.take_of_length_le (by rw [bytes_length])]

variable {m} (hm : m.wf = true)
include hm

theorem wf_putEntry : (m.putEntry a i e).wf = true := wf_setBytes _ _ _ hm

theorem bytes_putHeader : (m.putHeader a x).bytes a 64 = leBytes 64 x.toNat := by
  have h := bytes_setBytes (leBytes 64 x.toNat) m a hm
  rwa [leBytes_length] at h

theorem entry_putEntry_same : (m.putEntry a i e).entry a i = e := by
  have h := bytes_setBytes (leBytes 16 e.toNat) m (a + entAt i) hm
  rw [leBytes_length] at h
  rw [Mem.entry, Mem.putEntry, h, leNat_leBytes 16 _ (by simpa using e.isLt), BitVec.ofNat_toNat, BitVec.setWidth_eq]

theorem entry_putEntry_ne (h : i ≠ j) : (m.putEntry a i e).entry a j = m.entry a j := by
  rw [Mem.entry, Mem.putEntry, bytes_setBytes_out _ _ _ _ _ hm (by rw [leBytes_length]; simp only [entAt]; omega), Mem.entry]

theorem entry_putHeader : (m.putHeader a x).entry a j = m.entry a j := by
  rw [Mem.entry, Mem.putHeader, bytes_setBytes_out _ _ _ _ _ hm (by rw [leBytes_length]; simp only [entAt]; omega), Mem.entry]

end images

section moves
variable {m : Mem} {a i j n p : Nat}

/-- The image with entry i copied to the next index (R264). -/
def Mem.moveUp (a : Nat) (m : Mem) (i : Nat) : Mem := m.putEntry a (i + 1) (m.entry a i)

/-- The indices from n - 1 on downwards. -/
def downFrom (n p : Nat) : List Nat := (List.range p).map fun i => n - 1 - i

/-- The last p of n entries moved up, last first: each stands one higher, and those below are as before (R264). -/
theorem moveUp_entries (hm : m.wf = true) (hp : p ≤ n) : let m' := (downFrom n p).foldl (Mem.moveUp a) m
    m'.wf = true ∧ (∀ i, n - p ≤ i → i < n → m'.entry a (i + 1) = m.entry a i) ∧ ∀ i, i ≤ n - p → m'.entry a i = m.entry a i := by
  induction p with
  | zero => exact ⟨hm, fun i h0 h1 => by omega, fun i _ => rfl⟩
  | succ p ih =>
    obtain ⟨hwf, hmoved, hkept⟩ := ih (by omega)
    have hlist : downFrom n (p + 1) = downFrom n p ++ [n - 1 - p] := by rw [downFrom, List.range_succ, List.map_append]; rfl
    dsimp only
    rw [hlist, List.foldl_append, List.foldl_cons, List.foldl_nil, Mem.moveUp]
    generalize (downFrom n p).foldl (Mem.moveUp a) m = q at hwf hmoved hkept ⊢
    refine ⟨wf_putEntry hwf, fun i h0 h1 => ?_, fun i hi => ?_⟩
    · by_cases hi : i = n - 1 - p
      · rw [hi, entry_putEntry_same hwf]
        exact hkept _ (by omega)
      · exact (entry_putEntry_ne hwf (by omega)).trans (hmoved i (by omega) h1)
    · exact (entry_putEntry_ne hwf (by omega)).trans (hkept i (by omega))

/-- The image with an entry put in at index j and the later ones moved up (R264). -/
def Mem.headed (m : Mem) (a j n : Nat) (e : BitVec 128) (x : BitVec 512) : Mem := (((downFrom n (n - j)).foldl (Mem.moveUp a) m).putEntry a j e).putHeader a x

theorem headed_image (hm : m.wf = true) (hj : j ≤ n) (e : BitVec 128) (x : BitVec 512) :
    (m.headed a j n e x).bytes a 64 = leBytes 64 x.toNat ∧ (m.headed a j n e x).entry a j = e
      ∧ (∀ i, j ≤ i → i < n → (m.headed a j n e x).entry a (i + 1) = m.entry a i) ∧ ∀ i, i < j → (m.headed a j n e x).entry a i = m.entry a i := by
  obtain ⟨hwf, hmoved, hkept⟩ := moveUp_entries (a := a) (n := n) (p := n - j) hm (by omega)
  rw [Mem.headed]
  generalize (downFrom n (n - j)).foldl (Mem.moveUp a) m = q at hwf hmoved hkept ⊢
  have hput := wf_putEntry (a := a) (i := j) (e := e) hwf
  refine ⟨bytes_putHeader hput, ?_, fun i h0 h1 => ?_, fun i hi => ?_⟩
  · rw [entry_putHeader hput, entry_putEntry_same hwf]
  · rw [entry_putHeader hput, entry_putEntry_ne hwf (by omega), hmoved i (by omega) h1]
  · rw [entry_putHeader hput, entry_putEntry_ne hwf (by omega), hkept i (by omega)]

end moves

section accesses
variable {s t : State} {c : CoreId} {k : SlotId} {h d a i j n : Nat} {m : Mem} {e : BitVec 128} {x : BitVec 512}

theorem areaTo_readHeader (ht : AreaTo s c k h d m t) (hh : h % 64 = 0) : ∃ u, t.readHeader h = .ok (m.header h, u) ∧ AreaTo s c k h d m u := by
  obtain ⟨u, hr, hu⟩ := areaTo_readLs (o := 0) (n := 64) ht hh (by decide) (by decide) (by decide)
  refine ⟨u, ?_, hu⟩
  rw [State.readHeader, curCore_slot ht.cur, ← Nat.add_zero h, hr]
  rfl

theorem areaTo_writeHeader (ht : AreaTo s c k h d m t) (hd : d % 64 = 0) (x : BitVec 512) :
    ∃ u, t.writeHeader d x = .ok ((), u) ∧ AreaTo s c k h d (m.putHeader d x) u := by
  have hb : capBytes = 8512 := rfl
  have hlen := leBytes_length 64 x.toNat
  rw [State.writeHeader, curCore_slot ht.cur]
  exact areaTo_writeLs (o := 0) ht hd (by omega) (by omega) (by omega)

theorem areaTo_readEntry (ht : AreaTo s c k h d m t) (hh : h % 64 = 0) (hi : i < 16) :
    ∃ u, t.readEntry h i = .ok (m.entry h i, u) ∧ AreaTo s c k h d m u := by
  have he : entAt i = 64 + 16 * i := rfl
  have hb : capBytes = 8512 := rfl
  obtain ⟨u, hr, hu⟩ := areaTo_readLs (o := entAt i) (n := 16) ht hh (by decide) (by omega) (by omega)
  refine ⟨u, ?_, hu⟩
  rw [State.readEntry, curCore_slot ht.cur, hr]
  rfl

theorem areaTo_writeEntry (ht : AreaTo s c k h d m t) (hd : d % 64 = 0) (hi : i < 16) (e : BitVec 128) :
    ∃ u, t.writeEntry d i e = .ok ((), u) ∧ AreaTo s c k h d (m.putEntry d i e) u := by
  have he : entAt i = 64 + 16 * i := rfl
  have hb : capBytes = 8512 := rfl
  have hlen := leBytes_length 16 e.toNat
  rw [State.writeEntry, curCore_slot ht.cur]
  exact areaTo_writeLs ht hd (by omega) (by omega) (by omega)

/-- An entry is appended (R264). -/
theorem areaTo_pushRun (ht : AreaTo s c k a a m t) (ha : a % 64 = 0) (hn : capIlen x < 16) (e : BitVec 128) : ∃ u, pushRun a x e t = .ok ((), u)
    ∧ AreaTo s c k a a ((m.putEntry a (capIlen x) e).putHeader a (setIlen x (capIlen x + 1))) u := by
  obtain ⟨v, he, hv⟩ := areaTo_writeEntry ht ha hn e
  obtain ⟨u, hx, hu⟩ := areaTo_writeHeader hv ha (setIlen x (capIlen x + 1))
  exact ⟨u, by rw [pushRun, he]; exact hx, hu⟩

/-- The last entry is cleared (R264). -/
theorem areaTo_popRun (ht : AreaTo s c k a a m t) (ha : a % 64 = 0) (hn : capIlen x ≤ 16) (h0 : 0 < capIlen x) : ∃ u, popRun a x t = .ok ((), u)
    ∧ AreaTo s c k a a ((m.putEntry a (capIlen x - 1) 0).putHeader a (setIlen x (capIlen x - 1))) u := by
  obtain ⟨v, he, hv⟩ := areaTo_writeEntry ht ha (show capIlen x - 1 < 16 by omega) 0
  obtain ⟨u, hx, hu⟩ := areaTo_writeHeader hv ha (setIlen x (capIlen x - 1))
  exact ⟨u, by rw [popRun, he]; exact hx, hu⟩

/-- An entry is put in at index j, with the later ones moved up (R264). -/
theorem areaTo_headRun (ht : AreaTo s c k a a m t) (ha : a % 64 = 0) (hn : capIlen x < 16) (hj : j ≤ capIlen x) (e : BitVec 128) :
    ∃ u, headRun a x j e t = .ok ((), u) ∧ AreaTo s c k a a (m.headed a j (capIlen x) e (setIlen x (capIlen x + 1))) u := by
  obtain ⟨_, v, hmove, m', hv, hm'⟩ := foldRes_completes (l := downFrom (capIlen x) (capIlen x - j)) (b := ()) (t := t)
    (f := fun _ i s => (s.readEntry a i).andThen fun e s => s.writeEntry a (i + 1) e)
    (P := fun rest _ t => ∃ m', AreaTo s c k a a m' t ∧ rest.foldl (Mem.moveUp a) m' = (downFrom (capIlen x) (capIlen x - j)).foldl (Mem.moveUp a) m)
    (fun i hi rest _ t ⟨m', ht, hm'⟩ => by
      obtain ⟨q, hq, rfl⟩ := List.mem_map.1 hi
      have hq := List.mem_range.1 hq
      obtain ⟨v, hr, hv⟩ := areaTo_readEntry ht ha (show capIlen x - 1 - q < 16 by omega)
      obtain ⟨u, hw, hu⟩ := areaTo_writeEntry hv ha (show capIlen x - 1 - q + 1 < 16 by omega) (m'.entry a (capIlen x - 1 - q))
      exact ⟨(), u, by rw [hr]; exact hw, _, hu, hm'⟩) ⟨m, ht, rfl⟩
  rw [List.foldl_nil] at hm'
  obtain ⟨w, he, hw⟩ := areaTo_writeEntry hv ha (show j < 16 by omega) e
  obtain ⟨u, hx, hu⟩ := areaTo_writeHeader hw ha (setIlen x (capIlen x + 1))
  rw [hm'] at hu
  refine ⟨u, ?_, hu⟩
  rw [headRun, show (List.range (capIlen x - j)).map (fun i => capIlen x - 1 - i) = downFrom (capIlen x) (capIlen x - j) from rfl, hmove]
  dsimp only [Res.andThen]
  rw [he]
  exact hx

end accesses
end Sys2Proof.Machine
end

section
/-! The rest of a capsule written to another area (10_capsules.md R246, R265): O46. -/

namespace Sys2Proof.Machine

/-- Items of one size written one after the other each read back. -/
theorem bytes_putBytes_range {m : Mem} {p w base i : Nat} {bs : Nat → List Byte} (hm : m.wf = true) (hlen : ∀ j, (bs j).length = w) (hi : i < p) :
    (putBytes m (List.range p) (fun j => base + w * j) bs).bytes (base + w * i) w = bs i := by
  induction p with
  | zero => omega
  | succ p ih =>
    rw [List.range_succ, putBytes_concat]
    have hwf := wf_putBytes hm (List.range p) (fun j => base + w * j) bs
    by_cases h : i = p
    · have hb := bytes_setBytes (bs p) (putBytes m (List.range p) (fun j => base + w * j) bs) (base + w * p) hwf
      rw [h]
      rwa [hlen] at hb
    · have hle : w * (i + 1) ≤ w * p := Nat.mul_le_mul_left w (by omega)
      rw [bytes_setBytes_out _ _ _ _ _ hwf (by rw [Nat.mul_succ] at hle; omega)]
      exact ih (by omega)

/-- Bytes outside all items are as before. -/
theorem bytes_putBytes_out {ι : Type} {m : Mem} {l : List ι} {o : ι → Nat} {bs : ι → List Byte} {a n : Nat} (hm : m.wf = true)
    (h : ∀ j ∈ l, a + n ≤ o j ∨ o j + (bs j).length ≤ a) : (putBytes m l o bs).bytes a n = m.bytes a n := by
  refine List.map_congr_left fun i hi => byte_putBytes_out hm fun j hj => ?_
  have := List.mem_range.1 hi
  have := h j hj
  omega

/-- The two local stores hold the same image at h. -/
def SameImage (h : Nat) (m m' : Mem) : Prop := ∀ o n, o + n ≤ capBytes → m'.bytes (h + o) n = m.bytes (h + o) n

section fills
variable {s t : State} {c : CoreId} {k : SlotId} {h d : Nat} {m m' : Mem}

/-- Steps that write parts of the image at d, made of the image at h beside it, write them in order. -/
theorem areaTo_fills {ι : Type} {l : List ι} {f : Unit → ι → State → Res Unit} {o : ι → Nat} {bs : ι → List Byte}
    (hdis : h + capBytes ≤ d ∨ d + capBytes ≤ h) (ho : ∀ j ∈ l, o j + (bs j).length ≤ capBytes)
    (hf : ∀ j ∈ l, ∀ m' t, AreaTo s c k h d m' t → SameImage h m m' →
      ∃ u, f () j t = .ok ((), u) ∧ AreaTo s c k h d (m'.setBytes (d + o j) (bs j)) u)
    (ht : AreaTo s c k h d m' t) (hs : SameImage h m m') : ∃ u, foldRes l () f t = .ok ((), u)
      ∧ AreaTo s c k h d (putBytes m' l (fun j => d + o j) bs) u ∧ SameImage h m (putBytes m' l (fun j => d + o j) bs) := by
  obtain ⟨_, u, hr, q, hu, hq, he⟩ := foldRes_completes (f := f) (l := l) (b := ()) (t := t)
    (P := fun rest _ t => ∃ q, AreaTo s c k h d q t ∧ SameImage h m q
      ∧ putBytes q rest (fun j => d + o j) bs = putBytes m' l (fun j => d + o j) bs)
    (fun j hj rest _ t ⟨q, ht, hq, he⟩ => by
      obtain ⟨u, hr, hu⟩ := hf j hj q t ht hq
      refine ⟨(), u, hr, _, hu, fun p n hp => ?_, he⟩
      have := ho j hj
      rw [bytes_setBytes_out _ _ _ _ _ ht.wf (by omega), hq p n hp]) ⟨m', ht, hs, rfl⟩
  rw [putBytes, List.foldl_nil] at he
  exact ⟨u, hr, he ▸ hu, he ▸ hq⟩

end fills

section split
variable {s t : State} {c : CoreId} {k : SlotId} {h d n i j : Nat} {m : Mem} {x hdr : BitVec 512}

/-- The bytes of entry i of the capsule that is split off: those of the entries from index n on, then zeros (R265). -/
def splitEntry (m : Mem) (h : Nat) (x : BitVec 512) (n i : Nat) : List Byte := if i < capIlen x - n then m.bytes (h + entAt (n + i)) 16 else leBytes 16 0

/-- The local store with the rest of the capsule at h written at d (R265). -/
def Mem.split (m : Mem) (d h : Nat) (x : BitVec 512) (n : Nat) (hdr : BitVec 512) : Mem :=
  (putBytes (putBytes m (List.range 16) (fun i => d + entAt i) (splitEntry m h x n)) (List.range (capPayload x / 64)) (fun i => d + (0x140 + 64 * i))
    fun i => m.bytes (h + (0x140 + 64 * i)) 64).putHeader d hdr

theorem splitEntry_length (m : Mem) (h : Nat) (x : BitVec 512) (n i : Nat) : (splitEntry m h x n i).length = 16 := by
  rw [splitEntry]
  split_ifs
  · exact bytes_length _ _ _
  · exact leBytes_length _ _

/-- A sound header names at most sixteen entries and at most 8,192 payload bytes (R246). -/
theorem sound_bounds (hx : capMalformed x = false) : capIlen x ≤ 16 ∧ capHead x ≤ capIlen x ∧ capPayload x / 64 ≤ 128 := by
  simp only [capMalformed, Bool.or_eq_false_iff, decide_eq_false_iff_not, Nat.not_lt] at hx
  obtain ⟨⟨⟨hilen, hhead⟩, hplen⟩, -⟩ := hx
  exact ⟨hilen, hhead, by rw [capPayload]; omega⟩

/-- The rest of a sound capsule is written to an area beside it (R265). -/
theorem areaTo_splitRun (ht : AreaTo s c k h d m t) (hh : h % 64 = 0) (hd : d % 64 = 0) (hdis : h + capBytes ≤ d ∨ d + capBytes ≤ h)
    (hx : capMalformed x = false) (n : Nat) (hdr : BitVec 512) : ∃ u, splitRun d h x n hdr t = .ok ((), u) ∧ AreaTo s c k h d (m.split d h x n hdr) u := by
  obtain ⟨hilen, -, hpay⟩ := sound_bounds hx
  have hb : capBytes = 8512 := rfl
  obtain ⟨t1, hentries, ht1, hs1⟩ := areaTo_fills (m := m) (l := List.range 16) (o := entAt) (bs := splitEntry m h x n) hdis
    (fun i hi => by
      have := List.mem_range.1 hi
      rw [splitEntry_length, entAt]
      omega)
    (f := fun _ i s => if i < capIlen x - n then (s.readEntry h (n + i)).andThen fun e s => s.writeEntry d i e else s.writeEntry d i 0)
    (fun i hi m' t ht hs => by
      have hi := List.mem_range.1 hi
      rw [splitEntry]
      split_ifs with hin
      · obtain ⟨v, hr, hv⟩ := areaTo_readEntry ht hh (show n + i < 16 by omega)
        obtain ⟨u, hw, hu⟩ := areaTo_writeEntry hv hd hi (m'.entry h (n + i))
        rw [Mem.putEntry, leBytes_entry, hs _ _ (by rw [entAt]; omega)] at hu
        exact ⟨u, by rw [hr]; exact hw, hu⟩
      · exact areaTo_writeEntry ht hd hi 0) ht fun _ _ _ => rfl
  obtain ⟨t2, hpayload, ht2, -⟩ := areaTo_fills (m := m) (l := List.range (capPayload x / 64)) (o := fun i => 0x140 + 64 * i)
    (bs := fun i => m.bytes (h + (0x140 + 64 * i)) 64) hdis
    (fun i hi => by
      have := List.mem_range.1 hi
      rw [bytes_length]
      omega)
    (f := fun _ i s => (s.readLs s.curCore (h + 0x140 + 64 * i) 64).andThen fun bs s => s.writeLs s.curCore (d + 0x140 + 64 * i) bs)
    (fun i hi m' t ht hs => by
      have := List.mem_range.1 hi
      have hlen := bytes_length m (h + (0x140 + 64 * i)) 64
      obtain ⟨v, hr, hv⟩ := areaTo_readLs (o := 0x140 + 64 * i) (n := 64) ht hh (by omega) (by omega) (by omega)
      rw [hs _ _ (by omega)] at hr
      obtain ⟨u, hw, hu⟩ := areaTo_writeLs (o := 0x140 + 64 * i) hv hd (bs := m.bytes (h + (0x140 + 64 * i)) 64) (by omega) (by omega) (by omega)
      refine ⟨u, ?_, hu⟩
      rw [curCore_slot ht.cur, Nat.add_assoc, hr]
      dsimp only [Res.andThen]
      rw [curCore_slot hv.cur, Nat.add_assoc, hw]) ht1 hs1
  obtain ⟨u, hheader, hu⟩ := areaTo_writeHeader ht2 hd hdr
  refine ⟨u, ?_, hu⟩
  rw [splitRun, hentries]
  dsimp only [Res.andThen] at hpayload ⊢
  rw [hpayload]
  exact hheader

section written
variable (hm : m.wf = true)
include hm

theorem header_split : (m.split d h x n hdr).bytes d 64 = leBytes 64 hdr.toNat := bytes_putHeader (wf_putBytes (wf_putBytes hm _ _ _) _ _ _)

/-- The entries of the capsule split off. -/
theorem entry_split (hi : i < 16) : (m.split d h x n hdr).bytes (d + entAt i) 16 = splitEntry m h x n i := by
  have he : entAt i = 64 + 16 * i := rfl
  have hw := wf_putBytes hm (List.range 16) (fun i => d + entAt i) (splitEntry m h x n)
  have hsame : (fun i => d + entAt i) = fun i => (d + 64) + 16 * i := funext fun i => by rw [entAt]; omega
  rw [Mem.split, Mem.putHeader, bytes_setBytes_out _ _ _ _ _ (wf_putBytes hw _ _ _) (by rw [leBytes_length]; omega),
    bytes_putBytes_out hw fun j hj => by omega, hsame, he, ← Nat.add_assoc]
  exact bytes_putBytes_range hm (splitEntry_length m h x n) hi

/-- The entries of the capsule split off as numbers. -/
theorem nat_split (hi : i < 16) : (m.split d h x n hdr).nat (d + 0x40 + 16 * i) 16 = if i < capIlen x - n then m.nat (h + 0x40 + 16 * (n + i)) 16 else 0 := by
  rw [Nat.add_assoc, Mem.nat, show 0x40 + 16 * i = entAt i from rfl, entry_split hm hi, splitEntry]
  split_ifs
  · rw [Nat.add_assoc h]
    rfl
  · exact leNat_leBytes 16 0 (by decide)

/-- The payload of the capsule split off (R246). -/
theorem payload_split (hj : j < capPayload x) : (m.split d h x n hdr).byte (d + 0x140 + j) = m.byte (h + 0x140 + j) := by
  have hw := wf_putBytes hm (List.range 16) (fun i => d + entAt i) (splitEntry m h x n)
  have hsame : (fun i => d + (0x140 + 64 * i)) = fun i => (d + 0x140) + 64 * i := funext fun i => by omega
  have hpay : capPayload x % 64 = 0 := by rw [capPayload]; omega
  have hbytes := bytes_putBytes_range (w := 64) (base := d + 0x140) hw (bs := fun i => m.bytes (h + (0x140 + 64 * i)) 64) (fun _ => bytes_length _ _ _)
    (show j / 64 < capPayload x / 64 by omega)
  have hbyte := congrArg (·[j % 64]?) hbytes
  rw [Mem.split, Mem.putHeader, byte_setBytes_out _ _ _ _ (wf_putBytes hw _ _ _) (by rw [leBytes_length]; omega), hsame]
  simp only [Mem.bytes, List.getElem?_map, List.getElem?_range (show j % 64 < 64 by omega), Option.map_some, Option.some.injEq] at hbyte
  rw [show d + 0x140 + j = d + 0x140 + 64 * (j / 64) + j % 64 by omega, show h + 0x140 + j = h + (0x140 + 64 * (j / 64)) + j % 64 by omega]
  exact hbyte

end written

end split
end Sys2Proof.Machine
end

section
/-! The capsule instructions in a local store that nothing hinders (10_capsules.md R262 to R270): O46. -/

namespace Sys2Proof.Machine

/-- An area that an instruction names begins at a multiple of 64 bytes (R262). -/
theorem named_aligned {s : State} {a : Nat} (h : s.liveBay a = true ∨ s.curLaunch.staging a = true) : a % 64 = 0 := by
  rcases h with h | h
  · simp only [State.liveBay, Bool.and_eq_true, beq_iff_eq] at h
    omega
  · simp only [Launch.staging, Bool.and_eq_true, beq_iff_eq] at h
    omega

/-- The instruction ends with memory as it was, the registers r and the bytes m in the local store. -/
def AreaRuns (i : Instr) (s : State) (c : CoreId) (k : SlotId) (r : Regs) (m : Mem) : Prop :=
  ∃ u, exec i s = .next u ∧ u.mem = s.mem ∧ (u.slot c k).regs = r ∧ (u.core c).ls = m

section unhindered
variable {i : Instr} {f : Fields} {s t : State} {c : CoreId} {k : SlotId} {a b d : Nat} {m : Mem} {r : Regs} {inj : Bool}

theorem areaTo_runs (ht : AreaTo s c k b d m t) (hg : GivesFrom i s t c k r) : AreaRuns i s c k r m := by
  obtain ⟨u, he, hm, hl, hr⟩ := localTo_ends (localTo_fewer ht.toLocalTo (Nat.zero_le _)) hg
  exact ⟨u, he, hm, hr, hl⟩

/-- An instruction that completes with its accesses to the areas. -/
theorem areaTo_done (ht : AreaTo s c k b d m t) (hx : Comes i f s c k (.done t)) : AreaRuns i s c k s.regs.advance m :=
  areaTo_runs ht (ht.regs ▸ givesFrom_comes hx ht.cur)

theorem pair_area (ht : AreaTo s c k b d m t) (o : Operand) : t.pair o = s.pair o := by simp only [State.pair, State.getG, ht.regs]

/-- What an itinerary instruction may change: the area is named, its header is well formed, and in the live bay an entry is left (R264). -/
structure Changeable (s : State) (a : Nat) (x : BitVec 512) : Prop where
  named : s.liveBay a = true ∨ s.curLaunch.staging a = true
  sound : capMalformed x = false
  left : s.liveBay a = true → capHead x < capIlen x

theorem firstEntry_le {x : BitVec 512} (h : Changeable s a x) : s.firstEntry a x ≤ capIlen x := by
  obtain ⟨-, hhead, -⟩ := sound_bounds h.sound
  rw [State.firstEntry]
  split_ifs with hl
  · exact h.left hl
  · exact hhead

variable (hc : s.calm c k 134)
include hc

/-- An itinerary in an unhindered local store is found (R264). -/
theorem itinerary_calm (h : Changeable s a ((s.core c).ls.header a)) :
    ∃ u, s.itinerary a = .ok (((s.core c).ls.header a, s.firstEntry a ((s.core c).ls.header a)), u) ∧ AreaTo s c k a a (s.core c).ls u := by
  obtain ⟨u, hr, hu⟩ := areaTo_readHeader (areaTo_of_calm hc a a) (named_aligned h.named)
  have hb : ¬ (s.liveBay a = true ∧ capIlen ((s.core c).ls.header a) ≤ capHead ((s.core c).ls.header a)) := fun hb => Nat.not_le_of_lt (h.left hb.1) hb.2
  refine ⟨u, ?_, hu⟩
  simp only [State.itinerary, capArea_named h.named, Res.andThen, hr, h.sound, Bool.false_or, Bool.and_eq_true, decide_eq_true_eq, if_neg hb]
  rfl

section itinerary
variable (h : Changeable s (s.src f.src1).toNat ((s.core c).ls.header (s.src f.src1).toNat))
include h

/-- CAPPUSH (R264). -/
theorem cappush_runs (hi : Issues (.cappush f) f 1 s c k) (hn : capIlen ((s.core c).ls.header (s.src f.src1).toNat) < 16) :
    let a := (s.src f.src1).toNat
    let x := (s.core c).ls.header a
    AreaRuns (.cappush f) s c k s.regs.advance (((s.core c).ls.putEntry a (capIlen x) (s.pair f.src2)).putHeader a (setIlen x (capIlen x + 1))) := by
  obtain ⟨t, hx, ht⟩ := itinerary_calm hc h
  obtain ⟨u, hr, hu⟩ := areaTo_pushRun ht (named_aligned h.named) hn (s.pair f.src2)
  rw [← pair_area ht] at hr
  exact areaTo_done hu (cappush_comes hi hx hn hr)

/-- CAPHEAD (R264). -/
theorem caphead_runs (hi : Issues (.caphead f) f 1 s c k) (hn : capIlen ((s.core c).ls.header (s.src f.src1).toNat) < 16) :
    let a := (s.src f.src1).toNat
    let x := (s.core c).ls.header a
    AreaRuns (.caphead f) s c k s.regs.advance ((s.core c).ls.headed a (s.firstEntry a x) (capIlen x) (s.pair f.src2) (setIlen x (capIlen x + 1))) := by
  obtain ⟨t, hx, ht⟩ := itinerary_calm hc h
  obtain ⟨u, hr, hu⟩ := areaTo_headRun ht (named_aligned h.named) hn (firstEntry_le h) (s.pair f.src2)
  rw [← pair_area ht] at hr
  exact areaTo_done hu (caphead_comes hi hx hn hr)

/-- CAPPOP (R264). -/
theorem cappop_runs (hi : Issues (.cappop f) f 1 s c k)
    (hn : s.firstEntry (s.src f.src1).toNat ((s.core c).ls.header (s.src f.src1).toNat) < capIlen ((s.core c).ls.header (s.src f.src1).toNat)) :
    let a := (s.src f.src1).toNat
    let x := (s.core c).ls.header a
    let e := (s.core c).ls.entry a (capIlen x - 1)
    AreaRuns (.cappop f) s c k ((s.regs.putG (gNum f.dst) (e.extractLsb' 0 64)).putG (gNum f.dst + 1) (e.extractLsb' 64 64)).advance
      (((s.core c).ls.putEntry a (capIlen x - 1) 0).putHeader a (setIlen x (capIlen x - 1))) := by
  obtain ⟨hilen, -⟩ := sound_bounds h.sound
  have ha := named_aligned h.named
  obtain ⟨t, hx, ht⟩ := itinerary_calm hc h
  obtain ⟨v, he, hv⟩ := areaTo_readEntry ht ha (i := capIlen ((s.core c).ls.header (s.src f.src1).toNat) - 1) (by omega)
  obtain ⟨u, hr, hu⟩ := areaTo_popRun hv ha hilen (by omega)
  have hg := givesFrom_pair (cappop_comes hi hx hn he hr) hu.cur
  rw [hu.regs] at hg
  exact areaTo_runs hu hg

/-- CAPSET (R264). -/
theorem capset_runs (hi : Issues (.capset f) f 1 s c k)
    (hj : s.firstEntry (s.src f.src1).toNat ((s.core c).ls.header (s.src f.src1).toNat) ≤ f.mod.toNat)
    (hn : f.mod.toNat < capIlen ((s.core c).ls.header (s.src f.src1).toNat)) :
    AreaRuns (.capset f) s c k s.regs.advance ((s.core c).ls.putEntry (s.src f.src1).toNat f.mod.toNat (s.pair f.src2)) := by
  obtain ⟨t, hx, ht⟩ := itinerary_calm hc h
  obtain ⟨u, hw, hu⟩ := areaTo_writeEntry ht (named_aligned h.named) f.mod.isLt (s.pair f.src2)
  rw [← pair_area ht] at hw
  exact areaTo_done hu (capset_comes hi hx hj hn hw)

/-- CAPSPLIT (R265). -/
theorem capsplit_runs (hi : Issues (.capsplit f) f 1 s c k) (hl : s.liveBay (s.src f.dst).toNat = false) (hs : s.curLaunch.staging (s.src f.dst).toNat = true)
    (ho : ¬ ((s.src f.dst).toNat < (s.src f.src1).toNat + capBytes ∧ (s.src f.src1).toNat < (s.src f.dst).toNat + capBytes)) :
    let a := (s.src f.src1).toNat
    let x := (s.core c).ls.header a
    let n := s.firstEntry a x
    AreaRuns (.capsplit f) s c k s.regs.advance ((s.core c).ls.split (s.src f.dst).toNat a x n (splitHeader x n (s.src f.src2) c k)) := by
  have ha := named_aligned h.named
  obtain ⟨t, hx, ht⟩ := areaTo_readHeader (areaTo_of_calm hc (s.src f.src1).toNat (s.src f.dst).toNat) ha
  obtain ⟨u, hr, hu⟩ := areaTo_splitRun ht ha (named_aligned (.inr hs)) (by omega) h.sound _ _
  exact areaTo_done hu (capsplit_comes hi hl hs h.named ho hx h.sound h.left hr)

end itinerary

/-- CAPNEW (R263). -/
theorem capnew_runs (hi : Issues (.capnew f) f 1 s c k) (hok : s.curLaunch.capsOk = true) (hl : s.liveBay (s.src f.src1).toNat = false)
    (hs : s.curLaunch.staging (s.src f.src1).toNat = true) : AreaRuns (.capnew f) s c k s.regs.advance
      ((s.core c).ls.putHeader (s.src f.src1).toNat (newHeader (s.src f.src2) c k f.mod.toNat s.curSeq s.curCtx)) := by
  obtain ⟨-, -, hgo⟩ := capnew_inStaging hi hok
  obtain ⟨u, hw, hu⟩ := areaTo_writeHeader (areaTo_of_calm hc (s.src f.src1).toNat _) (named_aligned (.inr hs)) _
  have hg := hgo hl hs u (hu.cur.trans hc.cur.symm) hw
  rw [hu.regs] at hg
  exact areaTo_runs hu hg

/-- CAPSEND and CAPINJ (R266). -/
theorem send_runs (hi : Issues i f 1 s c k) (he : exec i s = capSendOp i f s inj) (hok : s.curLaunch.capsOk = true)
    (hl : s.liveBay (s.src f.src1).toNat = false) (hs : s.curLaunch.staging (s.src f.src1).toNat = true)
    (hm : capMalformed ((s.core c).ls.header (s.src f.src1).toNat) = false) (hf : inj = true ∨ capFcode ((s.core c).ls.header (s.src f.src1).toNat) = 0)
    (hw : s.spillWaits s.curSeq = false) : ∃ t, t.mem = s.mem ∧ (t.core c).ls = (s.core c).ls
      ∧ (t.slot c k).chunk.effects = (s.slot c k).chunk.effects ++ [.capsend (s.src f.src1).toNat inj] ∧ GivesFrom i s t c k s.regs.advance := by
  have hk := regsNow_readMarks hc.cur (s.src f.src1).toNat 64
  have hcur := regsNow_cur hk hc.cur
  have hr : s.readHeader (s.src f.src1).toNat = .ok ((s.core c).ls.header (s.src f.src1).toNat, s.setChunk (s.chunk.readMarks (s.src f.src1).toNat 64)) := by
    rw [State.readHeader, curCore_slot hc.cur, readLs_calm hc]
    rfl
  have hg := noted_gives (send_comes hi he hok hl hs hr hm hf hw) hcur
  have ho := onlySlot_noted hcur (.capsend (s.src f.src1).toNat inj)
  rw [regsNow_regs hk hc.cur] at hg
  refine ⟨_, (onlySlot_mem ho).trans (onlySlot_mem hk.only), (onlySlot_ls ho c).trans (onlySlot_ls hk.only c), ?_, hg⟩
  rw [slot_noted hcur, hk.chunk.effects]

end unhindered

/-- CAPGET, alone, in a launch without a stranded list (R270). -/
theorem capget_unlisted {f : Fields} {s : State} {c : CoreId} {k : SlotId} {d : BitVec 5} (hd : f.dst = .g d) (hi : Issues (.capget f) f 1 s c k)
    (ha : s.isAlone = true) (hl : s.liveBay (s.src f.src1).toNat = false) (hs : s.curLaunch.staging (s.src f.src1).toNat = true)
    (hat : descStrand s.curLaunch.desc = 0) : GivesFrom (.capget f) s s.asSolo c k (s.regs.putG d (BitVec.allOnes 64)).advance := by
  obtain ⟨-, -, hgo⟩ := capget_inStaging hi (go := ∀ s1, s.soloGate 0x08 = .ok ((), s1) → Comes (.capget f) f s c k (s1.takesStrand f (s.src f.src1).toNat)) id
  have hx := hgo hl hs s.asSolo (if_pos ha)
  have hc := (onlySlot_cur (asSolo_only hi.cur)).trans hi.cur
  have hlaunch : s.asSolo.curLaunch = s.curLaunch := by
    have hseq : s.asSolo.curSeq = s.curSeq := by simp only [State.curSeq, hc, hi.cur, asSolo_slot hi.cur]
    rw [State.curLaunch, State.curLaunch, hseq, State.launch, (asSolo_only hi.cur).rest]
    rfl
  rw [takesStrand_unlisted (by rw [hlaunch, hat])] at hx
  exact asSolo_regs hi.cur ▸ noRecord_gives hx hd hc

end Sys2Proof.Machine
end

section
/-! The capsule instructions (10_capsules.md R248, R260 to R270): O46. -/

namespace Sys2Proof.Machine
/-- Settles O46: each instruction by the rule of its state operations, and in an unhindered local store by the bytes that its accesses leave. -/
theorem capsuleInstructions : Obligations.CapsuleInstructions := by
  unfold Obligations.CapsuleInstructions
  intro f s s1 s2 c k h l traps ends notes endsVisit area itinerary
  have hends {i : Instr} {r : Regs} (hcur : s.cur = .slot c k) (hx : s2.cur = .slot c k → GivesFrom i s s2 c k r.advance) : ends i r :=
    fun hc => hx (hc.trans hcur)
  have hvisit {i : Instr} {d : Deferred} (hcur : s.cur = .slot c k) (hx : Comes i f s c k (s1.endVisit d)) : endsVisit i d := by
    intro hc hz hw hd hp hs ha
    obtain ⟨t, he, ht⟩ := endsVisit_comes hx (hc.trans hcur) ⟨hz, hw, hd, hp, hs⟩ ha
    obtain ⟨w, hwait, heff, -, hwr⟩ := ht.waiting
    exact ⟨t, he, ht.only, ht.regs, ht.cut, ht.park, ht.chunk, ht.request, w, hwait, heff, hwr⟩
  refine ⟨fun hi => ⟨capnew_unavailable hi, fun hok => ?capnew⟩, ?push, ?head, ?pop, ?set, ?split, ?send, ?capend, ?capnext, ?capplace,
    fun d hd hi => capkey_gives hi hd, ?capget, ?calm⟩
  case capnew =>
    obtain ⟨hlive, hnone, hgo⟩ := capnew_inStaging hi hok
    exact ⟨hlive, hnone, fun hl hs => ⟨_, newHeader_fields _ _ _ _ _ _, fun hw hc => hgo hl hs s2 hc hw⟩⟩
  case push =>
    refine fun hi => ⟨itineraryOp_unnamed hi (arm_cappush f s), fun x j hx => ⟨fun hn => ?_, fun hn hr => hends hi.cur ?_⟩⟩
    · exact itineraryOp_refuses hi (arm_cappush f s) hx (if_pos hn)
    · exact givesFrom_comes (cappush_comes hi hx hn hr)
  case head =>
    refine fun hi => ⟨itineraryOp_unnamed hi (arm_caphead f s), fun x j hx => ⟨fun hn => ?_, fun hn hr => hends hi.cur ?_⟩⟩
    · exact itineraryOp_refuses hi (arm_caphead f s) hx (if_pos hn)
    · exact givesFrom_comes (caphead_comes hi hx hn hr)
  case pop =>
    refine fun hi => ⟨itineraryOp_unnamed hi (arm_cappop f s), fun x j hx => ⟨fun hn => ?_, fun e t hn he hr => hends hi.cur ?_⟩⟩
    · exact itineraryOp_refuses hi (arm_cappop f s) hx (if_pos hn)
    · exact givesFrom_pair (cappop_comes hi hx hn he hr)
  case set =>
    refine fun hi => ⟨itineraryOp_unnamed hi (arm_capset f s), fun x j hx => ⟨fun hn => ?_, fun hj hn hw => hends hi.cur ?_⟩⟩
    · exact itineraryOp_refuses hi (arm_capset f s) hx (if_pos hn)
    · exact givesFrom_comes (capset_comes hi hx hj hn hw)
  case split =>
    intro hi d
    refine capsplit_inStaging hi fun hl hs => ⟨capsplit_unnamed hi hl hs, fun hn => ⟨capsplit_overlaps hi hl hs hn, fun x ho hx => ?_⟩⟩
    exact ⟨capsplit_refuses hi hl hs hn ho hx, fun hm hv hr => hends hi.cur (givesFrom_comes (capsplit_comes hi hl hs hn ho hx hm hv hr))⟩
  case send =>
    intro e he hi
    have hx := exec_send he s
    refine ⟨send_unavailable hi hx, fun hok => send_inStaging hi hx hok fun hl hs x hr hc => ⟨send_malformed hi hx hok hl hs hr, fun hm hinj hf => ?_, fun hm hf => ?_⟩⟩
    · exact send_faulted hi hx hok hl hs hr hm hinj hf
    · refine ⟨send_waits hi hx hok hl hs hr hm hf, fun hw => ?_⟩
      have hcur := hc.trans hi.cur
      exact ⟨s1.noted (.capsend h e.2), onlySlot_mem (onlySlot_noted hcur _), by rw [slot_noted hcur], noted_gives (send_comes hi hx hok hl hs hr hm hf hw) hcur⟩
  case capend =>
    refine fun hi => ⟨capend_unavailable hi, fun g hv ha hs => ⟨_, capend_awaits hi hv (by rw [ha]; rfl) hs, onlySlot_postTurn s c k c k, ?_⟩,
      fun hv hs => hvisit hi.cur (by rw [hs]; exact capend_comes hi hv)⟩
    rw [slot_postTurn, regs_slot s c k hi.cur]
  case capnext =>
    refine fun n hi => ⟨capnext_unavailable hi, fun hv hn => ?_⟩
    have hx := capnext_comes hi hv hn
    exact ⟨fun hb => capTraps (by rwa [if_pos hb] at hx), fun hb => hvisit hi.cur (by rwa [if_neg (Nat.not_lt_of_le hb)] at hx)⟩
  case capplace =>
    intro d orig hd hi ho hc w p
    refine ⟨capplace_waits hi ho hc, fun c' hp => ?_, fun e hp => ?_⟩
    · have hx := capplace_gives hi hd ho hc (by rw [show s.placeOf s1 f c orig = .core c' from hp]; exact Place.noConfusion)
      rwa [show s.placeOf s1 f c orig = .core c' from hp, placeWord_core] at hx
    · have hx := capplace_gives hi hd ho hc (by rw [show s.placeOf s1 f c orig = .fail e from hp]; exact Place.noConfusion)
      rwa [show s.placeOf s1 f c orig = .fail e from hp, placeWord_fail] at hx
  case capget =>
    refine fun d hd hi => capget_inStaging hi fun hx hg => ?_
    have hx := hx s1 hg
    refine ⟨fun ha hc => ?_, fun bs t ha hr hlen => ⟨fun he hc => ?_, fun x hp hn ht => hends hi.cur fun hc => ?_⟩⟩
    · exact noRecord_gives (takesStrand_unlisted ha h ▸ hx) hd (hc.trans hi.cur)
    · exact noRecord_gives (takesStrand_empty ha hr hlen h he ▸ hx) hd (hc.trans hi.cur)
    · rw [takesStrand_takes ha hr hlen _ hp hn ht, hd] at hx
      exact givesFrom_concluded hx hc (regsNow_setG (regsNow_refl hc) hc d x)
  case calm =>
    intro hcalm ls header entry named first sound e len runs
    have hwf : ls.wf = true := hcalm.wf
    have hsame {m : Mem} {o i : Nat} {w : BitVec 128} (hw : m.entry o i = w) : entry m o i = w.toNat := (entry_toNat ..).symm.trans (congrArg _ hw)
    refine ⟨fun hi hok hl hs => ⟨newHeader (s.src f.src2) c k f.mod.toNat s.curSeq s.curCtx, capnew_runs hcalm hi hok hl hs, ?_, ?_⟩, ?_, ?_,
      fun x hx hi hok hl hs hm hf hw => send_runs hcalm hi (exec_send hx s) hok hl hs hm hf hw,
      fun d hd hi ha hl hs hat => capget_unlisted hd hi ha hl hs hat⟩
    · exact newHeader_fields _ _ _ _ _ _ (0, 64, _) (by simp)
    · exact newHeader_fields _ _ _ _ _ _ (192, 32, _) (by simp)
    · intro hn hsnd n
      have hch : Changeable s h (ls.header h) := ⟨hn, hsnd.1, hsnd.2⟩
      refine ⟨fun hi hlt => ?_, fun hi hlt => ?_, fun hi hlt => ?_, fun hi hle hlt => ?_⟩
      · obtain ⟨u, he, hm, hr, hl⟩ := cappush_runs hcalm hch hi hlt
        refine ⟨u, he, hm, hr, ?_⟩
        rw [hl, putEntry_eq, Mem.putHeader]
        rfl
      · obtain ⟨u, he, hm, hr, hl⟩ := caphead_runs hcalm hch hi hlt
        obtain ⟨hhdr, hnew, hmoved, hkept⟩ := headed_image (a := h) hwf (firstEntry_le hch) e (setIlen (ls.header h) (capIlen (ls.header h) + 1))
        refine ⟨u, he, hm, hr, ?_⟩
        rw [hl]
        exact ⟨hhdr, hsame hnew, fun i h0 h1 => (hsame (hmoved i h0 h1)).trans (entry_toNat ..), fun i h0 => (hsame (hkept i h0)).trans (entry_toNat ..)⟩
      · obtain ⟨u, he, hm, hr, hl⟩ := cappop_runs hcalm hch hi hlt
        refine ⟨u, he, hm, ?_, ?_⟩
        · rw [hr, ← ofNat_entry]
          rfl
        · rw [hl, putEntry_eq, Mem.putHeader]
          rfl
      · obtain ⟨u, he, hm, hr, hl⟩ := capset_runs hcalm hch hi hle hlt
        refine ⟨u, he, hm, hr, ?_⟩
        rw [hl, putEntry_eq]
    · intro hi d hl hs hn ho hsnd n
      have hch : Changeable s h (ls.header h) := ⟨hn, hsnd.1, hsnd.2⟩
      obtain ⟨hilen, -⟩ := sound_bounds hsnd.1
      obtain ⟨u, he, hm, hr, hls⟩ := capsplit_runs hcalm hch hi hl hs ho
      refine ⟨u, he, hm, hr, ?_, fun i hlt => ?_, fun i hle hlt => ?_, fun j hj => ?_⟩
      · rw [hls]
        exact header_split hwf
      · rw [hls]
        exact (nat_split hwf (by omega)).trans (if_pos hlt)
      · rw [hls]
        exact (nat_split hwf hlt).trans (if_neg (Nat.not_lt_of_le hle))
      · rw [hls]
        exact payload_split hwf hj
end Sys2Proof.Machine
end

section
/-! What a strand leaves of its capsule and of the cores (10_capsules.md R253, R256, R261): O47. -/

namespace Sys2Proof.Machine

theorem commitWrite_capsules (s : State) (pa : Nat) (bs : List Byte) (holder : Option CoreId) : (s.commitWrite pa bs holder).capsules = s.capsules := by
  by_cases h : (s.stack (stackOf pa)).st = .fenced
  · rw [State.commitWrite, if_pos h]
    rfl
  · rw [(confined_commitWrite h bs holder).rest]
    rfl

theorem interrupt_capsules (s : State) (v : Nat) : (s.interrupt v).capsules = s.capsules := by
  unfold State.interrupt State.sendTlp
  dsimp only
  split_ifs
  · rfl
  · rw [(landed_landMsix s _).rest]

theorem report_capsules (s : State) (d : TowerId) (r : FaultRec) : (s.report d r).capsules = s.capsules := by
  unfold State.report
  extract_lets q b
  split_ifs
  · rfl
  · rfl
  · rw [postOnce_capsules]
    rfl
  · unfold State.writeRecord
    extract_lets q' r' s1 s2
    have h : s2.capsules = s.capsules := commitWrite_capsules s _ _ _
    split_ifs
    · exact (interrupt_capsules s2 _).trans h
    · exact h

/-- A capsule that is retired is no longer outside a bay, whatever is reported of it (R256). -/
theorem find_retire_report (s : State) (id : Nat) (q : SeqNo) (d : TowerId) (r : FaultRec) : ((s.retire id q).report d r).capsules.find id = none := by
  rw [report_capsules, State.retire, State.checkDone, postOnce_capsules, State.modLaunch]
  split <;> exact tab_find_del_same _ _

/-- What a strand leaves of the capsule: the cores are as they were, or it is gone, or it waits on a hold (R261). -/
def StrandLeft (s t : State) (id : Nat) (code detail : Byte) (pc addr : Word) : Prop :=
  t.cores = s.cores ∨ t.capsules.find id = none
    ∨ ∃ w on, t.capsules.find id = some w ∧ w.at_ = .strandHeld (some on) code detail pc addr

theorem strand_leaves (s : State) (id : Nat) (code detail : Byte) (pc addr : Word) :
    StrandLeft s (s.strand id code detail pc addr) id code detail pc addr := by
  unfold State.strand
  split
  · exact .inl rfl
  · split
    · exact .inl rfl
    · rename_i x _ _ l _
      extract_lets +onlyGivenNames list keep wait hold
      have gone (u : State) (q : SeqNo) (d : TowerId) (r : FaultRec) : StrandLeft s ((u.retire id q).report d r) id code detail pc addr :=
        .inr (.inl (find_retire_report u id q d r))
      have discarded (u : State) : StrandLeft s (u.discardStrand id x l code addr) id code detail pc addr := gone _ _ _ _
      have held (va : Word) (lvl : Nat) (e : Word) : StrandLeft s (hold s va lvl e) id code detail pc addr :=
        .inr (.inr ⟨_, _, tab_find_put_same _ _ _, rfl⟩)
      have waits : StrandLeft s (wait s) id code detail pc addr := .inl (postEvent_cores _ _ _)
      split
      · exact discarded _
      · split
        · exact held _ _ _
        · exact waits
        · exact discarded _
        · exact discarded _
        · extract_lets +onlyGivenNames b prod cons nrec
          split
          · exact discarded _
          · split
            · exact held _ _ _
            · exact waits
            · exact discarded _
            · exact discarded _
            · split
              · exact waits
              · exact gone _ _ _ _

/-- A launch whose stranded list is at 0x1000. -/
def listedLaunch : Launch := { desc := setField 0 512 64 0x1000, t := 0, q := 0 }

/-- The trap that ended the visit. -/
def visitTrap : Trap := { cause := 0x01 }

/-- A visit at slot 0 that has faulted, while the stack of its launch's page tables is handed over. The slot table of the core lists the number 16 too, whose low four bits name slot 0: a slot there waits for slot 0 to stop. -/
def aliasedVisit : State :=
  { cur := .slot 0 0
    cores := [(0, { slots := [(0, { park := .strand visitTrap }), (16, { park := .stop 0 })] })]
    launches := [(0, listedLaunch)]
    capsules := [(1, { img := [], seq := 0, core := 0, at_ := .flying, order := 0 })]
    stks := [(0, { st := .pouring })] }

/-- The slot that faulted is made ready again by the entry that names it a second time, and its capsule waits for the list (R210, R253, R261). -/
theorem aliasedVisit_wakes : ((aliasedVisit.strandVisit 0 0 visitTrap).slot 0 0).park = .ready
    ∧ ((aliasedVisit.strandVisit 0 0 visitTrap).capsules.find 0).map Capsule.at_ = some (.strandHeld none 0x01 0 0 0) := by
  decide +kernel

/-- Refutes O47: the slot of a faulted visit need not end idle. A core's slot table is a list of numbered entries, and the statement is about every such list; where an entry past 15 names the slot again in its low four bits and waits for it to stop, the end of the visit makes the slot itself ready (`State.stopEnded`, R210). In `aliasedVisit` it does, and the strand that follows only waits for its list, so no state before that strand has the slot idle. -/
theorem not_capsuleEvents : ¬ Obligations.CapsuleEvents := by
  unfold Obligations.CapsuleEvents
  intro h
  obtain ⟨-, -, -, -, -, hstrand, -⟩ := h aliasedVisit 0 0 1 _ listedLaunch rfl rfl rfl
  obtain ⟨v, hexec, -, -, -, hidle, -⟩ := hstrand listedLaunch visitTrap rfl rfl rfl
  obtain ⟨hready, hwaits⟩ := aliasedVisit_wakes
  have hv : aliasedVisit.strandVisit 0 0 visitTrap = v.strand 0 0x01 0 0 0 := by injection hexec
  rw [hv] at hready hwaits
  rcases strand_leaves v 0 0x01 0 0 0 with hcores | hgone | ⟨w, on, hheld, hat⟩
  · rw [State.slot, State.core, hcores] at hready
    exact absurd (hready.symm.trans hidle) (by decide)
  · rw [hgone] at hwaits
    exact absurd hwaits (by simp)
  · rw [hheld, Option.map_some, hat] at hwaits
    exact absurd hwaits (by simp)

end Sys2Proof.Machine
end
